-- ==== Sys2Proof/Word.lean ====
section
/-! DEFINITION. The word types of the KJ-8192P (R2, R75) and their plainest arithmetic. -/

namespace Sys2Proof

/-- One byte. -/
abbrev Byte := BitVec 8
/-- A 16-bit half. -/
abbrev W16 := BitVec 16
/-- A 32-bit unit or lane (R75, R128). -/
abbrev W32 := BitVec 32
/-- A 64-bit scalar (R103). -/
abbrev W64 := BitVec 64
/-- An instruction word (R75). -/
abbrev Word96 := BitVec 96

end Sys2Proof
end

