-- ==== Sys2Proof/Config.lean ====
section
/-! DEFINITION. The free values: what the spec leaves open and the model must not choose. None has a body. -/

namespace Sys2Proof.Config

/-- A 64-bit value the spec does not state; `n` is the counter `State.freeIx` (log 3). -/
opaque freeWord : Nat → W64

/-- The implementation code that CTXSV writes into an image and CTXLD compares (R356, R357; log 10). -/
opaque implCode : W32

/-- VERSION of the identification register (R420): the silicon revision. -/
opaque revision : BitVec 4

end Sys2Proof.Config
end

