-- ==== Sys2Proof/Syntax.lean ====
section
/-! DEFINITION. The syntax: one constructor of `Instr` per row of spec/opcode_table.json. A Vartar row carries the
fields of its format (R81 to R85) as the word holds them; a device row carries what the step is about. -/

namespace Sys2Proof

/-- The three roles of a context (R36). -/
inductive Role where
  | l | c | s
  deriving DecidableEq, Repr, Inhabited

/-- A context: core index and context number (R32, R349). -/
structure CtxId where
  cid : Nat
  num : Nat
  deriving DecidableEq, Repr, Inhabited

/-- Format S (R81). -/
structure WordS where
  role : BitVec 2
  tok : BitVec 4
  d : BitVec 6
  a : BitVec 6
  b : BitVec 6
  guard : BitVec 5
  mod : BitVec 9
  imm : BitVec 48
  deriving DecidableEq, Repr, Inhabited

/-- Format V (R82). -/
structure WordV where
  role : BitVec 2
  tok : BitVec 4
  d : BitVec 6
  a : BitVec 6
  b : BitVec 6
  guard : BitVec 5
  c : BitVec 6
  lm : BitVec 6
  ka : BitVec 1
  kb : BitVec 1
  kc : BitVec 1
  type : BitVec 5
  rm : BitVec 3
  imm : BitVec 34
  deriving DecidableEq, Repr, Inhabited

/-- Format M (R83). -/
structure WordM where
  role : BitVec 2
  tok : BitVec 4
  data : BitVec 6
  base : BitVec 6
  index : BitVec 6
  guard : BitVec 5
  width : BitVec 3
  order : BitVec 2
  scope : BitVec 2
  cache : BitVec 2
  imm : BitVec 48
  deriving DecidableEq, Repr, Inhabited

/-- Format B (R84). -/
structure WordB where
  role : BitVec 2
  tok : BitVec 4
  cond : BitVec 6
  rsvd : BitVec 12
  guard : BitVec 5
  mod : BitVec 9
  tsec : BitVec 8
  tword : BitVec 16
  count : BitVec 24
  deriving DecidableEq, Repr, Inhabited

/-- Format X (R85). -/
structure WordX where
  role : BitVec 2
  tok : BitVec 4
  d : BitVec 6
  a : BitVec 6
  b : BitVec 6
  guard : BitVec 5
  low : BitVec 57
  deriving DecidableEq, Repr, Inhabited

/-- A hint word: only its tag and tokens act (R90). -/
structure HintWord where
  role : BitVec 2
  tok : BitVec 4
  rest : BitVec 80
  deriving DecidableEq, Repr, Inhabited

/-- One passage of a slot at a station (R276): track, slot number and station. -/
structure Passage where
  stn : Nat
  trk : Nat
  slot : Nat
  deriving DecidableEq, Repr, Inhabited

/-- How a PCI Express completion of an LDH ends (R169, R439). -/
inductive HostStatus where
  | success | unsupported | abort | poisoned
  deriving DecidableEq, Repr, Inhabited

/-- An access that arrives from another package (R297, R400). -/
inductive InboundOp where
  | load (n : Nat)
  | store (data : List Byte)
  | atomic (op : BitVec 4) (dword : Bool) (v cmp : W64)
  deriving DecidableEq, Repr, Inhabited

/-- What reaches its end of the fabric (R297): an access of this package to itself, the reply to a packet this
package sent to another one, or an access that another package sent here. -/
inductive FArrival where
  | loopback (ix : Nat)
  | reply (ix : Nat) (accepted : Bool) (data : List Byte)
  | inbound (key : W16) (va : Nat) (op : InboundOp)
  /-- slot `no` of Goltik track `g` enters at station 121 with an occupancy: its header and payload (R286, log 33) -/
  | goltik (g no : Nat) (hdr : BitVec 128) (payload : List Byte)
  deriving DecidableEq, Repr, Inhabited

/-- The store that a sequencer stamps next (R300): one of this package's outstanding STOs, or another member's. -/
inductive StoSource where
  | own (ix : Nat)
  | member (pkg cid tag off : Nat) (data : List Byte)
  deriving DecidableEq, Repr, Inhabited

/-- The outcome of a re-formation as this member learns it (R302): the largest APPLIED value P and the stores that
were redelivered to it, in order: issuer package, tag, offset, bytes. -/
structure ReForm where
  p : Nat
  redelivered : List (Nat × Nat × Nat × List Byte)
  deriving DecidableEq, Repr, Inhabited

/-- The six arguments of a fabric request (R295). -/
structure FabArgs where
  a0 : W64
  a1 : W64
  a2 : W64
  a3 : W64
  a4 : W64
  a5 : W64
  deriving DecidableEq, Repr, Inhabited

/-- Where an uncorrectable error lies, or a scrub reads (R405, R406): an HBM word by physical address; an SRAM word of a context's A, W
or Z buffer, of a line of package memory that a core caches, of a q-register entry, of a harvest context's reserve bank, of a station's
standing table, of a Sett core's SRAM, of the text that a context executes. -/
inductive MemSite where
  | hbm (pa : Nat)
  | abuf (c : CtxId) (off : Nat)
  | wbuf (c : CtxId) (off : Nat)
  | zbuf (c : CtxId) (off : Nat)
  | line (cid pa : Nat)
  | qent (c : CtxId) (q i : Nat)
  | bank (c : CtxId)
  | table (stn trk slot : Nat)
  | sett (die k off : Nat)
  | text (c : CtxId) (sec off : Nat)
  deriving DecidableEq, Repr, Inhabited

/-- One measured offset (R21). -/
structure OffsetEntry where
  region : Nat
  ofs : Int
  unc : BitVec 8
  deriving DecidableEq, Repr, Inhabited

/-- The fields of a partition descriptor that the host writes (R399). -/
inductive PartField where
  | pfl | pgmask | jkey | rcls | root | pbase | plen
  deriving DecidableEq, Repr, Inhabited

/-- A Goltik flow (R286): its flow id, and the slot numbers that it holds on Goltik track `g`. -/
structure GFlow where
  id : Nat
  g : Nat
  slot0 : Nat
  k : Nat
  deriving DecidableEq, Repr, Inhabited

/-- What the built-in tests of bring-up find (R441 step 1, 2 and 4). -/
structure BootResult where
  /-- a controller has a valid image; the west and the east I/O die have their time reference -/
  firmware : Bool
  west : Bool
  east : Bool
  liveDies : List Nat
  /-- CIDs whose physical core fails its test -/
  failedCores : List Nat
  liveStacks : List Nat
  deriving DecidableEq, Repr, Inhabited

/-- Boundary-scan instructions (R420). -/
inductive TapOp where
  | bypass | idcode | samplePreload | extest
  deriving DecidableEq, Repr, Inhabited

/-- What a device step is about: the operands of the 126 rows of the table that no instruction word encodes. The agenda
supplies it with the step (log 1); each row's meaning says which fields it reads. -/
structure Input where
  /-- a context -/
  c : CtxId := ⟨0, 0⟩
  /-- a role of it -/
  r : Role := .l
  /-- a core -/
  cid : Nat := 0
  /-- an index: an access, a packet, a store-buffer entry, a staging entry, a sequence number -/
  id : Nat := 0
  /-- a kernel -/
  k : Nat := 0
  /-- a second index: a channel, a core position, a slot of a Sett core -/
  e : Nat := 0
  /-- a multicast group -/
  gid : Nat := 0
  /-- a launch queue -/
  q : Nat := 0
  /-- a die -/
  die : Nat := 0
  /-- a power group -/
  g : Nat := 0
  /-- a clock region, a stack -/
  region : Nat := 0
  /-- a PCI Express port, a fabric port -/
  port : Nat := 0
  /-- a partition -/
  part : Nat := 0
  /-- an address or an offset -/
  addr : Nat := 0
  /-- a register number -/
  no : Nat := 0
  /-- a choice between two forms, as the row states -/
  flag : Bool := false
  /-- written values -/
  v : W64 := 0
  v1 : W64 := 0
  v2 : W64 := 0
  /-- bytes that come from outside -/
  data : List Byte := []
  pass : Passage := ⟨0, 0, 0⟩
  arr : FArrival := .loopback 0
  sto : StoSource := .own 0
  reform : Option ReForm := none
  host : HostStatus := .success
  fab : FabArgs := ⟨0, 0, 0, 0, 0, 0⟩
  site : MemSite := .hbm 0
  offs : List OffsetEntry := []
  pf : PartField := .pfl
  /-- the flows of the Goltik ring, where its allocator has changed them (R286, log 33) -/
  gflows : Option (List GFlow) := none
  boot : BootResult := ⟨false, false, false, [], [], []⟩
  tap : TapOp := .idcode
  deriving DecidableEq, Repr, Inhabited

/-- One constructor per row of spec/opcode_table.json: first the rows that an instruction word encodes, then the device
rows, whose operands stand in `Input`. -/
inductive Instr where
  /-- NOP: Performs its token actions and nothing else (R123) -/
  | nop (w : WordS)
  /-- HALT: Stops the role for the rest of the kernel; the last active role's HALT waits for the context to drain, then checks its queues and ends the core's part (R124) -/
  | halt (w : WordS)
  /-- QPT: When A-tagged, marks a quiet point: it checks that every shared queue is empty and takes the context's pending asynchronous events (R45) -/
  | qpt (w : WordS)
  /-- BR: Branches unconditionally to a target section and word (R115) -/
  | br (w : WordB)
  /-- BRP: Branches to a target when a predicate, optionally inverted, is true (R115) -/
  | brp (w : WordB)
  /-- CALL: Pushes the return address on the role's return stack and branches to the target (R115) -/
  | call (w : WordB)
  /-- RET: Pops the return stack into the program counter (R115) -/
  | ret (w : WordS)
  /-- LOOP: Opens a counted loop on a loop counter, or skips to the exit when the count is not positive (R118) -/
  | loop (w : WordB)
  /-- NEXT: Closes a counted loop: it decrements the counter and branches back, or ends the loop, checking the trip bound (R118) -/
  | next (w : WordB)
  /-- BQS: Pushes a predicate into the broadcast-predicate FIFO, stalling while the FIFO is full (R119) -/
  | bqs (w : WordS)
  /-- BQR: Pops the oldest unread broadcast predicate into a predicate, stalling while none is present (R119) -/
  | bqr (w : WordS)
  /-- WAITC: Waits until CYC or TIME reaches a value (R121) -/
  | waitc (w : WordS)
  /-- YLD: Gives up the role's issue slots for a number of cycles (R122) -/
  | yld (w : WordS)
  /-- TRAP: Raises the software trap with a 16-bit code after its own effect (R125) -/
  | trap (w : WordS)
  /-- BKPT: Halts the role when debug is enabled for the context, and otherwise raises the breakpoint trap (R125) -/
  | bkpt (w : WordS)
  /-- HINT: An opcode from 0x0F0 to 0x0FF executes as NOP with its token actions (R90) -/
  | hint (n : BitVec 4) (w : HintWord)
  /-- LDP: Reads constant data from a pool or parameter section into a scalar (R126) -/
  | ldp (w : WordS)
  /-- ADD: Writes a + b, wrapping or saturating (R103) -/
  | add (w : WordS)
  /-- SUB: Writes a − b, wrapping or saturating (R103) -/
  | sub (w : WordS)
  /-- MUL: Writes the low 64 bits of a·b (R103) -/
  | mul (w : WordS)
  /-- MULH: Writes the high 64 bits of the signed product (R103) -/
  | mulh (w : WordS)
  /-- MULHN: Writes the high 64 bits of the unsigned product (R103) -/
  | mulhn (w : WordS)
  /-- DIV: Writes the signed quotient, truncated towards zero (R103) -/
  | div (w : WordS)
  /-- DIVN: Writes the unsigned quotient (R103) -/
  | divn (w : WordS)
  /-- REM: Writes the signed remainder (R103) -/
  | rem (w : WordS)
  /-- REMN: Writes the unsigned remainder (R103) -/
  | remn (w : WordS)
  /-- AND: Writes a AND b (R103) -/
  | and (w : WordS)
  /-- OR: Writes a OR b (R103) -/
  | or (w : WordS)
  /-- XOR: Writes a XOR b (R103) -/
  | xor (w : WordS)
  /-- ANDN: Writes a AND NOT b (R103) -/
  | andn (w : WordS)
  /-- ORN: Writes a OR NOT b (R103) -/
  | orn (w : WordS)
  /-- SHL: Shifts a left (R103) -/
  | shl (w : WordS)
  /-- SHR: Shifts a right, filling with zeros (R103) -/
  | shr (w : WordS)
  /-- SRA: Shifts a right, filling with the sign (R103) -/
  | sra (w : WordS)
  /-- ROTL: Rotates a left (R103) -/
  | rotl (w : WordS)
  /-- MIN: Writes the signed minimum of a and b (R103) -/
  | min (w : WordS)
  /-- MAX: Writes the signed maximum of a and b (R103) -/
  | max (w : WordS)
  /-- MINN: Writes the unsigned minimum of a and b (R103) -/
  | minn (w : WordS)
  /-- MAXN: Writes the unsigned maximum of a and b (R103) -/
  | maxn (w : WordS)
  /-- CLZ: Counts the leading zero bits (R103) -/
  | clz (w : WordS)
  /-- CTZ: Counts the trailing zero bits (R103) -/
  | ctz (w : WordS)
  /-- POPC: Counts the one bits (R103) -/
  | popc (w : WordS)
  /-- BREV: Reverses the bit order (R103) -/
  | brev (w : WordS)
  /-- BSWAP: Reverses the byte order (R103) -/
  | bswap (w : WordS)
  /-- SEXT: Sign-extends the low 8, 16 or 32 bits (R106) -/
  | sext (w : WordS)
  /-- ZEXT: Zero-extends the low 8, 16 or 32 bits (R106) -/
  | zext (w : WordS)
  /-- BFX: Extracts a bit field, signed or unsigned (R106) -/
  | bfx (w : WordS)
  /-- BFI: Inserts the low bits of b into a bit field of a (R106) -/
  | bfi (w : WordS)
  /-- SEL: Selects a or b by a predicate (R108) -/
  | sel (w : WordS)
  /-- LIM: Loads a sign-extended 48-bit immediate (R105) -/
  | lim (w : WordS)
  /-- LIMH: Replaces the top 16 bits of a with an immediate (R105) -/
  | limh (w : WordS)
  /-- LEA: Computes a + (b << sh) + the immediate (R105) -/
  | lea (w : WordS)
  /-- CMP: Compares a and b under a condition into a predicate or a scalar (R107) -/
  | cmp (w : WordS)
  /-- PLOG: Combines two predicates through a 4-bit truth table (R109) -/
  | plog (w : WordS)
  /-- PMOV: Moves values between predicates and scalars, singly or all together (R110) -/
  | pmov (w : WordS)
  /-- MFS: Reads a user special register into a scalar (R111) -/
  | mfs (w : WordS)
  /-- MTS: Writes a scalar to a user special register (R111) -/
  | mts (w : WordS)
  /-- VADD: Adds lanes in f32 with one rounding (R133) -/
  | vadd (w : WordV)
  /-- VSUB: Subtracts lanes in f32 (R133) -/
  | vsub (w : WordV)
  /-- VMUL: Multiplies lanes in f32 (R133) -/
  | vmul (w : WordV)
  /-- VFMA: Computes a·b + c per lane with one rounding (R133) -/
  | vfma (w : WordV)
  /-- VFMS: Computes a·b − c per lane with one rounding (R133) -/
  | vfms (w : WordV)
  /-- VFNMA: Computes c − a·b per lane with one rounding (R133) -/
  | vfnma (w : WordV)
  /-- VMIN: Writes the lane-wise f32 minimum (R134) -/
  | vmin (w : WordV)
  /-- VMAX: Writes the lane-wise f32 maximum (R134) -/
  | vmax (w : WordV)
  /-- VABS: Clears the sign bit of each lane (R134) -/
  | vabs (w : WordV)
  /-- VNEG: Inverts the sign bit of each lane (R134) -/
  | vneg (w : WordV)
  /-- VDIV: Divides lanes in f32 (R133) -/
  | vdiv (w : WordV)
  /-- VSQRT: Takes the f32 square root of each lane (R133) -/
  | vsqrt (w : WordV)
  /-- VRCP: Computes the reciprocal by a fixed sequence (R136) -/
  | vrcp (w : WordV)
  /-- VRSQ: Computes the reciprocal square root by a fixed sequence (R137) -/
  | vrsq (w : WordV)
  /-- VEXP2: Computes 2^x by a fixed sequence (R138) -/
  | vexp2 (w : WordV)
  /-- VLOG2: Computes log2 by a fixed sequence (R139) -/
  | vlog2 (w : WordV)
  /-- VIADD: Adds 32-bit lanes, wrapping (R140) -/
  | viadd (w : WordV)
  /-- VISUB: Subtracts 32-bit lanes, wrapping (R140) -/
  | visub (w : WordV)
  /-- VIMUL: Writes the low 32 bits of the lane product (R140) -/
  | vimul (w : WordV)
  /-- VIMAD: Writes the low 32 bits of a·b + c per lane (R140) -/
  | vimad (w : WordV)
  /-- VIMULH: Writes the high 32 bits of the lane product (R140) -/
  | vimulh (w : WordV)
  /-- VSADD: Adds lanes with saturation (R140) -/
  | vsadd (w : WordV)
  /-- VSSUB: Subtracts lanes with saturation (R140) -/
  | vssub (w : WordV)
  /-- VIMIN: Writes the lane-wise integer minimum (R140) -/
  | vimin (w : WordV)
  /-- VIMAX: Writes the lane-wise integer maximum (R140) -/
  | vimax (w : WordV)
  /-- VIABS: Writes the saturating absolute value of each lane (R140) -/
  | viabs (w : WordV)
  /-- VSHL: Shifts lanes left (R141) -/
  | vshl (w : WordV)
  /-- VSHR: Shifts lanes right, filling with zeros (R141) -/
  | vshr (w : WordV)
  /-- VSRA: Shifts lanes right, filling with the sign (R141) -/
  | vsra (w : WordV)
  /-- VAND: Takes the lane-wise AND (R141) -/
  | vand (w : WordV)
  /-- VOR: Takes the lane-wise OR (R141) -/
  | vor (w : WordV)
  /-- VXOR: Takes the lane-wise XOR (R141) -/
  | vxor (w : WordV)
  /-- VPOPC: Counts the one bits in each lane (R141) -/
  | vpopc (w : WordV)
  /-- VCLZ: Counts the leading zeros in each lane (R141) -/
  | vclz (w : WordV)
  /-- VCMP: Compares f32 lanes into a scalar mask (R142) -/
  | vcmp (w : WordV)
  /-- VICMP: Compares integer lanes into a scalar mask (R143) -/
  | vicmp (w : WordV)
  /-- VSEL: Selects lanes of a or b by the bits of a scalar (R144) -/
  | vsel (w : WordV)
  /-- VCVT: Converts each lane between element types (R145) -/
  | vcvt (w : WordV)
  /-- VPACK: Packs lane containers into a dense array (R146) -/
  | vpack (w : WordV)
  /-- VUNPK: Unpacks half of a dense array into lane containers (R146) -/
  | vunpk (w : WordV)
  /-- VQBFP: Converts 128 f32 values into one BFP plane-layout row (R147) -/
  | vqbfp (w : WordV)
  /-- VDQBFP: Converts half of a BFP plane-layout row into f32 lanes (R148) -/
  | vdqbfp (w : WordV)
  /-- VMOV: Copies or splats lanes (R149) -/
  | vmov (w : WordV)
  /-- VINS: Inserts a scalar into one lane (R149) -/
  | vins (w : WordV)
  /-- VEXT: Extracts one lane into a scalar (R149) -/
  | vext (w : WordV)
  /-- VPERM: Permutes lanes by per-lane indices (R149) -/
  | vperm (w : WordV)
  /-- VROT: Rotates lanes (R149) -/
  | vrot (w : WordV)
  /-- VCMPR: Compresses the enabled lanes to the bottom (R150) -/
  | vcmpr (w : WordV)
  /-- VEXPD: Expands consecutive lanes into the enabled lanes (R150) -/
  | vexpd (w : WordV)
  /-- VRED: Reduces the enabled lanes into a scalar (R151) -/
  | vred (w : WordV)
  /-- VSCAN: Computes an inclusive or exclusive scan over the lanes (R152) -/
  | vscan (w : WordV)
  /-- VARG: Writes the index of the largest or smallest enabled lane (R153) -/
  | varg (w : WordV)
  /-- LDL: Loads from the context's own A buffer (R163) -/
  | ldl (w : WordM)
  /-- STL: Stores to the context's own A buffer (R163) -/
  | stl (w : WordM)
  /-- LDLX: Gathers 64 lane-indexed A-buffer elements (R170) -/
  | ldlx (w : WordM)
  /-- STLX: Scatters 64 lanes to A-buffer offsets (R170) -/
  | stlx (w : WordM)
  /-- LDK: Loads from a peer core's A buffer in the same kernel (R163) -/
  | ldk (w : WordM)
  /-- STK: Stores to a peer core's A buffer (R163) -/
  | stk (w : WordM)
  /-- LDG: Loads from package memory G (R163) -/
  | ldg (w : WordM)
  /-- STG: Stores to package memory G (R163) -/
  | stg (w : WordM)
  /-- PFG: Prefetches G lines into the global read cache (R171) -/
  | pfg (w : WordM)
  /-- LDF: Loads from another package's memory over the fabric (R163) -/
  | ldf (w : WordM)
  /-- STF: Stores to another package's memory over the fabric (R163) -/
  | stf (w : WordM)
  /-- LDO: Loads from the local replica window of a multicast group (R303) -/
  | ldo (w : WordM)
  /-- STO: Sends an ordered multicast store to the group's sequencer (R303) -/
  | sto (w : WordM)
  /-- OSEQ: Reads APPLIED, the fabric status word or the group word (R304) -/
  | oseq (w : WordM)
  /-- OWT: Waits until a group's APPLIED reaches a target (R305) -/
  | owt (w : WordM)
  /-- LDH: Loads from host memory through a port's window (R163) -/
  | ldh (w : WordM)
  /-- STH: Posts a store to host memory through a port's window (R163) -/
  | sth (w : WordM)
  /-- ATL: Performs an atomic on the local A buffer (R172) -/
  | atl (w : WordM)
  /-- ATK: Performs an atomic on a peer core's A buffer (R172) -/
  | atk (w : WordM)
  /-- ATG: Performs an atomic in G at the memory base die (R172) -/
  | atg (w : WordM)
  /-- ATF: Performs an atomic in a remote package's memory (R172) -/
  | atf (w : WordM)
  /-- FENCE: Orders the role's accesses by acquire, release or both at a scope (R195) -/
  | fence (w : WordM)
  /-- PHASE: Ends a phase: it releases at system scope, arrives on channel 0 and waits for release (R221) -/
  | phase (w : WordM)
  /-- CBINI: Initialises a circular-buffer control block (R210) -/
  | cbini (w : WordM)
  /-- CBCLM: Claims free circular-buffer entries (R210) -/
  | cbclm (w : WordM)
  /-- CBPUB: Publishes filled entries and advances PUB (R210) -/
  | cbpub (w : WordM)
  /-- CBTAK: Takes published entries (R210) -/
  | cbtak (w : WordM)
  /-- CBREL: Releases taken entries and advances REL (R210) -/
  | cbrel (w : WordM)
  /-- DQINI: Initialises a work-stealing deque (R213) -/
  | dqini (w : WordM)
  /-- DQPSH: Pushes an item at the bottom of a deque (R213) -/
  | dqpsh (w : WordM)
  /-- DQPOP: Pops an item from the bottom of the owner's deque (R213) -/
  | dqpop (w : WordM)
  /-- DQSTL: Steals an item from the top of a deque (R213) -/
  | dqstl (w : WordM)
  /-- BARA: Arrives on a barrier channel (R217) -/
  | bara (w : WordM)
  /-- BARW: Waits for the release of the latest arrival and writes the status (R217) -/
  | barw (w : WordM)
  /-- BAR: Arrives and waits for release as one instruction (R217) -/
  | bar (w : WordM)
  /-- BIDB: Sets the base and depth of the rotating barrier window (R217) -/
  | bidb (w : WordM)
  /-- BIDA: Advances the barrier window's iteration count (R217) -/
  | bida (w : WordM)
  /-- QCNT: Reads a q-register's present, free and bound counts (R204) -/
  | qcnt (w : WordM)
  /-- QCLR: Discards every entry of a q-register once its reserved entries are present (R204) -/
  | qclr (w : WordM)
  /-- QBND: Binds a q-register to the next copy command of an engine queue (R203) -/
  | qbnd (w : WordM)
  /-- TKTRY: Tries one token push or pop without stalling (R206) -/
  | tktry (w : WordM)
  /-- WLAPP: Appends items to the kernel's work lists (R267) -/
  | wlapp (w : WordM)
  /-- WLTAK: Takes up to n items from the core's own work list, or none once quiescence is latched (R268) -/
  | wltak (w : WordM)
  /-- WLIDL: Sets the idle mark of the context (R269) -/
  | wlidl (w : WordM)
  /-- TRMW: Waits for the quiescence latch and returns the total of appended items (R270) -/
  | trmw (w : WordM)
  /-- LEASE: Requests the array lease and waits until it is held (R234) -/
  | lease (w : WordX)
  /-- ULEASE: Ends the lease request; the lease is given up when earlier array commands complete (R234) -/
  | ulease (w : WordX)
  /-- WLOAD: Queues the load of a weight tile into the shadow plane (R235) -/
  | wload (w : WordX)
  /-- WSWP: Queues the exchange of the active and shadow weight planes (R236) -/
  | wswp (w : WordX)
  /-- ASHP: Writes the band-enable mask BEN (R229) -/
  | ashp (w : WordX)
  /-- MMA: Queues a matrix multiply that accumulates into the Z rows (R237) -/
  | mma (w : WordX)
  /-- MMAZ: Queues a matrix multiply that starts each Z row from zero (R237) -/
  | mmaz (w : WordX)
  /-- MMAI: Queues an integer matrix multiply with INT32 accumulation (R237) -/
  | mmai (w : WordX)
  /-- EPI: Queues the drain of Z rows through the epilogue to the A buffer or a q-register (R243) -/
  | epi (w : WordX)
  /-- EPICF: Reads, checks and latches the epilogue configuration (R242) -/
  | epicf (w : WordX)
  /-- ZRD: Queues a read of half a Z row into a q-register (R246) -/
  | zrd (w : WordX)
  /-- ZWR: Queues a write of half a Z row from a q-register (R246) -/
  | zwr (w : WordX)
  /-- ZCLR: Queues the clearing of Z rows (R246) -/
  | zclr (w : WordX)
  /-- CPYI: Accepts a COPY or FILL command into the load queue (R251) -/
  | cpyi (w : WordX)
  /-- CPYO: Accepts a COPY or FILL command into the store queue (R251) -/
  | cpyo (w : WordX)
  /-- GTHI: Accepts a GATHER command into the load queue (R251) -/
  | gthi (w : WordX)
  /-- SCTO: Accepts a SCATTER command into the store queue (R251) -/
  | scto (w : WordX)
  /-- ECHK: Reads a snapshot of an engine queue (R264) -/
  | echk (w : WordX)
  /-- CVWT: Waits until a station flag reaches a value (R287) -/
  | cvwt (w : WordX)
  /-- CVTS: Tests whether a station flag has reached a value (R287) -/
  | cvts (w : WordX)
  /-- CVCL: Clears a station flag (R287) -/
  | cvcl (w : WordX)
  /-- CVINF: Reads a flow descriptor of the kernel (R288) -/
  | cvinf (w : WordX)
  /-- CVTIM: Reads RST, or the slot number at the die's station (R289) -/
  | cvtim (w : WordX)
  /-- MBSND: Sends an action to an episode's action box under its version rule (R320) -/
  | mbsnd (w : WordX)
  /-- MBRCV: Receives an observation from an episode's box into a q-register (R321) -/
  | mbrcv (w : WordX)
  /-- MBSTA: Reads an episode slot's status word or step counts (R322) -/
  | mbsta (w : WordX)
  /-- SRD: Reads a special register of a target context (R353) -/
  | srd (w : WordX)
  /-- SWR: Writes a special register of a target context (R353) -/
  | swr (w : WordX)
  /-- ERET: Resumes a trapped context by retry, next or end (R354) -/
  | eret (w : WordX)
  /-- INVL: Appends a translation invalidation entry to every die of the partition (R362) -/
  | invl (w : WordX)
  /-- INVA: Makes every core of the partition apply invalidation entries, and waits until they have (R363) -/
  | inva (w : WordX)
  /-- STBW: Writes a conveyor standing-table entry (R364) -/
  | stbw (w : WordX)
  /-- STBR: Reads a conveyor standing-table entry (R364) -/
  | stbr (w : WordX)
  /-- CTXSV: Saves a context to a context image (R355) -/
  | ctxsv (w : WordX)
  /-- CTXLD: Restores a context image onto its core (R356) -/
  | ctxld (w : WordX)
  /-- PARK: Revokes a harvest context into its reserve bank (R358) -/
  | park (w : WordX)
  /-- UNPARK: Returns a parked harvest context to RUN (R358) -/
  | unpark (w : WordX)
  /-- RETIRE: Takes the physical core behind a CID out of service (R359) -/
  | retire (w : WordX)
  /-- DBGH: Halts or resumes roles, or raises or releases a die's debug hold (R365) -/
  | dbgh (w : WordX)
  /-- IDLE: Waits for a trap-queue record or a cycle count (R366) -/
  | idle (w : WordX)
  /-- CKPT: Asks the checkpoint engine for a checkpoint of a region (R367) -/
  | ckpt (w : WordX)
  /-- SPARE: Brings a spare physical core into service under a retired CID (R361) -/
  | spare (w : WordX)
  /-- MB_RECV: Waits for an action, writes its payload to the buffer and returns the action word (R319) -/
  | mbRecv (rd rs1 : BitVec 5)
  /-- MB_SEND: Posts an observation with a reward from the buffer (R319) -/
  | mbSend (rs1 rs2 : BitVec 5)
  /-- MB_STEP: Posts an observation and then receives the next action (R319) -/
  | mbStep (rd rs1 rs2 : BitVec 5)
  /-- MB_DONE: Posts a DONE observation, ends the episode and appends any held action (R319) -/
  | mbDone (rs1 rs2 : BitVec 5)
  /-- MB_STAT: Reads the slot's status word (R318) -/
  | mbStat (rd : BitVec 5)
  /-- MB_VER: Reads the version of the last delivered action (R318) -/
  | mbVer (rd : BitVec 5)
  /-- UNASSIGNED_OPCODE: A role executes a word whose opcode is neither an instruction of R87 nor a hint, and raises the illegal-instruction fault (R89) -/
  | unassignedOpcode (w : Word96)
  /-- SETT_CORE_INSTRUCTION: A Sett core executes an ordinary RV64GC instruction of an episode, monitor or firmware: loads, stores, AMOs, LR/SC and fetches within the windows, ecall, sret and exceptions taken to the monitor (R310) -/
  | settCoreInstruction (w : W32)
  /-- TRAP_RECORD_PENDING_APPEND: A record that waited for room in a full trap queue is appended once room exists (R369) -/
  | trapRecordPendingAppend
  /-- LOAD_DATA_WRITE: Returned load data is written to its destination register or q-register entry (R164) -/
  | loadDataWrite
  /-- STORE_BUFFER_DRAIN: An accepted store leaves the store buffer and is performed (R165) -/
  | storeBufferDrain
  /-- ATOMIC_PERFORM: An atomic is performed as one read-modify-write at its performer, and any old value is returned (R174) -/
  | atomicPerform
  /-- CLUSTER_MESSAGE_PERFORM: A peer's K access or bank-unit operation is performed at the owning bank unit (R211) -/
  | clusterMessagePerform
  /-- STF_ACKNOWLEDGEMENT: An STF acknowledgement or reject-acknowledgement arrives and the counter falls (R167) -/
  | stfAcknowledgement
  /-- F_ACCESS_ARRIVAL: A fabric packet reaches its target, is key-checked and translated, and is served or rejected (R297) -/
  | fAccessArrival
  /-- LDH_COMPLETION: A PCI Express completion for an LDH arrives (R169) -/
  | ldhCompletion
  /-- COMPLETION_TIMEOUT: An LDH receives no completion within 16 ms and ends with the host-access fault (R169) -/
  | completionTimeout
  /-- TRANSLATION_WALK: A translation-cache miss is walked at a base-die walker, and the walk completes (R393) -/
  | translationWalk
  /-- INVALIDATION_APPLY: A core applies invalidation log records and advances IVLA once the affected accesses are performed (R395) -/
  | invalidationApply
  /-- ENGINE_COMMAND_BEGIN: A queued copy command begins its transfer once the range checker allows it (R258) -/
  | engineCommandBegin
  /-- ENGINE_COMMAND_COMPLETION: A command makes its completion actions: status word, token push and pending entries (R258) -/
  | engineCommandCompletion
  /-- COPY_FAULT_FREEZE: A fault found after a command has begun freezes the core and traps the context (R261) -/
  | copyFaultFreeze
  /-- FRZ_RELEASE: A write of 1 to FRZ releases the freeze, and every queue, CYC, the array and the roles resume (R261) -/
  | frzRelease
  /-- ARRAY_COMPLETION_PUSH: An array command's completion token is pushed after its last read and write (R231) -/
  | arrayCompletionPush
  /-- WLOAD_TILE_COPY: The array copies a weight tile into the shadow plane (R235) -/
  | wloadTileCopy
  /-- WSWP_EXCHANGE: The array exchanges the active and shadow planes (R236) -/
  | wswpExchange
  /-- PLANE_INJECTION: One row-plane, real or ballast, enters the array at the cadence (R238) -/
  | planeInjection
  /-- ARRAY_ROW_COMPLETE: A row's band partials are combined and its Z row is written with its flags (R237) -/
  | arrayRowComplete
  /-- EPILOGUE_ROW: The epilogue drains one Z row through scales, bias, activation and conversion (R243) -/
  | epilogueRow
  /-- Z_DIRECT_EXECUTE: A queued ZRD, ZWR or ZCLR is performed on Z (R246) -/
  | zDirectExecute
  /-- BAND_POWER_UP: A switched-off band that a command needs is powered up (R228) -/
  | bandPowerUp
  /-- LEASE_HANDOVER: The lease passes by arbitration at a command boundary, and the weight planes are reloaded (R232) -/
  | leaseHandover
  /-- BARRIER_RELEASE: A channel releases when every participant has arrived for the iteration (R218) -/
  | barrierRelease
  /-- PHASE_BARRIER_RELEASE: Channel 0 releases: the roles acquire, PHN increments and the section counts clear (R221) -/
  | phaseBarrierRelease
  /-- SELF_DEADLOCK: Every active role of a context is blocked with nothing in flight, and the fault is raised (R222) -/
  | selfDeadlock
  /-- WAIT_TIMEOUT: A wait's cycle count reaches WLIM and the fault is raised (R223) -/
  | waitTimeout
  /-- HOLD_OFF_OVERRUN: An event held off for HOLDLIM cycles forces a full context save (R46) -/
  | holdOffOverrun
  /-- DETECTION_WAVE: The compaction units read the work-list totals and idle marks of every die (R270) -/
  | detectionWave
  /-- SLOT_LOAD: A station loads a fragment into an empty or reserved slot (R276) -/
  | slotLoad
  /-- SLOT_ADD: A station adds its fragment into an allotted occupancy, with overlapping CRC checks (R276) -/
  | slotAdd
  /-- SLOT_COPY: A station writes an occupancy's payload, and optionally its header, to its target (R276) -/
  | slotCopy
  /-- SLOT_EMPTY: A station writes an occupancy to its target and empties the slot (R276) -/
  | slotEmpty
  /-- SLOT_EMPTY_ADD: A memory station adds an occupancy into G and empties the slot (R276) -/
  | slotEmptyAdd
  /-- SLOT_PASS_THROUGH: A pass-through station forwards a slot with no action and marks PT (R284) -/
  | slotPassThrough
  /-- ENDED_FLOW_EMPTY: An occupancy of an ended flow is emptied at the first station it reaches (R280) -/
  | endedFlowEmpty
  /-- BEST_EFFORT_RESERVE: A station with traffic pending reserves the next unallotted slot (R285) -/
  | bestEffortReserve
  /-- BEST_EFFORT_INJECT: A station injects a best-effort slot into an empty or self-reserved slot (R285) -/
  | bestEffortInject
  /-- BEST_EFFORT_DELIVER: The destination station empties a best-effort slot and hands its payload to its agent (R285) -/
  | bestEffortDeliver
  /-- STO_STAMP: The sequencer stamps an arriving STO and sends it to every member (R300) -/
  | stoStamp
  /-- STAMPED_STORE_APPLY: A member applies a stamped store in sequence order and advances APPLIED (R301) -/
  | stampedStoreApply
  /-- STAMP_ACKNOWLEDGEMENT: Once a stamped store is stable, the sequencer acknowledges it to its issuer (R300) -/
  | stampAcknowledgement
  /-- GROUP_RE_FORMATION: After a sequencer is lost, the members re-form the group under a new sequencer (R302) -/
  | groupReFormation
  /-- SETID: A fabric request sets the package id (R295) -/
  | setid
  /-- ROUTE: A fabric request writes a routing-table entry (R295) -/
  | route
  /-- GINST: A fabric request installs a multicast group's replica window (R295) -/
  | ginst
  /-- GREM: A fabric request removes a group (R295) -/
  | grem
  /-- SEQ: A fabric request makes the switch a group's sequencer, or ends that role (R295) -/
  | seq
  /-- KEY: A fabric request writes a membership-table key entry (R295) -/
  | key
  /-- PACKET_CRC_FAILURE: A packet fails its end-to-end CRC and is resent, or fails after its retries (R407) -/
  | packetCrcFailure
  /-- LINK_CRC_RETRY: A flit that fails its link CRC is resent by the link (R407) -/
  | linkCrcRetry
  /-- WINDOW_VIOLATION: An episode access outside its window kills the episode with FAULT (R311) -/
  | windowViolation
  /-- STEP_WATCHDOG_EXPIRY: The step watchdog exceeds kjsteplim and stops the episode with TRUNC (R316) -/
  | stepWatchdogExpiry
  /-- KJKILL: Writing 1 to kjkill kills the selected episode with FAULT (R454) -/
  | kjkill
  /-- OPEN_SET: Setting OPEN empties the boxes, clears the counts and enters RUN (R313) -/
  | openSet
  /-- OPEN_CLEAR: Clearing OPEN discards every entry and closes the slot (R313) -/
  | openClear
  /-- SETT_CSR_WRITE: A write to another episode CSR, checked against its limits (R309) -/
  | settCsrWrite
  /-- QUEUE_REGISTER: A directory write with REG = 1 checks the descriptor and opens the queue (R374) -/
  | queueRegister
  /-- QUEUE_CLOSE: A directory write with REG = 0 closes an open queue, which then drains (R374) -/
  | queueClose
  /-- TAIL_WRITE: A TAIL write publishes launch-queue entries up to t − 1 (R375) -/
  | tailWrite
  /-- CLAIM: An atomic add on CLAIM yields launch-queue indices to fill (R375) -/
  | claim
  /-- PUBL: A PUBL write publishes one index and advances TAIL over contiguous ones (R375) -/
  | publ
  /-- ADMISSION: The leader reads a published tree, checks it, and places it or rejects it (R379) -/
  | admission
  /-- LEADER_HAND_OVER: A die that stops qualifying hands leadership of a queue to the next die (R382) -/
  | leaderHandOver
  /-- STAGING_TRANSFER: A staging copy into a kernel's reserved storage completes, or ends the kernel on a fault (R383) -/
  | stagingTransfer
  /-- KERNEL_ISSUE: Once staging, cores and every die are ready, the kernel's cores start together (R383) -/
  | kernelIssue
  /-- KERNEL_AGING: A kernel that has waited 4 ms since admission becomes aged (R384) -/
  | kernelAging
  /-- PRE_EMPTION: A higher-priority kernel pre-empts whole victim kernels at their quiet points (R384) -/
  | preEmption
  /-- STORAGE_CLAIM: An incoming context claims a stopped victim's storage once its image has been written (R385) -/
  | storageClaim
  /-- HARVEST_PLACEMENT: A harvest kernel's whole grid is placed on host cores (R386) -/
  | harvestPlacement
  /-- REVOCATION: An owner demand revokes a harvest context into its reserve bank within 128 cycles (R387) -/
  | revocation
  /-- HARVEST_UNPARK: The die scheduler unparks a context once the lease or its storage is free (R387) -/
  | harvestUnpark
  /-- KERNEL_END: The last core of a grid ends, and the completion records are written (R31) -/
  | kernelEnd
  /-- SEED_WRITE: A write to SEED reseeds every lane LFSR (R61) -/
  | seedWrite
  /-- WIN_WRITE: A write to WIN changes the slip bound from the C role's next A-tagged instruction (R40) -/
  | winWrite
  /-- WLIMMAX_WRITE: A write to WLIMMAX also lowers the target's WLIM when needed (R351) -/
  | wlimmaxWrite
  /-- PASS_THROUGH_WRITE: A write to PTLO or PTHI puts stations into pass-through or returns them to service (R352) -/
  | passThroughWrite
  /-- SPECIAL_REGISTER_WRITE: A write to any other register or special with no row of its own (R111) -/
  | specialRegisterWrite
  /-- RESIDUE_MISMATCH: A residue check fails; the result is recomputed, or the core is retired (R404) -/
  | residueMismatch
  /-- UNCORRECTABLE_MEMORY_ERROR: A reader meets an uncorrectable SRAM or HBM error (R405) -/
  | uncorrectableMemoryError
  /-- SCRUB: The scrubber reads and corrects a memory word (R406) -/
  | scrub
  /-- SCHEDULER_DIVERGENCE: A die scheduler pair diverges, stops and drains the die (R408) -/
  | schedulerDivergence
  /-- SCHEDULER_RELOAD: The management controller reloads the pair and returns the die to service (R408) -/
  | schedulerReload
  /-- CONTROLLER_HAND_OVER: The standby controller takes control after a 50 ms watchdog miss (R434) -/
  | controllerHandOver
  /-- CLOCK_LOSS: A clock region's clock is lost and the region is fenced (R408) -/
  | clockLoss
  /-- STACK_FAILURE: A stack fails, its station passes through and LIVEM is republished (R410) -/
  | stackFailure
  /-- TIME_SLEW: The management controller slews a region's TIME (R15) -/
  | timeSlew
  /-- OFFSET_PUBLICATION: The offsets are measured and the window republished, at least every 10 s (R21) -/
  | offsetPublication
  /-- BITMAP_FREEZE: At a PHASE release, the dirty bitmaps are frozen and the pages protected for a checkpoint (R414) -/
  | bitmapFreeze
  /-- CHECKPOINT_PAGE_COPY: The checkpoint engine copies one page of the snapshot set to the stream (R414) -/
  | checkpointPageCopy
  /-- COPY_ON_WRITE: A write to a protected page first copies the old page to the side buffer (R414) -/
  | copyOnWrite
  /-- CHECKPOINT_COMPLETE: The header and the progress record with STATE 3 are written (R416) -/
  | checkpointComplete
  /-- CHECKPOINT_FAILURE: A destination error, DLEN overrun or kernel end fails the checkpoint (R417) -/
  | checkpointFailure
  /-- THAW_DEFERRAL_END: After a step start, a core's TIME reaches its group offset and the first plane may enter (R427) -/
  | thawDeferralEnd
  /-- LIMITER_WINDOW: A 64-cycle window ends and the next plane allowance is computed (R428) -/
  | limiterWindow
  /-- BALLAST_LIMIT_EXPIRY: Ballast over the cap stops after 20 µs (R430) -/
  | ballastLimitExpiry
  /-- DROOP_ALARM: A droop forces CAD to at least DRPCAD in the group within 20 ns (R431) -/
  | droopAlarm
  /-- DROOP_RECOVERY: After 10 µs above the threshold the alarm ends, and CAD falls by 1 per microsecond (R431) -/
  | droopRecovery
  /-- OVER_CURRENT: Excess group current forces CAD 63, until 10 µs after it ends (R432) -/
  | overCurrent
  /-- THERMAL_TRIP: A sensor at 118 °C or more forces CAD 63 until every sensor reads 110 °C or less (R432) -/
  | thermalTrip
  /-- COARSE_CAP_WINDOW: A 1 ms energy window over 1.05·GCAP doubles CAD for the next window (R432) -/
  | coarseCapWindow
  /-- CADREQ_UPDATE: Firmware raises or lowers a group's CADREQ for the cap, the package cap or temperature (R430) -/
  | cadreqUpdate
  /-- POWER_TABLE_WRITE: A host write to a power-table field, refused when out of range (R424) -/
  | powerTableWrite
  /-- PARTITION_DESCRIPTOR_WRITE: A host write to a partition descriptor, refused when it breaks the rules (R399) -/
  | partitionDescriptorWrite
  /-- STANDBY_REQUEST: STBY = 1 closes the queues, powers off the dies and sets STBYA (R440) -/
  | standbyRequest
  /-- STANDBY_EXIT: STBY = 0 repeats bring-up steps 2, 4, 5 and 6 with HBM kept (R440) -/
  | standbyExit
  /-- DEBUG_MODE_ENTER: DBGM = 1 posts SUB 15 and permits NORES and NOSCRB (R440) -/
  | debugModeEnter
  /-- DEBUG_MODE_EXIT: DBGM = 0 clears NORES and NOSCRB (R440) -/
  | debugModeExit
  /-- DEBUG_MAILBOX_SRD: A DCMD with OP 0 performs an SRD as a PART 31 context (R442) -/
  | debugMailboxSrd
  /-- DEBUG_MAILBOX_SWR: A DCMD with OP 1 performs an SWR as a PART 31 context (R442) -/
  | debugMailboxSwr
  /-- DEBUG_MAILBOX_DBGH: A DCMD with OP 2 performs a DBGH operation (R442) -/
  | debugMailboxDbgh
  /-- POWER_ON_RESET: Power-on, or PERST# on both ports, resets the package and runs bring-up (R441) -/
  | powerOnReset
  /-- PORT_RESET: PERST# or hot reset on one port resets that link and its functions only (R441) -/
  | portReset
  /-- LINK_DOWN: A port's link goes down; pending LDHs fault and STHs are dropped with LDN set (R169) -/
  | linkDown
  /-- VF_FLR: An FLR of VF p + 1 ends the partition's kernels and closes its queues (R441) -/
  | vfFlr
  /-- PF_FLR: An FLR of the PF resets its configuration and any debug mailbox operation (R441) -/
  | pfFlr
  /-- WAITC_CLOCK_REACHED: CYC or TIME reaches the value a WAITC waits for, and the WAITC completes (R121) -/
  | waitcClockReached
  /-- YIELD_END: The min(a, 4,095) cycles of a YLD run out, and the role issues again (R122) -/
  | yieldEnd
  /-- IDLE_CYCLE_LIMIT: CYC advances by a from the IDLE's issue, and the IDLE ends with no record present (R366) -/
  | idleCycleLimit
  /-- OVER_CURRENT_CLEAR: Ten microseconds after the group current falls below its fused limit, OC clears and the forced CAD 63 is lifted (R432) -/
  | overCurrentClear
  /-- THERMAL_TRIP_CLEAR: Every thermal sensor of a tripped die reads 110 degrees C or less, so TRIP clears and the forced CAD 63 is lifted (R432) -/
  | thermalTripClear
  /-- LINK_UP: A port's PCI Express link trains and returns to service after it was down or reset (R436) -/
  | linkUp
  /-- BOUNDARY_SCAN: An IEEE 1149.1 TAP operation (BYPASS, IDCODE, SAMPLE/PRELOAD or EXTEST) is made at the carrier connector while the package is held in reset (R420) -/
  | boundaryScan
  /-- HOST_WRITE: A host writes package memory G, which counts as a store by another party and sets the dirty bit of the page (R414) -/
  | hostWrite
  deriving DecidableEq, Repr

end Sys2Proof
end

