-- ==== Sys2Proof/Decode.lean ====
section
/-! DEFINITION. The decoder (R75 to R90, R318), total on any bytes; the encoder; and the decode checks of R89, written
from the entries of the instructions. -/

namespace Sys2Proof

/-- Bit `i` of a vector. -/
abbrev bitAt {n : Nat} (x : BitVec n) (i : Nat) : Bool := x.getLsbD i

/-- The field x[lo + n - 1 : lo] (R2). -/
abbrev field {m : Nat} (x : BitVec m) (lo n : Nat) : BitVec n := x.extractLsb' lo n

/-- The opcode [89:80] of a word (R76). -/
def opcOf (w : Word96) : Nat := (field w 80 10).toNat

/-- Format S (R81). -/
def getS (w : Word96) : WordS :=
  ⟨field w 94 2, field w 90 4, field w 74 6, field w 68 6, field w 62 6, field w 57 5, field w 48 9, field w 0 48⟩
/-- Format V (R82). -/
def getV (w : Word96) : WordV :=
  ⟨field w 94 2, field w 90 4, field w 74 6, field w 68 6, field w 62 6, field w 57 5, field w 51 6, field w 45 6,
    field w 44 1, field w 43 1, field w 42 1, field w 37 5, field w 34 3, field w 0 34⟩
/-- Format M (R83). -/
def getM (w : Word96) : WordM :=
  ⟨field w 94 2, field w 90 4, field w 74 6, field w 68 6, field w 62 6, field w 57 5, field w 54 3, field w 52 2,
    field w 50 2, field w 48 2, field w 0 48⟩
/-- Format B (R84). -/
def getB (w : Word96) : WordB :=
  ⟨field w 94 2, field w 90 4, field w 74 6, field w 62 12, field w 57 5, field w 48 9, field w 40 8, field w 24 16,
    field w 0 24⟩
/-- Format X (R85). -/
def getX (w : Word96) : WordX :=
  ⟨field w 94 2, field w 90 4, field w 74 6, field w 68 6, field w 62 6, field w 57 5, field w 0 57⟩
/-- A hint (R90). -/
def getHint (w : Word96) : HintWord := ⟨field w 94 2, field w 90 4, field w 0 80⟩

/-- Format S as a word. -/
def putS (o : BitVec 10) (w : WordS) : Word96 :=
  w.role ++ w.tok ++ o ++ w.d ++ w.a ++ w.b ++ w.guard ++ w.mod ++ w.imm
/-- Format V as a word. -/
def putV (o : BitVec 10) (w : WordV) : Word96 :=
  w.role ++ w.tok ++ o ++ w.d ++ w.a ++ w.b ++ w.guard ++ w.c ++ w.lm ++ w.ka ++ w.kb ++ w.kc ++ w.type ++ w.rm ++ w.imm
/-- Format M as a word. -/
def putM (o : BitVec 10) (w : WordM) : Word96 :=
  w.role ++ w.tok ++ o ++ w.data ++ w.base ++ w.index ++ w.guard ++ w.width ++ w.order ++ w.scope ++ w.cache ++ w.imm
/-- Format B as a word. -/
def putB (o : BitVec 10) (w : WordB) : Word96 :=
  w.role ++ w.tok ++ o ++ w.cond ++ w.rsvd ++ w.guard ++ w.mod ++ w.tsec ++ w.tword ++ w.count
/-- Format X as a word. -/
def putX (o : BitVec 10) (w : WordX) : Word96 :=
  w.role ++ w.tok ++ o ++ w.d ++ w.a ++ w.b ++ w.guard ++ w.low
/-- A hint as a word: its opcode is 0x0F0 + n. -/
def putHint (n : BitVec 4) (w : HintWord) : Word96 := w.role ++ w.tok ++ (0x0F#6) ++ n ++ w.rest

/-- The byte at position `i` of a little-endian value (R2). -/
def byteOf {m : Nat} (x : BitVec m) (i : Nat) : Byte := field x (8 * i) 8

/-- The `n` bytes of a little-endian value, lowest address first (R2). -/
def bytesOf {m : Nat} (x : BitVec m) (n : Nat) : List Byte := (List.range n).map (byteOf x)

/-- The value of little-endian bytes (R2). -/
def natOfBytes : List Byte → Nat
  | [] => 0
  | b :: r => b.toNat + 256 * natOfBytes r

/-- A word of `w` bits from little-endian bytes. -/
def wordOfBytes (w : Nat) (l : List Byte) : BitVec w := BitVec.ofNat w (natOfBytes l)

/-- Class 00: scalar and control. A hint is any of 0x0F0 to 0x0FF (R90). -/
def decodeClass0 (w : Word96) : Instr :=
  match opcOf w with
  | 0x000 => .nop (getS w)
  | 0x001 => .halt (getS w)
  | 0x002 => .qpt (getS w)
  | 0x003 => .br (getB w)
  | 0x004 => .brp (getB w)
  | 0x005 => .call (getB w)
  | 0x006 => .ret (getS w)
  | 0x007 => .loop (getB w)
  | 0x008 => .next (getB w)
  | 0x009 => .bqs (getS w)
  | 0x00A => .bqr (getS w)
  | 0x00B => .waitc (getS w)
  | 0x00C => .yld (getS w)
  | 0x00D => .trap (getS w)
  | 0x00E => .bkpt (getS w)
  | 0x00F => .ldp (getS w)
  | 0x010 => .add (getS w)
  | 0x011 => .sub (getS w)
  | 0x012 => .mul (getS w)
  | 0x013 => .mulh (getS w)
  | 0x014 => .mulhn (getS w)
  | 0x015 => .div (getS w)
  | 0x016 => .divn (getS w)
  | 0x017 => .rem (getS w)
  | 0x018 => .remn (getS w)
  | 0x019 => .and (getS w)
  | 0x01A => .or (getS w)
  | 0x01B => .xor (getS w)
  | 0x01C => .andn (getS w)
  | 0x01D => .orn (getS w)
  | 0x01E => .shl (getS w)
  | 0x01F => .shr (getS w)
  | 0x020 => .sra (getS w)
  | 0x021 => .rotl (getS w)
  | 0x022 => .min (getS w)
  | 0x023 => .max (getS w)
  | 0x024 => .minn (getS w)
  | 0x025 => .maxn (getS w)
  | 0x026 => .clz (getS w)
  | 0x027 => .ctz (getS w)
  | 0x028 => .popc (getS w)
  | 0x029 => .brev (getS w)
  | 0x02A => .bswap (getS w)
  | 0x02B => .sext (getS w)
  | 0x02C => .zext (getS w)
  | 0x02D => .bfx (getS w)
  | 0x02E => .bfi (getS w)
  | 0x02F => .sel (getS w)
  | 0x030 => .lim (getS w)
  | 0x031 => .limh (getS w)
  | 0x032 => .lea (getS w)
  | 0x033 => .cmp (getS w)
  | 0x034 => .plog (getS w)
  | 0x035 => .pmov (getS w)
  | 0x036 => .mfs (getS w)
  | 0x037 => .mts (getS w)
  | n => if 0x0F0 ≤ n ∧ n ≤ 0x0FF then .hint (w.extractLsb' 80 4) (getHint w) else .unassignedOpcode w

/-- Class 01: vector. -/
def decodeClass1 (w : Word96) : Instr :=
  match opcOf w with
  | 0x100 => .vadd (getV w)
  | 0x101 => .vsub (getV w)
  | 0x102 => .vmul (getV w)
  | 0x103 => .vfma (getV w)
  | 0x104 => .vfms (getV w)
  | 0x105 => .vfnma (getV w)
  | 0x106 => .vmin (getV w)
  | 0x107 => .vmax (getV w)
  | 0x108 => .vabs (getV w)
  | 0x109 => .vneg (getV w)
  | 0x10A => .vdiv (getV w)
  | 0x10B => .vsqrt (getV w)
  | 0x10C => .vrcp (getV w)
  | 0x10D => .vrsq (getV w)
  | 0x10E => .vexp2 (getV w)
  | 0x10F => .vlog2 (getV w)
  | 0x110 => .viadd (getV w)
  | 0x111 => .visub (getV w)
  | 0x112 => .vimul (getV w)
  | 0x113 => .vimad (getV w)
  | 0x114 => .vimulh (getV w)
  | 0x115 => .vsadd (getV w)
  | 0x116 => .vssub (getV w)
  | 0x117 => .vimin (getV w)
  | 0x118 => .vimax (getV w)
  | 0x119 => .viabs (getV w)
  | 0x11A => .vshl (getV w)
  | 0x11B => .vshr (getV w)
  | 0x11C => .vsra (getV w)
  | 0x11D => .vand (getV w)
  | 0x11E => .vor (getV w)
  | 0x11F => .vxor (getV w)
  | 0x120 => .vpopc (getV w)
  | 0x121 => .vclz (getV w)
  | 0x122 => .vcmp (getV w)
  | 0x123 => .vicmp (getV w)
  | 0x124 => .vsel (getV w)
  | 0x125 => .vcvt (getV w)
  | 0x126 => .vpack (getV w)
  | 0x127 => .vunpk (getV w)
  | 0x128 => .vqbfp (getV w)
  | 0x129 => .vdqbfp (getV w)
  | 0x12A => .vmov (getV w)
  | 0x12B => .vins (getV w)
  | 0x12C => .vext (getV w)
  | 0x12D => .vperm (getV w)
  | 0x12E => .vrot (getV w)
  | 0x12F => .vcmpr (getV w)
  | 0x130 => .vexpd (getV w)
  | 0x131 => .vred (getV w)
  | 0x132 => .vscan (getV w)
  | 0x133 => .varg (getV w)
  | _ => .unassignedOpcode w

/-- Class 10: memory and synchronisation. -/
def decodeClass2 (w : Word96) : Instr :=
  match opcOf w with
  | 0x200 => .ldl (getM w)
  | 0x201 => .stl (getM w)
  | 0x202 => .ldlx (getM w)
  | 0x203 => .stlx (getM w)
  | 0x204 => .ldk (getM w)
  | 0x205 => .stk (getM w)
  | 0x206 => .ldg (getM w)
  | 0x207 => .stg (getM w)
  | 0x208 => .pfg (getM w)
  | 0x209 => .ldf (getM w)
  | 0x20A => .stf (getM w)
  | 0x20B => .ldo (getM w)
  | 0x20C => .sto (getM w)
  | 0x20D => .oseq (getM w)
  | 0x20E => .owt (getM w)
  | 0x20F => .ldh (getM w)
  | 0x210 => .sth (getM w)
  | 0x211 => .atl (getM w)
  | 0x212 => .atk (getM w)
  | 0x213 => .atg (getM w)
  | 0x214 => .atf (getM w)
  | 0x215 => .fence (getM w)
  | 0x216 => .phase (getM w)
  | 0x217 => .cbini (getM w)
  | 0x218 => .cbclm (getM w)
  | 0x219 => .cbpub (getM w)
  | 0x21A => .cbtak (getM w)
  | 0x21B => .cbrel (getM w)
  | 0x21C => .dqini (getM w)
  | 0x21D => .dqpsh (getM w)
  | 0x21E => .dqpop (getM w)
  | 0x21F => .dqstl (getM w)
  | 0x220 => .bara (getM w)
  | 0x221 => .barw (getM w)
  | 0x222 => .bar (getM w)
  | 0x223 => .bidb (getM w)
  | 0x224 => .bida (getM w)
  | 0x225 => .qcnt (getM w)
  | 0x226 => .qclr (getM w)
  | 0x227 => .qbnd (getM w)
  | 0x228 => .tktry (getM w)
  | 0x229 => .wlapp (getM w)
  | 0x22A => .wltak (getM w)
  | 0x22B => .wlidl (getM w)
  | 0x22C => .trmw (getM w)
  | _ => .unassignedOpcode w

/-- Class 11: array, engines, conveyor, mailboxes and the privileged opcodes. -/
def decodeClass3 (w : Word96) : Instr :=
  match opcOf w with
  | 0x300 => .lease (getX w)
  | 0x301 => .ulease (getX w)
  | 0x302 => .wload (getX w)
  | 0x303 => .wswp (getX w)
  | 0x304 => .ashp (getX w)
  | 0x305 => .mma (getX w)
  | 0x306 => .mmaz (getX w)
  | 0x307 => .mmai (getX w)
  | 0x308 => .epi (getX w)
  | 0x309 => .epicf (getX w)
  | 0x30A => .zrd (getX w)
  | 0x30B => .zwr (getX w)
  | 0x30C => .zclr (getX w)
  | 0x310 => .cpyi (getX w)
  | 0x311 => .cpyo (getX w)
  | 0x312 => .gthi (getX w)
  | 0x313 => .scto (getX w)
  | 0x314 => .echk (getX w)
  | 0x318 => .cvwt (getX w)
  | 0x319 => .cvts (getX w)
  | 0x31A => .cvcl (getX w)
  | 0x31B => .cvinf (getX w)
  | 0x31C => .cvtim (getX w)
  | 0x320 => .mbsnd (getX w)
  | 0x321 => .mbrcv (getX w)
  | 0x322 => .mbsta (getX w)
  | 0x380 => .srd (getX w)
  | 0x381 => .swr (getX w)
  | 0x382 => .eret (getX w)
  | 0x383 => .invl (getX w)
  | 0x384 => .inva (getX w)
  | 0x385 => .stbw (getX w)
  | 0x386 => .stbr (getX w)
  | 0x387 => .ctxsv (getX w)
  | 0x388 => .ctxld (getX w)
  | 0x389 => .park (getX w)
  | 0x38A => .unpark (getX w)
  | 0x38B => .retire (getX w)
  | 0x38C => .dbgh (getX w)
  | 0x38D => .idle (getX w)
  | 0x38E => .ckpt (getX w)
  | 0x38F => .spare (getX w)
  | _ => .unassignedOpcode w

/-- The opcode map (R87), by class: the two highest bits of the opcode. An opcode in no row is unassigned (R89). -/
def decodeWord (w : Word96) : Instr :=
  match opcOf w / 256 with
  | 0 => decodeClass0 w
  | 1 => decodeClass1 w
  | 2 => decodeClass2 w
  | _ => decodeClass3 w

/-- The 96-bit word of a Vartar row, from the encoding tables of R81 to R87. A device row and a RISC-V row have none. -/
def encodeWord : Instr → Option Word96
  | .nop w => some (putS 0x000 w)
  | .halt w => some (putS 0x001 w)
  | .qpt w => some (putS 0x002 w)
  | .br w => some (putB 0x003 w)
  | .brp w => some (putB 0x004 w)
  | .call w => some (putB 0x005 w)
  | .ret w => some (putS 0x006 w)
  | .loop w => some (putB 0x007 w)
  | .next w => some (putB 0x008 w)
  | .bqs w => some (putS 0x009 w)
  | .bqr w => some (putS 0x00A w)
  | .waitc w => some (putS 0x00B w)
  | .yld w => some (putS 0x00C w)
  | .trap w => some (putS 0x00D w)
  | .bkpt w => some (putS 0x00E w)
  | .hint n w => some (putHint n w)
  | .ldp w => some (putS 0x00F w)
  | .add w => some (putS 0x010 w)
  | .sub w => some (putS 0x011 w)
  | .mul w => some (putS 0x012 w)
  | .mulh w => some (putS 0x013 w)
  | .mulhn w => some (putS 0x014 w)
  | .div w => some (putS 0x015 w)
  | .divn w => some (putS 0x016 w)
  | .rem w => some (putS 0x017 w)
  | .remn w => some (putS 0x018 w)
  | .and w => some (putS 0x019 w)
  | .or w => some (putS 0x01A w)
  | .xor w => some (putS 0x01B w)
  | .andn w => some (putS 0x01C w)
  | .orn w => some (putS 0x01D w)
  | .shl w => some (putS 0x01E w)
  | .shr w => some (putS 0x01F w)
  | .sra w => some (putS 0x020 w)
  | .rotl w => some (putS 0x021 w)
  | .min w => some (putS 0x022 w)
  | .max w => some (putS 0x023 w)
  | .minn w => some (putS 0x024 w)
  | .maxn w => some (putS 0x025 w)
  | .clz w => some (putS 0x026 w)
  | .ctz w => some (putS 0x027 w)
  | .popc w => some (putS 0x028 w)
  | .brev w => some (putS 0x029 w)
  | .bswap w => some (putS 0x02A w)
  | .sext w => some (putS 0x02B w)
  | .zext w => some (putS 0x02C w)
  | .bfx w => some (putS 0x02D w)
  | .bfi w => some (putS 0x02E w)
  | .sel w => some (putS 0x02F w)
  | .lim w => some (putS 0x030 w)
  | .limh w => some (putS 0x031 w)
  | .lea w => some (putS 0x032 w)
  | .cmp w => some (putS 0x033 w)
  | .plog w => some (putS 0x034 w)
  | .pmov w => some (putS 0x035 w)
  | .mfs w => some (putS 0x036 w)
  | .mts w => some (putS 0x037 w)
  | .vadd w => some (putV 0x100 w)
  | .vsub w => some (putV 0x101 w)
  | .vmul w => some (putV 0x102 w)
  | .vfma w => some (putV 0x103 w)
  | .vfms w => some (putV 0x104 w)
  | .vfnma w => some (putV 0x105 w)
  | .vmin w => some (putV 0x106 w)
  | .vmax w => some (putV 0x107 w)
  | .vabs w => some (putV 0x108 w)
  | .vneg w => some (putV 0x109 w)
  | .vdiv w => some (putV 0x10A w)
  | .vsqrt w => some (putV 0x10B w)
  | .vrcp w => some (putV 0x10C w)
  | .vrsq w => some (putV 0x10D w)
  | .vexp2 w => some (putV 0x10E w)
  | .vlog2 w => some (putV 0x10F w)
  | .viadd w => some (putV 0x110 w)
  | .visub w => some (putV 0x111 w)
  | .vimul w => some (putV 0x112 w)
  | .vimad w => some (putV 0x113 w)
  | .vimulh w => some (putV 0x114 w)
  | .vsadd w => some (putV 0x115 w)
  | .vssub w => some (putV 0x116 w)
  | .vimin w => some (putV 0x117 w)
  | .vimax w => some (putV 0x118 w)
  | .viabs w => some (putV 0x119 w)
  | .vshl w => some (putV 0x11A w)
  | .vshr w => some (putV 0x11B w)
  | .vsra w => some (putV 0x11C w)
  | .vand w => some (putV 0x11D w)
  | .vor w => some (putV 0x11E w)
  | .vxor w => some (putV 0x11F w)
  | .vpopc w => some (putV 0x120 w)
  | .vclz w => some (putV 0x121 w)
  | .vcmp w => some (putV 0x122 w)
  | .vicmp w => some (putV 0x123 w)
  | .vsel w => some (putV 0x124 w)
  | .vcvt w => some (putV 0x125 w)
  | .vpack w => some (putV 0x126 w)
  | .vunpk w => some (putV 0x127 w)
  | .vqbfp w => some (putV 0x128 w)
  | .vdqbfp w => some (putV 0x129 w)
  | .vmov w => some (putV 0x12A w)
  | .vins w => some (putV 0x12B w)
  | .vext w => some (putV 0x12C w)
  | .vperm w => some (putV 0x12D w)
  | .vrot w => some (putV 0x12E w)
  | .vcmpr w => some (putV 0x12F w)
  | .vexpd w => some (putV 0x130 w)
  | .vred w => some (putV 0x131 w)
  | .vscan w => some (putV 0x132 w)
  | .varg w => some (putV 0x133 w)
  | .ldl w => some (putM 0x200 w)
  | .stl w => some (putM 0x201 w)
  | .ldlx w => some (putM 0x202 w)
  | .stlx w => some (putM 0x203 w)
  | .ldk w => some (putM 0x204 w)
  | .stk w => some (putM 0x205 w)
  | .ldg w => some (putM 0x206 w)
  | .stg w => some (putM 0x207 w)
  | .pfg w => some (putM 0x208 w)
  | .ldf w => some (putM 0x209 w)
  | .stf w => some (putM 0x20A w)
  | .ldo w => some (putM 0x20B w)
  | .sto w => some (putM 0x20C w)
  | .oseq w => some (putM 0x20D w)
  | .owt w => some (putM 0x20E w)
  | .ldh w => some (putM 0x20F w)
  | .sth w => some (putM 0x210 w)
  | .atl w => some (putM 0x211 w)
  | .atk w => some (putM 0x212 w)
  | .atg w => some (putM 0x213 w)
  | .atf w => some (putM 0x214 w)
  | .fence w => some (putM 0x215 w)
  | .phase w => some (putM 0x216 w)
  | .cbini w => some (putM 0x217 w)
  | .cbclm w => some (putM 0x218 w)
  | .cbpub w => some (putM 0x219 w)
  | .cbtak w => some (putM 0x21A w)
  | .cbrel w => some (putM 0x21B w)
  | .dqini w => some (putM 0x21C w)
  | .dqpsh w => some (putM 0x21D w)
  | .dqpop w => some (putM 0x21E w)
  | .dqstl w => some (putM 0x21F w)
  | .bara w => some (putM 0x220 w)
  | .barw w => some (putM 0x221 w)
  | .bar w => some (putM 0x222 w)
  | .bidb w => some (putM 0x223 w)
  | .bida w => some (putM 0x224 w)
  | .qcnt w => some (putM 0x225 w)
  | .qclr w => some (putM 0x226 w)
  | .qbnd w => some (putM 0x227 w)
  | .tktry w => some (putM 0x228 w)
  | .wlapp w => some (putM 0x229 w)
  | .wltak w => some (putM 0x22A w)
  | .wlidl w => some (putM 0x22B w)
  | .trmw w => some (putM 0x22C w)
  | .lease w => some (putX 0x300 w)
  | .ulease w => some (putX 0x301 w)
  | .wload w => some (putX 0x302 w)
  | .wswp w => some (putX 0x303 w)
  | .ashp w => some (putX 0x304 w)
  | .mma w => some (putX 0x305 w)
  | .mmaz w => some (putX 0x306 w)
  | .mmai w => some (putX 0x307 w)
  | .epi w => some (putX 0x308 w)
  | .epicf w => some (putX 0x309 w)
  | .zrd w => some (putX 0x30A w)
  | .zwr w => some (putX 0x30B w)
  | .zclr w => some (putX 0x30C w)
  | .cpyi w => some (putX 0x310 w)
  | .cpyo w => some (putX 0x311 w)
  | .gthi w => some (putX 0x312 w)
  | .scto w => some (putX 0x313 w)
  | .echk w => some (putX 0x314 w)
  | .cvwt w => some (putX 0x318 w)
  | .cvts w => some (putX 0x319 w)
  | .cvcl w => some (putX 0x31A w)
  | .cvinf w => some (putX 0x31B w)
  | .cvtim w => some (putX 0x31C w)
  | .mbsnd w => some (putX 0x320 w)
  | .mbrcv w => some (putX 0x321 w)
  | .mbsta w => some (putX 0x322 w)
  | .srd w => some (putX 0x380 w)
  | .swr w => some (putX 0x381 w)
  | .eret w => some (putX 0x382 w)
  | .invl w => some (putX 0x383 w)
  | .inva w => some (putX 0x384 w)
  | .stbw w => some (putX 0x385 w)
  | .stbr w => some (putX 0x386 w)
  | .ctxsv w => some (putX 0x387 w)
  | .ctxld w => some (putX 0x388 w)
  | .park w => some (putX 0x389 w)
  | .unpark w => some (putX 0x38A w)
  | .retire w => some (putX 0x38B w)
  | .dbgh w => some (putX 0x38C w)
  | .idle w => some (putX 0x38D w)
  | .ckpt w => some (putX 0x38E w)
  | .spare w => some (putX 0x38F w)
  | .mbRecv .. => none
  | .mbSend .. => none
  | .mbStep .. => none
  | .mbDone .. => none
  | .mbStat .. => none
  | .mbVer .. => none
  | .unassignedOpcode w => some w
  | .settCoreInstruction .. => none
  | .trapRecordPendingAppend => none
  | .loadDataWrite => none
  | .storeBufferDrain => none
  | .atomicPerform => none
  | .clusterMessagePerform => none
  | .stfAcknowledgement => none
  | .fAccessArrival => none
  | .ldhCompletion => none
  | .completionTimeout => none
  | .translationWalk => none
  | .invalidationApply => none
  | .engineCommandBegin => none
  | .engineCommandCompletion => none
  | .copyFaultFreeze => none
  | .frzRelease => none
  | .arrayCompletionPush => none
  | .wloadTileCopy => none
  | .wswpExchange => none
  | .planeInjection => none
  | .arrayRowComplete => none
  | .epilogueRow => none
  | .zDirectExecute => none
  | .bandPowerUp => none
  | .leaseHandover => none
  | .barrierRelease => none
  | .phaseBarrierRelease => none
  | .selfDeadlock => none
  | .waitTimeout => none
  | .holdOffOverrun => none
  | .detectionWave => none
  | .slotLoad => none
  | .slotAdd => none
  | .slotCopy => none
  | .slotEmpty => none
  | .slotEmptyAdd => none
  | .slotPassThrough => none
  | .endedFlowEmpty => none
  | .bestEffortReserve => none
  | .bestEffortInject => none
  | .bestEffortDeliver => none
  | .stoStamp => none
  | .stampedStoreApply => none
  | .stampAcknowledgement => none
  | .groupReFormation => none
  | .setid => none
  | .route => none
  | .ginst => none
  | .grem => none
  | .seq => none
  | .key => none
  | .packetCrcFailure => none
  | .linkCrcRetry => none
  | .windowViolation => none
  | .stepWatchdogExpiry => none
  | .kjkill => none
  | .openSet => none
  | .openClear => none
  | .settCsrWrite => none
  | .queueRegister => none
  | .queueClose => none
  | .tailWrite => none
  | .claim => none
  | .publ => none
  | .admission => none
  | .leaderHandOver => none
  | .stagingTransfer => none
  | .kernelIssue => none
  | .kernelAging => none
  | .preEmption => none
  | .storageClaim => none
  | .harvestPlacement => none
  | .revocation => none
  | .harvestUnpark => none
  | .kernelEnd => none
  | .seedWrite => none
  | .winWrite => none
  | .wlimmaxWrite => none
  | .passThroughWrite => none
  | .specialRegisterWrite => none
  | .residueMismatch => none
  | .uncorrectableMemoryError => none
  | .scrub => none
  | .schedulerDivergence => none
  | .schedulerReload => none
  | .controllerHandOver => none
  | .clockLoss => none
  | .stackFailure => none
  | .timeSlew => none
  | .offsetPublication => none
  | .bitmapFreeze => none
  | .checkpointPageCopy => none
  | .copyOnWrite => none
  | .checkpointComplete => none
  | .checkpointFailure => none
  | .thawDeferralEnd => none
  | .limiterWindow => none
  | .ballastLimitExpiry => none
  | .droopAlarm => none
  | .droopRecovery => none
  | .overCurrent => none
  | .thermalTrip => none
  | .coarseCapWindow => none
  | .cadreqUpdate => none
  | .powerTableWrite => none
  | .partitionDescriptorWrite => none
  | .standbyRequest => none
  | .standbyExit => none
  | .debugModeEnter => none
  | .debugModeExit => none
  | .debugMailboxSrd => none
  | .debugMailboxSwr => none
  | .debugMailboxDbgh => none
  | .powerOnReset => none
  | .portReset => none
  | .linkDown => none
  | .vfFlr => none
  | .pfFlr => none
  | .waitcClockReached => none
  | .yieldEnd => none
  | .idleCycleLimit => none
  | .overCurrentClear => none
  | .thermalTripClear => none
  | .linkUp => none
  | .boundaryScan => none
  | .hostWrite => none

/-- Why bytes hold no instruction. -/
inductive DecodeError where
  /-- Fewer than the twelve bytes of R75. -/
  | truncated
  /-- Fewer than the four bytes of an uncompressed RISC-V word, or two of a compressed one (R308). -/
  | settTruncated
  deriving DecidableEq, Repr

/-- A Vartar instruction at the head of a byte string (R75), with the bytes after it. -/
def decode (l : List Byte) : Except DecodeError (Instr × List Byte) :=
  if l.length < 12 then .error .truncated
  else .ok (decodeWord (wordOfBytes 96 (l.take 12)), l.drop 12)

/-- A Sett word (R318): the six Xknajan instructions of custom-0, and every other word as an ordinary RISC-V one. A word
of the extension that R318 refuses (funct3 6 or 7, a nonzero field marked 0) stays ordinary, and raises the
illegal-instruction exception there. -/
def decodeSettWord (w : W32) : Instr :=
  let rd := field w 7 5
  let f3 := (field w 12 3).toNat
  let rs1 := field w 15 5
  let rs2 := field w 20 5
  if field w 0 7 = 0b0001011#7 ∧ field w 25 7 = 0#7 then
    if f3 = 0 ∧ rs2 = 0 then .mbRecv rd rs1
    else if f3 = 1 ∧ rd = 0 then .mbSend rs1 rs2
    else if f3 = 2 then .mbStep rd rs1 rs2
    else if f3 = 3 ∧ rd = 0 then .mbDone rs1 rs2
    else if f3 = 4 ∧ rs1 = 0 ∧ rs2 = 0 then .mbStat rd
    else if f3 = 5 ∧ rs1 = 0 ∧ rs2 = 0 then .mbVer rd
    else .settCoreInstruction w
  else .settCoreInstruction w

/-- A Sett instruction at the head of a byte string: a compressed one (RV64GC, low two bits not 11) takes two bytes and
stands zero-extended, any other takes four. -/
def decodeSett (l : List Byte) : Except DecodeError (Instr × List Byte) :=
  let h := wordOfBytes 16 (l.take 2)
  if l.length < 2 then .error .settTruncated
  else if field h 0 2 = 0b11#2 then
    if l.length < 4 then .error .settTruncated
    else .ok (decodeSettWord (wordOfBytes 32 (l.take 4)), l.drop 4)
  else .ok (.settCoreInstruction (h.setWidth 32), l.drop 2)

/-- An Xknajan word (R318). -/
def mbWord (f3 : BitVec 3) (rd rs1 rs2 : BitVec 5) : W32 := (0#7) ++ rs2 ++ rs1 ++ f3 ++ rd ++ (0b0001011#7)

/-- The 32-bit word of a Sett row. -/
def encodeSettWord : Instr → Option W32
  | .mbRecv rd rs1 => some (mbWord 0 rd rs1 0)
  | .mbSend rs1 rs2 => some (mbWord 1 0 rs1 rs2)
  | .mbStep rd rs1 rs2 => some (mbWord 2 rd rs1 rs2)
  | .mbDone rs1 rs2 => some (mbWord 3 0 rs1 rs2)
  | .mbStat rd => some (mbWord 4 rd 0 0)
  | .mbVer rd => some (mbWord 5 rd 0 0)
  | .settCoreInstruction w => some w
  | _ => none

/-- The bytes of an instruction, lowest address first (R75): twelve of a Vartar row, four or two of a Sett row, none of
a device row. -/
def encode (i : Instr) : List Byte :=
  match encodeWord i with
  | some w => bytesOf w 12
  | none =>
    match encodeSettWord i with
    | some w => if field w 0 2 = 0b11#2 then bytesOf w 4 else bytesOf w 2
    | none => []

/-- The host's question: an instruction whose bits are `w`, in `nbits` bits. A table row of at most 32 bits is a Sett
word; any other is a Vartar word. -/
def decodeTableWord (nbits w : Nat) : Option Instr :=
  if nbits ≤ 32 then
    match decodeSett (bytesOf (BitVec.ofNat 32 w) 4) with
    | .ok (i, _) => some i
    | .error _ => none
  else
    match decode (bytesOf (BitVec.ofNat 96 w) 12) with
    | .ok (i, _) => some i
    | .error _ => none

/-! ## The decode checks (R89)

Steps 1, 3 and 4 of R89 read the word alone and stand here; step 2 (privilege) and the checks that need the context (R34,
R203, R353) stand in Machine/Operands.lean. -/

/-- What is wrong with a word. -/
inductive Violation where
  /-- Step 1: an unassigned opcode. -/
  | opcode
  /-- Step 3: a tag that R88, R203 or R206 does not permit. -/
  | tag
  /-- Step 4: token bits (R77). -/
  | token
  /-- Step 4: the guard (R80). -/
  | guard
  /-- Step 4: an operand code (R78, R79, R82, R83 or the entry). -/
  | operand
  /-- Step 4: a modifier value. -/
  | modifier
  /-- Step 4: a nonzero reserved bit (R86). -/
  | reserved
  deriving DecidableEq, Repr

/-- The first failed check. -/
def firstBad : List (Bool × Violation) → Option Violation
  | [] => none
  | (ok, v) :: r => if ok then firstBad r else some v

/-- Role tags as a set: bit 0 L, 1 C, 2 S, 3 A. -/
abbrev Tags := BitVec 4
def tagsALCS : Tags := 0b1111#4
def tagsLCS : Tags := 0b0111#4
def tagsL : Tags := 0b0001#4
def tagsC : Tags := 0b0010#4
def tagsS : Tags := 0b0100#4
def tagsLS : Tags := 0b0101#4

/-- The tag is one of the set (R88). -/
def tagIn (t : Tags) (role : BitVec 2) : Bool := bitAt t role.toNat

/-- The token bits a tag may carry (R76, R77). -/
def tokOk (role : BitVec 2) (tok : BitVec 4) : Bool :=
  if role = 0b01#2 then true
  else if role = 0b11#2 then tok == 0
  else field tok 0 2 == 0#2

/-- The guard's own rule (R80): GE clear leaves GP and GI zero, and an A tag carries no guard. -/
def guardOk (role : BitVec 2) (g : BitVec 5) : Bool :=
  if bitAt g 4 then role != 0b11#2 else g == 0

/-- Codes 0 to 31: s0 to s31 (R78). -/
def isScalar (x : BitVec 6) : Bool := x.toNat < 32
/-- Codes 32 to 47: q0 to q15. -/
def isQ (x : BitVec 6) : Bool := 32 ≤ x.toNat && x.toNat < 48
/-- Codes 48 to 55: p0 to p7. -/
def isPred (x : BitVec 6) : Bool := 48 ≤ x.toNat && x.toNat < 56
/-- Codes 56 to 59: l0 to l3. -/
def isLoop (x : BitVec 6) : Bool := 56 ≤ x.toNat && x.toNat < 60
/-- Code 62: the immediate (R79). -/
def isImm (x : BitVec 6) : Bool := x == 62
/-- A scalar source that admits no immediate: 0 to 31, 56 to 59, 61. -/
def isSrcNoImm (x : BitVec 6) : Bool := isScalar x || isLoop x || x == 61
/-- A scalar source position of class 00 (R101). -/
def isSrc (x : BitVec 6) : Bool := isSrcNoImm x || isImm x
/-- A source position of class 01 (R129). -/
def isVSrc (x : BitVec 6) : Bool := x.toNat < 48 || (56 ≤ x.toNat && x.toNat < 63)
/-- A store's data or an index: 0 to 31, 56 to 59 (R161). -/
def isScalarLoop (x : BitVec 6) : Bool := isScalar x || isLoop x

/-- How many of the positions hold code 62. -/
def immCount (l : List (BitVec 6)) : Nat := l.countP isImm

/-- At most one position holds code 62, and an immediate field that no position takes is zero (R79, R86). -/
def immRule {n : Nat} (l : List (BitVec 6)) (imm : BitVec n) : Bool :=
  immCount l == 1 || (immCount l == 0 && imm == 0)

/-- The checks common to every format. -/
def commonChecks (t : Tags) (role : BitVec 2) (tok : BitVec 4) (g : BitVec 5) : List (Bool × Violation) :=
  [(tagIn t role, .tag), (tokOk role tok, .token), (guardOk role g, .guard)]

/-- Format S: tags, operand rule, modifier rule, immediate rule. -/
def checkS (t : Tags) (w : WordS) (op md im : Bool) : Option Violation :=
  firstBad (commonChecks t w.role w.tok w.guard ++ [(op, .operand), (md, .modifier), (im, .reserved)])

/-- Every field of format S below the tokens is zero but the guard (R115, R123, R124). -/
def checkSBare (t : Tags) (w : WordS) : Option Violation :=
  checkS t w (w.d == 0 && w.a == 0 && w.b == 0) (w.mod == 0) (w.imm == 0)

/-- A two-operand integer instruction (R101, R103) with the modifier rule `md`. -/
def checkS2 (w : WordS) (md : Bool) : Option Violation :=
  checkS tagsLCS w (isScalar w.d && isSrc w.a && isSrc w.b && immCount [w.a, w.b] ≤ 1) md (immRule [w.a, w.b] w.imm)

/-- A one-operand integer instruction: b is unused (R103). -/
def checkS1 (w : WordS) (md : Bool) : Option Violation :=
  checkS tagsLCS w (isScalar w.d && isSrc w.a && w.b == 0) md (immRule [w.a] w.imm)

/-- The modifiers of R104: `.w` in mod[48]; saturation in mod[50:49] where the instruction accepts it. -/
def modW (sat : Bool) (m : BitVec 9) : Bool :=
  field m 3 6 == 0#6 && (if sat then field m 1 2 != 0b11#2 else field m 1 2 == 0#2)

/-- The .try field of mod: TRY mod[56], TP mod[55:53], zero where TRY is 0 (R120); mod[52:49] zero. -/
def modTry (m : BitVec 9) : Bool := field m 1 4 == 0#4 && (bitAt m 8 || field m 5 3 == 0#3)

/-- The user specials of R111. -/
def isUserSpecial (n : BitVec 9) : Bool := n.toNat ≤ 0x11

/-- The roles (as tags) that may write a user special with MTS (R111). -/
def mtsTags (n : BitVec 9) : Tags :=
  if n = 0x0B#9 then tagsLCS else if n = 0x0C#9 then tagsC else if n = 0x0D#9 then tagsLCS
  else if n = 0x0E#9 then tagsC else if n = 0x0F#9 then tagsS else if n = 0x11#9 then tagsC else 0

/-- The privileged specials of R351. -/
def isPrivSpecial (n : BitVec 9) : Bool := 0x40 ≤ n.toNat && n.toNat ≤ 0x4F

/-- Specials that SWR may write (R111, R351): those that are not RO. -/
def swrWritable (n : BitVec 9) : Bool :=
  mtsTags n != 0 || [0x41#9, 0x42#9, 0x43#9, 0x44#9, 0x46#9, 0x48#9, 0x49#9, 0x4A#9, 0x4E#9, 0x4F#9].contains n

/-- Format B (R84). -/
def checkB (t : Tags) (w : WordB) (op md cnt : Bool) : Option Violation :=
  firstBad (commonChecks t w.role w.tok w.guard ++
    [(op, .operand), (md, .modifier), (w.rsvd == 0 && cnt, .reserved)])

/-- The keep bit of an operand that is not a q-register is zero (R82). -/
def keepOk (x : BitVec 6) (k : BitVec 1) : Bool := k == 0 || isQ x

/-- Format V (R82, R129): `d` the destination rule, `src` the operand rule, `ty` and `rm` the type and rounding rules,
`im` the immediate rule. -/
def checkV (w : WordV) (d src ty rm im : Bool) : Option Violation :=
  firstBad (commonChecks tagsC w.role w.tok w.guard ++
    [(d && src && w.lm.toNat < 32 && keepOk w.a w.ka && keepOk w.b w.kb && keepOk w.c w.kc, .operand),
     (ty && rm, .modifier), (im, .reserved)])

/-- The broadcast immediate of format V: code 62 at most once, bits [33:32] zero; zero without it (R79, R129). -/
def immV (l : List (BitVec 6)) (imm : BitVec 34) : Bool := immRule l imm && field imm 32 2 == 0#2

/-- A lane instruction with a q-register destination. -/
def checkV3 (w : WordV) (types : List (BitVec 5)) (rm : Bool) : Option Violation :=
  checkV w (isQ w.d) (isVSrc w.a && isVSrc w.b && isVSrc w.c && immCount [w.a, w.b, w.c] ≤ 1) (types.contains w.type) rm
    (immV [w.a, w.b, w.c] w.imm)
def checkV2 (w : WordV) (types : List (BitVec 5)) (rm : Bool) : Option Violation :=
  checkV w (isQ w.d) (isVSrc w.a && isVSrc w.b && w.c == 0 && immCount [w.a, w.b] ≤ 1) (types.contains w.type) rm
    (immV [w.a, w.b] w.imm)
def checkV1 (w : WordV) (types : List (BitVec 5)) (rm : Bool) : Option Violation :=
  checkV w (isQ w.d) (isVSrc w.a && w.b == 0 && w.c == 0) (types.contains w.type) rm (immV [w.a] w.imm)

/-- A source that admits no immediate, in an entry that takes fields of its own from imm34 (R129). -/
def isVSrcOwn (x : BitVec 6) : Bool := isVSrc x && !isImm x

/-- The rounding codes of R55. -/
def rmOk (rm : BitVec 3) : Bool := rm.toNat ≤ 4

/-- The element codes of VCVT and of copy conversion 1 (R145, R256). -/
def cvtCodes : List (BitVec 5) := [0, 1, 2, 4, 5, 6, 8, 9, 10, 11, 12]

/-- A code of R151 paired with its type. -/
def redPair (op : BitVec 4) (ty : BitVec 5) : Bool :=
  if op.toNat ≤ 2 then ty == 8 else if op.toNat ≤ 5 then ty == 2 || ty == 6 else op.toNat ≤ 8 && ty == 6

/-- Format M (R83). -/
def checkM (t : Tags) (w : WordM) (op md im : Bool) : Option Violation :=
  firstBad (commonChecks t w.role w.tok w.guard ++ [(op, .operand), (md, .modifier), (im, .reserved)])

/-- Width, order, scope and cache are zero. -/
def plainM (w : WordM) : Bool := w.width == 0 && w.order == 0 && w.scope == 0 && w.cache == 0

/-- The order and scope fields against a row of R163: a relaxed access has scope 0, an ordered one a scope of the set. -/
def orderOk (orders scopes : BitVec 4) (w : WordM) : Bool :=
  bitAt orders w.order.toNat && (if w.order = 0 then w.scope == 0 else bitAt scopes w.scope.toNat)

/-- A load of R163: data by width (R161), base, index; widths, orders and scopes of its row. -/
def checkLoad (t : Tags) (w : WordM) (widths : BitVec 8) (orders scopes : BitVec 4) (caches : Bool) : Option Violation :=
  checkM t w
    ((if w.width = 4 then isQ w.data else isScalar w.data) && isScalar w.base && isScalarLoop w.index)
    (bitAt widths w.width.toNat && orderOk orders scopes w && (if caches then w.cache != 3 else w.cache == 0)) true
/-- A store of R163. -/
def checkStore (t : Tags) (w : WordM) (widths : BitVec 8) (orders scopes : BitVec 4) (caches : Bool) : Option Violation :=
  checkM t w
    ((if w.width = 4 then isQ w.data else isSrcNoImm w.data) && isScalar w.base && isScalarLoop w.index)
    (bitAt widths w.width.toNat && orderOk orders scopes w && (if caches then w.cache != 3 else w.cache == 0)) true

/-- An atomic (R172, R173): OP imm48[47:44], RET [43], rsvd [42:32]. -/
def checkAtomic (w : WordM) (scopes : BitVec 4) : Option Violation :=
  let op := (field w.imm 44 4).toNat
  let ret := bitAt w.imm 43
  checkM tagsLS w
    (isScalar w.data && isScalar w.base && isScalarLoop w.index && (w.data != 0 || !ret) &&
      (op != 10 || (1 ≤ w.data.toNat && w.data.toNat ≤ 30)))
    ((w.width == 2 || w.width == 3) && op ≤ 11 && (op != 1 || w.width == 2) && (op != 10 || ret) &&
      orderOk 0b1111 scopes w && w.cache == 0)
    (field w.imm 32 11 == 0#11)

/-- TRY imm48[47] and TP imm48[46:44], zero where TRY is 0 (R207). -/
def tryM (w : WordM) : Bool := bitAt w.imm 47 || field w.imm 44 3 == 0#3

/-- A circular-buffer or deque instruction (R209): PEER imm48[40], n imm48[7:0] when index is 0. -/
def checkObj (w : WordM) (hasN : Bool) (tp : Bool) : Option Violation :=
  checkM tagsLCS w (isScalar w.data && isScalar w.base && (if hasN then isScalar w.index else w.index == 0))
    (plainM w && tp)
    (field w.imm 41 3 == 0#3 && field w.imm 8 32 == 0#32 && (field w.imm 0 8 == 0#8 || (hasN && w.index == 0)))

/-- TRY and TP are both zero. -/
def noTryM (w : WordM) : Bool := field w.imm 44 4 == 0#4

/-- Format X (R85): `lo` says which bits of [56:0] the entry takes. -/
def checkX (t : Tags) (w : WordX) (op md lo : Bool) : Option Violation :=
  firstBad (commonChecks t w.role w.tok w.guard ++ [(op, .operand), (md, .modifier), (lo, .reserved)])

/-- TRY [56] and TP [55:53], zero where TRY is 0 (R234, R251). -/
def tryX (w : WordX) : Bool := bitAt w.low 56 || field w.low 53 3 == 0#3

/-- An engine instruction (R251). -/
def checkCpy (t : Tags) (w : WordX) : Option Violation :=
  checkX t w (w.d == 0 && w.b == 0 && isScalar w.a) (tryX w) (field w.low 0 53 == 0#53)

/-- A matrix multiply (R237); code 31 names no type (R49). -/
def checkMma (w : WordX) (zs : Bool) : Option Violation :=
  checkX tagsC w (w.d == 0 && w.b == 0 && isScalar w.a)
    (field w.low 37 2 != 3#2 && (zs || !bitAt w.low 39) && field w.low 40 5 != 31#5)
    (field w.low 24 13 == 0#13 && field w.low 0 12 == 0#12)

/-- SRD and SWR (R353): NO [56:48], SELF [47], TROLE [46:45], [40:0] zero. -/
def spcOk (w : WordX) : Bool :=
  let no := field w.low 48 9
  (isUserSpecial no || isPrivSpecial no) &&
    (if no = 0x06#9 ∨ no = 0x0B#9 then field w.low 45 2 != 3#2 else field w.low 45 2 == 0#2)

/-- OSEQ and OWT (R304, R305): order relaxed or acquire, with the scopes of an acquire. -/
def oOrder (w : WordM) : Bool :=
  w.width == 0 && w.cache == 0 &&
    ((w.order == 0 && w.scope == 0) || (w.order == 1 && (w.scope == 2 || w.scope == 3)))

/-- The first check of R89 (steps 1, 3 and 4) that a word fails. -/
def violation : Instr → Option Violation
  | .unassignedOpcode _ => some .opcode
  | .hint _ w => firstBad [(tokOk w.role w.tok, .token)]
  -- class 00
  | .nop w | .halt w | .qpt w => checkSBare tagsALCS w
  | .ret w => checkSBare tagsLCS w
  | .br w => checkB tagsALCS w (w.cond == 0) (w.mod == 0) (w.count == 0)
  | .brp w => checkB tagsALCS w (isPred w.cond) (field w.mod 1 8 == 0#8) (w.count == 0)
  | .call w => checkB tagsLCS w (w.cond == 0) (w.mod == 0) (w.count == 0)
  | .loop w => checkB tagsALCS w (isScalarLoop w.cond || isImm w.cond) (field w.mod 2 7 == 0#7) true
  | .next w => checkB tagsALCS w (w.cond == 0) (field w.mod 2 7 == 0#7) (w.count == 0)
  | .bqs w => checkS tagsLCS w (w.d == 0 && isPred w.a && w.b == 0) (modTry w.mod) (w.imm == 0)
  | .bqr w => checkS tagsLCS w (isPred w.d && w.a == 0 && w.b == 0) (modTry w.mod && !bitAt w.mod 0) (w.imm == 0)
  | .waitc w => checkS tagsALCS w (w.d == 0 && isSrc w.a && w.b == 0) (modTry w.mod) (immRule [w.a] w.imm)
  | .yld w => checkS tagsALCS w (w.d == 0 && isSrc w.a && w.b == 0) (w.mod == 0) (immRule [w.a] w.imm)
  | .trap w | .bkpt w =>
    checkS tagsALCS w (w.d == 0 && w.a == 0 && w.b == 0) (w.mod == 0) (field w.imm 16 32 == 0#32)
  | .ldp w =>
    checkS tagsLCS w (isScalar w.d && isSrcNoImm w.a && w.b == 0) (field w.mod 3 6 == 0#6) (field w.imm 32 8 == 0#8)
  | .add w | .sub w | .mul w => checkS2 w (modW true w.mod)
  | .shl w | .shr w | .sra w | .rotl w => checkS2 w (modW false w.mod)
  | .mulh w | .mulhn w | .div w | .divn w | .rem w | .remn w | .and w | .or w | .xor w | .andn w | .orn w | .min w
  | .max w | .minn w | .maxn w => checkS2 w (w.mod == 0)
  | .clz w | .ctz w | .popc w | .brev w | .bswap w => checkS1 w (w.mod == 0)
  | .sext w | .zext w => checkS1 w (field w.mod 2 7 == 0#7 && field w.mod 0 2 != 3#2)
  | .bfx w =>
    checkS tagsLCS w (isScalar w.d && isSrcNoImm w.a && w.b == 0)
      (field w.mod 1 8 == 0#8 && field w.imm 6 7 != 0#7 && (field w.imm 0 6).toNat + (field w.imm 6 7).toNat ≤ 64)
      (field w.imm 13 35 == 0#35)
  | .bfi w =>
    checkS tagsLCS w (isScalar w.d && isSrcNoImm w.a && isSrcNoImm w.b)
      (w.mod == 0 && field w.imm 6 7 != 0#7 && (field w.imm 0 6).toNat + (field w.imm 6 7).toNat ≤ 64)
      (field w.imm 13 35 == 0#35)
  | .sel w => checkS2 w (field w.mod 4 5 == 0#5)
  | .lim w => checkS tagsLCS w (isScalar w.d && w.a == 0 && w.b == 0) (w.mod == 0) true
  | .limh w => checkS tagsLCS w (isScalar w.d && isSrcNoImm w.a && w.b == 0) (w.mod == 0) (field w.imm 16 32 == 0#32)
  | .lea w => checkS tagsLCS w (isScalar w.d && isSrcNoImm w.a && isSrcNoImm w.b) (field w.mod 3 6 == 0#6) true
  | .cmp w =>
    checkS tagsLCS w ((isScalar w.d || isPred w.d) && isSrc w.a && isSrc w.b && immCount [w.a, w.b] ≤ 1)
      (field w.mod 4 5 == 0#5 && (field w.mod 0 4).toNat ≤ 10) (immRule [w.a, w.b] w.imm)
  | .plog w => checkS tagsLCS w (isPred w.d && isPred w.a && isPred w.b) (field w.mod 4 5 == 0#5) (w.imm == 0)
  | .pmov w =>
    checkS tagsLCS w
      (w.b == 0 &&
        (if bitAt w.mod 0 then (isScalar w.d && w.a == 0) || (w.d == 48 && isSrc w.a)
         else (isPred w.d && isSrc w.a) || (isScalar w.d && isPred w.a)))
      (field w.mod 1 8 == 0#8) (immRule [w.a] w.imm)
  | .mfs w => checkS tagsLCS w (isScalar w.d && w.a == 0 && w.b == 0) (isUserSpecial w.mod) (w.imm == 0)
  | .mts w =>
    checkS tagsLCS w (w.d == 0 && isSrc w.a && w.b == 0) (tagIn (mtsTags w.mod) w.role) (immRule [w.a] w.imm)
  -- class 01
  | .vadd w | .vsub w | .vmul w | .vdiv w => checkV2 w [8] (rmOk w.rm)
  | .vsqrt w => checkV1 w [8] (rmOk w.rm)
  | .vfma w | .vfms w | .vfnma w => checkV3 w [8] (rmOk w.rm)
  | .vmin w | .vmax w => checkV2 w [8] (w.rm == 0)
  | .vabs w | .vneg w | .vrcp w | .vrsq w | .vexp2 w | .vlog2 w => checkV1 w [8] (w.rm == 0)
  | .viadd w | .visub w | .vimul w | .vimulh w | .vsadd w | .vssub w | .vimin w | .vimax w => checkV2 w [2, 6] (w.rm == 0)
  | .vimad w => checkV3 w [2, 6] (w.rm == 0)
  | .viabs w => checkV1 w [2] (w.rm == 0)
  | .vshl w | .vshr w | .vsra w | .vand w | .vor w | .vxor w | .vperm w => checkV2 w [6] (w.rm == 0)
  | .vpopc w | .vclz w | .vmov w | .vcmpr w | .vexpd w => checkV1 w [6] (w.rm == 0)
  | .vcmp w =>
    checkV w (isScalar w.d) (isVSrcOwn w.a && isVSrcOwn w.b && w.c == 0) (w.type == 8 && (field w.imm 0 4).toNat ≤ 7)
      (w.rm == 0) (field w.imm 4 30 == 0#30)
  | .vicmp w =>
    checkV w (isScalar w.d) (isVSrcOwn w.a && isVSrcOwn w.b && w.c == 0)
      ((w.type == 2 || w.type == 6) && (field w.imm 0 4).toNat ≤ 10) (w.rm == 0) (field w.imm 4 30 == 0#30)
  | .vsel w =>
    checkV w (isQ w.d) (isVSrc w.a && isVSrc w.b && isScalar w.c && immCount [w.a, w.b] ≤ 1) (w.type == 6) (w.rm == 0)
      (immV [w.a, w.b] w.imm)
  | .vcvt w =>
    checkV w (isQ w.d) (isVSrcOwn w.a && w.b == 0 && w.c == 0)
      (cvtCodes.contains w.type && cvtCodes.contains (field w.imm 0 5)) (rmOk w.rm) (field w.imm 6 28 == 0#28)
  | .vpack w => checkV2 w [1, 5, 9, 10, 0, 4, 11, 12] (w.rm == 0 && w.imm == 0)
  | .vunpk w =>
    checkV w (isQ w.d) (isVSrcOwn w.a && w.b == 0 && w.c == 0) ([1, 5, 9, 10, 0, 4, 11, 12].contains w.type) (w.rm == 0)
      (field w.imm 1 33 == 0#33)
  | .vqbfp w =>
    checkV w (isQ w.d) (isVSrc w.a && isVSrc w.b && w.c == 0 && immCount [w.a, w.b] ≤ 1 && w.lm == 0)
      (13 ≤ w.type.toNat && w.type.toNat ≤ 29) (rmOk w.rm) (w.imm == 0)
  | .vdqbfp w =>
    checkV w (isQ w.d) (isVSrcOwn w.a && w.b == 0 && w.c == 0) (13 ≤ w.type.toNat && w.type.toNat ≤ 29) (w.rm == 0)
      (field w.imm 1 33 == 0#33)
  | .vins w =>
    checkV w (isQ w.d) (isVSrc w.a && isSrc w.b && isSrc w.c && immCount [w.a, w.b, w.c] ≤ 1) (w.type == 6) (w.rm == 0)
      (immV [w.a, w.b, w.c] w.imm)
  | .vext w =>
    checkV w (isScalar w.d) (isVSrc w.a && isSrc w.b && w.c == 0 && immCount [w.a, w.b] ≤ 1 && w.lm == 0)
      (w.type == 2 || w.type == 6) (w.rm == 0) (immV [w.a, w.b] w.imm)
  | .vrot w =>
    checkV w (isQ w.d) (isVSrc w.a && isSrc w.b && w.c == 0 && immCount [w.a, w.b] ≤ 1) (w.type == 6) (w.rm == 0)
      (immV [w.a, w.b] w.imm)
  | .vred w =>
    checkV w (isScalar w.d) (isVSrcOwn w.a && w.b == 0 && w.c == 0) (redPair (field w.imm 0 4) w.type) (w.rm == 0)
      (field w.imm 4 30 == 0#30)
  | .vscan w =>
    checkV w (isQ w.d) (isVSrcOwn w.a && w.b == 0 && w.c == 0) (redPair (field w.imm 0 4) w.type) (w.rm == 0)
      (field w.imm 5 29 == 0#29)
  | .varg w =>
    checkV w (isScalar w.d) (isVSrcOwn w.a && w.b == 0 && w.c == 0) ([8, 2, 6].contains w.type) (w.rm == 0)
      (field w.imm 1 33 == 0#33)
  -- class 10
  | .ldl w => checkLoad tagsLCS w 0b11111 0b0011 0b0001 false
  | .stl w => checkStore tagsLCS w 0b11111 0b0101 0b0001 false
  | .ldk w => checkLoad tagsL w 0b11111 0b0011 0b0011 false
  | .stk w => checkStore tagsS w 0b11111 0b0101 0b0011 false
  | .ldg w => checkLoad tagsL w 0b11111 0b0111 0b1111 true
  | .stg w => checkStore tagsS w 0b11111 0b0101 0b1111 true
  | .ldf w => checkLoad tagsL w 0b11111 0b0011 0b1100 false
  | .stf w => checkStore tagsS w 0b11111 0b0101 0b1100 false
  | .ldo w => checkLoad tagsL w 0b11100 0b0011 0b1100 false
  | .sto w => checkStore tagsS w 0b11100 0b0101 0b1000 false
  | .ldh w => checkLoad tagsL w 0b11111 0b0011 0b1000 false
  | .sth w => checkStore tagsS w 0b11111 0b0101 0b1000 false
  | .ldlx w =>
    checkM tagsLCS w (isQ w.data && isScalar w.base && isQ w.index)
      (w.width.toNat ≤ 2 && w.order == 0 && w.scope == 0 && w.cache == 0) true
  | .stlx w =>
    checkM tagsLCS w (isQ w.data && isScalar w.base && isQ w.index)
      (w.width.toNat ≤ 2 && orderOk 0b0101 0b0001 w && w.cache == 0) true
  | .pfg w =>
    checkM tagsL w (w.data == 0 && isScalar w.base && isScalarLoop w.index)
      (w.width.toNat ≤ 4 && w.order == 0 && w.scope == 0 && w.cache != 3) true
  | .atl w => checkAtomic w 0b0001
  | .atk w => checkAtomic w 0b0011
  | .atg w => checkAtomic w 0b1111
  | .atf w => checkAtomic w 0b1100
  | .fence w =>
    checkM tagsLCS w (w.data == 0 && w.base == 0 && w.index == 0) (w.width == 0 && w.order != 0 && w.cache == 0)
      (w.imm == 0)
  | .phase w | .wlidl w => checkM tagsLCS w (w.data == 0 && w.base == 0 && w.index == 0) (plainM w) (w.imm == 0)
  | .cbini w => checkObj w false (noTryM w)
  | .cbclm w | .cbtak w => checkObj w true (tryM w)
  | .cbpub w | .cbrel w => checkObj w true (noTryM w)
  | .dqini w => checkObj w false (noTryM w && !bitAt w.imm 40)
  | .dqpsh w => checkObj w false (tryM w && !bitAt w.imm 40)
  | .dqpop w => checkObj w false (!bitAt w.imm 47 && !bitAt w.imm 40)
  | .dqstl w => checkObj w false (!bitAt w.imm 47)
  | .bara w => checkM tagsLCS w (w.data == 0 && w.base == 0 && w.index == 0) (plainM w && tryM w) (field w.imm 4 40 == 0#40)
  | .barw w => checkM tagsLCS w (isScalar w.data && w.base == 0 && w.index == 0) (plainM w && tryM w) (field w.imm 4 40 == 0#40)
  | .bar w => checkM tagsLCS w (isScalar w.data && w.base == 0 && w.index == 0) (plainM w && noTryM w) (field w.imm 4 40 == 0#40)
  | .bidb w =>
    checkM tagsLCS w (w.data == 0 && w.base == 0 && w.index == 0) (plainM w && noTryM w)
      (field w.imm 12 36 == 0#36 && field w.imm 4 4 == 0#4)
  | .bida w => checkM tagsLCS w (w.data == 0 && w.base == 0 && w.index == 0) (plainM w) (w.imm == 0)
  | .qcnt w => checkM tagsLCS w (isScalar w.data && isQ w.base && w.index == 0) (plainM w) (w.imm == 0)
  | .qclr w => checkM tagsLCS w (w.data == 0 && isQ w.base && w.index == 0) (plainM w) (w.imm == 0)
  | .qbnd w =>
    checkM (if bitAt w.imm 16 then tagsS else tagsL) w (isQ w.data && isScalar w.base && w.index == 0) (plainM w)
      (field w.imm 17 31 == 0#31)
  | .tktry w =>
    checkM (if bitAt w.imm 2 then (if field w.imm 0 2 = 0#2 then tagsL else if field w.imm 0 2 = 3#2 then tagsS else tagsC)
            else (if field w.imm 0 2 = 1#2 then tagsL else if field w.imm 0 2 = 2#2 then tagsS else tagsC)) w
      (w.tok == 0 && isPred w.data && w.base == 0 && w.index == 0) (plainM w) (field w.imm 3 45 == 0#45)
  | .wlapp w =>
    checkM tagsLCS w (isQ w.data && isScalar w.base && isQ w.index) (plainM w && tryM w) (field w.imm 0 44 == 0#44)
  | .wltak w =>
    checkM tagsLCS w (isQ w.data && isScalar w.base && w.index == 0)
      (plainM w && tryM w && 1 ≤ (field w.imm 0 7).toNat && (field w.imm 0 7).toNat ≤ 64) (field w.imm 7 37 == 0#37)
  | .trmw w =>
    checkM tagsLCS w (isScalar w.data && w.base == 0 && w.index == 0) (plainM w && tryM w) (field w.imm 0 44 == 0#44)
  | .oseq w =>
    checkM tagsLCS w (isScalar w.data && isScalar w.base && w.index == 0 && (field w.imm 0 2 != 1#2 || w.base == 0))
      (oOrder w && field w.imm 0 2 != 3#2 && (w.order == 0 || field w.imm 0 2 == 0#2) &&
        (!bitAt w.imm 2 || field w.imm 0 2 == 1#2))
      (field w.imm 3 45 == 0#45)
  | .owt w =>
    checkM tagsLCS w (isScalar w.data && isScalar w.base && w.index == 0) (oOrder w && tryM w) (field w.imm 0 44 == 0#44)
  -- class 11
  | .lease w => checkX tagsC w (w.d == 0 && w.a == 0 && w.b == 0) (tryX w) (field w.low 0 53 == 0#53)
  | .ulease w | .wswp w => checkX tagsC w (w.d == 0 && w.a == 0 && w.b == 0) true (w.low == 0)
  | .wload w =>
    checkX tagsC w (w.d == 0 && isScalar w.a && w.b == 0) (field w.low 37 2 != 3#2 && field w.low 40 5 != 31#5)
      (field w.low 45 12 == 0#12 && !bitAt w.low 39 && field w.low 0 37 == 0#37)
  | .ashp w =>
    checkX tagsC w (w.d == 0 && (isScalar w.a || isImm w.a) && w.b == 0) true
      (field w.low 4 53 == 0#53 && (isImm w.a || field w.low 0 4 == 0#4))
  | .mma w | .mmaz w => checkMma w false
  | .mmai w => checkMma w true
  | .epi w =>
    checkX tagsC w (((w.d == 0 && isScalar w.a) || (isQ w.d && w.a == 0)) && w.b == 0) (field w.low 37 2 != 3#2)
      (field w.low 39 5 == 0#5 && field w.low 24 13 == 0#13 && field w.low 0 12 == 0#12)
  | .epicf w => checkX tagsC w (w.d == 0 && isScalar w.a && w.b == 0) true (w.low == 0)
  | .zrd w => checkX tagsC w (isQ w.d && w.a == 0 && w.b == 0) true (field w.low 0 50 == 0#50)
  | .zwr w => checkX tagsC w (w.d == 0 && isQ w.a && w.b == 0) true (field w.low 0 50 == 0#50)
  | .zclr w => checkX tagsC w (w.d == 0 && w.a == 0 && w.b == 0) true (field w.low 0 45 == 0#45)
  | .cpyi w | .gthi w => checkCpy tagsL w
  | .cpyo w | .scto w => checkCpy tagsS w
  | .echk w => checkX tagsLCS w (isScalar w.d && w.a == 0 && w.b == 0) true (field w.low 49 8 == 0#8 && field w.low 0 48 == 0#48)
  | .cvwt w => checkX tagsLCS w (w.d == 0 && isScalar w.a && isScalar w.b) (tryX w) (field w.low 0 47 == 0#47)
  | .cvts w =>
    checkX tagsLCS w (isPred w.d && isScalar w.a && isScalar w.b) (field w.low 53 4 == 0#4) (field w.low 0 47 == 0#47)
  | .cvcl w =>
    checkX tagsLCS w (w.d == 0 && w.a == 0 && isScalar w.b) (field w.low 53 4 == 0#4) (field w.low 0 47 == 0#47)
  | .cvinf w => checkX tagsLCS w (isScalar w.d && isScalar w.a && w.b == 0) true (w.low == 0)
  | .cvtim w => checkX tagsLCS w (isScalar w.d && w.a == 0 && w.b == 0) true (field w.low 49 8 == 0#8 && field w.low 0 48 == 0#48)
  | .mbsnd w => checkX tagsS w (isScalar w.d && isQ w.a && isScalar w.b) (tryX w) (field w.low 0 53 == 0#53)
  | .mbrcv w =>
    checkX tagsL w (isQ w.d && isScalar w.a && w.b == 0 && isScalar (field w.low 51 6))
      (bitAt w.low 50 || field w.low 47 3 == 0#3) (field w.low 0 47 == 0#47)
  | .mbsta w => checkX tagsLCS w (isScalar w.d && isScalar w.a && w.b == 0) true (field w.low 48 9 == 0#9 && field w.low 0 47 == 0#47)
  -- privileged
  | .srd w =>
    checkX tagsLCS w (isScalar w.d && isScalar w.a && w.b == 0 && (!bitAt w.low 47 || w.a == 0)) (spcOk w) (field w.low 0 41 == 0#41)
  | .swr w =>
    checkX tagsLCS w (w.d == 0 && isScalar w.a && isScalar w.b && (!bitAt w.low 47 || w.b == 0))
      (spcOk w && swrWritable (field w.low 48 9)) (field w.low 0 41 == 0#41)
  | .eret w => checkX tagsLCS w (w.d == 0 && isScalar w.a && w.b == 0) (field w.low 48 2 != 3#2) (field w.low 50 7 == 0#7 && field w.low 0 48 == 0#48)
  | .invl w => checkX tagsLCS w (isScalar w.d && isScalar w.a && w.b == 0) true (field w.low 51 6 == 0#6 && field w.low 0 48 == 0#48)
  | .inva w =>
    checkX tagsLCS w (w.d == 0 && isScalar w.a && w.b == 0 && (!bitAt w.low 48 || w.a == 0)) true
      (field w.low 49 8 == 0#8 && field w.low 0 48 == 0#48)
  | .stbw w => checkX tagsLCS w (w.d == 0 && isScalar w.a && isScalar w.b) true (w.low == 0)
  | .stbr w => checkX tagsLCS w (isScalar w.d && w.a == 0 && isScalar w.b) true (w.low == 0)
  | .ctxsv w | .ckpt w => checkX tagsLCS w (isScalar w.d && isScalar w.a && isScalar w.b) true (w.low == 0)
  | .ctxld w => checkX tagsLCS w (w.d == 0 && isScalar w.a && isScalar w.b) true (w.low == 0)
  | .park w | .spare w => checkX tagsLCS w (isScalar w.d && isScalar w.a && w.b == 0) true (w.low == 0)
  | .unpark w | .retire w => checkX tagsLCS w (w.d == 0 && isScalar w.a && w.b == 0) true (w.low == 0)
  | .dbgh w => checkX tagsLCS w (w.d == 0 && isScalar w.a && w.b == 0) true (field w.low 53 4 == 0#4 && field w.low 0 48 == 0#48)
  | .idle w => checkX tagsLCS w (isScalar w.d && isScalar w.a && w.b == 0) (tryX w) (field w.low 0 53 == 0#53)
  -- Sett rows and device rows: R89 is about Vartar words
  | .mbRecv .. | .mbSend .. | .mbStep .. | .mbDone .. | .mbStat .. | .mbVer .. | .settCoreInstruction ..
  | .trapRecordPendingAppend | .loadDataWrite | .storeBufferDrain | .atomicPerform | .clusterMessagePerform
  | .stfAcknowledgement | .fAccessArrival | .ldhCompletion | .completionTimeout | .translationWalk
  | .invalidationApply | .engineCommandBegin | .engineCommandCompletion | .copyFaultFreeze | .frzRelease
  | .arrayCompletionPush | .wloadTileCopy | .wswpExchange | .planeInjection | .arrayRowComplete | .epilogueRow
  | .zDirectExecute | .bandPowerUp | .leaseHandover | .barrierRelease | .phaseBarrierRelease | .selfDeadlock
  | .waitTimeout | .holdOffOverrun | .detectionWave | .slotLoad | .slotAdd | .slotCopy | .slotEmpty | .slotEmptyAdd
  | .slotPassThrough | .endedFlowEmpty | .bestEffortReserve | .bestEffortInject | .bestEffortDeliver | .stoStamp
  | .stampedStoreApply | .stampAcknowledgement | .groupReFormation | .setid | .route | .ginst | .grem | .seq | .key
  | .packetCrcFailure | .linkCrcRetry | .windowViolation | .stepWatchdogExpiry | .kjkill | .openSet | .openClear
  | .settCsrWrite | .queueRegister | .queueClose | .tailWrite | .claim | .publ | .admission | .leaderHandOver
  | .stagingTransfer | .kernelIssue | .kernelAging | .preEmption | .storageClaim | .harvestPlacement | .revocation
  | .harvestUnpark | .kernelEnd | .seedWrite | .winWrite | .wlimmaxWrite | .passThroughWrite
  | .specialRegisterWrite | .residueMismatch | .uncorrectableMemoryError | .scrub | .schedulerDivergence
  | .schedulerReload | .controllerHandOver | .clockLoss | .stackFailure | .timeSlew | .offsetPublication
  | .bitmapFreeze | .checkpointPageCopy | .copyOnWrite | .checkpointComplete | .checkpointFailure
  | .thawDeferralEnd | .limiterWindow | .ballastLimitExpiry | .droopAlarm | .droopRecovery | .overCurrent
  | .thermalTrip | .coarseCapWindow | .cadreqUpdate | .powerTableWrite | .partitionDescriptorWrite
  | .standbyRequest | .standbyExit | .debugModeEnter | .debugModeExit | .debugMailboxSrd | .debugMailboxSwr
  | .debugMailboxDbgh | .powerOnReset | .portReset | .linkDown | .vfFlr | .pfFlr | .waitcClockReached | .yieldEnd
  | .idleCycleLimit | .overCurrentClear | .thermalTripClear | .linkUp | .boundaryScan | .hostWrite => none

/-- The opcodes 0x380 to 0x38F (R87): step 2 of R89. -/
def isPrivileged (i : Instr) : Bool :=
  match encodeWord i with
  | some w => 0x380 ≤ opcOf w && opcOf w ≤ 0x38F
  | none => false

/-- The tag, tokens and guard of a Vartar instruction (R76, R80); a hint has no guard (R90). -/
structure Head where
  role : BitVec 2
  tok : BitVec 4
  guard : BitVec 5
  deriving DecidableEq, Repr

/-- The head of a Vartar word: its top six bits and, but for a hint, the guard. -/
def headOf (i : Instr) : Option Head :=
  match i with
  | .hint _ w => some ⟨w.role, w.tok, 0⟩
  | _ =>
    match encodeWord i with
    | some w => some ⟨field w 94 2, field w 90 4, field w 57 5⟩
    | none => none

end Sys2Proof
end

