-- ==== Sys2Proof/Machine/Flags.lean ====
section
/-! DEFINITION. Numbers (03_numbers.md): the element formats, the one rounding procedure with its sticky flags (R56, R57,
R58, R72), conversions (R62, R63), stochastic rounding (R59, R60), block floating point (R64 to R69) and the array's
accumulation (R70, R71). Every exact value is an integer times a power of two, or a fraction of naturals, and is narrowed
once at the end. -/

namespace Sys2Proof.Machine

/-- Sticky flags (R72): bit 0 NV, 1 OF, 2 UF, 3 NX, 4 SA. -/
abbrev Flags := BitVec 5
def fNV : Flags := 0b00001#5
def fOF : Flags := 0b00010#5
def fUF : Flags := 0b00100#5
def fNX : Flags := 0b01000#5
def fSA : Flags := 0b10000#5

/-- A flag set when a condition holds. -/
def flagIf (b : Bool) (f : Flags) : Flags := if b then f else 0

/-- The rounding modes of R55, and round to nearest with ties away from zero, which only the Sett cores use (R308). -/
inductive RMode where
  | rne | rtz | rup | rdn | sr | rmm
  deriving DecidableEq, Repr, Inhabited

/-- The code of R55; 0b101 to 0b111 are refused at decode. -/
def RMode.ofCode (c : BitVec 3) : RMode :=
  if c = 1 then .rtz else if c = 2 then .rup else if c = 3 then .rdn else if c = 4 then .sr else .rne

/-- One step of a lane LFSR (R59). -/
def lfsrStep (v : W32) : W32 := if bitAt v 31 then (v <<< 1) ^^^ 0x00400007#32 else v <<< 1

/-- The seed of lane `i` (R61). -/
def lfsrSeed (seed : W64) (i : Nat) : W32 :=
  let v := field seed 0 32 ^^^ field seed 32 32 ^^^ BitVec.ofNat 32 (0x9E3779B9 * (i + 1))
  if v = 0 then 1 else v

/-- A floating-point format (R51, R52): widths, bias, the exponent and integer significand of the largest finite value,
whether infinities exist, the canonical NaN. -/
structure Fmt where
  ebits : Nat
  fbits : Nat
  bias : Int
  emax : Int
  maxK : Nat
  hasInf : Bool
  qnan : Nat
  deriving DecidableEq, Repr

def Fmt.width (f : Fmt) : Nat := 1 + f.ebits + f.fbits
def Fmt.emin (f : Fmt) : Int := 1 - f.bias

def fmtF32 : Fmt := ⟨8, 23, 127, 127, 2 ^ 24 - 1, true, 0x7FC00000⟩
def fmtF16 : Fmt := ⟨5, 10, 15, 15, 2 ^ 11 - 1, true, 0x7E00⟩
def fmtBF16 : Fmt := ⟨8, 7, 127, 127, 2 ^ 8 - 1, true, 0x7FC0⟩
def fmtE4M3 : Fmt := ⟨4, 3, 7, 8, 14, false, 0x7F⟩
def fmtE5M2 : Fmt := ⟨5, 2, 15, 15, 7, true, 0x7E⟩
/-- binary64, which only the D extension of the Sett cores uses (R308). -/
def fmtF64 : Fmt := ⟨11, 52, 1023, 1023, 2 ^ 53 - 1, true, 0x7FF8000000000000⟩

/-- A decoded value: m · 2^e with m > 0 in `fin`. -/
inductive FVal where
  | nan (signalling : Bool)
  | inf (neg : Bool)
  | zero (neg : Bool)
  | fin (neg : Bool) (m : Nat) (e : Int)
  deriving DecidableEq, Repr

/-- The value of an element's bits (R51, R52). -/
def Fmt.unpack (f : Fmt) (x : Nat) : FVal :=
  let neg := x.testBit (f.ebits + f.fbits)
  let ex := (x >>> f.fbits) % 2 ^ f.ebits
  let fr := x % 2 ^ f.fbits
  if ex = 2 ^ f.ebits - 1 ∧ f.hasInf then
    if fr = 0 then .inf neg else .nan (!fr.testBit (f.fbits - 1))
  else if ¬ f.hasInf ∧ ex = 2 ^ f.ebits - 1 ∧ fr = 2 ^ f.fbits - 1 then .nan false
  else if ex = 0 then
    if fr = 0 then .zero neg else .fin neg fr (f.emin - f.fbits)
  else .fin neg (fr + 2 ^ f.fbits) ((ex : Int) - f.bias - f.fbits)

/-- The sign bit in place. -/
def Fmt.signBit (f : Fmt) (neg : Bool) : Nat := if neg then 2 ^ (f.ebits + f.fbits) else 0
/-- A signed zero. -/
def Fmt.zero (f : Fmt) (neg : Bool) : Nat := f.signBit neg
/-- The largest finite value with a sign. -/
def Fmt.maxFin (f : Fmt) (neg : Bool) : Nat :=
  f.signBit neg + ((f.emax + f.bias).toNat <<< f.fbits) + (f.maxK - 2 ^ f.fbits)
/-- An infinity, or the canonical NaN where the format has none (R57). -/
def Fmt.inf (f : Fmt) (neg : Bool) : Nat :=
  if f.hasInf then f.signBit neg + ((2 ^ f.ebits - 1) <<< f.fbits) else f.qnan

/-- A non-negative real as a fixed-point number with 33 fractional bits and whether anything lies below them. -/
structure Fix where
  n : Nat
  sticky : Bool
  deriving DecidableEq, Repr

/-- The integer part. -/
def Fix.floor (x : Fix) : Nat := x.n >>> 33
/-- The value is an integer. -/
def Fix.exact (x : Fix) : Bool := x.n % 2 ^ 33 == 0 && !x.sticky

/-- num/den · 2^sh as a `Fix`. -/
def fixOf (num den : Nat) (sh : Int) : Fix :=
  let s := sh + 33
  let a := if 0 ≤ s then num * 2 ^ s.toNat else num
  let b := if 0 ≤ s then den else den * 2 ^ (-s).toNat
  ⟨a / b, a % b != 0⟩

/-- The integer chosen from a magnitude (R55, R60); `u` is the lane's new LFSR state, read only in mode SR. -/
def roundInt (mode : RMode) (neg : Bool) (x : Fix) (u : W32) : Nat :=
  let k := x.floor
  let f := x.n % 2 ^ 33
  let up : Bool :=
    match mode with
    | .rne => f > 2 ^ 32 || (f == 2 ^ 32 && (x.sticky || k % 2 == 1))
    | .rtz => false
    | .rup => !neg && !x.exact
    | .rdn => neg && !x.exact
    | .sr => f / 2 + u.toNat ≥ 2 ^ 32
    | .rmm => f ≥ 2 ^ 32
  if up then k + 1 else k

/-- floor(log2(num/den)) of a positive fraction. -/
def floorLog2 (num den : Nat) : Int :=
  let t : Int := (num.log2 : Int) - den.log2
  let ge : Bool := if 0 ≤ t then den * 2 ^ t.toNat ≤ num else den ≤ num * 2 ^ (-t).toNat
  if ge then t else t - 1

/-- A result with the flags it sets. -/
structure Res where
  bits : Nat
  flags : Flags
  deriving DecidableEq, Repr

/-- The result of an overflow (R57). -/
def overflowRes (f : Fmt) (neg : Bool) (mode : RMode) (sat : Bool) : Res :=
  let toMax : Bool :=
    match mode with
    | .rne | .sr | .rmm => false
    | .rtz => true
    | .rup => neg
    | .rdn => !neg
  if toMax then ⟨f.maxFin neg, fOF ||| fNX⟩
  else if sat then ⟨f.maxFin neg, fOF ||| fNX ||| fSA⟩
  else ⟨f.inf neg, fOF ||| fNX⟩

/-- Steps 4 to the end of R56, from the spacing exponent q and n = a/ulp. -/
def packRounded (f : Fmt) (mode : RMode) (sat : Bool) (neg : Bool) (q : Int) (n : Fix) (u : W32) : Res :=
  let k := roundInt mode neg n u
  if q > f.emax ∨ (q = f.emax ∧ k > f.maxK) ∨ (q = f.emax - 1 ∧ k = 2 ^ (f.fbits + 1) ∧ f.maxK < 2 ^ f.fbits) then
    overflowRes f neg mode sat
  else
    let inexact := !n.exact
    let tiny := q == f.emin && k < 2 ^ f.fbits
    let bits :=
      if k < 2 ^ f.fbits then k
      else if k = 2 ^ (f.fbits + 1) then (q + 1 + f.bias).toNat <<< f.fbits
      else ((q + f.bias).toNat <<< f.fbits) + (k - 2 ^ f.fbits)
    ⟨f.signBit neg + bits, flagIf inexact fNX ||| flagIf (inexact && tiny) fUF⟩

/-- The rounding procedure of R56 for the positive fraction num/den · 2^k with a sign. -/
def roundFrac (f : Fmt) (mode : RMode) (sat : Bool) (neg : Bool) (num den : Nat) (k : Int) (u : W32) : Res :=
  let e := floorLog2 num den + k
  let q := max e f.emin
  packRounded f mode sat neg q (fixOf num den (k - q + f.fbits)) u

/-- R56 for v · 2^k; an exact zero is given the sign `zneg`. -/
def roundDyadic (f : Fmt) (mode : RMode) (sat : Bool) (zneg : Bool) (v : Int) (k : Int) (u : W32) : Res :=
  if v = 0 then ⟨f.zero zneg, 0⟩ else roundFrac f mode sat (v < 0) v.natAbs 1 k u

/-- A signed significand. -/
def sgn (neg : Bool) (m : Nat) : Int := if neg then -(m : Int) else m

/-- The exact sum of two dyadics: significand and exponent. -/
def addDyadic (v1 k1 v2 k2 : Int) : Int × Int :=
  let k := min k1 k2
  (v1 * 2 ^ (k1 - k).toNat + v2 * 2 ^ (k2 - k).toNat, k)

/-- The significand and exponent of a finite value; zero for the rest. -/
def FVal.dyadic : FVal → Int × Int
  | .fin s m e => (sgn s m, e)
  | _ => (0, 0)

def FVal.isNan : FVal → Bool
  | .nan _ => true
  | _ => false
def FVal.isSnan : FVal → Bool
  | .nan s => s
  | _ => false
def FVal.neg : FVal → Bool
  | .nan _ => false
  | .inf s | .zero s | .fin s _ _ => s
def FVal.isZero : FVal → Bool
  | .zero _ => true
  | _ => false
def FVal.isInf : FVal → Bool
  | .inf _ => true
  | _ => false
/-- The value with its sign inverted. -/
def FVal.negate : FVal → FVal
  | .nan s => .nan s
  | .inf s => .inf (!s)
  | .zero s => .zero (!s)
  | .fin s m e => .fin (!s) m e

/-- The canonical NaN, NV when invalid (R52, R58). -/
def nanRes (f : Fmt) (nv : Bool) : Res := ⟨f.qnan, flagIf nv fNV⟩

/-- The sign of an exact zero sum of two values (R52). -/
def zeroSumSign (mode : RMode) (n1 n2 : Bool) : Bool := if n1 == n2 then n1 else mode == .rdn

/-- a + b (R56, R58). -/
def fAdd (f : Fmt) (mode : RMode) (a b : FVal) (u : W32) : Res :=
  if a.isNan || b.isNan then nanRes f (a.isSnan || b.isSnan)
  else match a, b with
    | .inf s, .inf t => if s = t then ⟨f.inf s, 0⟩ else nanRes f true
    | .inf s, _ => ⟨f.inf s, 0⟩
    | _, .inf s => ⟨f.inf s, 0⟩
    | _, _ =>
      let (v1, k1) := a.dyadic
      let (v2, k2) := b.dyadic
      let r := if v1 = 0 then (v2, k2) else if v2 = 0 then (v1, k1) else addDyadic v1 k1 v2 k2
      roundDyadic f mode false (zeroSumSign mode a.neg b.neg) r.1 r.2 u

/-- a · b. -/
def fMul (f : Fmt) (mode : RMode) (a b : FVal) (u : W32) : Res :=
  let s := a.neg != b.neg
  if a.isNan || b.isNan then nanRes f (a.isSnan || b.isSnan)
  else if (a.isInf && b.isZero) || (a.isZero && b.isInf) then nanRes f true
  else if a.isInf || b.isInf then ⟨f.inf s, 0⟩
  else
    let (v1, k1) := a.dyadic
    let (v2, k2) := b.dyadic
    roundDyadic f mode false s (v1 * v2) (k1 + k2) u

/-- a · b + c, rounded once. 0 × ∞ is invalid also beside a quiet NaN c (R58; log 13). -/
def fFma (f : Fmt) (mode : RMode) (a b c : FVal) (u : W32) : Res :=
  let s := a.neg != b.neg
  let bad := (a.isInf && b.isZero) || (a.isZero && b.isInf)
  if a.isNan || b.isNan || c.isNan then nanRes f (a.isSnan || b.isSnan || c.isSnan || bad)
  else if bad then nanRes f true
  else if a.isInf || b.isInf then
    match c with
    | .inf t => if s = t then ⟨f.inf s, 0⟩ else nanRes f true
    | _ => ⟨f.inf s, 0⟩
  else match c with
    | .inf t => ⟨f.inf t, 0⟩
    | _ =>
      let (v1, k1) := a.dyadic
      let (v2, k2) := b.dyadic
      let (v3, k3) := c.dyadic
      let p := v1 * v2
      let r := if p = 0 then (v3, k3) else if v3 = 0 then (p, k1 + k2) else addDyadic p (k1 + k2) v3 k3
      roundDyadic f mode false (zeroSumSign mode s c.neg) r.1 r.2 u

/-- a / b; a finite nonzero value over zero is an infinity with OF (R58). -/
def fDiv (f : Fmt) (mode : RMode) (a b : FVal) (u : W32) : Res :=
  let s := a.neg != b.neg
  if a.isNan || b.isNan then nanRes f (a.isSnan || b.isSnan)
  else match a, b with
    | .inf _, .inf _ => nanRes f true
    | .zero _, .zero _ => nanRes f true
    | .inf _, _ => ⟨f.inf s, 0⟩
    | _, .inf _ => ⟨f.zero s, 0⟩
    | .zero _, _ => ⟨f.zero s, 0⟩
    | _, .zero _ => ⟨f.inf s, fOF⟩
    | _, _ =>
      let (v1, k1) := a.dyadic
      let (v2, k2) := b.dyadic
      roundFrac f mode false s v1.natAbs v2.natAbs (k1 - k2) u

/-- floor(√n), bit by bit from bit `i`. -/
def isqrtGo (n : Nat) : Nat → Nat → Nat
  | 0, r => if (r + 1) * (r + 1) ≤ n then r + 1 else r
  | i + 1, r => if (r + 2 ^ (i + 1)) * (r + 2 ^ (i + 1)) ≤ n then isqrtGo n i (r + 2 ^ (i + 1)) else isqrtGo n i r

/-- floor(√n). -/
def isqrt (n : Nat) : Nat := isqrtGo n (n.log2 / 2 + 1) 0

/-- √a (R58: below −0 invalid; √−0 is −0). -/
def fSqrt (f : Fmt) (mode : RMode) (a : FVal) (u : W32) : Res :=
  match a with
  | .nan s => nanRes f s
  | .zero s => ⟨f.zero s, 0⟩
  | .inf s => if s then nanRes f true else ⟨f.inf false, 0⟩
  | .fin s m e =>
    if s then nanRes f true
    else
      let m2 := if e % 2 = 0 then m else 2 * m
      let h := (if e % 2 = 0 then e else e - 1) / 2
      let q := max ((m2.log2 / 2 : Nat) + h) f.emin
      let sh := h - q + f.fbits + 33
      let x := if 0 ≤ sh then m2 * 2 ^ (2 * sh).toNat else m2 / 2 ^ (2 * (-sh)).toNat
      let r := isqrt x
      let lost := sh < 0 && m2 % 2 ^ (2 * (-sh)).toNat != 0
      packRounded f mode false false q ⟨r, r * r != x || lost⟩ u

/-- A value converted to a floating-point format (R57, R62). -/
def fConv (f : Fmt) (mode : RMode) (sat : Bool) (a : FVal) (u : W32) : Res :=
  match a with
  | .nan s => nanRes f s
  | .inf s =>
    if f.hasInf then (if sat then ⟨f.inf s, 0⟩ else ⟨f.inf s, 0⟩)
    else if sat then ⟨f.maxFin s, fSA⟩ else ⟨f.qnan, fNV⟩
  | .zero s => ⟨f.zero s, 0⟩
  | .fin s m e => roundFrac f mode sat s m 1 e u

/-- An integer converted to a floating-point format. -/
def fOfInt (f : Fmt) (mode : RMode) (sat : Bool) (v : Int) (u : W32) : Res := roundDyadic f mode sat false v 0 u

/-- A floating-point value converted to an integer in [lo, hi] (R63). -/
def fToInt (mode : RMode) (lo hi : Int) (a : FVal) (u : W32) : Int × Flags :=
  match a with
  | .nan _ => (0, fNV)
  | .inf s => (if s then lo else hi, fNV)
  | .zero _ => (0, 0)
  | .fin s m e =>
    let x := fixOf m 1 e
    let k := sgn s (roundInt mode s x u)
    if k < lo then (lo, fNV) else if hi < k then (hi, fNV) else (k, flagIf (!x.exact) fNX)

/-- sat(x, lo, hi) (R6). -/
def satInt (x lo hi : Int) : Int × Flags :=
  if x < lo then (lo, fSA) else if hi < x then (hi, fSA) else (x, 0)

/-- The total order that puts −0 below +0, on values that are not NaN. -/
def FVal.lt (a b : FVal) : Bool :=
  match a, b with
  | .nan _, _ | _, .nan _ => false
  | .inf s, .inf t => s && !t
  | .inf s, _ => s
  | _, .inf t => !t
  | _, _ =>
    let (v1, k1) := a.dyadic
    let (v2, k2) := b.dyadic
    let k := min k1 k2
    let d := v1 * 2 ^ (k1 - k).toNat - v2 * 2 ^ (k2 - k).toNat
    d < 0 || (d == 0 && a.isZero && b.isZero && a.neg && !b.neg)

/-- Numeric equality: −0 equals +0; a NaN equals nothing. -/
def FVal.eq (a b : FVal) : Bool :=
  match a, b with
  | .nan _, _ | _, .nan _ => false
  | .zero _, .zero _ => true
  | _, _ => !a.lt b && !b.lt a

/-- Numeric less-than, with −0 equal to +0. -/
def FVal.ltNum (a b : FVal) : Bool := a.lt b && !a.eq b

/-! ## Element types (R49) -/

/-- The floating-point format of a code, if it names one. -/
def fmtOfCode (c : BitVec 5) : Option Fmt :=
  if c = 8 then some fmtF32 else if c = 9 then some fmtF16 else if c = 10 then some fmtBF16
  else if c = 11 then some fmtE4M3 else if c = 12 then some fmtE5M2 else none

/-- The width in bits of an element code 0 to 12; 0 for a block code. -/
def codeBits (c : BitVec 5) : Nat :=
  match c.toNat with
  | 0 | 4 | 11 | 12 => 8
  | 1 | 5 | 9 | 10 => 16
  | 2 | 6 | 8 => 32
  | 3 | 7 => 64
  | _ => 0

/-- The range of an integer code. -/
def codeRange (c : BitVec 5) : Int × Int :=
  let w := codeBits c
  if c.toNat < 4 then (-(2 ^ (w - 1)), 2 ^ (w - 1) - 1) else (0, 2 ^ w - 1)

/-- The integer an element's bits stand for under an integer code. -/
def intOfCode (c : BitVec 5) (x : Nat) : Int :=
  let w := codeBits c
  let v : Int := (x % 2 ^ w : Nat)
  if c.toNat < 4 ∧ v ≥ 2 ^ (w - 1) then v - 2 ^ w else v

/-- The low `w` bits of an integer. -/
def lowBits (w : Nat) (v : Int) : Nat := (v % (2 ^ w : Nat)).toNat

/-- VCVT's conversion of one element (R145), which copy conversion 1 shares (R256). -/
def convElem (st dt : BitVec 5) (mode : RMode) (sat : Bool) (x : Nat) (u : W32) : Res :=
  match fmtOfCode st, fmtOfCode dt with
  | none, none =>
    let v := intOfCode st x
    let (lo, hi) := codeRange dt
    if sat then
      let (r, f) := satInt v lo hi
      ⟨lowBits (codeBits dt) r, f⟩
    else ⟨lowBits (codeBits dt) v, 0⟩
  | none, some fd => fOfInt fd mode sat (intOfCode st x) u
  | some fs, none =>
    let (lo, hi) := codeRange dt
    let (r, f) := fToInt mode lo hi (fs.unpack (x % 2 ^ fs.width)) u
    ⟨lowBits (codeBits dt) r, f⟩
  | some fs, some fd => fConv fd mode sat (fs.unpack (x % 2 ^ fs.width)) u

/-- The pairs that never round, and so step no LFSR (R60, R145): integer to integer, the widening conversions of R62, and
a float conversion to the same format. -/
def neverRounds (st dt : BitVec 5) : Bool :=
  match fmtOfCode st, fmtOfCode dt with
  | none, none => true
  | some _, some _ =>
    st == dt || (dt == 8 && (st == 9 || st == 10 || st == 11 || st == 12)) ||
      (dt == 9 && (st == 11 || st == 12)) || (dt == 10 && st == 11)
  | _, _ => false

/-! ## Block floating point (R64 to R69) -/

/-- A block code's mantissa width, and whether it is a half-step code (R49). -/
def blockWidth (c : BitVec 5) : Nat := if c.toNat < 16 then c.toNat - 11 else c.toNat - 14
def blockHalf (c : BitVec 5) : Bool := 13 ≤ c.toNat && c.toNat < 16

/-- A converted block: exponent byte, mantissas or codes, flags. -/
structure Block where
  exp : Nat
  mant : List Int
  flags : Flags
  deriving DecidableEq, Repr

/-- The larger of two magnitudes given as significand and exponent. -/
def magMax (a b : Nat × Int) : Nat × Int :=
  if a.1 = 0 then b else if b.1 = 0 then a
  else
    let k := min a.2 b.2
    if a.1 * 2 ^ (a.2 - k).toNat < b.1 * 2 ^ (b.2 - k).toNat then b else a

/-- The magnitude of a value as significand and exponent. -/
def FVal.mag (x : FVal) : Nat × Int := (x.dyadic.1.natAbs, x.dyadic.2)

/-- One element of R65: mantissa and flags. -/
def bfpElem (m : Nat) (e : Int) (mode : RMode) (x : FVal) (u : W32) : Int × Flags :=
  let (v, k) := x.mag
  let n := fixOf v 1 (k + 127 - e + m - 2)
  let r := roundInt mode x.neg n u
  let top := 2 ^ (m - 1) - 1
  let c := min r top
  (sgn x.neg c,
    flagIf (top < r) fSA ||| flagIf (top < r || !n.exact) fNX ||| flagIf (c == 0 && v != 0) fUF)

/-- One element of R69: half-step code and flags. -/
def bfphElem (m : Nat) (e : Int) (mode : RMode) (x : FVal) (u : W32) : Int × Flags :=
  let (v, k) := x.dyadic
  if v = 0 then ((if x.neg then -1 else 0), fNX)
  else
    let (y, ky) := addDyadic v (k + 127 - e + m - 2) (-1) (-1)
    let n := fixOf y.natAbs 1 ky
    let c := sgn (y < 0) (roundInt mode (y < 0) n u)
    let lo : Int := -(2 ^ (m - 1))
    let hi : Int := 2 ^ (m - 1) - 1
    let (r, f) := satInt c lo hi
    (r, f ||| flagIf (r != c || !n.exact) fNX)

/-- R65 and R69 on a block; `us` holds each element's LFSR state. -/
def toBlock (half : Bool) (m : Nat) (mode : RMode) (xs : List (FVal × W32)) : Block :=
  if xs.any (fun p => p.1.isNan || p.1.isInf) then ⟨255, xs.map (fun _ => 0), fNV⟩
  else
    let amax := xs.foldl (fun a p => magMax a p.1.mag) (0, 0)
    if amax.1 = 0 then ⟨0, xs.map (fun _ => 0), 0⟩
    else
      let e := max ((amax.1.log2 : Int) + amax.2 + 127) 1
      let r := xs.map (fun p => if half then bfphElem m e mode p.1 p.2 else bfpElem m e mode p.1 p.2)
      ⟨e.toNat, r.map (·.1), r.foldl (fun f p => f ||| p.2) 0⟩

/-- The value of one element of a block (R64, R68): significand times two to the exponent, or a NaN. -/
def blockVal (half : Bool) (m : Nat) (e : Nat) (c : Int) : FVal :=
  if e = 0 then .zero false
  else if e = 255 then .nan false
  else
    let v := if half then 2 * c + 1 else c
    let k : Int := (e : Int) - 127 - (m - 2) - (if half then 1 else 0)
    if v = 0 then .zero false else .fin (v < 0) v.natAbs k

/-- A two's-complement field of `m` bits. -/
def mantOf (m x : Nat) : Int := if x % 2 ^ m ≥ 2 ^ (m - 1) then (x % 2 ^ m : Nat) - (2 ^ m : Nat) else (x % 2 ^ m : Nat)

/-! ## Array accumulation (R70, R71) -/

/-- The exact product sum of a band, doubled for half-step weights so that it stays an integer. -/
def bandSum (half : Bool) (acts ws : List Int) : Int :=
  (List.zipWith (fun a w => if half then a * (2 * w + 1) else a * w) acts ws).foldl (· + ·) 0

/-- p_b of R70 from the band's exact sum and the two exponents and widths. -/
def bandTerm (half : Bool) (s : Int) (ea ew ma mw : Nat) : Res :=
  if ea = 255 ∨ ew = 255 then ⟨fmtF32.qnan, 0⟩
  else if ea = 0 ∨ ew = 0 then ⟨0, 0⟩
  else
    roundDyadic fmtF32 .rne false false s
      ((ea : Int) + ew - 254 - ((ma : Int) - 2) - ((mw : Int) - 2) - (if half then 1 else 0)) 0

/-- rne(z + p) in f32 (R70). -/
def accF32 (z p : Nat) : Res := fAdd fmtF32 .rne (fmtF32.unpack z) (fmtF32.unpack p) 0

/-- sat(z + S_b) in INT32 (R71). -/
def accI32 (z : Nat) (s : Int) : Res :=
  let (r, f) := satInt (intOfCode 2 z + s) (-(2 ^ 31)) (2 ^ 31 - 1)
  ⟨lowBits 32 r, f⟩

end Sys2Proof.Machine
end

