-- ==== Sys2Proof/Machine/State.lean ====
section
/-! DEFINITION. The state of the KJ-8192P: plain data, holding everything the spec gives the machine (INVENTORY.md lists
each field with its rule), the reasons a step can stop, and the state after power-on reset. -/

namespace Sys2Proof.Machine

/-- Byte-addressed memory in canonical form: addresses strictly rising, no entry equal to 0, which is what an unlisted
address reads as (log 5). -/
abbrev Mem := List Host.Cell

/-- A place in a text: section and word (R92). -/
structure Pos where
  sec : Nat
  word : Nat
  deriving DecidableEq, Repr, Inhabited

/-! ## Roles -/

/-- A loop counter with its hidden trip index and bound (R118). -/
structure LoopCtr where
  l : W64 := 0
  trip : Nat := 0
  bnd : Nat := 0
  deriving DecidableEq, Repr, Inhabited

/-- What a role waits for. -/
inductive Wait where
  /-- a token pop (R77) -/
  | tokenPop
  /-- room for a token push (R77) -/
  | tokenPush
  /-- slip under WIN (R39) -/
  | slip
  /-- a section wait field (R42) -/
  | section_
  /-- a q-register entry, present or free (R201, R202) -/
  | qreg
  /-- the broadcast-predicate FIFO (R37) -/
  | bfifo
  /-- a register or bytes that a load in flight will write (R164), the MFS FLG wait (R73) -/
  | data
  /-- a 33rd load or atomic in flight (R164) -/
  | flights
  /-- a full store buffer (R165) -/
  | storeBuffer
  /-- a translation walk (R393) -/
  | walk (va : Nat)
  /-- the other roles, at a quiet point or a PHASE (R43, R45) -/
  | meet
  /-- release of a PHASE barrier (R221) -/
  | phase
  /-- accesses that a release or an acquire waits for (R178, R182, R195) -/
  | fence
  /-- a barrier channel (R217) -/
  | barrier
  /-- the bank unit: a circular buffer or a deque (R210, R213) -/
  | bank
  /-- reserved entries, at a QCLR (R204) -/
  | qclr
  /-- an earlier binding (R203) -/
  | qbnd
  /-- CYC or TIME (R121) -/
  | clock
  /-- the end of a HALT's drain (R124) -/
  | drain
  /-- the array lease (R234) -/
  | lease
  /-- the array command queue (R231) -/
  | array
  /-- an engine queue (R250) -/
  | engine
  /-- a flag counter of the die's station (R287) -/
  | flag (n : Nat)
  /-- an ordered-multicast target of a group, or an earlier store of one's own to it (R305, R303) -/
  | multicast (gid : Nat)
  /-- the mailbox of an episode (R320, R321) -/
  | mailbox (epi : Nat)
  /-- a work list or the quiescence latch (R268, R270) -/
  | worklist
  /-- a privileged instruction's target (R353, R355, R358, R363) -/
  | target
  /-- the trap queue (R366) -/
  | idle
  /-- a K peer that has been saved away (R175) -/
  | peer
  /-- earlier accesses of one's own that go first where the rule of the instruction names no wait (R182, R206, R210, R213,
  log 27): no count runs -/
  | order
  deriving DecidableEq, Repr, Inhabited

/-- What is left of an instruction whose effect has been performed: its token pushes, the data of its load, its
transfer (R77, R42). -/
structure Rest where
  /-- pushes still to make, as TOK bits (R76) -/
  push : BitVec 4
  /-- the load or atomic in flight that must write its data first (R77) -/
  flight : Option Nat
  /-- where the program counter goes -/
  dest : Pos
  /-- the section entered and the section exited by the transfer (R41) -/
  enter : Option Nat
  exit : Option Nat
  /-- the address of the instruction when it is A-tagged (R117) -/
  aAt : Option Pos
  deriving DecidableEq, Repr, Inhabited

/-- A role of a context (R36). -/
structure RoleSt where
  pc : Pos := ⟨0, 0⟩
  /-- s0 to s31; s0 reads 0 (R78) -/
  sregs : Vector W64 32 := Vector.replicate 32 0
  /-- p0 to p7; p0 reads true (R110) -/
  preds : BitVec 8 := 1
  loops : Vector LoopCtr 4 := Vector.replicate 4 {}
  /-- the return stack, newest first (R116) -/
  ret : List Pos := []
  flg : BitVec 5 := 0
  halted : Bool := false
  /-- the role's bit of ROLES (R95) -/
  active : Bool := true
  /-- TSTAT.HLT (R351) -/
  dbgHalt : Bool := false
  /-- addresses of the retired A-tagged instructions, newest first (R39, R117) -/
  aTrace : List Pos := []
  /-- entries to and exits from each section in this phase (R41) -/
  entries : List (Nat × Nat) := []
  exits : List (Nat × Nat) := []
  /-- the wait the role stands in and the cycles it has counted (R223) -/
  wait : Option Wait := none
  waited : Nat := 0
  /-- the model's own: what the role found in the context's shared queues when it last waited (R222) -/
  seen : List Nat := []
  /-- the token pops of the instruction at pc have been performed (R77, R102) -/
  popped : Bool := false
  /-- the effect of the instruction at pc has been performed -/
  rest : Option Rest := none
  /-- the channel on which a BAR has arrived (R220) -/
  arrived : Option Nat := none
  /-- what a waiting instruction noted at its issue (CYC of IDLE, IVLT of INVA) -/
  mark : Option W64 := none
  /-- the cycles that are left of a YLD that has begun (R122) -/
  yieldLeft : Option Nat := none
  deriving DecidableEq, Repr, Inhabited

/-! ## Queues of a context -/

/-- A 256-byte q-register entry (R199): 64 lanes of 32 bits, or reserved by the producer `id` (R164). -/
structure QEnt where
  lanes : Option (List W32)
  id : Nat
  /-- its SRAM holds an uncorrectable error (R405) -/
  bad : Bool := false
  deriving DecidableEq, Repr, Inhabited

/-- A binding of QBND (R203): to the load or the store queue, entries that are still to pass, the sequence number of the
command it has attached to, and of a load binding the entries that the command has still to reserve and the id under which it
reserves them (R199). -/
structure Binding where
  out : Bool
  left : Nat
  cmd : Option Nat
  owed : Nat := 0
  id : Nat := 0
  deriving DecidableEq, Repr, Inhabited

structure QReg where
  ents : List QEnt := []
  bind : Option Binding := none
  deriving DecidableEq, Repr, Inhabited

/-- A broadcast predicate: its value, its pusher and the roles that have still to read it (R37, R119). -/
structure BEnt where
  val : Bool
  from_ : Role
  readers : List Role
  deriving DecidableEq, Repr, Inhabited

/-- The state of a context on one barrier channel (R217, R218, R220). -/
structure ChanSt where
  /-- arrived, and not yet released -/
  pending : Bool := false
  /-- the context has arrived at least once -/
  ever : Bool := false
  /-- the status of its latest release, latched (R218, R220) -/
  status : W64 := 0
  deriving DecidableEq, Repr, Inhabited

/-! ## Accesses in flight -/

/-- Where returned data goes. -/
inductive Dest where
  | none
  | scalar (n : Nat)
  /-- the reserved entry `id` of q-register `q` -/
  | qent (q : Nat) (id : Nat)
  deriving DecidableEq, Repr, Inhabited

/-- A record of the invalidation log (R394). -/
structure InvRec where
  idx : Nat
  all : Bool
  size : Nat
  va : Nat
  deriving DecidableEq, Repr, Inhabited

/-- The place of an access after checks 1 to 4 of R175. -/
inductive Place where
  | a (c : CtxId) (off : Nat)
  /-- physical: from `pa` up, and past the end of its 64 KiB page from `pb` up (R390) -/
  | g (pa pb : Nat)
  /-- the system window (R389) -/
  | window (off : Nat)
  /-- `n` bytes up to the foot of the system window, and its first ones (R18, R389) -/
  | gw (pa n : Nat)
  | f (pkg : Nat) (va : Nat)
  | o (gid : Nat) (off : Nat)
  /-- an offset from the base of the host window, and the host address that it names at the issue (R439) -/
  | h (port : Nat) (off : Nat) (addr : Nat)
  /-- the invalidation log of the dies of a partition: an INVL publishes a record (R362) -/
  | log (part : Nat) (r : InvRec)
  deriving DecidableEq, Repr, Inhabited

/-- An atomic operation (R173): OP, width, operand, new value of CAS. -/
structure AtomOp where
  op : BitVec 4
  dword : Bool
  v : W64
  v2 : W64
  deriving DecidableEq, Repr, Inhabited

/-- A load or atomic in flight (R164, R174), or a bank-unit operation on a peer (R209). -/
structure Flight where
  id : Nat
  role : Role
  place : Place
  size : Nat
  dest : Dest
  /-- an atomic, when it is one -/
  atom : Option AtomOp
  /-- acquire order, release order, and the scope (R83) -/
  acq : Bool
  rel : Bool
  scope : Nat
  /-- the cache field (R166) -/
  cache : Nat
  /-- the access has been performed and its data is known (R178) -/
  data : Option (List Byte)
  /-- the instruction, and the address that a fault found later records (R175) -/
  at_ : Pos
  va : W64
  /-- the fabric packet that carries it (R297) -/
  sent : Bool
  /-- it travels as a message, to a peer or to the own core (R174) -/
  k : Bool := false
  /-- lane offsets and width of an LDLX (R170) -/
  lanes : List Nat := []
  lsize : Nat := 0
  /-- the cause and the address of a fault that was found while its context could not take it (R169, R175) -/
  failed : Option (Nat × W64) := none
  /-- it was abandoned, or stopped at a fault: it is translated again as it is issued again (R176, R395) -/
  again : Bool := false
  deriving DecidableEq, Repr, Inhabited

/-- A store accepted by the core's store buffer and not yet performed (R165). -/
structure StoreEnt where
  id : Nat
  ctx : CtxId
  role : Role
  place : Place
  /-- the virtual address of a G store (VAL of SUB 7, R403) -/
  va : Nat
  data : List Byte
  /-- an STLX: the offsets and bytes of its further lanes, in lane order (R170) -/
  more : List (Nat × List Byte)
  /-- release order, and its scope: performed after every earlier access of the role (R178) -/
  rel : Bool
  scope : Nat
  cache : Nat
  /-- it travels as a message, to a peer or to the own core (R174) -/
  k : Bool := false
  deriving DecidableEq, Repr, Inhabited

/-- A copy command's write of G that no release has carried to every core of the package: its context, its command, and the parties for
which it is ordered so far: 0 none, 1 the core, 2 the cluster (R178, R191, R196). -/
structure Loose where
  c : CtxId
  acc : Nat
  reach : Nat := 0
  deriving DecidableEq, Repr, Inhabited

/-- A performed write of an aligned 4-byte word of G, as a racing read may still not see it (R184): the word, its bytes before
the write, the core whose L role wrote it by an ATG (R181), and, of a copy command's write, what it still lacks (R191). -/
structure GWrite where
  pa : Nat
  old : List Byte
  own : Option Nat
  loose : Option Loose := none
  deriving DecidableEq, Repr, Inhabited

/-- A line of the global read cache (R166): physical line address and its 64 bytes; streamed lines are evicted first. -/
structure Line where
  pa : Nat
  bytes : List Byte
  stream : Bool
  /-- 8-byte words of it that hold an uncorrectable error, by physical address (R405) -/
  bad : List Nat := []
  deriving DecidableEq, Repr, Inhabited

/-- A valid leaf in a core's translation cache (R393): partition, virtual page, size in bytes, physical page, W, PIN. -/
structure Leaf where
  part : Nat
  va : Nat
  size : Nat
  pa : Nat
  w : Bool
  pin : Bool
  deriving DecidableEq, Repr, Inhabited

/-! ## The array and the copy engines -/

/-- The issue-side record of a weight plane (R233): offset, format, validity. -/
structure PlaneRec where
  off : Nat := 0
  fmt : BitVec 5 := 0
  valid : Bool := false
  deriving DecidableEq, Repr, Inhabited

/-- A weight plane as the array holds it for a context (R226): the bytes of its tile (R227), none of them read before a
WLOAD: zero mantissas. -/
structure Plane where
  rec_ : PlaneRec := {}
  tile : List Byte := []
  deriving DecidableEq, Repr, Inhabited

/-- The latched epilogue configuration (R242); its default is the kernel-start one. -/
structure EpiCfg where
  csoff : Nat := 0xFFFF
  rsoff : Nat := 0xFFFF
  bioff : Nat := 0xFFFF
  tboff : Nat := 0xFFFF
  act : Nat := 0
  ofmt : BitVec 5 := 8
  rm : BitVec 3 := 0
  sat : Bool := false
  inz : Bool := false
  clo : W32 := 0
  chi : W32 := 0
  tlo : W32 := 0
  tinv : W32 := 0
  deriving DecidableEq, Repr, Inhabited

/-- What an array command does (R231), with the operands recorded at its issue. -/
inductive AKind where
  /-- the tile's record (R235) -/
  | wload (p : PlaneRec)
  | wswp
  /-- MMA (0), MMAZ (1), MMAI (2): first Z row, rows, activation type, start from zero, A offset, stride, recorded BEN -/
  | mma (kind zr nr : Nat) (at_ : BitVec 5) (zs : Bool) (off str : Nat) (ben : BitVec 4)
  /-- EPI: first Z row, rows, A offset or q-register, CLR, stride, configuration -/
  | epi (zr nr : Nat) (q : Option Nat) (off str : Nat) (clr : Bool) (cfg : EpiCfg)
  /-- ZRD: row, half, q-register and its reserved entry -/
  | zrd (zr h q id : Nat)
  | zwr (zr h : Nat) (lanes : List W32)
  | zclr (zr nr : Nat)
  deriving DecidableEq, Repr, Inhabited

/-- A command in the array command queue. -/
structure ACmd where
  /-- acceptance number across the queues of the context (R259) -/
  acc : Nat
  kind : AKind
  /-- completion token: 0 none, 1 CL, 2 CS (R231) -/
  cpt : Nat
  /-- the next unwritten row (R239) -/
  next : Nat := 0
  /-- planes of the next row that have been injected (R238); of an EPI, queue entries of the next row that have been written -/
  inj : Nat := 0
  /-- the number that an access of the C role would have had at its acceptance: earlier ones precede it (R241) -/
  at_ : Nat := 0
  /-- of an EPI into a q-register: entries that it has still to reserve, and the id under which it reserves them (R202, R245) -/
  owed : Nat := 0
  qid : Nat := 0
  /-- the array has begun it (R232) -/
  begun : Bool := false
  /-- the last read and write are made; only the completion push is left -/
  done : Bool := false
  deriving DecidableEq, Repr, Inhabited

/-- A copy command in an engine queue (R250 to R259). -/
structure ECmd where
  acc : Nat
  /-- A-buffer offset of the command block (VAL of a copy-fault record) -/
  off : Nat
  /-- its 128 bytes, read at acceptance (R251) -/
  bytes : List Byte
  begun : Bool := false
  /-- the index list, read when the command begins (R255) -/
  idx : List W32 := []
  /-- elements transferred (DONE, R257) -/
  done : Nat := 0
  /-- conversion flags (CFL) -/
  cfl : BitVec 5 := 0
  /-- every element has been transferred -/
  finished : Bool := false
  /-- a copy fault that has been found (FCODE, R257) -/
  fcode : Nat := 0
  /-- it ended under R263 -/
  ended : Bool := false
  /-- the status word has been written and only the token push is left -/
  statused : Bool := false
  /-- the number that an access of the issuing role would have had at its acceptance: earlier ones precede it (R190) -/
  at_ : Nat := 0
  /-- between a q-register and G: the bytes of an aligned word that the last entry has begun, read ahead or not yet written, as
  address and bytes (R197) -/
  carry : List (Nat × List Byte) := []
  /-- the writes of G that happen before the command instruction, by number (R184, R191) -/
  floor : Nat := 0
  deriving DecidableEq, Repr, Inhabited

/-! ## Contexts -/

/-- R350. -/
inductive CtxState where
  | run | trapped | saved | parked | ended
  deriving DecidableEq, Repr, Inhabited

/-- An asynchronous event held off until a quiet point (R46). -/
inductive AsyncEv where
  /-- pre-emption (R385) -/
  | preempt
  /-- a supervisor's CTXSV: the saving role and the image address (R355) -/
  | save (by_ : CtxId) (role : Role) (addr : Nat)
  /-- a checkpoint of the region (R46) -/
  | ckpt
  deriving DecidableEq, Repr, Inhabited

/-- An event that is held off, and the cycles for which it has been (R46). -/
structure HeldEv where
  ev : AsyncEv
  cycles : Nat := 0
  deriving DecidableEq, Repr, Inhabited

/-- An SWR of a special of a context in RUN that is being taken: the role that issued it, special, TROLE and value, and the roles
of the target that have still to come to an instruction boundary (R353). -/
structure SwrReq where
  by_ : CtxId
  role : Role
  no : Nat
  trole : Role
  v : W64
  left : List Role
  deriving DecidableEq, Repr, Inhabited

/-- A trap record before it is stored (R370). -/
structure TrapRec where
  ctx : CtxId
  role : Nat
  cause : Nat
  multi : Bool
  code : Nat
  rcb : Nat
  pcs : List Pos
  val : W64
  time : W64
  cyc : W64
  deriving DecidableEq, Repr, Inhabited

structure Ctx where
  state : CtxState := .run
  kernel : Nat := 0
  /-- linear grid index (R30) and coordinates (R29) -/
  gidx : Nat := 0
  /-- PRIV.P and PRIV.PART (R351) -/
  priv : Bool := false
  servPart : Nat := 0
  /-- partition of the kernel -/
  part : Nat := 0
  harvest : Bool := false
  dbgen : Bool := false
  /-- WIN as read, and the value that governs slip: a new one governs once the C role has retired its next A-tagged
  instruction (R40) -/
  win : Nat := 16
  winGov : Nat := 16
  wlim : Nat := 0x01000000
  seed : W64 := 0
  /-- the 64 lane LFSRs (R60) -/
  lfsr : List W32 := []
  ver : W16 := 0
  ashp : BitVec 4 := 0b1111
  qs : Vector QReg 16 := Vector.replicate 16 {}
  /-- QMAP of the descriptor (R94) -/
  qmap : W64 := 0xFFFFFFFFFFFFFFFF
  /-- counts of the token FIFOs LC, CL, CS, SC (R205) -/
  toks : Vector Nat 4 := Vector.replicate 4 0
  /-- broadcast predicates, oldest first (R37) -/
  bf : List BEnt := []
  rl : RoleSt := {}
  rc : RoleSt := {}
  rs : RoleSt := {}
  /-- budgets in bytes (R33) and the buffers -/
  abud : Nat := 0
  wbud : Nat := 0
  zbud : Nat := 0
  abuf : Mem := []
  wbuf : Mem := []
  zbuf : Mem := []
  /-- loads and atomics in flight, oldest first (R164) -/
  flights : List Flight := []
  /-- bank-unit results (R209) and numbers of accesses -/
  nextId : Nat := 0
  /-- stores sent to peers, oldest first, with their role (R174) -/
  kstores : List StoreEnt := []
  /-- outstanding acknowledgements (R296), RRJ, ORJ, ORJC (R298) -/
  ackc : Nat := 0
  rrj : Bool := false
  orj : Bool := false
  orjc : W16 := 0
  /-- the barrier window b, D, i (R216) and the channel states -/
  barB : Nat := 1
  barD : Nat := 1
  barI : W32 := 0
  chans : Vector ChanSt 16 := Vector.replicate 16 {}
  /-- PHASE: the context has arrived on channel 0 (R221) -/
  phaseArrived : Bool := false
  /-- a release of channel 0 that reached the context while it did not run (R220) -/
  phaseDone : Bool := false
  /-- the writes of G performed before the phase boundary that the context crossed last, by number (R184) -/
  floor : Nat := 0
  epi : EpiCfg := {}
  /-- issue-side records (R233) and the planes as the array holds them (R226) -/
  actRec : PlaneRec := {}
  shRec : PlaneRec := {}
  act : Plane := {}
  sh : Plane := {}
  acmds : List ACmd := []
  /-- the next acceptance number (R259) -/
  nextAcc : Nat := 0
  /-- the context holds or has requested the lease, as R247 counts it -/
  leaseAsk : Bool := false
  /-- a ULEASE waits for the commands accepted before this number (R234) -/
  leaseGive : Option Nat := none
  loadQ : List ECmd := []
  storeQ : List ECmd := []
  /-- completed commands and FLT of each queue (R264) -/
  loadCmpl : W32 := 0
  storeCmpl : W32 := 0
  loadFlt : Bool := false
  storeFlt : Bool := false
  idle : Bool := false
  /-- held-off events, each with the cycles it has waited (R46) -/
  async : List HeldEv := []
  /-- the mark of the latest self-loop trap: overflow (true) or underflow (R202; log 34) -/
  loopMark : Option Bool := none
  /-- an SWR of a special of this context that its roles have still to take (R353) -/
  swr : Option SwrReq := none
  /-- the trap that stopped the context: role (3 context-wide), cause, place of the faulting instruction, and whether the
  recorded pc is already the next word (R354) -/
  trap : Option (Nat × Nat × Pos × Bool) := none
  /-- the load or atomic at which the trap was raised after its issue: it is issued again or given up (R175, R354) -/
  late : Option Flight := none
  /-- the q-register and the entry that a waiting MBRCV has reserved (R321) -/
  rcvd : Option (Nat × Nat) := none
  /-- the image address of a SAVED context, none while its storage stays where it is, and the number of its image (log 10) -/
  image : Option Nat := none
  imageNo : Nat := 0
  /-- the state a saved image records (R356) -/
  savedAs : CtxState := .run
  /-- a pre-empted victim whose storage has been claimed (R385) -/
  claimed : Bool := false
  /-- why it was parked: 0 PARK or CTXSV, 1 the lease, 2 storage (R387) -/
  parkedFor : Nat := 0
  /-- the issue state in its reserve bank holds an uncorrectable error (R387, R406) -/
  badBank : Bool := false
  /-- the words of its text, by section and byte offset, that hold an uncorrectable error (R405) -/
  badText : List (Nat × Nat) := []
  deriving DecidableEq, Repr, Inhabited

/-! ## Cores and dies -/

structure Lease where
  num : Nat
  count : Nat
  deriving DecidableEq, Repr, Inhabited

structure Core where
  /-- core cycles in which CYC stood still (R112) -/
  lost : Nat := 0
  /-- FRZ: the context and queue (false: load) that froze it (R261) -/
  frozen : Option (Nat × Bool) := none
  /-- FMIN of RIC (R230; log 6) -/
  fmin : Nat := 1
  holdlim : Nat := 20000
  wlimmax : Vector Nat 3 := Vector.replicate 3 0x01000000
  excuse : Bool := false
  /-- IVLA (R351), and the full-flush mark (R394) -/
  ivla : Nat := 0
  flush : Bool := false
  retired : Bool := false
  /-- the CID stands on a spare physical core (R361) -/
  spare : Bool := false
  lease : Option Lease := none
  /-- the harvest context that held the lease last (R232) -/
  lastHarvest : Nat := 2
  /-- the context whose planes the array holds (R233) -/
  arrayOf : Option Nat := none
  sbuf : List StoreEnt := []
  cache : List Line := []
  /-- the writes of G that every plain load of the core sees: those performed before its latest acquire or release, by number
  (R180, R184) -/
  floor : Nat := 0
  /-- the writes of G that the releases made on the core cover, by number: an acquire at core scope sees them (R178, R182) -/
  rel : Nat := 0
  tcache : List Leaf := []
  /-- the model's own: an acquire at package scope has begun to apply the log and must still wait for accesses (R395); no kept state
  has it set -/
  applying : Bool := false
  /-- the step limiter: the window in which it counts (CYC / 64), its planes and those of the last one, and the lost
  cycles that the ramp of a freeze has counted (R428, R429) -/
  winNo : Nat := 0
  winPlanes : Nat := 0
  lastPlanes : Nat := 0
  /-- ballast has filled the window that ended last (R429, R430) -/
  ballast : Bool := false
  lostSeen : Nat := 0
  /-- Thaw: first planes wait until this reference TIME (R427) -/
  thaw : Option Nat := none
  /-- band power switches that are closed (R228) -/
  bands : BitVec 4 := 0
  deriving DecidableEq, Repr, Inhabited

/-- Trap-queue registers of one partition on a die (R351). -/
structure TrapQ where
  tqb : Nat := 0
  tqh : W32 := 0
  tqt : W32 := 0
  /-- records that wait for room (R369), oldest first -/
  waiting : List TrapRec := []
  deriving DecidableEq, Repr, Inhabited

structure Die where
  tq : List (Nat × TrapQ) := []
  ivlb : Nat := 0
  ivlt : Nat := 0
  log : List InvRec := []
  spares : Nat := 0
  sparesFailed : Nat := 0
  dbgHold : Bool := false
  /-- the queue that the die scheduler has served last (R384; log 2) -/
  lastQueue : Nat := 63
  /-- the scheduler pair has diverged and the die is drained (R408) -/
  drained : Bool := false
  live : Bool := false
  deriving DecidableEq, Repr, Inhabited

/-- A clock region that keeps a TIME of its own (R15). -/
structure ClockRegion where
  /-- TIME offset from the reference, in half nanoseconds (log 4) -/
  ofs : Int := 0
  /-- reference TIME, in half nanoseconds, of its last slew -/
  slewAt : Nat := 0
  deriving DecidableEq, Repr, Inhabited

/-! ## Kernels and regions -/

/-- A section of a text (R91): KIND, number, wait fields for L, C and S, body. -/
structure Section where
  kind : Nat
  sec : Nat
  waits : List (Role × Nat)
  body : List Byte
  deriving DecidableEq, Repr, Inhabited

/-- A page or run of pages with its pinned physical place (R395). -/
structure PinnedPage where
  va : Nat
  pa : Nat
  len : Nat
  /-- W of its leaf (R390) -/
  w : Bool
  deriving DecidableEq, Repr, Inhabited

/-- A flow of a kernel (R280, R288). -/
structure Flow where
  id : Nat
  /-- a flow of the Goltik ring (R286) -/
  gol : Bool := false
  track : Nat
  k : Nat
  slot0 : Nat
  fmt : BitVec 2
  nflg : Nat
  /-- the pinned G window of its memory stations (R275, R377): address, length, pages -/
  window : Option (Nat × Nat × List PinnedPage)
  /-- stations on which it has entries -/
  stns : List Nat
  deriving DecidableEq, Repr, Inhabited

/-- A kernel's flag set at a compute station (R281). -/
structure FlagSet where
  stn : Nat
  flag0 : Nat
  nflg : Nat
  deriving DecidableEq, Repr, Inhabited

/-- The work lists of a kernel (R266, R270): one list per core, totals, the waves and the latch. -/
structure WorkLists where
  cap : Nat
  lists : List (List W32)
  appended : Nat
  taken : Nat
  /-- what the last detection wave found: quiet, and the total -/
  wave : Option (Bool × Nat)
  latch : Bool
  deriving DecidableEq, Repr, Inhabited

/-- A kernel-level barrier channel (R218): releases so far, and an arrival withdrawn before the next release. -/
structure KChan where
  rels : Nat := 0
  withdrawn : Bool := false
  deriving DecidableEq, Repr, Inhabited

/-- A staging transfer on a die's scoreboard (R383): the core's grid index, the command, and whether it is done. -/
structure Staging where
  gidx : Nat
  bytes : List Byte
  done : Bool
  deriving DecidableEq, Repr, Inhabited

inductive KState where
  /-- admitted, waiting for its cores (R384) -/
  | waiting
  /-- staging transfers run (R383) -/
  | staging
  | running
  | ended
  deriving DecidableEq, Repr, Inhabited

structure Kernel where
  id : Nat
  /-- the region node that is its leaf -/
  node : Nat
  queue : Nat
  part : Nat
  text : List Section
  psec : Nat
  entry : Nat
  win0 : Nat
  roles : BitVec 3
  harvest : Bool
  qmap : W64
  gw : Nat
  gh : Nat
  /-- NBAR (R215) -/
  g : Nat
  prio : Nat
  abud : Nat
  wbud : Nat
  zbud : Nat
  hallow : Nat
  priv : Bool
  pkgw : Bool
  pgmask : W16
  diemask : W64
  /-- granted contexts, in grid order (R30) -/
  grant : List CtxId
  /-- contexts ended by retirement: excused from the kernel's barriers (R218) -/
  lost : List CtxId
  state : KState
  admitted : Nat
  aged : Bool
  started : Nat
  phn : W32
  chans : Vector KChan 16
  flows : List Flow
  flagSets : List FlagSet
  /-- EPI of each handle (R312) -/
  episodes : List Nat
  wl : Option WorkLists
  staging : List Staging
  /-- contexts before their issue, in grid order: what their staging transfers have written (R383) -/
  prep : List Ctx
  /-- FCODE of a failed staging transfer (SFC, R380) -/
  sfc : Nat
  ckpt : Bool
  ckpd : Nat
  deriving DecidableEq, Repr, Inhabited

/-- An admitted region node: what its records need (R28, R377, R380). -/
structure Node where
  id : Nat
  rcb : Nat
  parent : Option Nat
  level : Nat
  leaf : Bool
  fdom : Bool
  priv : Bool
  pkgw : Bool
  hvreg : Bool
  ckpt : Bool
  retain : Bool
  icm : Bool
  part : Nat
  queue : Nat
  prio : Nat
  ncore : Nat
  abud : Nat
  wbud : Nat
  zbud : Nat
  hallow : Nat
  nbar : Nat
  pgmask : W16
  diemask : W64
  crec : Nat
  /-- STATE, REASON, CAUSE, FLEVEL (R378) -/
  state : Nat
  cause : Nat
  tstart : Nat
  retc : Nat
  /-- children that have not yet ended -/
  children : List Nat
  deriving DecidableEq, Repr, Inhabited

/-- What admission must know of the context that published an index (R348, R376): its kernel's leaf node and level, whether it
is privileged, and whether it serves PART 31. -/
structure Appender where
  idx : Nat
  node : Nat
  kernel : Nat
  priv : Bool
  whole : Bool
  deriving DecidableEq, Repr, Inhabited

/-- A launch queue (R373 to R375): its directory entry and its registers. -/
structure LQueue where
  q : Nat
  part : Nat := 0
  daddr : Nat := 0
  /-- PART and DADDR of the directory entry as last written: of a queue that drains they may differ from its own (R374) -/
  wpart : Nat := 0
  waddr : Nat := 0
  /-- STS (R374) -/
  sts : Nat := 0
  reg : Bool := false
  pf : Bool := false
  kapp : Bool := false
  base : Nat := 0
  size : Nat := 0
  msix : Nat := 0
  savep : Nat := 0
  saven : Nat := 0
  tail : W32 := 0
  claim : W32 := 0
  published : List Nat := []
  head : W32 := 0
  leader : Option Nat := none
  err : Bool := false
  /-- the contexts that published indices -/
  appenders : List Appender := []
  deriving DecidableEq, Repr, Inhabited

/-- A partition descriptor (R399). -/
structure Partition where
  valid : Bool := false
  pgmask : W16 := 0
  jkey : W16 := 0
  rcls : Nat := 0
  root : Nat := 0
  pbase : Nat := 0
  plen : Nat := 0
  /-- IVLT of the partition's log (R394) -/
  ivlt : Nat := 0
  deriving DecidableEq, Repr, Inhabited

/-! ## The conveyor ring -/

/-- A slot: header fields (R274) and payload. -/
structure Slot where
  trk : Nat
  no : Nat
  crc : W32 := 0
  seq : W16 := 0
  orig : Nat := 0
  len : Nat := 0
  flow : Nat := 0
  cls : Nat := 0
  fmt : BitVec 2 := 0
  hold : Bool := false
  dbg : Bool := false
  crce : Bool := false
  pt : Bool := false
  nv : Bool := false
  of_ : Bool := false
  sat : Bool := false
  hst : Nat := 0
  rsvs : Nat := 0
  rsvv : Bool := false
  payload : List Byte := []
  /-- destination of a best-effort slot (R285) -/
  dst : Nat := 0
  deriving DecidableEq, Repr, Inhabited

/-- A standing-table entry with its load count (R275, R276). -/
structure TabEnt where
  stn : Nat
  trk : Nat
  slot : Nat
  e : W64
  loads : W16
  /-- its SRAM holds an uncorrectable error (R406) -/
  bad : Bool := false
  deriving DecidableEq, Repr, Inhabited

/-- The package's place in a Goltik ring (R286). -/
structure Goltik where
  /-- packages of the ring, 0 where the package belongs to none, and the package's number -/
  members : Nat := 0
  number : Nat := 0
  flows : List GFlow := []
  /-- occupancies that have left for the next package at station 15, newest first -/
  sent : List Slot := []
  deriving DecidableEq, Repr, Inhabited

/-- The ring: only slots, entries and counters that are not at their reset values are listed. -/
structure Ring where
  /-- slots of the tracks 0 to 7, and as 8 and 9 those of the Goltik tracks while they are on the arc (R286) -/
  slots : List Slot := []
  table : List TabEnt := []
  /-- flag counters (R281): station, flag, count -/
  flags : List ((Nat × Nat) × W16) := []
  /-- best-effort payloads that wait at a station (R285): station, destination, bytes -/
  best : List (Nat × Nat × List Byte) := []
  /-- payloads handed to the agents of a station -/
  delivered : List (Nat × List Byte) := []
  /-- the model's own: the slot-time of the latest passage, and the (station, track, slot) passages made in it; a station
  meets a slot once (R276) -/
  at_ : Nat := 0
  seen : List (Nat × Nat × Nat) := []
  /-- (station, track, slot, flag counter) of held slots that a station with an entry has passed (R282) -/
  susp : List (Nat × Nat × Nat × Nat) := []
  /-- increments of flag counters made at the slot-time `at_` (R281) -/
  incs : List ((Nat × Nat) × Nat) := []
  /-- slots of flows that have ended (R280): track, first slot, how many, RST at the end -/
  gone : List (Nat × Nat × Nat × Nat) := []
  goltik : Goltik := {}
  deriving DecidableEq, Repr, Inhabited

/-! ## The fabric -/

/-- A routing-table entry (R291, R295). -/
structure RouteEnt where
  dst : Nat
  tor : Bool
  path : W64
  alts : List W64
  deriving DecidableEq, Repr, Inhabited

/-- A stamped store as its sequencer sends it (R300): sequence number, issuer package, CID, issuer tag, offset and bytes. -/
structure Stamped where
  n : Nat
  pkg : Nat
  cid : Nat
  tag : Nat
  off : Nat
  data : List Byte
  deriving DecidableEq, Repr, Inhabited

/-- An installed multicast group (R299 to R302). -/
structure Group where
  gid : Nat
  wlog : Nat
  memb : Nat
  part : Nat
  va : Nat
  pages : List PinnedPage
  seqSwitch : Nat
  applied : Nat := 0
  epoch : W16 := 0
  ref : Bool := false
  /-- the last 1,024 applied stores, newest first: number, offset, bytes (R301) -/
  kept : List (Nat × Nat × List Byte) := []
  /-- stamped stores that have reached this member and are not yet applied -/
  pending : List Stamped := []
  deriving DecidableEq, Repr, Inhabited

/-- The sequencer role of this package's switch for a group (R300). -/
structure Sequencer where
  gid : Nat
  members : List Nat
  next : Nat
  /-- stamped and not yet stable: number, issuer package, tag -/
  unstable : List (Nat × Nat × Nat)
  deriving DecidableEq, Repr, Inhabited

/-- An STO of this package without an outcome (R302): group, issuer tag, context and role, offset and bytes, whether its
stamped copy has been applied here, and whether its sequencer, where it is this package's switch, has numbered it. -/
structure StoOut where
  gid : Nat
  tag : Nat
  ctx : CtxId
  role : Role
  cid : Nat
  off : Nat
  data : List Byte
  marked : Bool
  numbered : Bool
  /-- deliveries to its sequencer that failed their end-to-end CRC (R407) -/
  tries : Nat := 0
  deriving DecidableEq, Repr, Inhabited

/-- What a fabric packet of this package does (R297): a load or atomic of the flight `id`, a store, or the write of a copy
command: its queue, its acceptance number, the element with which its unit began (R261); or the write of a checkpoint. -/
inductive PktKind where
  | load (id : Nat)
  | store (data : List Byte)
  | engine (store : Bool) (acc first : Nat) (data : List Byte)
  /-- a write of a checkpoint engine: its kernel and the number of the checkpoint (R293, R413) -/
  | ckpt (kernel no : Nat) (data : List Byte)
  deriving DecidableEq, Repr, Inhabited

def PktKind.isStore : PktKind → Bool
  | .store _ => true
  | .load _ | .engine .. | .ckpt .. => false

structure Packet where
  ix : Nat
  /-- the number of the access (R178) -/
  acc : Nat := 0
  pkg : Nat
  va : Nat
  key : W16
  ctx : CtxId
  role : Role
  kind : PktKind
  /-- a store of this package to itself has been served: whether it was accepted -/
  served : Option Bool := none
  /-- deliveries that failed their end-to-end CRC (R407) -/
  tries : Nat := 0
  deriving DecidableEq, Repr, Inhabited

structure Fabric where
  pkgid : Nat := 0
  /-- the fabric request block (R295): FOP as last written, FSTS, ARG0 to ARG5 -/
  fop : Byte := 0
  fsts : Byte := 0
  args : FabArgs := ⟨0, 0, 0, 0, 0, 0⟩
  routes : List RouteEnt := []
  groups : List Group := []
  seqs : List Sequencer := []
  /-- membership entries (port, entry): key and partition (R295, R400) -/
  keys : List ((Nat × Nat) × (W16 × Nat)) := []
  pkts : List Packet := []
  nextIx : Nat := 0
  nextTag : Nat := 0
  stos : List StoOut := []
  /-- what has left for the hosts: posted writes, oldest first (port, host address, bytes) (R188, R439) -/
  posted : List (Nat × Nat × List Byte) := []
  deriving DecidableEq, Repr, Inhabited

/-! ## Sett -/

/-- An action box entry: header VER, STAT, payload. -/
structure ActEnt where
  ver : W16
  stat : Nat
  /-- the version differed from that of the action accepted before it in the same episode (VCH of its answer, R314) -/
  vch : Bool
  payload : List Byte
  deriving DecidableEq, Repr, Inhabited

/-- An observation box entry: header and payload (R314). -/
structure ObsEnt where
  hdr : BitVec 128
  payload : List Byte
  deriving DecidableEq, Repr, Inhabited

inductive SlotState where
  | closed | run | ended | stopped
  deriving DecidableEq, Repr, Inhabited

/-- An episode slot: its CSR bank (R309) and its mailbox state (R313 to R316). -/
structure EpSlot where
  sbase : Nat := 0
  slen : Nat := 0
  gbase : Nat := 0
  glen : Nat := 0
  key : W16 := 0
  rule : Nat := 0
  open_ : Bool := false
  steplim : W32 := 0
  eplim : W32 := 0
  state : SlotState := .closed
  step : W32 := 0
  vcur : W16 := 0
  vnone : Bool := true
  /-- the held FENCE action; HLD (R313) is its presence -/
  held : Option ActEnt := none
  acts : List ActEnt := []
  obs : List ObsEnt := []
  term : Option ObsEnt := none
  /-- VER and VCH of the last delivered action of the episode (R319), none if none -/
  ans : Option (W16 × Bool) := none
  /-- the STAT 4 of a RESET action that the next observation answers (R314) -/
  ansReset : Bool := false
  /-- VER of the last delivered action, for mb.ver (R318) -/
  lastVer : W16 := 0
  /-- the step watchdog: cycles counted, and whether it counts (R316) -/
  wdog : Nat := 0
  counting : Bool := false
  /-- the mb.steps whose posts are done and which have still to receive, one in a mode at most: address and mode (R319) -/
  posted : List (W64 × Nat) := []
  /-- OSTEP: the STEP of the last observation that an MBRCV has received from the slot (R322; log 32) -/
  ostep : W32 := 0
  deriving DecidableEq, Repr, Inhabited

inductive PMode where
  | m | s | u
  deriving DecidableEq, Repr, Inhabited

/-- A Sett core (R308): RV64GC with its CSRs. -/
structure Sett where
  pc : W64 := 0
  x : Vector W64 32 := Vector.replicate 32 0
  f : Vector W64 32 := Vector.replicate 32 0
  fcsr : Byte := 0
  mode : PMode := .m
  sram : Mem := []
  /-- CSRs other than those with a field of their own, by number; an unlisted one is 0 -/
  csrs : List (Nat × W64) := []
  kjepi : Nat := 0
  slots : Vector EpSlot 16 := Vector.replicate 16 {}
  /-- LR reservation: true for SRAM, the 64-byte aligned address (R310) -/
  resv : Option (Bool × Nat) := none
  /-- the stop interrupt to the monitor (R311, R317) -/
  stopIrq : Bool := false
  wfi : Bool := false
  /-- 8-byte words of its SRAM that hold an uncorrectable error, by offset (R405) -/
  badRam : List Nat := []
  /-- it waits in an mb.recv or mb.step; core cycles at its latest move: the step watchdog counts from there (R316) -/
  boxWait : Bool := false
  at_ : Nat := 0
  cycle : W64 := 0
  instret : W64 := 0
  deriving DecidableEq, Repr, Inhabited

/-! ## Checkpoints -/

inductive CkState where
  /-- accepted, waiting for the freeze at a PHASE release -/
  | waiting
  | copying
  | done
  | failed
  deriving DecidableEq, Repr, Inhabited

/-- A checkpoint that has been accepted (R412 to R417). -/
structure Ckpt where
  kernel : Nat
  part : Nat
  cid : Nat
  no : Nat
  base : Nat
  full : Bool
  state : CkState
  /-- the descriptor: destination kind, package, DADR, DLEN, PROG, windows (R413) -/
  dkind : Nat
  pkg : Nat
  dadr : Nat
  dlen : Nat
  prog : Nat
  wins : List (Nat × Nat)
  /-- stream offset of this checkpoint (R415) -/
  onext : Nat
  tfreeze : Nat := 0
  phn : W32 := 0
  /-- pages of the snapshot set that are not yet copied: virtual and physical address -/
  todo : List (Nat × Nat) := []
  pages : Nat := 0
  pdone : Nat := 0
  /-- the header of the checkpoint has been written -/
  headed : Bool := false
  /-- FAIL of one that has failed (R416) -/
  failNo : Nat := 0
  deriving DecidableEq, Repr, Inhabited

/-- What the checkpoint engines keep for a kernel (R414, R415). -/
structure CkKernel where
  kernel : Nat
  count : Nat
  onext : Nat
  /-- the full checkpoint on which the chain rests -/
  base : Nat
  nextFull : Bool
  deriving DecidableEq, Repr, Inhabited

structure CkSt where
  reqs : List Ckpt := []
  kernels : List CkKernel := []
  /-- dirty bits: physical 64 KiB pages -/
  dirty : List Nat := []
  /-- protected pages, and those whose old contents lie in the side buffer -/
  prot : List Nat := []
  side : List (Nat × Mem) := []
  /-- writes of device units that wait for room in a side buffer, oldest first: physical address, bytes (R414; log 35) -/
  held : List (Nat × List Byte) := []
  deriving DecidableEq, Repr, Inhabited

/-! ## Power and host -/

structure PowerGroup where
  gcap : Nat := 1750
  /-- CADREQ (log 6) -/
  cadreq : Nat := 1
  drpcad : Nat := 3
  /-- DROOP; whether its alarm is held; and, once it has ended, the value to which CAD has fallen (R431) -/
  droop : Bool := false
  droopHeld : Bool := false
  droopCad : Nat := 0
  oc : Bool := false
  /-- dies of the group that hold the thermal trip (R432) -/
  trips : List Nat := []
  /-- BAL: the exception of R430 runs; the core cycle at which it began; and its 20 µs have run out, so that no ballast is
  injected -/
  bal : Bool := false
  balFrom : Nat := 0
  balStopped : Bool := false
  coarse : Bool := false
  tjp : W16 := 0
  pavg : W32 := 0
  debt : W64 := 0
  deriving DecidableEq, Repr, Inhabited

structure Power where
  thawPod : Nat := 0
  thawStep : Nat := 200
  thawEn : Bool := true
  /-- start rank of each group (R424); none listed: rank g -/
  ord : List Nat := List.range 16
  dstep : Nat := 8
  step : Nat := 8
  floor : Nat := 8
  maclimEn : Bool := true
  pcap : Nat := 28000
  groups : Vector PowerGroup 16 := Vector.replicate 16 {}
  deriving DecidableEq, Repr, Inhabited

/-- A host-window block (R439). -/
structure HostWin where
  base : Nat := 0
  len : Nat := 0
  pests : BitVec 5 := 0
  deriving DecidableEq, Repr, Inhabited

structure HostSt where
  /-- BSTS (R438) -/
  step : Nat := 0
  fail : Nat := 0
  /-- HCTL (R440) -/
  stby : Bool := false
  stbya : Bool := false
  dbgm : Bool := false
  nores : Bool := false
  noscrb : Bool := false
  /-- host windows by (partition, port) -/
  wins : List ((Nat × Nat) × HostWin) := []
  link0 : Bool := false
  link1 : Bool := false
  /-- the west and the east I/O die have lost their clock; the east one carries the fabric switch (R10, R408) -/
  lost0 : Bool := false
  lost1 : Bool := false
  /-- the debug mailbox (R442) -/
  dcmd : W64 := 0
  dctx : W64 := 0
  dval : W64 := 0
  dsts : W64 := 0
  /-- MSI-X vectors that have been raised, newest first: queue's partition and vector (R373) -/
  msix : List (Nat × Nat) := []
  tap : TapOp := .idcode
  /-- TAP data register as last shifted out (R420) -/
  tapOut : W32 := 0
  inReset : Bool := true
  deriving DecidableEq, Repr, Inhabited

/-- The package information window as last published (R19, R22), and the publication generation. -/
structure Info where
  gen : W64 := 0
  livec : W64 := 0
  livem : W64 := 0
  cal : Bool := false
  degr : Bool := false
  refe : Bool := false
  calt : W64 := 0
  /-- offset entries (R21) -/
  offs : List OffsetEntry := []
  /-- the tables have been published (bring-up step 5) -/
  published : Bool := false
  deriving DecidableEq, Repr, Inhabited

/-! ## The machine -/

/-- Who makes a step. -/
inductive Agent where
  /-- a role of a context -/
  | role (c : CtxId) (r : Role)
  /-- Sett core `k` of die `die` -/
  | sett (die k : Nat)
  /-- a unit of the device: the row and its operands -/
  | event (i : Instr) (inp : Input)
  deriving DecidableEq, Repr

/-- A move of the agenda: the core cycles that pass before it, and who makes it (log 1, log 2). -/
structure Move where
  cycles : Nat
  agent : Agent
  deriving DecidableEq, Repr

/-- A fault that has stopped a context in the present cycle (R371): the faulting role, the index of its record, and the roles as
they stood before it, in the order L, C, S. -/
structure FaultStop where
  c : CtxId
  role : Nat
  seq : W32
  before : List RoleSt
  deriving DecidableEq, Repr

structure State where
  /-- the model's own: the moves to come, the agent that moves now, the operands of a device step, the number of the next
  free value (log 1, log 3) -/
  agenda : List Move
  turn : Agent
  /-- the role that the round robin of an empty agenda served last (log 1) -/
  rr : CtxId × Role
  inp : Input
  freeIx : Nat
  /-- the model's own: bank units (0, core), mailbox slots (1, EPI) and contexts (2, context) on which a move of the present cycle has
  acted, with its rank there, newest first (R211, R214, R259, R324, R371) -/
  ranks : List ((Nat × Nat) × Nat)
  /-- the model's own: the faults that have stopped contexts in the present cycle, newest first (R371) -/
  stops : List FaultStop
  /-- core clock cycles since reset; CYC of a core is these less its lost ones (R112) -/
  cycles : Nat
  /-- reference TIME in half nanoseconds; it reads zero until calibration (R15, R16) -/
  time2 : Nat
  /-- `cycles` at ring start: RST counts from there (R273) -/
  ringStart : Nat
  /-- `cycles` when the cores were last powered: CYC counts from there (R112, R440) -/
  coreStart : Nat
  ctxs : List (CtxId × Ctx)
  /-- contexts saved away whose slot another kernel holds (R385), and the contexts as earlier images hold them, by image
  number (R357) -/
  away : List (CtxId × Ctx)
  images : List (Nat × Ctx)
  /-- cores that are not in their reset state -/
  cores : List (Nat × Core)
  dies : List (Nat × Die)
  /-- clock regions 0 to 129 (R15, R21); one that is not listed has the reference's TIME -/
  regions : List (Nat × ClockRegion)
  kernels : List Kernel
  nextKernel : Nat
  nodes : List Node
  nextNode : Nat
  queues : List LQueue
  /-- partition descriptors (R399) -/
  parts : List (Nat × Partition)
  hbm : Mem
  /-- the writes of G that have been performed, newest first (R184) -/
  hist : List GWrite
  /-- physical 8-byte words of HBM, and (context, buffer 0 A 1 W 2 Z, offset) words of SRAM, with an uncorrectable error
  (R405) -/
  poison : List Nat
  poisonS : List (CtxId × Nat × Nat)
  /-- L of R398 -/
  liveStacks : List Nat
  failedStacks : List Nat
  passThrough : BitVec 128
  passForced : BitVec 128
  info : Info
  ring : Ring
  fab : Fabric
  sett : List ((Nat × Nat) × Sett)
  ck : CkSt
  power : Power
  host : HostSt
  /-- the running management controller: false west, true east (R434) -/
  eastControl : Bool
  deriving DecidableEq, Repr

/-- Why the machine stops where the spec gives the step no effect. -/
inductive Fault where
  /-- A Vartar or Sett instruction is executed while `turn` names no role (Sett core) that could execute it: raised by the
  wrapper of Machine/Ops.lean. Safe: step never executes one so, and the machine stops. -/
  | noActor
  deriving DecidableEq, Repr

/-- Why the model gives no next state. -/
inductive Refusal where
  /-- Machine/Dispatch.lean, for an instruction without its meaning. Safe: nothing is proved of it. -/
  | notModelled (mnemonic : String)
  deriving DecidableEq, Repr

/-- The package after power-on reset, before bring-up step 1 (R441): no context exists, the dies are not live, queues are
closed. The registers without a stated reset value are named in INVENTORY.md (logs 1 to 8). -/
def State.reset : State where
  agenda := []
  turn := .role ⟨0, 0⟩ .s
  rr := (⟨0, 0⟩, .s)
  inp := {}
  freeIx := 0
  ranks := []
  stops := []
  cycles := 0
  time2 := 0
  ringStart := 0
  coreStart := 0
  ctxs := []
  away := []
  images := []
  cores := []
  dies := []
  regions := []
  kernels := []
  nextKernel := 0
  nodes := []
  nextNode := 0
  queues := []
  parts := []
  hbm := []
  hist := []
  poison := []
  poisonS := []
  liveStacks := []
  failedStacks := []
  passThrough := 0
  passForced := 0
  info := {}
  ring := {}
  fab := {}
  sett := []
  ck := {}
  power := {}
  host := {}
  eastControl := false

end Sys2Proof.Machine
end

