-- ==== Sys2Proof/Machine/Ops.lean ====
section
/-! DEFINITION. The named operations over the state: lists by key, memory, registers, clocks, text, package memory and its
translation (R389 to R399), the information window, queues and tokens, the end of a fault domain (R28), taking a fault or
trap (R369) and the return from one (R354). -/

namespace Sys2Proof.Machine

/-! ## Lists by key -/

/-- The value at a key. -/
def aget {κ α : Type} [DecidableEq κ] : List (κ × α) → κ → Option α
  | [], _ => none
  | (k', v) :: r, k => if k' = k then some v else aget r k

/-- Sets the value at a key: in place, or at the end. -/
def aset {κ α : Type} [DecidableEq κ] : List (κ × α) → κ → α → List (κ × α)
  | [], k, v => [(k, v)]
  | (k', v') :: r, k, v => if k' = k then (k, v) :: r else (k', v') :: aset r k v

/-! ## Memory -/

/-- The byte at an address: 0 where nothing is listed (log 5). -/
def Mem.get : Mem → Nat → Byte
  | [], _ => 0
  | (a', b) :: r, a => if a' = a then b else if a' < a then Mem.get r a else 0

/-- Writes one byte and keeps the canonical form. -/
def Mem.set : Mem → Nat → Byte → Mem
  | [], a, b => if b = 0 then [] else [(a, b)]
  | (a', b') :: r, a, b =>
    if a' = a then if b = 0 then r else (a, b) :: r
    else if a' < a then (a', b') :: Mem.set r a b
    else if b = 0 then (a', b') :: r else (a, b) :: (a', b') :: r

/-- Every address of the list is at least `lo`, addresses rise strictly, and no byte is 0. -/
def Mem.wfFrom : Nat → Mem → Bool
  | _, [] => true
  | lo, (a, b) :: r => decide (lo ≤ a) && (b != 0) && Mem.wfFrom (a + 1) r

/-- The canonical form. -/
def Mem.wf (m : Mem) : Bool := Mem.wfFrom 0 m

/-- `n` bytes from an address, lowest first. -/
def Mem.read (m : Mem) (a : Nat) : Nat → List Byte
  | 0 => []
  | n + 1 => m.get a :: Mem.read m (a + 1) n

/-- Writes bytes from an address up. -/
def Mem.write (m : Mem) (a : Nat) : List Byte → Mem
  | [] => m
  | b :: r => Mem.write (m.set a b) (a + 1) r

/-- The little-endian value of `n` bytes. -/
def Mem.nat (m : Mem) (a n : Nat) : Nat := natOfBytes (m.read a n)

/-- The cells of a range. -/
def Mem.range (m : Mem) (lo n : Nat) : Mem := m.filter (fun c => decide (lo ≤ c.1) && decide (c.1 < lo + n))

/-- `n` little-endian bytes of a number. -/
def bytesN (x n : Nat) : List Byte := bytesOf (BitVec.ofNat (8 * n) x) n

/-- Part of a byte list as a number. -/
def numAt (l : List Byte) (off n : Nat) : Nat := natOfBytes ((l.drop off).take n)

/-- A number taken as `n` bits of two's complement. -/
def signed (n x : Nat) : Int := (BitVec.ofNat n x).toInt

/-- The 64-bit word of an integer. -/
def w64 (x : Int) : W64 := BitVec.ofInt 64 x

/-! ## Parts of the state -/

/-- A role of a context. -/
structure Who where
  c : CtxId
  r : Role
  deriving DecidableEq, Repr, Inhabited

/-- R36: 0b00 L, 0b01 C, 0b10 S. -/
def Role.code : Role → Nat
  | .l => 0
  | .c => 1
  | .s => 2
def Role.all : List Role := [.l, .c, .s]
/-- The role of a code. -/
def roleOf (n : Nat) : Role := if n = 0 then .l else if n = 1 then .c else .s

def Ctx.role (x : Ctx) : Role → RoleSt
  | .l => x.rl
  | .c => x.rc
  | .s => x.rs
def Ctx.setRole (x : Ctx) (r : Role) (v : RoleSt) : Ctx :=
  match r with
  | .l => { x with rl := v }
  | .c => { x with rc := v }
  | .s => { x with rs := v }

def State.ctx (s : State) (c : CtxId) : Option Ctx := aget s.ctxs c
def State.setCtx (s : State) (c : CtxId) (x : Ctx) : State := { s with ctxs := aset s.ctxs c x }
def State.modCtx (s : State) (c : CtxId) (f : Ctx → Ctx) : State :=
  match s.ctx c with
  | none => s
  | some x => s.setCtx c (f x)
def State.modRole (s : State) (w : Who) (f : RoleSt → RoleSt) : State :=
  s.modCtx w.c (fun x => x.setRole w.r (f (x.role w.r)))

/-- A core; one that is not listed is in its reset state. -/
def State.core (s : State) (cid : Nat) : Core := (aget s.cores cid).getD {}
def State.modCore (s : State) (cid : Nat) (f : Core → Core) : State :=
  { s with cores := aset s.cores cid (f (s.core cid)) }
def State.die (s : State) (d : Nat) : Die := (aget s.dies d).getD {}
def State.modDie (s : State) (d : Nat) (f : Die → Die) : State := { s with dies := aset s.dies d (f (s.die d)) }
def State.part (s : State) (p : Nat) : Partition := (aget s.parts p).getD {}
def State.modPart (s : State) (p : Nat) (f : Partition → Partition) : State :=
  { s with parts := aset s.parts p (f (s.part p)) }
def State.kernel (s : State) (k : Nat) : Option Kernel := s.kernels.find? (fun x => x.id == k)
def State.modKernel (s : State) (k : Nat) (f : Kernel → Kernel) : State :=
  { s with kernels := s.kernels.map (fun x => if x.id = k then f x else x) }
def State.node (s : State) (n : Nat) : Option Node := s.nodes.find? (fun x => x.id == n)
def State.modNode (s : State) (n : Nat) (f : Node → Node) : State :=
  { s with nodes := s.nodes.map (fun x => if x.id = n then f x else x) }
/-- A launch queue; one that is not listed is closed. -/
def State.queue (s : State) (q : Nat) : LQueue := (s.queues.find? (fun x => x.q == q)).getD { q := q }
/-- Changes a launch queue; there are 64 (R373). -/
def State.modQueue (s : State) (q : Nat) (f : LQueue → LQueue) : State :=
  if 64 ≤ q then s
  else if s.queues.any (fun x => x.q == q) then
    { s with queues := s.queues.map (fun x => if x.q = q then f x else x) }
  else { s with queues := f { q := q } :: s.queues }
def State.trapQ (s : State) (d p : Nat) : TrapQ := (aget (s.die d).tq p).getD {}
def State.modTrapQ (s : State) (d p : Nat) (f : TrapQ → TrapQ) : State :=
  s.modDie d (fun x => { x with tq := aset x.tq p (f (s.trapQ d p)) })
def State.window (s : State) (p k : Nat) : HostWin := (aget s.host.wins (p, k)).getD {}
def State.modWindow (s : State) (p k : Nat) (f : HostWin → HostWin) : State :=
  { s with host := { s.host with wins := aset s.host.wins (p, k) (f (s.window p k)) } }

/-- A die of a core (R11). -/
def dieOf (cid : Nat) : Nat := cid / 128
/-- The power group of a die (R443). -/
def groupOf (d : Nat) : Nat := 4 * (d / 8 / 2) + (d % 8) / 2

/-- The site (y, x) of a station. -/
def siteOf (s : Nat) : Nat × Nat :=
  if s < 16 then (0, s)
  else if 121 ≤ s then (128 - s, 0)
  else
    let y := (s - 16) / 15 + 1
    let k := (s - 16) % 15
    (y, if y % 2 = 1 then 15 - k else k + 1)

/-- The station of a site. -/
def stationAt (y x : Nat) : Nat :=
  if y = 0 then x else if x = 0 then 128 - y else if y % 2 = 1 then 16 + 15 * (y - 1) + (15 - x) else 16 + 15 * (y - 1) + (x - 1)

/-- The station of a compute die. -/
def dieStation (d : Nat) : Nat := stationAt (d / 8) (2 * (d % 8) + d / 8 % 2)
/-- The station of a stack. -/
def stackStation (m : Nat) : Nat := stationAt (m / 8) (2 * (m % 8) + 1 - m / 8 % 2)
/-- The die or stack of a station: the same formula for both. -/
def stationUnit (s : Nat) : Nat := 8 * (siteOf s).1 + (siteOf s).2 / 2
/-- Even stations are compute dies. -/
def isDieStation (s : Nat) : Bool := s % 2 == 0

/-- A value the spec leaves open, and the state with the counter advanced (log 3). -/
def State.free (s : State) : W64 × State := (Config.freeWord s.freeIx, { s with freeIx := s.freeIx + 1 })

/-! ## Clocks -/

/-- CYC (R112). -/
def State.cyc (s : State) (cid : Nat) : W64 := BitVec.ofNat 64 (s.cycles - s.coreStart - (s.core cid).lost)
/-- A clock region (R15). -/
def State.region (s : State) (r : Nat) : ClockRegion := (aget s.regions r).getD {}
/-- TIME of a region, in half nanoseconds. -/
def State.regionTime (s : State) (r : Nat) : Int := s.time2 + (s.region r).ofs
/-- TIME of a die's region, in whole nanoseconds; zero until calibration (R15, R16). -/
def State.time (s : State) (d : Nat) : W64 :=
  if s.info.cal then BitVec.ofInt 64 (s.regionTime d / 2) else 0
/-- Reference TIME. -/
def State.refTime (s : State) : Nat := if s.info.cal then s.time2 / 2 else 0
/-- RST (R273). -/
def State.rst (s : State) : Nat := if s.host.step < 4 ∨ s.host.step = 15 then 0 else s.cycles - s.ringStart

/-! ## Scalar registers, predicates, loop counters -/

/-- s0 reads 0 (R78). -/
def RoleSt.s (r : RoleSt) (n : Nat) : W64 := if n = 0 then 0 else r.sregs[n]?.getD 0
/-- A write to s0 is discarded (R78). -/
def RoleSt.setS (r : RoleSt) (n : Nat) (v : W64) : RoleSt :=
  if n = 0 then r else { r with sregs := r.sregs.setIfInBounds n v }
/-- p0 is true (R110). -/
def RoleSt.p (r : RoleSt) (n : Nat) : Bool := n == 0 || bitAt r.preds n
/-- A write to p0 is discarded (R78). -/
def RoleSt.setP (r : RoleSt) (n : Nat) (v : Bool) : RoleSt :=
  if n = 0 then r
  else { r with preds := if v then r.preds ||| (1#8 <<< n) else r.preds &&& ~~~(1#8 <<< n) }
def RoleSt.loop (r : RoleSt) (n : Nat) : LoopCtr := r.loops[n]?.getD {}

/-- Writes a scalar of a role. -/
def State.setS (s : State) (w : Who) (n : Nat) (v : W64) : State := s.modRole w (fun r => r.setS n v)
/-- Writes a predicate of a role. -/
def State.setP (s : State) (w : Who) (n : Nat) (v : Bool) : State := s.modRole w (fun r => r.setP n v)
/-- Raises sticky flags of a role (R72). -/
def State.orFlags (s : State) (w : Who) (f : BitVec 5) : State := s.modRole w (fun r => { r with flg := r.flg ||| f })

/-! ## Text -/

/-- A section of a text by number. -/
def sectionOf (t : List Section) (n : Nat) : Option Section := t.find? (fun x => x.sec == n)

/-- Instruction words in a code section (R92). -/
def Section.words (x : Section) : Nat := x.body.length / 12

/-- The section that follows in the text (R93). -/
def sectionAfter : List Section → Nat → Option Section
  | a :: b :: r, n => if a.sec = n then some b else sectionAfter (b :: r) n
  | _, _ => none

/-- The bytes of an instruction word (R75, R92). -/
def fetchBytes (t : List Section) (p : Pos) : List Byte :=
  match sectionOf t p.sec with
  | some x => (x.body.drop (12 * p.word)).take 12
  | none => []

/-- Bytes of a section of the text that a context executes touch an uncorrectable word (R405). -/
def Ctx.textBad (x : Ctx) (sec a n : Nat) : Bool :=
  x.badText.any (fun e => e.1 == sec && decide (e.2 < a + n) && decide (a < e.2 + 8))

/-- Where control falls through to from a word: the next word of its section, or the first word of the next section when
that is a code section; otherwise nowhere (R93). -/
def fallThrough (t : List Section) (p : Pos) : Option Pos :=
  match sectionOf t p.sec with
  | none => none
  | some x =>
    if p.word + 1 < x.words then some ⟨p.sec, p.word + 1⟩
    else match sectionAfter t p.sec with
      | some y => if y.kind = 1 then some ⟨y.sec, 0⟩ else none
      | none => none

/-- A taken branch or CALL may go to a code section only (R93). -/
def isCode (t : List Section) (n : Nat) : Bool :=
  match sectionOf t n with
  | some x => x.kind == 1
  | none => false

/-- The text of a context's kernel. -/
def State.textOf (s : State) (x : Ctx) : List Section :=
  match s.kernel x.kernel with
  | some k => k.text
  | none => []

/-- The words of a text in order, with their places: code sections only. -/
def codeWords (t : List Section) : List (Pos × Word96) :=
  t.flatMap (fun x =>
    if x.kind = 1 then
      (List.range x.words).map (fun i => (⟨x.sec, i⟩, wordOfBytes 96 ((x.body.drop (12 * i)).take 12)))
    else [])

/-- The word carries the A tag (R76). -/
def isATag (w : Word96) : Bool := field w 94 2 == 0b11#2

/-- How many A-tagged words stand before a place in the text: the number of its A-interval (R38). -/
def intervalOf (t : List Section) (p : Pos) : Nat :=
  (codeWords (t.takeWhile (fun x => x.sec != p.sec))).countP (fun e => isATag e.2) +
    (codeWords t).countP (fun e => e.1.sec == p.sec && decide (e.1.word < p.word) && isATag e.2)

/-! ## Package memory: placement and physical access -/

/-- RB (R398): 0 while no stack is live. -/
def rowsPerBucket (n : Nat) : Nat := if n = 0 then 0 else 12582912 / ((4096 + n - 1) / n)
/-- PBYTES (R399). -/
def State.pbytes (s : State) : Nat := 4096 * rowsPerBucket s.liveStacks.length * 4096
/-- The bucket of a granule (R397). -/
def bucketOf (pa : Nat) : Nat := ((pa / 4096) % 4096) ^^^ (((pa / 4096) / 4096) % 4096)
/-- The stack that holds a physical address (R397, R398). -/
def State.stackOf (s : State) (pa : Nat) : Nat :=
  s.liveStacks.getD (bucketOf pa % s.liveStacks.length) 0
/-- The local granule within the stack (R397). -/
def State.localGranule (s : State) (pa : Nat) : Nat :=
  bucketOf pa / s.liveStacks.length * rowsPerBucket s.liveStacks.length + pa / 4096 / 4096

/-- A physical range meets an uncorrectable error: a poisoned word, or a failed stack (R405, R410). -/
def State.badG (s : State) (pa n : Nat) : Bool :=
  s.poison.any (fun q => decide (q < pa + n) && decide (pa < q + 8)) ||
    (!s.failedStacks.isEmpty && (s.failedStacks.contains (s.stackOf pa) || s.failedStacks.contains (s.stackOf (pa + n - 1))))

/-- A write that covers a poisoned word whole clears its poison (R405). -/
def clearPoison (l : List Nat) (pa n : Nat) : List Nat :=
  l.filter (fun q => !(decide (pa ≤ q) && decide (q + 8 ≤ pa + n)))

/-- The side buffer of the page's base die, 64 pages, has room (R414). -/
def State.sideRoom (s : State) (page : Nat) : Bool :=
  decide (s.ck.side.countP (fun e => s.stackOf e.1 == s.stackOf page) < 64)

/-- The old contents of a protected page go to the side buffer, while it has room (R414). -/
def State.saveSide (s : State) (page : Nat) : State :=
  if s.ck.prot.contains page && (aget s.ck.side page).isNone && s.sideRoom page then
    { s with ck := { s.ck with side := s.ck.side ++ [(page, s.hbm.range page 65536)] } }
  else s

/-- A write to the page must wait: it is protected, not yet copied, and the side buffer is full (R414). -/
def State.sideFull (s : State) (page : Nat) : Bool :=
  s.ck.prot.contains page && (aget s.ck.side page).isNone && !s.sideRoom page

/-- The 64 KiB page of a physical address. -/
def pageOf (pa : Nat) : Nat := pa / 65536 * 65536

/-- A write breaks the LR reservations of its 64-byte blocks (R310). -/
def Sett.breakResv (t : Sett) (sram : Bool) (a n : Nat) : Sett :=
  match t.resv with
  | some (b, r) => if b = sram ∧ a < r + 64 ∧ r < a + n then { t with resv := none } else t
  | none => t

/-- The aligned 4-byte words of a range as they stand before a write (R184). -/
def oldWords (m : Mem) (pa n : Nat) (own : Option Nat) : List GWrite :=
  (List.range ((pa + n + 3) / 4 - pa / 4)).map (fun i => { pa := 4 * (pa / 4 + i), old := m.read (4 * (pa / 4 + i)) 4, own := own })

/-- A performed write of package memory: the bytes, the words that racing reads may still return, the poison it clears, the
page's dirty bit, the reservations it breaks (R184, R310, R405, R414). -/
def State.writeG (s : State) (pa : Nat) (l : List Byte) (own : Option Nat := none) : State :=
  let s := s.saveSide (pageOf pa)
  { s with
    hbm := s.hbm.write pa l
    hist := oldWords s.hbm pa l.length own ++ s.hist
    poison := clearPoison s.poison pa l.length
    sett := s.sett.map (fun e => (e.1, e.2.breakResv false pa l.length))
    ck := { s.ck with dirty := if s.ck.dirty.contains (pageOf pa) then s.ck.dirty else pageOf pa :: s.ck.dirty } }

/-- The write of a device unit, which has no buffer of its own: where a side buffer is full it waits, and those after it behind it (R414,
log 35). -/
def State.writeDev (s : State) (pa : Nat) (l : List Byte) : State :=
  if s.sideFull (pageOf pa) ∨ !s.ck.held.isEmpty then { s with ck := { s.ck with held := s.ck.held ++ [(pa, l)] } } else s.writeG pa l
/-- The waiting writes that have room by now are performed, in their order. -/
def State.flushDev (s : State) : List (Nat × List Byte) → State
  | [] => { s with ck := { s.ck with held := [] } }
  | (pa, l) :: r =>
    if s.sideFull (pageOf pa) then { s with ck := { s.ck with held := (pa, l) :: r } } else State.flushDev (s.writeG pa l) r

/-- `n` bytes of package memory. -/
def State.readG (s : State) (pa n : Nat) : List Byte := s.hbm.read pa n

/-- Who makes a plain read of G: the core, where its L role reads and where not, the writes by number that happen before the read, and those before the phase
boundary, which alone orders for every core writes that a copy command has not released so far (R184, R191). -/
structure Reader where
  own : Option Nat
  core : Nat
  floor : Nat
  phase : Nat
  deriving DecidableEq, Repr

/-- A copy command's write that has not been performed with respect to a core (R177, R191). -/
def GWrite.outOf (e : GWrite) (core : Nat) : Bool :=
  match e.loose with
  | none => false
  | some l => if l.reach = 0 then true else if l.reach = 1 then core != l.c.cid else dieOf core != dieOf l.c.cid
/-- A write of G, with `n` writes performed before it, need not be seen yet by a plain read (R181, R184). -/
def Reader.mayMiss (d : Reader) (e : GWrite) (n : Nat) : Bool :=
  (e.own.isNone || e.own != d.own) && (decide (d.floor ≤ n) || (decide (d.phase ≤ n) && e.outOf d.core))
/-- What a plain read of an aligned word may return besides its present value: what it held before each write that the reader may
miss, newest first (R184). -/
def State.versions (s : State) (d : Reader) (pa : Nat) : List (List Byte) :=
  ((s.hist.zipIdx.filter (fun e => e.1.pa == pa)).takeWhile (fun e => d.mayMiss e.1 (s.hist.length - 1 - e.2))).map (·.1.old)
/-- A byte of a plain read of G: `now`, or its value `k` writes of its word back, where that is still admitted (R184). -/
def State.byteBack (s : State) (d : Reader) (k : Byte) (a : Nat) (now : Byte) : Byte :=
  match k.toNat with
  | 0 => now
  | k + 1 => match (s.versions d (a / 4 * 4))[k]? with
    | some b => b.getD (a % 4) 0
    | none => now
/-- A plain read of G from memory: `pick` says for each word, in ascending order, how many writes back its value stands; what
is not listed is present. Each word is decided on its own (R184, R197). -/
def State.readPlain (s : State) (d : Reader) (pick : List Byte) (pa n : Nat) : List Byte :=
  (List.range n).map (fun i => s.byteBack d (pick.getD ((pa + i) / 4 - pa / 4) 0) (pa + i) (s.hbm.get (pa + i)))
/-- The plain read of G by a copy command: the picks repeat over the words of memory, so that every unit of one step decides a word
alike (R184, R191, R197). -/
def State.readEngine (s : State) (d : Reader) (pick : List Byte) (pa n : Nat) : List Byte :=
  (List.range n).map (fun i =>
    s.byteBack d (pick.getD ((pa + i) / 4 % pick.length) 0) (pa + i) (s.hbm.get (pa + i)))

/-! ## Cause codes (R368) -/

def cIllegal : Nat := 0x01
def cPrivilege : Nat := 0x02
def cRole : Nat := 0x03
def cPoolExec : Nat := 0x04
def cRange : Nat := 0x05
def cAlign : Nat := 0x06
def cBound : Nat := 0x07
def cAddrForm : Nat := 0x08
def cTranslation : Nat := 0x09
def cProtection : Nat := 0x0A
def cPoolRange : Nat := 0x0B
def cReturn : Nat := 0x0C
def cDiverge : Nat := 0x0D
def cBoundOver : Nat := 0x0E
def cSecCount : Nat := 0x0F
def cQuiet : Nat := 0x10
def cSelfLoop : Nat := 0x11
def cQueueMap : Nat := 0x12
def cBarrier : Nat := 0x13
def cCircular : Nat := 0x14
def cPeer : Nat := 0x15
def cLease : Nat := 0x16
def cArray : Nat := 0x17
def cCopy : Nat := 0x18
def cWorkList : Nat := 0x19
def cConveyor : Nat := 0x1A
def cMailbox : Nat := 0x1B
def cRemote : Nat := 0x1C
def cHost : Nat := 0x1D
def cMemory : Nat := 0x1E
def cDeadlock : Nat := 0x1F
def cTimeout : Nat := 0x20
def cTarget : Nat := 0x21
def cTrap : Nat := 0x30
def cBkpt : Nat := 0x31
def cHoldOff : Nat := 0x32
def cCopyFault : Nat := 0x33
def cRetired : Nat := 0x34
def cEvent : Nat := 0x40

/-! ## Translation (R389 to R393) -/

/-- What a walk finds (R392). -/
inductive Walk where
  | ok (l : Leaf)
  | fault (cause : Nat)
  deriving DecidableEq, Repr

/-- The index bits and the leaf size of a level (R390). -/
def levelShift (lv : Nat) : Nat := if lv = 0 then 39 else if lv = 1 then 30 else if lv = 2 then 21 else 16
def levelMask (lv : Nat) : Nat := if lv = 3 then 32 else 512
/-- The size of the table that a level-`lv` pointer names: 256 bytes at the last level, 4 KiB above (R390). -/
def tableSize (lv : Nat) : Nat := if lv = 3 then 256 else 4096

/-- One level of a walk (R390 to R392); `fuel` is the number of levels left. -/
def walkFrom (s : State) (p : Partition) (part va : Nat) : Nat → Nat → Nat → Walk
  | 0, _, _ => .fault cTranslation
  | fuel + 1, lv, table =>
    let ea := table + 8 * ((va >>> levelShift lv) % levelMask lv)
    let e := s.hbm.nat ea 8
    let sz := 2 ^ levelShift lv
    let addr := (e / 256 % 2 ^ 40) * 256
    let leaf := e.testBit 1
    if s.badG ea 8 then .fault cTranslation
    else if !e.testBit 0 then .fault cTranslation
    else if e >>> 48 ≠ 0 ∨ (e / 32) % 8 ≠ 0 ∨ e.testBit 3 then .fault cTranslation
    else if (lv = 0 ∧ leaf) ∨ (lv = 3 ∧ !leaf) then .fault cTranslation
    else if leaf then
      if addr % sz ≠ 0 then .fault cTranslation
      else if addr < p.pbase ∨ p.pbase + p.plen < addr + sz then .fault cProtection
      else .ok ⟨part, va / sz * sz, sz, addr, e.testBit 2, e.testBit 4⟩
    else if e.testBit 4 ∨ e.testBit 2 then .fault cTranslation
    else if addr % tableSize (lv + 1) ≠ 0 then .fault cTranslation
    else if addr < p.pbase ∨ p.pbase + p.plen < addr + tableSize (lv + 1) ∨ s.pbytes < addr + tableSize (lv + 1) then
      .fault cTranslation
    else walkFrom s p part va fuel (lv + 1) addr

/-- A walk of a partition's tables (R390 to R392). -/
def State.walk (s : State) (part va : Nat) : Walk :=
  let p := s.part part
  if p.valid then walkFrom s p part va 4 0 p.root else .fault cTranslation

/-- One of `n` bytes lies in the replica window of an installed group (R299). -/
def State.inReplica (s : State) (part va n : Nat) : Bool :=
  s.fab.groups.any (fun g => g.part == part && decide (g.va < va + n) && decide (va < g.va + 2 ^ g.wlog))

/-- The physical address of a virtual one in a leaf (R390), with the checks of write permission, of the replica windows that `n` bytes
meet and of PBYTES (R299, R392, R397). -/
def leafAddr (s : State) (l : Leaf) (va : Nat) (write : Bool) (n : Nat := 1) : Except Nat Nat :=
  if write ∧ (!l.w ∨ s.inReplica l.part va n) then .error cProtection
  else if s.pbytes ≤ l.pa + (va - l.va) then .error cProtection
  else .ok (l.pa + (va - l.va))

/-- The translation that a device unit makes for itself, without a core's cache. -/
def State.xlate (s : State) (part va : Nat) (write : Bool) (n : Nat := 1) : Except Nat Nat :=
  if 0xFFFFFF000000 ≤ va ∨ 2 ^ 48 ≤ va then .error cTranslation
  else match s.walk part va with
    | .fault c => .error c
    | .ok l => leafAddr s l va write n

/-- A leaf in a core's translation cache (R393). -/
def Core.leaf (c : Core) (part va : Nat) : Option Leaf :=
  c.tcache.find? (fun l => l.part == part && decide (l.va ≤ va) && decide (va < l.va + l.size))

/-- A leaf enters a translation cache of 256 entries (R393). -/
def Core.addLeaf (k : Core) (l : Leaf) : Core :=
  { k with tcache := (if 256 ≤ k.tcache.length then k.tcache.drop 1 else k.tcache) ++ [l] }

/-- What a core knows of an address: its cached leaf, else what a walk finds (R393). -/
def State.leafOf (s : State) (cid part va : Nat) : Walk :=
  match (s.core cid).leaf part va with
  | some l => .ok l
  | none => s.walk part va

/-- The translation of an address by a unit of a core (R393). -/
def State.look (s : State) (cid part va : Nat) (write : Bool) (n : Nat := 1) : Except Nat Nat :=
  if 0xFFFFFF000000 ≤ va ∨ 2 ^ 48 ≤ va then .error cTranslation
  else match s.leafOf cid part va with
    | .fault c => .error c
    | .ok l => leafAddr s l va write n

/-- The leaf that a unit of a core has used is in the core's cache from then on (R393). -/
def State.keepLeaf (s : State) (cid part va : Nat) : State :=
  match (s.core cid).leaf part va, s.walk part va with
  | none, .ok l => if 0xFFFFFF000000 ≤ va then s else s.modCore cid (fun k => k.addLeaf l)
  | _, _ => s

/-- Bytes at a virtual address of a partition, for a device unit; none where it does not translate or meets an
uncorrectable error. Accesses that cross a 64 KiB page are read byte by byte. -/
def State.readV (s : State) (part va : Nat) : Nat → Option (List Byte)
  | 0 => some []
  | n + 1 =>
    match s.xlate part va false, State.readV s part (va + 1) n with
    | .ok pa, some r => if s.badG pa 1 then none else some (s.hbm.get pa :: r)
    | _, _ => none

/-- A run of bytes within one page, for a device unit: one translation. -/
def State.readRun (s : State) (part va n : Nat) : Option (List Byte) :=
  match s.xlate part va false with
  | .ok pa => if s.badG pa n then none else some (s.readG pa n)
  | .error _ => none

/-- A write within one page by a device unit; none where it does not translate with write permission. -/
def State.writeRun (s : State) (part va : Nat) (l : List Byte) : Option State :=
  match s.xlate part va true l.length with
  | .ok pa => some (s.writeDev pa l)
  | .error _ => none
/-- A write at a virtual address would have to wait (R414). -/
def State.devBusy (s : State) (part va : Nat) : Bool :=
  !s.ck.held.isEmpty || match s.xlate part va true with
    | .ok pa => s.sideFull (pageOf pa)
    | .error _ => false

/-- The fabric switch serves: the east I/O die, which carries it, has its clock (R10, R408). -/
def State.fabOn (s : State) : Bool := !s.host.lost1

/-! ## The information window (R18 to R23, R399, R424) -/

/-- The latency bands (R20, R23, R219): HMIN, HMAX, LDNS, BARNS. -/
def bands : List (Nat × Nat × Nat × Nat) :=
  [(0, 0, 30, 30), (1, 1, 60, 50), (2, 3, 100, 70), (4, 7, 160, 100), (8, 13, 240, 140), (14, 26, 330, 180)]

def bit1 (b : Bool) (i : Nat) : Nat := if b then 2 ^ i else 0

/-- MACLIM (R428). -/
def Power.maclim (p : Power) : Nat := p.dstep * 2 ^ 24 + p.step * 2 ^ 16 + p.floor * 2 ^ 8 + bit1 p.maclimEn 0
/-- THAW (R425). -/
def Power.thaw (p : Power) : Nat := p.thawPod * 2 ^ 32 + p.thawStep * 2 ^ 16 + bit1 p.thawEn 0
/-- STAT of a group (R424). -/
def PowerGroup.stat (g : PowerGroup) : Nat :=
  bit1 g.droop 0 + bit1 g.oc 1 + bit1 (!g.trips.isEmpty) 2 + bit1 g.bal 3 + bit1 g.coarse 4

/-- The fields of the window as (offset, size, value); any other byte reads zero (R19). -/
def State.infoFields (s : State) : List (Nat × Nat × Nat) :=
  let i := s.info
  let n := s.liveStacks.length
  [(0x0000, 8, 0x4B4A0001), (0x0008, 8, i.gen.toNat), (0x0010, 8, i.livec.toNat), (0x0018, 8, i.livem.toNat),
   (0x0020, 8, bit1 i.cal 0 + bit1 i.degr 1 + bit1 i.refe 2 + bit1 (i.published && !s.host.nores) 3 +
      bit1 (i.published && !s.host.noscrb) 4),
   (0x0028, 8, i.calt.toNat)] ++
  (if i.published then
    (List.range 6).map (fun b =>
      let (lo, hi, ld, bar) := bands.getD b (0, 0, 0, 0)
      (0x40 + 16 * b, 16, bar * 2 ^ 96 + ld * 2 ^ 64 + hi * 2 ^ 16 + lo * 2 ^ 8 + b)) ++
    i.offs.map (fun o => (0x100 + 4 * o.region, 4, lowBits 16 o.ofs * 2 ^ 16 + o.unc.toNat * 2 ^ 8 + 1)) ++
    (List.range 16).flatMap (fun p =>
      let d := s.part p
      let a := 0x400 + 64 * p
      [(a, 1, bit1 d.valid 0), (a + 1, 1, p + 1), (a + 2, 2, d.pgmask.toNat), (a + 4, 2, d.jkey.toNat), (a + 6, 1, d.rcls),
       (a + 8, 8, d.root), (a + 0x10, 8, d.pbase), (a + 0x18, 8, d.plen)]) ++
    [(0x800, 4, rowsPerBucket n), (0x804, 1, n), (0x808, 8, s.pbytes)] ++
    (List.range 4096).map (fun b => (0x1000 + b, 1, s.liveStacks.getD (b % n) 0)) ++
    [(0x2000, 8, s.power.thaw), (0x2018, 8, s.power.maclim), (0x2020, 4, s.power.pcap)] ++
    (List.range 16).map (fun g => (0x2008 + g, 1, s.power.ord.getD g 0)) ++
    (List.range 16).flatMap (fun g =>
      let p := s.power.groups[g]?.getD {}
      let a := 0x2100 + 32 * g
      [(a, 2, p.gcap), (a + 2, 1, p.cadreq), (a + 3, 1, p.drpcad), (a + 4, 2, p.stat), (a + 6, 2, p.tjp.toNat),
       (a + 8, 4, p.pavg.toNat), (a + 0x10, 8, p.debt.toNat)])
   else [])

/-- One byte of the information window. -/
def State.infoByte (s : State) (off : Nat) : Byte :=
  match s.infoFields.find? (fun (a, n, _) => decide (a ≤ off) && decide (off < a + n)) with
  | some (a, _, v) => BitVec.ofNat 8 (v >>> (8 * (off - a)))
  | none => 0

/-- A publication: GEN goes odd and then to the next even value within the one step (R22). Before bring-up step 5 the
window keeps its reset values (R441). -/
def State.publish (s : State) : State :=
  if s.info.published then { s with info := { s.info with gen := s.info.gen + 2 } } else s

/-! ## Cadence (R230, R433) -/

/-- What the sources of R433 give a group, but for a droop and FMIN; `trip`: the core's die holds a thermal trip. -/
def PowerGroup.base (g : PowerGroup) (trip : Bool) : Nat :=
  if g.oc ∨ trip then 63
  else if g.coarse then Nat.max g.cadreq (Nat.min 63 (2 * g.cadreq)) else g.cadreq
/-- What a droop gives: DRPCAD while its alarm is held, then the falling value (R431). -/
def PowerGroup.droopTerm (g : PowerGroup) : Nat := if !g.droop then 0 else if g.droopHeld then g.drpcad else g.droopCad
def State.group (s : State) (g : Nat) : PowerGroup := s.power.groups[g]?.getD {}
def State.modGroupP (s : State) (g : Nat) (f : PowerGroup → PowerGroup) : State :=
  { s with power := { s.power with groups := s.power.groups.setIfInBounds g (f (s.group g)) } }
/-- CAD of a core (R433). -/
def State.cad (s : State) (cid : Nat) : Nat :=
  let g := s.group (groupOf (dieOf cid))
  Nat.max (s.core cid).fmin (Nat.max (g.base (g.trips.contains (dieOf cid))) g.droopTerm)

/-- Core cycles in 20 µs: two to a nanosecond (R1, R430). -/
def ballastCycles : Nat := 40000

/-! ## Queue registers in the system window (R374, R375, R389) -/

/-- The directory word of a queue (R374). -/
def LQueue.word (q : LQueue) : Nat := q.wpart * 2 ^ 60 + q.waddr / 64 * 64 + q.sts * 2 + bit1 q.reg 0

/-- The value of a queue register (R375); a PUBL reads zero (WO, R4). -/
def LQueue.register (q : LQueue) (off : Nat) : Nat :=
  if off = 0x00 then q.tail.toNat
  else if off = 0x18 then q.head.toNat
  else if off = 0x20 then match q.leader with
    | some d => d + 256
    | none => 0
  else if off = 0x28 then bit1 q.err 0
  else 0

/-- A read of the system window (R389). Bytes that a .v load of the information window takes past its end read zero: no rule
names their value or a fault (DESIGN CHOICE, log 9). -/
def State.readWindow (s : State) (off n : Nat) : List Byte :=
  if off < 0x10000 then (List.range n).map (fun i => if off + i < 0x10000 then s.infoByte (off + i) else 0)
  else if off < 0x20000 then bytesN ((s.queue ((off - 0x10000) / 64)).register ((off - 0x10000) % 64)) n
  else (List.range n).map (fun i =>
    let o := off - 0x20000 + i
    if o < 512 then BitVec.ofNat 8 ((s.queue (o / 8)).word >>> (8 * (o % 8))) else 0)

/-- The check of an access to the system window by a context (R18, R374, R375, R389): none where it is permitted. -/
def State.windowFault (s : State) (x : Ctx) (off n : Nat) (write : Bool) (claim : Bool) : Option Nat :=
  if off < 0x10000 then if write then some cProtection else none
  else if off < 0x10000 + 64 * 64 then
    let q := s.queue ((off - 0x10000) / 64)
    let r := (off - 0x10000) % 64
    if q.sts = 0 ∧ q.base = 0 then some cTranslation
    else if q.part ≠ x.part then some cTranslation
    else if n ≠ 4 then some cAlign
    else if r = 0x08 then if claim ∧ q.kapp then none else some cProtection
    else if claim then some cProtection
    else if write ∧ !q.kapp then some cProtection
    else none
  else if 0x20000 ≤ off ∧ off + n ≤ 0x20200 then
    if x.priv ∧ x.servPart = 31 then none else some cTranslation
  else some cTranslation

/-! ## Trap records, faults and the return from them -/

/-- The 64 bytes of a record (R370). -/
def TrapRec.bytes (t : TrapRec) (seq : W32) : List Byte :=
  bytesN t.ctx.cid 2 ++ bytesN t.ctx.num 1 ++ bytesN t.role 1 ++ bytesN t.cause 1 ++ bytesN (bit1 t.multi 0) 1 ++
    bytesN t.code 2 ++ bytesN t.rcb 8 ++
    (t.pcs.flatMap (fun p => bytesN (p.sec * 65536 + p.word) 4)) ++
    bytesN seq.toNat 4 ++ bytesOf t.val 8 ++ bytesOf t.time 8 ++ bytesOf t.cyc 8 ++ bytesN 0 8

/-- Writes a record at TQT and advances TQT (R369 steps 3 and 5). -/
def State.storeRec (s : State) (d p : Nat) (t : TrapRec) : Option State :=
  let q := s.trapQ d p
  if q.tqb = 0 then none
  else match s.writeRun p (q.tqb + 64 * (q.tqt.toNat % 256)) (t.bytes q.tqt) with
    | some s' => some (s'.modTrapQ d p (fun q => { q with tqt := q.tqt + 1 }))
    | none => none

/-- The queue holds 256 unconsumed records. -/
def TrapQ.full (q : TrapQ) : Bool := decide (256 ≤ (q.tqt - q.tqh).toNat)

/-- Appends a record to the trap queue of a die and partition; one that finds the queue full, or no room for the
write, waits; none where no queue takes it (R369 steps 3 to 5, R414). -/
def State.appendRec (s : State) (d p : Nat) (t : TrapRec) : Option State :=
  let q := s.trapQ d p
  if q.tqb = 0 then none
  else if q.full ∨ !q.waiting.isEmpty ∨ s.devBusy p (q.tqb + 64 * (q.tqt.toNat % 256)) then some (s.modTrapQ d p (fun q => { q with waiting := q.waiting ++ [t] }))
  else s.storeRec d p t

/-- The partition whose power group holds a die. -/
def State.partOfDie (s : State) (d : Nat) : Nat :=
  match s.parts.find? (fun (_, x) => x.valid && bitAt x.pgmask (groupOf d)) with
  | some (p, _) => p
  | none => 0

/-- Posts a system event (R403): a class D record with cause 0x40. -/
def State.post (s : State) (d sub unit addr : Nat) : State :=
  let t : TrapRec := ⟨⟨128 * d, 0⟩, 3, cEvent, false, 0, 0, [⟨0, 0⟩, ⟨0, 0⟩, ⟨0, 0⟩],
    BitVec.ofNat 64 (sub * 2 ^ 56 + unit * 2 ^ 48 + addr % 2 ^ 48), s.time d, s.cyc (128 * d)⟩
  (s.appendRec d (s.partOfDie d) t).getD s

/-- A G store meets an uncorrectable error: its stack has failed, or it covers a poisoned word in part (R405, R410). -/
def State.storeBad (s : State) (pa n : Nat) : Bool :=
  s.poison.any (fun q => decide (q < pa + n) && decide (pa < q + 8) && !(decide (pa ≤ q) && decide (q + 8 ≤ pa + n))) ||
    (!s.failedStacks.isEmpty && s.failedStacks.contains (s.stackOf pa))

/-- The performance of a G store: not performed, with SUB 7 at the stack, where it meets an uncorrectable error (R405). -/
def State.performG (s : State) (pa va : Nat) (l : List Byte) : State :=
  if s.storeBad pa l.length then s.post (s.stackOf pa) 7 (s.stackOf pa) va else s.writeG pa l

/-- The same by a device unit, whose write may wait (R414). -/
def State.performDev (s : State) (pa va : Nat) (l : List Byte) : State :=
  if s.storeBad pa l.length then s.post (s.stackOf pa) 7 (s.stackOf pa) va else s.writeDev pa l

/-- The status word of a node (R378). -/
def Node.status (n : Node) : Nat := n.cause * 2 ^ 32 + n.state

/-- The completion record (R380). -/
def recordBytes (status tstart tend phases retc sfc : Nat) : List Byte :=
  bytesN status 8 ++ bytesN tstart 8 ++ bytesN tend 8 ++ bytesN phases 4 ++ bytesN retc 2 ++ bytesN sfc 1 ++ bytesN 0 1

/-- A write in a partition that a device unit makes, dropped where it does not translate. -/
def State.tryWrite (s : State) (part va : Nat) (l : List Byte) : State := (s.writeRun part va l).getD s

/-- Writes a node's STATUS word and completion record (R378, R380), and raises the queue's vector for a root with ICM. -/
def State.writeRecord (s : State) (n : Node) (phases sfc : Nat) : State :=
  let s := s.tryWrite n.part (n.rcb + 0x28) (bytesN n.status 8)
  let s := s.tryWrite n.part n.crec (recordBytes n.status n.tstart s.refTime phases n.retc sfc)
  let root : Bool := match n.parent.bind s.node with
    | some p => p.leaf
    | none => true
  if n.icm ∧ root then
    { s with host := { s.host with msix := (n.part, (s.queue n.queue).msix) :: s.host.msix } }
  else s

/-- A node ends: its record is written, and its parent ends with its last child (R380). `fuel` bounds the levels. -/
def State.endNode : Nat → State → Nat → Nat → Nat → State
  | 0, s, _, _, _ => s
  | fuel + 1, s, id, phases, sfc =>
    match s.node id with
    | none => s
    | some n =>
      let s := s.modNode id (fun m => if m.state = 1 then { m with state := 2 } else m)
      let s := s.writeRecord (if n.state = 1 then { n with state := 2 } else n) phases sfc
      match n.parent with
      | none => s
      | some p =>
        let s := s.modNode p (fun m =>
          { m with children := m.children.filter (· != id), retc := m.retc + n.retc,
                   cause := if m.cause = 0 then n.cause else m.cause })
        match s.node p with
        | some m => if m.children.isEmpty ∧ !m.leaf ∧ (m.state = 1 ∨ m.state = 4) then State.endNode fuel s p 0 0 else s
        | none => s

/-- The flows of a kernel end: their entries return to NONE, and their slots stay ungranted for one rotation (R280). A track of
the Goltik ring carries the allotted slots (R286). -/
def Ring.endFlows (r : Ring) (flows : List Flow) (rst : Nat) : Ring :=
  { r with
    table := r.table.filter (fun e => !(flows.map (·.id)).contains (field e.e 49 12).toNat)
    gone := flows.map (fun f => (f.track, f.slot0, f.k, rst)) ++ r.gone.filter (fun g => decide (rst < g.2.2.2 + 512)) }

/-- A context ends: it holds no storage, lease or queue any more (R31, R350). -/
def Ctx.finish (x : Ctx) : Ctx :=
  { x with state := .ended, acmds := [], loadQ := [], storeQ := [], flights := [], late := none, kstores := [], async := [],
           leaseAsk := false, leaseGive := none }

/-- A context gives the array up: its lease ends, and its planes are loaded again before it uses the array (R233, R239). -/
def Core.dropLease (c : Core) (num : Nat) : Core :=
  { c with
    lease := match c.lease with
      | some l => if l.num = num then none else some l
      | none => none
    arrayOf := if c.arrayOf = some num then none else c.arrayOf }

/-- The core of an ended context: its lease and its freeze end with it (R263, R234). -/
def Core.release (c : Core) (num : Nat) : Core :=
  { c.dropLease num with
    frozen := match c.frozen with
      | some f => if f.1 = num then none else some f
      | none => none }

/-- The bands that a command in flight of the core's array has enabled (R228). -/
def State.bandsInUse (s : State) (cid : Nat) : BitVec 4 :=
  s.ctxs.foldl (fun b (c, x) =>
    if c.cid = cid ∧ (x.state = .run ∨ x.state = .trapped) then
      x.acmds.foldl (fun b k => match k.kind with
        | .mma _ _ _ _ _ _ _ ben => b ||| ben
        | _ => b) b
    else b) 0
/-- The power switch of a band opens once no command in flight has it enabled (R228). -/
def State.openBands (s : State) (cid : Nat) : State := s.modCore cid (fun k => { k with bands := k.bands &&& s.bandsInUse cid })

def State.finishCtx (s : State) (c : CtxId) : State :=
  ((s.modCtx c Ctx.finish).modCore c.cid (fun k => k.release c.num)).openBands c.cid

/-- A kernel ends (R31, R28): its contexts end, its flows end, its record is written. -/
def State.endKernel (s : State) (id : Nat) : State :=
  match s.kernel id with
  | none => s
  | some k =>
    if k.state = .ended then s
    else
      let s := k.grant.foldl (fun (s : State) (c : CtxId) =>
        match s.ctx c with
        | some x => if x.kernel = id then s.finishCtx c else s
        | none => s) s
      let s := { s with ring := s.ring.endFlows k.flows s.rst
                        away := s.away.filter (fun e => e.2.kernel != id) }
      let s := s.modKernel id (fun k => { k with state := .ended, flows := [], flagSets := [], staging := [], prep := [] })
      s.endNode 9 k.node k.phn.toNat k.sfc

/-- The nearest node, from a leaf up, whose fault-domain flag is set; the root acts as if its flag were set (R28). -/
def State.faultDomain : Nat → State → Nat → Nat
  | 0, _, id => id
  | fuel + 1, s, id =>
    match s.node id with
    | none => id
    | some n => if n.fdom then id else match n.parent with
      | none => id
      | some p => State.faultDomain fuel s p

/-- `id` lies in the subtree of `top`. -/
def State.inSubtree : Nat → State → Nat → Nat → Bool
  | 0, _, _, _ => false
  | fuel + 1, s, top, id =>
    id == top || match s.node id with
      | none => false
      | some n => match n.parent with
        | none => false
        | some p => State.inSubtree fuel s top p

/-- R28: every kernel in the subtree of the nearest fault-domain node is ended, and that node reports the fault. -/
def State.endDomain (s : State) (kernel cause : Nat) : State :=
  match s.kernel kernel with
  | none => s
  | some k =>
    let top := State.faultDomain 9 s k.node
    let s := { s with nodes := s.nodes.map (fun n : Node =>
      if State.inSubtree 9 s top n.id ∧ n.state ≤ 1 then { n with state := 4, cause := cause } else n) }
    s.kernels.foldl (fun (s : State) (j : Kernel) => if State.inSubtree 9 s top j.node then s.endKernel j.id else s) s

/-- What a stop does to a role: its wait is abandoned, a YLD whose cycles are not over begins again; what it has performed stays
performed (R102, R369). -/
def RoleSt.stop (r : RoleSt) : RoleSt :=
  { r with wait := none, waited := 0, mark := none, yieldLeft := if r.yieldLeft = some 0 then some 0 else none }

/-- What revocation and pre-emption do to a role: as a stop, but a YLD ends, and the role goes on after it (R122). -/
def RoleSt.park (r : RoleSt) : RoleSt := { r.stop with yieldLeft := r.yieldLeft.map (fun _ => 0) }

/-- The reservation of a waiting MBRCV is released with its wait (R321, R323). -/
def Ctx.unreserve (x : Ctx) : Ctx :=
  match x.rcvd with
  | some (q, id) =>
    let r := x.qs[q]?.getD {}
    { x with rcvd := none, qs := x.qs.setIfInBounds q { r with ents := r.ents.filter (fun e => e.id != id) } }
  | none => x

/-- A kernel's RCB address. -/
def State.rcbOf (s : State) (x : Ctx) : Nat :=
  match s.kernel x.kernel with
  | some k => match s.node k.node with
    | some n => n.rcb
    | none => 0
  | none => 0

/-- TAKING A FAULT OR TRAP (R369). `role` is the faulting role or 3; `next` says that the recorded pc is already the word
after the instruction, `at_` an address other than the role's own. The context enters TRAPPED, its roles abandon their waits, and the record is appended; without a
queue to take it, R28 ends the context. -/
def State.deliverAt (s : State) (c : CtxId) (role cause code : Nat) (val : W64) (next : Bool) (at_ : Option Pos) : State :=
  match s.ctx c with
  | none => s
  | some x =>
    let d := dieOf c.cid
    let here := fun r : Role => if role = Role.code r then at_.getD (x.role r).pc else (x.role r).pc
    let pc := if role < 3 then here (roleOf role) else ⟨0, 0⟩
    let t : TrapRec := ⟨c, role, cause, false, code, s.rcbOf x, [here .l, here .c, here .s], val, s.time d, s.cyc c.cid⟩
    let s := s.setCtx c { x.unreserve with
      state := .trapped, rl := x.rl.stop, rc := x.rc.stop, rs := x.rs.stop, trap := some (role, cause, pc, next) }
    match s.appendRec d x.part t with
    | some s' => { s' with stops := ⟨c, role, (s.trapQ d x.part).tqt, [x.rl, x.rc, x.rs]⟩ :: s.stops }
    | none => s.endDomain x.kernel cause

/-- The record of the stop of a context in this very cycle, at an index or waiting for room, says that a later one follows (R370,
R371). -/
def State.markMulti (s : State) (c : CtxId) (p : Nat) (seq : W32) : State :=
  let d := dieOf c.cid
  let q := s.trapQ d p
  let mine := fun (t : TrapRec) => t.ctx == c && t.time == s.time d && t.cyc == s.cyc c.cid
  if q.waiting.any mine then
    s.modTrapQ d p (fun q => { q with waiting := q.waiting.map (fun t => if mine t then { t with multi := true } else t) })
  else s.tryWrite p (q.tqb + 64 * (seq.toNat % 256) + 5) (bytesN 1 1)

def State.deliver (s : State) (c : CtxId) (role cause code : Nat) (val : W64) (next : Bool) : State :=
  s.deliverAt c role cause code val next none

/-- The self-loop trap, with its mark: overflow or underflow (R202; log 34). -/
def State.raiseLoop (s : State) (w : Who) (excess : Bool) : State :=
  (s.modCtx w.c (fun x => { x with loopMark := some excess })).deliver w.c (Role.code w.r) cSelfLoop 0 0 false

/-- A precise fault of a role. -/
def State.raise (s : State) (w : Who) (cause : Nat) (val : W64) : State :=
  s.deliver w.c (Role.code w.r) cause 0 val false

/-! ## Tokens and q-registers -/

/-- Token FIFO numbers (R206): 0 LC, 1 CL, 2 CS, 3 SC. The pops that TOK bits name (R76). -/
def tokPops (r : Role) (tok : BitVec 4) : List Nat :=
  match r with
  | .l => if bitAt tok 3 then [1] else []
  | .c => (if bitAt tok 3 then [0] else []) ++ (if bitAt tok 0 then [3] else [])
  | .s => if bitAt tok 3 then [2] else []
/-- The pushes that TOK bits name, each with its bit (R76). -/
def tokPushes (r : Role) (tok : BitVec 4) : List (Nat × Nat) :=
  match r with
  | .l => if bitAt tok 2 then [(2, 0)] else []
  | .c => (if bitAt tok 2 then [(2, 1)] else []) ++ (if bitAt tok 1 then [(1, 2)] else [])
  | .s => if bitAt tok 2 then [(2, 3)] else []

def Ctx.tok (x : Ctx) (f : Nat) : Nat := x.toks[f]?.getD 0
def Ctx.setTok (x : Ctx) (f n : Nat) : Ctx := { x with toks := x.toks.setIfInBounds f n }
/-- Removes one token from each named FIFO. -/
def Ctx.popToks (x : Ctx) (l : List Nat) : Ctx := l.foldl (fun x f => x.setTok f (x.tok f - 1)) x

/-- The depth of a q-register (R199). Depths follow the kind of the context; PROF of a text has no effect on an owner context,
as no rule gives it one (DESIGN CHOICE, log 26). -/
def qDepth (harvest : Bool) (q : Nat) : Nat := if harvest then 2 else if q < 12 then 4 else 8
def Ctx.q (x : Ctx) (q : Nat) : QReg := x.qs[q]?.getD {}
def Ctx.setQ (x : Ctx) (q : Nat) (v : QReg) : Ctx := { x with qs := x.qs.setIfInBounds q v }
/-- The q-register that an array command fills row by row (R245). -/
def AKind.epiQ : AKind → Option Nat
  | .epi _ _ q _ _ _ _ => q
  | _ => none
/-- Entries of a q-register that accepted commands have still to reserve: each is reserved as one becomes free (R202, R203,
R245). -/
def Ctx.owed (x : Ctx) (q : Nat) : Nat :=
  ((x.acmds.filter (fun k => k.kind.epiQ == some q)).map (·.owed)).sum +
    (match (x.q q).bind with
    | some b => b.owed
    | none => 0)
/-- Free entries: reserved ones count against the depth, and an entry that becomes free goes to a command that has still to
reserve some (R199, R202, R245). -/
def Ctx.qFree (x : Ctx) (q : Nat) : Nat := qDepth x.harvest q - (x.q q).ents.length - x.owed q
/-- The producer and the consumer role codes of a q-register (R94); 3 where unmapped. -/
def Ctx.producer (x : Ctx) (q : Nat) : Nat := (field x.qmap (4 * q + 2) 2).toNat
def Ctx.consumer (x : Ctx) (q : Nat) : Nat := (field x.qmap (4 * q) 2).toNat
/-- One role is both producer and consumer (R202). -/
def Ctx.selfLoop (x : Ctx) (q : Nat) : Bool := x.producer q == x.consumer q && x.producer q != 3
/-- The oldest command that has still to reserve entries of the q-register reserves one (R202, R203, R245). -/
def Ctx.reserveOwed (x : Ctx) (q : Nat) : Ctx :=
  match x.acmds.find? (fun k => k.kind.epiQ == some q && k.owed != 0) with
  | some k =>
    { x.setQ q { x.q q with ents := (x.q q).ents ++ [{ lanes := none, id := k.qid }] } with
      acmds := x.acmds.map (fun j => if j.acc = k.acc then { j with owed := j.owed - 1 } else j) }
  | none => match (x.q q).bind with
    | some b =>
      if b.owed = 0 then x
      else x.setQ q { x.q q with ents := (x.q q).ents ++ [{ lanes := none, id := b.id }], bind := some { b with owed := b.owed - 1 } }
    | none => x
/-- The entries that have become free are reserved for the commands that wait for them; a depth is at most 8. -/
def Ctx.settleQ (x : Ctx) (q : Nat) : Ctx :=
  (List.range 8).foldl (fun (y : Ctx) _ =>
    if (y.q q).ents.length < qDepth y.harvest q then y.reserveOwed q else y) x
/-- Pushes a present entry. -/
def Ctx.qPush (x : Ctx) (q : Nat) (l : List W32) : Ctx :=
  let y := x.settleQ q
  { y.setQ q { y.q q with ents := (y.q q).ents ++ [{ lanes := some l, id := y.nextId }] } with nextId := y.nextId + 1 }
/-- Reserves an entry (R199); its id is `nextId`. -/
def Ctx.qReserve (x : Ctx) (q : Nat) : Ctx :=
  let y := x.settleQ q
  { y.setQ q { y.q q with ents := (y.q q).ents ++ [{ lanes := none, id := y.nextId }] } with nextId := y.nextId + 1 }
/-- The first entry that is reserved under an id and not yet present receives its bytes; `none` while there is none. -/
def fillFirst : List QEnt → Nat → List W32 → Option (List QEnt)
  | [], _, _ => none
  | e :: r, id, l =>
    if e.id = id ∧ e.lanes.isNone then some ({ e with lanes := some l } :: r)
    else (fillFirst r id l).map (e :: ·)
/-- A command writes its next reserved entry; `none` while none is free for it (R203, R245). -/
def Ctx.qFillNext (x : Ctx) (q id : Nat) (l : List W32) : Option Ctx :=
  let y := x.settleQ q
  (fillFirst (y.q q).ents id l).map (fun e => y.setQ q { y.q q with ents := e })
/-- Fills a reserved entry. -/
def Ctx.qFill (x : Ctx) (q id : Nat) (l : List W32) : Ctx :=
  x.setQ q { x.q q with ents := (x.q q).ents.map (fun e => if e.id = id then { e with lanes := some l } else e) }
/-- Gives up a reservation (R321, R322). -/
def Ctx.qCancel (x : Ctx) (q id : Nat) : Ctx :=
  x.setQ q { x.q q with ents := (x.q q).ents.filter (fun e => e.id != id) }
/-- Removes the entry at the head. -/
def Ctx.qPop (x : Ctx) (q : Nat) : Ctx := x.setQ q { x.q q with ents := (x.q q).ents.tail }
/-- Lane `i` of an entry; lanes that are not listed are 0. -/
def lane (l : List W32) (i : Nat) : W32 := l.getD i 0
/-- The 256 bytes of an entry (R128). -/
def laneBytes (l : List W32) : List Byte := (List.range 64).flatMap (fun i => bytesOf (lane l i) 4)
/-- An entry from bytes, zero-filled to 256. -/
def bytesLanes (b : List Byte) : List W32 :=
  (List.range 64).map (fun i => BitVec.ofNat 32 (numAt b (4 * i) 4))

/-- Every q-register, token FIFO and the broadcast-predicate FIFO is empty (R45, R124). -/
def Ctx.queuesEmpty (x : Ctx) : Bool :=
  (x.qs.toList.all (fun q => q.ents.isEmpty)) && (x.toks.toList.all (· == 0)) && x.bf.isEmpty

/-! ## Stops, waits and the clock -/

/-- Waits that count towards WLIM (R223); those that a rule excepts do not (R164, R296, R393). -/
def Wait.counts : Wait → Bool
  | .flights | .walk _ | .order => false
  | _ => true
/-- Waits under the self-deadlock rule (R222). -/
def Wait.deadlock : Wait → Bool
  | .tokenPop | .tokenPush | .slip | .section_ | .qreg | .bfifo => true
  | _ => false

/-- A die carries a freeze hold or a debug hold (R262, R419). -/
def State.heldDie (s : State) (d : Nat) : Bool :=
  (s.die d).dbgHold || s.cores.any (fun (cid, k) => dieOf cid == d && k.frozen.isSome)

/-- A write of the core or an atomic of the context waits behind a full side buffer (R414). -/
def State.sideWait (s : State) (c : CtxId) (x : Ctx) : Bool :=
  let full := fun (p : Place) => match p with
    | .g pa pb => s.sideFull (pageOf pa) || s.sideFull (pageOf pb)
    | _ => false
  (s.core c.cid).sbuf.any (fun e => full e.place) || x.flights.any (fun f => f.atom.isSome && f.data.isNone && full f.place)

/-- A wait whose count stands still: its own die is under a debug hold, it refers to a die under a hold, or a write for which it
waits stands behind a full side buffer (R223, R262, R282, R302, R414, R419). An OWT refers to its own die and to the dies whose stores to its group have no outcome yet (log 31). -/
def State.waitHeld (s : State) (c : CtxId) (x : Ctx) (k : Wait) : Bool :=
  let d := dieOf c.cid
  (s.die d).dbgHold || match k with
  | .barrier | .phase => s.sideWait c x || match s.kernel x.kernel with
    | some kn => kn.grant.any (fun g => s.heldDie (dieOf g.cid))
    | none => false
  | .flag n => s.heldDie d || s.ring.susp.any (fun p => p.1 == dieStation d && p.2.2.2 == n)
  | .bank | .peer => s.heldDie d
  | .storeBuffer | .fence | .data | .drain => s.sideWait c x
  | .mailbox e => s.heldDie (e / 128)
  | .multicast g => s.heldDie d || s.fab.groups.any (fun j => j.gid == g && j.ref) ||
      s.fab.stos.any (fun o => o.gid == g && s.heldDie (dieOf o.ctx.cid))
  | _ => false

/-- A role after `n` cycles: its wait count and its yield; a debug halt interrupts a YLD, which begins again (R102). -/
def RoleSt.tick (r : RoleSt) (n : Nat) (held : Wait → Bool) : RoleSt :=
  let r := match r.wait with
    | some k => if k.counts ∧ !held k then { r with waited := r.waited + n } else r
    | none => r
  { r with yieldLeft := if r.dbgHalt then none else r.yieldLeft.map (· - n) }

/-- A context after `n` cycles of its core's clock (R46, R223): counts stand still while a role is debug-halted. -/
def Ctx.tick (x : Ctx) (n : Nat) (held : Wait → Bool) : Ctx :=
  let dbg := x.rl.dbgHalt || x.rc.dbgHalt || x.rs.dbgHalt
  let h := fun k => dbg || held k
  if x.state = .run then
    { x with rl := x.rl.tick n h, rc := x.rc.tick n h, rs := x.rs.tick n h,
             async := if dbg then x.async else x.async.map (fun e => { e with cycles := e.cycles + n }) }
  else x

/-- `n` core cycles pass. -/
def State.tick (s : State) (n : Nat) : State :=
  if n = 0 then s
  else
    { s with
      cycles := s.cycles + n
      time2 := if s.info.cal then s.time2 + n else s.time2
      cores := s.cores.map (fun (c, k) => (c, if k.frozen.isSome then { k with lost := k.lost + n } else k))
      ctxs := s.ctxs.map (fun (c, x) => (c, if (s.core c.cid).frozen.isSome || (s.die (dieOf c.cid)).dbgHold then x else x.tick n (s.waitHeld c x))) }

/-! ## Release and acquire (R178 to R184, R394, R395) -/

/-- A record of the log covers a cached leaf (R394). -/
def InvRec.hits (r : InvRec) (l : Leaf) : Bool :=
  r.all || (decide (r.va < l.va + l.size) && decide (l.va < r.va + r.size))
/-- A record of the log covers one of `n` bytes. -/
def InvRec.covers (r : InvRec) (va n : Nat) : Bool := r.all || (decide (r.va < va + n) && decide (va < r.va + r.size))

/-- A place that a translation has given. -/
def Place.translated : Place → Bool
  | .g _ _ | .gw _ _ => true
  | _ => false

/-- The records that a core has still to apply (R394). -/
def State.unapplied (s : State) (cid : Nat) : List InvRec :=
  let d := s.die (dieOf cid)
  d.log.filter (fun r =>
    decide ((d.ivlt + 2 ^ 32 - 1 - r.idx) % 2 ^ 32 < (d.ivlt + 2 ^ 32 - (s.core cid).ivla) % 2 ^ 32))

/-- The records that a core has still to apply cover one of `n` bytes. -/
def State.stale (s : State) (cid va n : Nat) : Bool := (s.core cid).flush || (s.unapplied cid).any (fun r => r.covers va n)

/-- A load or atomic in flight that acquires at package scope. -/
def Flight.acqPkg (f : Flight) : Bool := f.acq && decide (2 ≤ f.scope)

/-- An access of a core that used a translation which its unapplied records remove has still to be performed. An abandoned load is
translated again as it is issued again, and an acquire at package scope that is still in flight once the log is applied (R395,
log 9). -/
def State.logUsers (s : State) (cid : Nat) : Bool :=
  (s.core cid).sbuf.any (fun e => e.place.translated && s.stale cid e.va e.data.length) ||
    s.ctxs.any (fun (c, x) => c.cid == cid && x.flights.any (fun f =>
      f.data.isNone && !f.again && f.failed.isNone && !f.acqPkg && f.place.translated && s.stale cid f.va.toNat f.size))

/-- Acquires at package scope that are still in flight, and used a translation which the log removes, are translated again. -/
def State.restale (s : State) (cid : Nat) : State :=
  { s with ctxs := s.ctxs.map (fun (c, x) => (c, if c.cid = cid then
      { x with flights := x.flights.map (fun f =>
          if f.data.isNone ∧ f.acqPkg ∧ f.place.translated ∧ s.stale cid f.va.toNat f.size then { f with again := true } else f) }
      else x)) }

/-- A core applies the records from its IVLA on: the translations go at once, IVLA advances when no access that used one is still to
be performed (R394, R395). -/
def State.applyLog (s : State) (cid : Nat) : State :=
  let d := s.die (dieOf cid)
  let k := s.core cid
  if k.ivla = d.ivlt ∧ !k.flush then s
  else
    let recs := s.unapplied cid
    let quiet := !s.logUsers cid
    (s.restale cid).modCore cid (fun k => { k with
      tcache := if k.flush then [] else k.tcache.filter (fun l => !recs.any (fun r => r.hits l))
      ivla := if quiet then d.ivlt else k.ivla
      flush := k.flush && !quiet })

/-- A core has applied its log. -/
def State.logDone (s : State) (cid : Nat) : Bool := (s.core cid).ivla == (s.die (dieOf cid)).ivlt && !(s.core cid).flush

/-- A release made on a core covers every write of G that has been performed (R178, log 9). -/
def State.raiseRel (s : State) (cid : Nat) : State := s.modCore cid (fun k => { k with rel := s.hist.length })

/-- What an acquire at a scope does to the core (R178): its plain loads see from now on the writes of G that releases on the core
cover, at cluster scope and wider every one that has been performed (R180, R184, log 9); its global read cache and its translations go
as the scope says. -/
def State.acquireNow (s : State) (cid scope : Nat) : State :=
  let s := s.modCore cid (fun k => { k with
    floor := if scope = 0 then Nat.max k.floor k.rel else s.hist.length
    cache := if 1 ≤ scope then [] else k.cache })
  if 2 ≤ scope then s.applyLog cid else s

/-- The acquire of an instruction: where it must still wait for accesses (R395), it says so in `applying`, and the instruction stands. -/
def State.acquire (s : State) (cid scope : Nat) : State :=
  let t := s.acquireNow cid scope
  if 2 ≤ scope ∧ !t.logDone cid then t.modCore cid (fun k => { k with applying := true }) else t

/-- Writes of copy commands are ordered for the parties of a scope (R177). -/
def State.tightenIf (s : State) (p : Loose → Bool) (scope : Nat) : State :=
  { s with hist := s.hist.map (fun e => match e.loose with
      | some l => if p l ∧ l.reach ≤ scope then { e with loose := if 2 ≤ scope then none else some { l with reach := scope + 1 } } else e
      | none => e) }
/-- A fence or release at a scope carries the writes of a context's copy commands that happen before it, those whose commands have
released them, to the parties of the scope (R178). -/
def State.tighten (s : State) (c : CtxId) (scope : Nat) : State := s.tightenIf (fun l => l.c == c && l.reach != 0) scope

/-- What a release of a context at a scope does, once everything that happens before it has been performed at the scope (R178). -/
def State.release (s : State) (c : CtxId) (scope : Nat) : State := (s.tighten c scope).raiseRel c.cid

/-! ## The return from a trap (R354) -/

/-- The first place past the last word of a section. -/
def pastEnd (t : List Section) (n : Nat) : Pos :=
  match sectionOf t n with
  | some x => ⟨n, x.words⟩
  | none => ⟨n, 0⟩

/-- The word whose address a role's pool-execution fault past the end of a section records: the last one of the section, which was
skipped (R93, R354). -/
def fellFrom (t : List Section) (p : Pos) : Pos :=
  if p = pastEnd t p.sec then ⟨p.sec, p.word - 1⟩ else p

/-- The faulting role resumes at the word after the faulting one, without performing it or its token actions; where no code
section follows it stays past the last word, and raises the pool-execution fault there (R354). Going on so into the next code
section is no transfer of R41: it counts as no exit and no entry, and R42 does not hold it (DESIGN CHOICE, log 15: no rule says
which). -/
def RoleSt.skip (t : List Section) (r : RoleSt) : RoleSt :=
  { r with
    pc := (fallThrough t r.pc).getD (pastEnd t r.pc.sec)
    popped := false, rest := none, arrived := none, mark := none, wait := none, waited := 0, yieldLeft := none }

/-- What is left of an instruction whose load is given up: its transfer, without its token pushes. -/
def RoleSt.giveUp (r : RoleSt) (id : Nat) : RoleSt :=
  { r with rest := r.rest.map (fun t => if t.flight = some id then { t with push := 0, flight := none } else t) }

/-- ERET MODE 0 and 1 on a role's fault or trap. A load or atomic at which the fault was raised after its issue is issued
again, or given up, an F atomic that returns nothing with the acknowledgement it counts: what its role has executed since stands
(R175, R296, R354). -/
def Ctx.resume (x : Ctx) (t : List Section) (next : Bool) : Ctx :=
  match x.trap, x.late with
  | some _, some f =>
    let x := { x with state := .run, trap := none, late := none }
    if next then
      let x := { x with ackc := match f.dest, f.place with
        | .none, .f _ _ => x.ackc - 1
        | _, _ => x.ackc }
      let x := x.setRole f.role ((x.role f.role).giveUp f.id)
      match f.dest with
      | .qent q id => x.qCancel q id
      | _ => x
    else { x with flights := x.flights ++ [{ f with data := none, failed := none, again := true }] }
  | some (role, _, _, already), none =>
    let x := { x with state := .run, trap := none }
    if next ∧ !already ∧ role < 3 then x.setRole (roleOf role) ((x.role (roleOf role)).skip t) else x
  | none, _ => { x with state := .run }

end Sys2Proof.Machine
end

