-- ==== Sys2Proof/Machine/Operands.lean ====
section
/-! DEFINITION. How a role executes a word: tags and decode checks (R36, R89), slip and role agreement (R38, R39, R117),
token actions and guards (R77, R80), operands (R78, R79), waits (R223), retirement and section transfers (R41, R42). -/

namespace Sys2Proof.Machine

/-- What an instruction's own effect does to the role that executes it. The wrapper `runRole` makes the rest of it. -/
inductive Eff where
  /-- the effect is performed; control falls through -/
  | done (s : State)
  /-- as `done`; a token push waits for the data of the flight (R77) -/
  | load (id : Nat) (s : State)
  /-- a taken transfer: branch (false) or RET (true) -/
  | goto (dest : Pos) (isRet : Bool) (s : State)
  /-- a taken CALL -/
  | call (dest : Pos) (s : State)
  /-- the effect is performed and the role stays at the word (HALT, BKPT, PHASE) -/
  | stay (s : State)
  /-- nothing is performed; the role waits -/
  | wait (k : Wait)
  /-- part of the effect is performed; the role waits -/
  | waitIn (k : Wait) (s : State)
  /-- the role waits, a .try form too, for a message of its own; its pops are made once it goes on -/
  | hold (k : Wait)
  /-- a .try form that cannot complete at once, with what it leaves (R207, R234) -/
  | tryFail (s : State)
  /-- a precise fault -/
  | fault (cause : Nat) (val : W64)
  /-- a trap raised after the effect: cause, code (R125) -/
  | trap (cause code : Nat) (s : State)
  /-- the state as it stands; the instruction does not retire -/
  | final (s : State)
  /-- the self-loop q-register trap, with its mark: overflow or underflow (R202) -/
  | loopTrap (excess : Bool)
  /-- the host-access fault of an LDH on a link that is down, which sets LDN of the port (R169) -/
  | linkDown (port : Nat) (val : W64)
  deriving DecidableEq, Repr

/-- The effect of an instruction: the role, its context after the token pops, the state after them. -/
abbrev Effect := Who → Ctx → State → Eff

/-! ## Operands -/

/-- A scalar source (R78, R79): s0 to s31, l0 to l3, CID, or the immediate. -/
def readSrc (w : Who) (x : Ctx) (code : BitVec 6) (imm : W64) : W64 :=
  let r := x.role w.r
  if isScalar code then r.s code.toNat
  else if isLoop code then (r.loop (code.toNat - 56)).l
  else if code = 61 then BitVec.ofNat 64 w.c.cid
  else if isImm code then imm
  else 0

/-- A predicate of a role by operand code 48 to 55 (R78). -/
def readPred (w : Who) (x : Ctx) (code : BitVec 6) : Bool := (x.role w.r).p (code.toNat - 48)

/-- The guard (R80): GE, GP, GI. -/
def guardOn (r : RoleSt) (g : BitVec 5) : Bool := !bitAt g 4 || (r.p (field g 1 3).toNat != bitAt g 0)

/-- Some scalar operand code names the destination of a load or atomic of the role that is still in flight (R164). -/
def busy (x : Ctx) (r : Role) (codes : List (BitVec 6)) : Bool :=
  x.flights.any (fun f => f.role == r && match f.dest with
    | .scalar n => n != 0 && codes.any (fun c => c.toNat == n)
    | _ => false)

/-! ## Q-register operands (R78, R200 to R203) -/

/-- What a pop or push of a q-register stops at: a binding of the other direction, the trap of a self-loop, an entry with an
uncorrectable error (R202, R203). -/
inductive QStop where
  | queueMap
  | selfLoop (excess : Bool)
  | memory
  deriving DecidableEq, Repr
def QStop.eff : QStop → Eff
  | .queueMap => .fault cQueueMap 0
  | .selfLoop excess => .loopTrap excess
  | .memory => .fault cMemory 0

/-- The sources read so far: the context with their pops, the values, the first fault or trap, and whether an entry is awaited. -/
structure Taken where
  x : Ctx
  vals : List (List W32) := []
  bad : Option QStop := none
  hold : Bool := false
  deriving DecidableEq, Repr

/-- The index of a q-register code. -/
def qOf (code : BitVec 6) : Nat := code.toNat - 32

/-- A binding of the named direction stands on the q-register (R203). -/
def Ctx.boundTo (x : Ctx) (q : Nat) (out : Bool) : Bool :=
  match (x.q q).bind with
  | some b => b.out == out
  | none => false

/-- Reads the entry at the head, and removes it unless it is kept: a pop under a store binding is the queue-map fault, an
absent entry of a self-loop the trap; a reserved or absent one is awaited, one that an accepted command has still to reserve among
them (R78, R201 to R203). An entry with an uncorrectable error raises the memory-error fault, as a load of it would (DESIGN CHOICE,
log 38: R405 names no outcome for a role that reads a queue). -/
def Taken.q (t : Taken) (q : Nat) (keep : Bool) : Taken :=
  let bad := if !keep && t.x.boundTo q true then some .queueMap
    else if (t.x.q q).ents.isEmpty && t.x.owed q == 0 && t.x.selfLoop q then some (.selfLoop false)
    else if (t.x.q q).ents.head?.any (·.bad) then some .memory else none
  { x := if keep then t.x else t.x.qPop q
    vals := t.vals ++ [match (t.x.q q).ents with
      | e :: _ => e.lanes.getD []
      | [] => []]
    bad := if t.bad.isSome then t.bad else bad
    hold := t.hold || (match (t.x.q q).ents with
      | e :: _ => e.lanes.isNone
      | [] => true) }

/-- The fault or trap of a push of one entry by the producer (R202, R203). -/
def pushFault (x : Ctx) (q : Nat) : Option QStop :=
  if x.boundTo q false then some .queueMap
  else if x.selfLoop q && x.qFree q == 0 then some (.selfLoop true) else none

/-- What keeps an instruction that has read `t` from its effect: a fault or trap of its reads, of its push to `dst`, or a wait. -/
def Taken.stop (t : Taken) (dst : Option Nat) : Option Eff :=
  match t.bad, dst with
  | some e, _ => some e.eff
  | none, none => if t.hold then some (.wait .qreg) else none
  | none, some q =>
    match pushFault t.x q with
    | some e => some e.eff
    | none => if t.hold ∨ t.x.qFree q = 0 then some (.wait .qreg) else none

/-- One q-register source and, when `dst` names one, room for a push. -/
def withQ (x : Ctx) (q : Nat) (dst : Option Nat) (f : Ctx → List W32 → Eff) : Eff :=
  let t := Taken.q { x := x } q false
  match t.stop dst with
  | some e => e
  | none => f t.x (t.vals.headD [])

/-! ## Decode checks that need the context -/

/-- A QBND whose q-register is not the issuing role's own: its producer must be L, its consumer S (R203). -/
def tagFault (i : Instr) (x : Ctx) : Bool :=
  match i with
  | .qbnd v => isQ v.data && (if bitAt v.imm 16 then x.consumer (qOf v.data) != 2 else x.producer (qOf v.data) != 0)
  | _ => false

/-- PSEL is zero unless the issuer's PART is 31 (R353). -/
def pselFault (i : Instr) (x : Ctx) : Bool :=
  match i with
  | .srd v | .swr v => field v.low 41 4 != 0#4 && x.servPart != 31
  | _ => false

/-- The first decode fault (R89): unassigned opcode, privilege, tag, then every other violation, an operand that a harvest
context cannot name among them (R34). -/
def decodeFault (i : Instr) (priv : Bool) (codes : List (BitVec 6)) (x : Ctx) : Option Nat :=
  match violation i with
  | some .opcode => some cIllegal
  | v =>
    if priv ∧ !x.priv then some cPrivilege
    else if v = some .tag ∨ tagFault i x then some cRole
    else if v.isSome ∨ pselFault i x then some cIllegal
    else if x.harvest ∧ codes.any (fun c => 40 ≤ c.toNat && c.toNat < 48) then some cIllegal
    else none

/-! ## Waits -/

/-- What a wait under the self-deadlock rule depends on (R222): tokens, q-registers, broadcast predicates, retired A-tagged
instructions, section counts, the live roles. -/
def Ctx.shared (x : Ctx) : List Nat :=
  x.toks.toList ++ x.qs.toList.map (fun q => (q.ents.map (fun e => e.lanes.isSome)).foldl (fun n b => 2 * n + bit1 b 0) 1) ++
    x.bf.map (fun e => e.readers.length) ++ [x.winGov] ++
    Role.all.flatMap (fun r => let v := x.role r
      [v.aTrace.length, bit1 v.halted 0, (v.exits.map (·.2)).sum, (v.entries.map (·.2)).sum])

/-- The role waits; its count runs from the first wait of one execution on, whatever the execution comes to wait for, and
reaching WLIM raises the wait-timeout fault (R223). -/
def State.waitOn (s : State) (w : Who) (k : Wait) : State :=
  match s.ctx w.c with
  | none => s
  | some x =>
    let r := x.role w.r
    if r.wait.isSome ∧ k.counts ∧ x.wlim ≤ r.waited then s.raise w cTimeout 0
    else s.modRole w (fun r => { r with wait := some k, seen := if k.deadlock then x.shared else [] })

/-! ## Retirement -/

def countOf (l : List (Nat × Nat)) (n : Nat) : Nat := (aget l n).getD 0
def bump (l : List (Nat × Nat)) (o : Option Nat) : List (Nat × Nat) :=
  match o with
  | some n => aset l n (countOf l n + 1)
  | none => l

/-- A role takes part in R37, R39, R42 and R43 (R95, R124); a HALT counts once it has retired. -/
def RoleSt.live (r : RoleSt) : Bool := r.active && (!r.halted || r.rest.isSome)

/-- The entry of section `m` for the role waits on a section that another role has still to exit (R42). -/
def sectionHeld (t : List Section) (x : Ctx) (r : Role) (m : Nat) : Bool :=
  match sectionOf t m with
  | none => false
  | some sec => sec.waits.any (fun (y, n) =>
      y != r && (x.role y).live && decide (countOf (x.role y).exits n < countOf (x.role r).entries m + 1))

/-- A transfer would take a section count past 65,535 (R42). -/
def countFull (r : RoleSt) (enter exit : Option Nat) : Bool :=
  (match enter with
    | some m => decide (65535 ≤ countOf r.entries m)
    | none => false) ||
  (match exit with
    | some n => decide (65535 ≤ countOf r.exits n)
    | none => false)

/-- An access to a context's A buffer. -/
def Place.own (p : Place) (c : CtxId) : Bool :=
  match p with
  | .a d _ => d == c
  | _ => false

/-- The role's own L-space accesses have all been performed: what a token push covers (R182). -/
def lDrained (k : Core) (x : Ctx) (w : Who) : Bool :=
  !k.sbuf.any (fun e => e.ctx == w.c && e.role == w.r && !e.k && e.place.own w.c) &&
    !x.flights.any (fun f => f.role == w.r && !f.k && f.place.own w.c && f.data.isNone)

/-- The end of an instruction: program counter, section counts, A-trace; a new WIN governs from the C role's next A-tagged
instruction on (R40); a special that an SWR writes has met a boundary of the role (R353). -/
def Ctx.commit (x : Ctx) (r : Role) (t : Rest) : Ctx :=
  let v := x.role r
  let v := { v with
    pc := t.dest, rest := none, popped := false, wait := none, waited := 0, arrived := none, mark := none, yieldLeft := none
    entries := bump v.entries t.enter, exits := bump v.exits t.exit
    aTrace := match t.aAt with
      | some p => p :: v.aTrace
      | none => v.aTrace }
  let x := { x.setRole r v with swr := x.swr.map (fun q => { q with left := q.left.filter (· != r) }) }
  if r = .c ∧ t.aAt.isSome then { x with winGov := x.win } else x

/-- Makes the pushes that have room (R77); the bits that are left. -/
def Ctx.push (x : Ctx) (r : Role) (tok : BitVec 4) : Ctx × BitVec 4 :=
  (tokPushes r tok).foldl (fun (p : Ctx × BitVec 4) (e : Nat × Nat) =>
    if p.1.tok e.2 < 8 then (p.1.setTok e.2 (p.1.tok e.2 + 1), p.2 &&& ~~~(1#4 <<< e.1)) else p) (x, tok)

/-- The flight whose data the instruction's token push waits for is still in flight (R77). -/
def awaits (x : Ctx) (o : Option Nat) : Bool :=
  match o with
  | some id => x.flights.any (fun f => f.id == id)
  | none => false

/-- Goes on with an instruction whose effect is performed: the data of its load, its pushes, its transfer. -/
def State.finishRest (s : State) (w : Who) : State :=
  match s.ctx w.c with
  | none => s
  | some x =>
    match (x.role w.r).rest with
    | none => s
    | some t =>
      let pushes := !(tokPushes w.r t.push).isEmpty
      if pushes ∧ awaits x t.flight then s.waitOn w .data
      else if pushes ∧ !lDrained (s.core w.c.cid) x w then s.waitOn w .order
      else
        let (x1, left) := if pushes then x.push w.r t.push else (x, t.push)
        let t1 := { t with push := left, flight := none }
        let x2 := x1.setRole w.r { x1.role w.r with rest := some t1 }
        let s2 := s.setCtx w.c x2
        if !(tokPushes w.r left).isEmpty then s2.waitOn w .tokenPush
        else match t.enter with
          | some m =>
            if sectionHeld (s.textOf x) x2 w.r m then s2.waitOn w .section_
            else s2.setCtx w.c (x2.commit w.r t1)
          | none => s2.setCtx w.c (x2.commit w.r t1)

/-- The effect is performed: what is left is recorded and gone on with. -/
def State.retire (s : State) (w : Who) (t : Rest) : State :=
  (s.modRole w (fun r => { r with rest := some t, wait := none })).finishRest w

/-- What an instruction that commits with its retirement waits for once its effect is ready: that its pushes cover the role's
L accesses (R182), room for every push (R77), the section that its transfer enters (R42). -/
def retireWait (k : Core) (t : List Section) (x : Ctx) (w : Who) (e : Rest) : Option Wait :=
  let p := tokPushes w.r e.push
  if !p.isEmpty ∧ !lDrained k x w then some .order
  else if p.any (fun q => 8 ≤ x.tok q.2) then some .tokenPush
  else match e.enter with
    | some m => if sectionHeld t x w.r m then some .section_ else none
    | none => none

/-- The end of an instruction: class 00 and 01 instructions commit in one step, at retirement, and stand in `sp` until they can, with
their pops alone made (a .try form with nothing made: R120, R207); the others go on with what is left (R77, R102, R131, log 27). -/
def State.retireAs (s : State) (w : Who) (t : List Section) (e : Rest) (sp : Option State) : State :=
  match sp with
  | none => s.retire w e
  | some p => match p.ctx w.c with
    | none => s.retire w e
    | some y => match retireWait (p.core w.c.cid) t y w e with
      | some k => p.waitOn w k
      | none => s.retire w e

/-- The rest of an instruction that goes to `dest` from `pc`, by fall-through, branch (`call`, `ret` clear), CALL or RET
(R41): a CALL exits nothing, a RET enters nothing. -/
def restOf (push : BitVec 4) (flight : Option Nat) (pc dest : Pos) (call ret : Bool) (a : Bool) : Rest :=
  { push := push, flight := flight, dest := dest
    enter := if dest.sec ≠ pc.sec ∧ !ret then some dest.sec else none
    exit := if dest.sec ≠ pc.sec ∧ !call then some pc.sec else none
    aAt := if a then some pc else none }

/-! ## Role agreement -/

/-- Slip (R39): another live role has retired fewer than k − WIN A-tagged instructions. -/
def slipHeld (x : Ctx) (r : Role) : Bool :=
  Role.all.any (fun y => y != r && (x.role y).live &&
    decide ((x.role y).aTrace.length + x.winGov < (x.role r).aTrace.length + 1))

/-- Another live role has retired its k-th A-tagged instruction at a different address (R117). -/
def diverges (x : Ctx) (r : Role) : Bool :=
  let k := (x.role r).aTrace.length
  Role.all.any (fun y => y != r && (x.role y).live &&
    match (x.role y).aTrace.reverse[k]? with
    | some p => p != (x.role r).pc
    | none => false)

/-! ## The wrapper -/

/-- What an instruction needs beside its effect: the three fields at the top of the word and the guard, its operand codes,
whether its opcode is privileged, and TP of a .try form. -/
structure Frame where
  role : BitVec 2
  tok : BitVec 4
  guard : BitVec 5
  codes : List (BitVec 6)
  priv : Bool := false
  try_ : Option Nat := none
  /-- PHASE is not passed over by the other roles (R43) -/
  phase : Bool := false
  /-- class 00 and 01: the instruction commits in one step, at retirement (R102, R131) -/
  whole : Bool := false
  deriving DecidableEq, Repr

/-- The end of an instruction that falls through: the pool-execution and section-count faults are precise at it, before
any effect (R42, R93). `s0` is the state to which a fault applies, `s1` the one with the effect. -/
def retireNext (s0 s1 : State) (w : Who) (t : List Section) (r : RoleSt) (push : BitVec 4) (flight : Option Nat) (a : Bool)
    (sp : Option State := none) : State :=
  match fallThrough t r.pc with
  | none => s0.raise w cPoolExec 0
  | some dest =>
    let e := restOf push flight r.pc dest false false a
    if countFull r e.enter e.exit then s0.raise w cSecCount 0 else s1.retireAs w t e sp

/-- A taken transfer (R38, R93, R115). A target outside code is R93's matter alone, in whatever interval it would lie (DEDUCED, log 28):
the loader accepts it, and its execution raises the pool-execution fault. -/
def retireTo (s0 s1 : State) (w : Who) (t : List Section) (r : RoleSt) (push : BitVec 4) (dest : Pos) (call ret a : Bool)
    (sp : Option State := none) : State :=
  if !isCode t dest.sec then s0.raise w cPoolExec 0
  else if !a && intervalOf t dest != intervalOf t r.pc then s0.raise w cDiverge 0
  else
    let e := restOf push none r.pc dest call ret a
    if countFull r e.enter e.exit then s0.raise w cSecCount 0 else s1.retireAs w t e sp

/-- A push that the word names cannot be made at once: the FIFO is full, or the role has L accesses that it must cover (R77, R182). -/
def pushHeld (k : Core) (x : Ctx) (w : Who) (tok : BitVec 4) : Bool :=
  let p := tokPushes w.r tok
  !p.isEmpty && (!lDrained k x w || p.any (fun q => decide (8 ≤ x.tok q.2)))

/-- What a .try form that does not complete leaves: p(TP) false, no token action (R120, R207). -/
def tryFailed (s0 s1 : State) (w : Who) (t : List Section) (r : RoleSt) (tp : Nat) (a whole : Bool) : State :=
  retireNext s0 (s1.setP w tp false) w t r 0 none a (if whole then some s0 else none)

/-- The tail of an instruction: what its effect says, after the decode checks, slip, tokens and guard. `s0` is the state
before its pops, `s1` with them. A .try form writes p(TP) after its effect, so that TP stands where d names the same predicate
(DESIGN CHOICE, log 26); one whose push would have to wait fails, as it never waits (R120, R207), and one whose transfer R42 holds
stands with nothing of it performed. An acquire at package scope that must still wait for accesses stands too (R395). -/
def runTail (f : Frame) (a : Bool) (w : Who) (t : List Section) (r : RoleSt) (s0 s1 : State) (x : Ctx) (e : Eff) : State :=
  let ok := fun s : State => match f.try_ with
    | some tp => s.setP w tp true
    | none => s
  let sp := if f.whole then some (if f.try_.isSome then s0 else s1) else none
  match e with
  | .fault c v => if a ∧ diverges x w.r ∧ c ≠ cBoundOver then s0.raise w cDiverge 0 else s0.raise w c v
  | .loopTrap excess => s0.raiseLoop w excess
  | .done s =>
    if a ∧ diverges x w.r then s0.raise w cDiverge 0
    else match f.try_ with
      | some tp =>
        if (s.core w.c.cid).applying then tryFailed (s0.applyLog w.c.cid) (s0.applyLog w.c.cid) w t r tp a f.whole
        else if pushHeld (s0.core w.c.cid) x w f.tok then tryFailed s0 s0 w t r tp a f.whole
        else retireNext s0 (ok s) w t r f.tok none a sp
      | none =>
        if (s.core w.c.cid).applying then (s1.applyLog w.c.cid).waitOn w .fence
        else retireNext s0 (ok s) w t r f.tok none a sp
  | .load id s => retireNext s0 (ok s) w t r f.tok (some id) a
  | .goto dest ret s =>
    if a ∧ diverges x w.r then s0.raise w cDiverge 0 else retireTo s0 s w t r f.tok dest false ret a sp
  | .call dest s => retireTo s0 s w t r f.tok dest true false a sp
  | .stay s =>
    if a ∧ diverges x w.r then s0.raise w cDiverge 0
    else s.retireAs w t { push := f.tok, flight := none, dest := r.pc, enter := none, exit := none,
                          aAt := if a then some r.pc else none } sp
  | .wait k =>
    if a ∧ diverges x w.r then s0.raise w cDiverge 0
    else match f.try_ with
      | some tp => tryFailed s0 s0 w t r tp a f.whole
      | none => s1.waitOn w k
  | .waitIn k s => s.waitOn w k
  | .hold k => s0.waitOn w k
  | .tryFail s =>
    if a ∧ diverges x w.r then s0.raise w cDiverge 0
    else match f.try_ with
      | some tp => tryFailed s0 s w t r tp a f.whole
      | none => s1
  | .trap c code s =>
    if a ∧ diverges x w.r then s0.raise w cDiverge 0
    else
      let s := retireNext s0 s w t r f.tok none a sp
      match s.ctx w.c with
      | some y =>
        if y.state = .run ∧ (y.role w.r).wait.isNone then s.deliver w.c (Role.code w.r) c code 0 true else s
      | none => s
  | .linkDown port val =>
    (s0.modWindow x.part port (fun h => { h with pests := h.pests ||| 0b10000#5 })).raise w cHost val
  | .final s => if a ∧ diverges x w.r then s0.raise w cDiverge 0 else s

/-- The context once the instruction's token pops are made (R77). -/
def Frame.popped (f : Frame) (w : Who) (x : Ctx) : Ctx :=
  let pops := tokPops w.r f.tok
  if pops.isEmpty then x
  else
    let y := if (x.role w.r).popped then x else x.popToks pops
    y.setRole w.r { y.role w.r with popped := true }
/-- The state once they are made: a pop is an acquire at core scope (R182). -/
def State.popped (s : State) (f : Frame) (w : Who) (x : Ctx) : State :=
  if (tokPops w.r f.tok).isEmpty then s
  else if (x.role w.r).popped then s.setCtx w.c (f.popped w x)
  else (s.setCtx w.c (f.popped w x)).acquire w.c.cid 0

/-- A role executes a word (R36, R77, R80, R89). A word whose guard is false makes its pops and pushes, waiting for them where it
must, a .try form too. A PHASE whose guard is false lets its own role go on; the other roles go on waiting at it (DESIGN CHOICE,
log 27). A .try form whose operand a load has still to write fails at once (R120, R164, R207, log 26). -/
def runRole (i : Instr) (f : Frame) (e : Effect) (w : Who) (x : Ctx) (s : State) : State :=
  let t := s.textOf x
  let r := x.role w.r
  let a := f.role == 0b11#2
  if f.role.toNat ≠ Role.code w.r ∧ !a then
    if f.phase then s.waitOn w .meet
    else retireNext s s w t r 0 none false (some s)
  else match decodeFault i f.priv f.codes x with
    | some c => s.raise w c 0
    | none =>
      if a ∧ !r.ret.isEmpty then s.raise w cDiverge 0
      else if a ∧ slipHeld x w.r then s.waitOn w .slip
      else
        let pops := tokPops w.r f.tok
        let on := guardOn r f.guard
        let try_ := if on then f.try_ else none
        let missing := !r.popped && pops.any (fun q => x.tok q == 0)
        let full := try_.isSome && (tokPushes w.r f.tok).any (fun q => 8 ≤ x.tok q.2)
        if missing ∨ full then
          match try_ with
          | some tp => tryFailed s s w t r tp a f.whole
          | none => s.waitOn w .tokenPop
        else
          let x1 := f.popped w x
          let s1 := s.popped f w x
          if !on then runTail { f with try_ := none } a w t r s s1 x (.done s1)
          else if busy x w.r f.codes then
            match try_ with
            | some _ => runTail f a w t r s s1 x (.tryFail s)
            | none => s1.waitOn w .data
          else runTail f a w t r s s1 x (e w x1 s1)

/-- A Vartar instruction as a step of the role that moves now. -/
def runWord (i : Instr) (f : Frame) (e : Effect) (s : State) : Host.Outcome State Fault Refusal :=
  match s.turn with
  | .role c r =>
    match s.ctx c with
    | some x => .next (runRole i f e ⟨c, r⟩ x s)
    | none => .fault .noActor
  | _ => .fault .noActor

/-- Format S (R81). -/
def runS (i : Instr) (w : WordS) (e : Effect) (s : State) : Host.Outcome State Fault Refusal :=
  runWord i { role := w.role, tok := w.tok, guard := w.guard, codes := [w.d, w.a, w.b], whole := true } e s
/-- Format S with the .try field of R120. -/
def runTryS (i : Instr) (w : WordS) (e : Effect) (s : State) : Host.Outcome State Fault Refusal :=
  runWord i { role := w.role, tok := w.tok, guard := w.guard, codes := [w.d, w.a, w.b], whole := true,
              try_ := if bitAt w.mod 8 then some (field w.mod 5 3).toNat else none } e s
/-- Format B (R84). -/
def runB (i : Instr) (w : WordB) (e : Effect) (s : State) : Host.Outcome State Fault Refusal :=
  runWord i { role := w.role, tok := w.tok, guard := w.guard, codes := [w.cond], whole := true } e s
/-- Format V (R82). -/
def runV (i : Instr) (w : WordV) (e : Effect) (s : State) : Host.Outcome State Fault Refusal :=
  runWord i { role := w.role, tok := w.tok, guard := w.guard, codes := [w.d, w.a, w.b, w.c, w.lm], whole := true } e s
/-- Format M (R83). -/
def runM (i : Instr) (w : WordM) (e : Effect) (s : State) : Host.Outcome State Fault Refusal :=
  runWord i { role := w.role, tok := w.tok, guard := w.guard, codes := [w.data, w.base, w.index] } e s
/-- Format M, of an instruction whose change takes effect when it retires (R216). -/
def runWholeM (i : Instr) (w : WordM) (e : Effect) (s : State) : Host.Outcome State Fault Refusal :=
  runWord i { role := w.role, tok := w.tok, guard := w.guard, codes := [w.data, w.base, w.index], whole := true } e s
/-- Format M with the .try field of R207. -/
def runTryM (i : Instr) (w : WordM) (e : Effect) (s : State) : Host.Outcome State Fault Refusal :=
  runWord i { role := w.role, tok := w.tok, guard := w.guard, codes := [w.data, w.base, w.index],
              try_ := if bitAt w.imm 47 then some (field w.imm 44 3).toNat else none } e s
/-- Format X (R85). -/
def runX (i : Instr) (w : WordX) (e : Effect) (s : State) : Host.Outcome State Fault Refusal :=
  runWord i { role := w.role, tok := w.tok, guard := w.guard, codes := [w.d, w.a, w.b] } e s
/-- Format X with TRY [56] and TP [55:53]. -/
def runTryX (i : Instr) (w : WordX) (e : Effect) (s : State) : Host.Outcome State Fault Refusal :=
  runWord i { role := w.role, tok := w.tok, guard := w.guard, codes := [w.d, w.a, w.b],
              try_ := if bitAt w.low 56 then some (field w.low 53 3).toNat else none } e s
/-- A privileged opcode, format X (R87, R348). -/
def runP (i : Instr) (w : WordX) (e : Effect) (s : State) : Host.Outcome State Fault Refusal :=
  runWord i { role := w.role, tok := w.tok, guard := w.guard, codes := [w.d, w.a, w.b], priv := true } e s

/-! ## Owner demands (R386, R387) -/

/-- The image of the context is written, and its storage is free (R355). -/
def Ctx.stored (x : Ctx) : Bool := x.state == .saved && x.image.isSome

/-- The slot of a context is free for another: empty, ended, or holding a context whose image is written. -/
def State.slotFree (s : State) (c : CtxId) : Bool :=
  match s.ctx c with
  | some y => y.state == .ended || y.stored
  | none => true

/-- The harvest contexts that stand on a core and hold storage. -/
def State.harvestOn (s : State) (cid : Nat) : List (CtxId × Ctx) :=
  s.ctxs.filter (fun (c, y) => c.cid == cid && c.num != 0 && y.state != .ended && !y.stored)

/-- A kernel that has been admitted and not yet issued. -/
def Kernel.pending (k : Kernel) : Bool := k.state == .waiting || k.state == .staging

/-- An owner placement needs the storage or the bank of a harvest context: a pending owner kernel whose slot is free admits
fewer contexts, or its budget does not fit beside this one and those of lower number (R386, R387). -/
def State.placementDemand (s : State) (c : CtxId) : Bool :=
  s.kernels.any (fun k => k.pending && !k.harvest && k.grant.contains ⟨c.cid, 0⟩ && s.slotFree ⟨c.cid, 0⟩ &&
    (let l := (s.harvestOn c.cid).filter (fun e => decide (e.1.num ≤ c.num))
     decide (k.hallow < l.length) || decide (49152 < k.abud + (l.map (·.2.abud)).sum) ||
      decide (24576 < k.wbud + (l.map (·.2.wbud)).sum) || decide (24576 < k.zbud + (l.map (·.2.zbud)).sum)))

/-- An owner asks for the lease while the harvest context holds it. An owner whose grant has run out, and whose request stands without
a new LEASE, counts as one that demands it (R232; DESIGN CHOICE, log 30: R387 names an owner LEASE only). -/
def State.leaseDemand (s : State) (c : CtxId) : Bool :=
  (match s.ctx ⟨c.cid, 0⟩ with
    | some o => o.state == .run && o.leaseAsk
    | none => false) &&
  match (s.core c.cid).lease with
  | some l => l.num == c.num
  | none => false

/-- An owner demand stands on a harvest context: it issues nothing, and its array takes nothing further, until it is revoked (R387
steps 1 and 2). -/
def State.demanded (s : State) (c : CtxId) : Bool := c.num != 0 && (s.leaseDemand c || s.placementDemand c)

/-! ## Issue -/

/-- The owner's region of a core allows a harvest context to issue: HALLOW counts the harvest contexts that run (R35, R358,
R386). -/
def State.hostAllows (s : State) (c : CtxId) : Bool :=
  c.num == 0 || match s.ctx ⟨c.cid, 0⟩ with
    | none => true
    | some o => o.state == .ended || match s.kernel o.kernel with
      | none => true
      | some k => decide ([1, 2].countP (fun n => decide (n ≤ c.num) && match s.ctx ⟨c.cid, n⟩ with
          | some y => y.state == .run
          | none => false) ≤ k.hallow)

/-- The word at a program counter is of class 01, a vector instruction (R76, R87). -/
def vectorAt (t : List Section) (p : Pos) : Bool :=
  field (wordOfBytes 96 (fetchBytes t p)) 88 2 == 1#2

/-- The role has issued an instruction that has not retired: its effect is performed, or it is a vector instruction that waits to push
or to enter a section. A freeze and a debug halt let it retire; an instruction of class 00 in a wait stays in it (R102, R131,
R418). -/
def RoleSt.issued (t : List Section) (r : RoleSt) : Bool :=
  r.rest.isSome || ((r.wait == some .tokenPush || r.wait == some .section_ || r.wait == some .order) && vectorAt t r.pc)

/-- A role may issue now, or go on with what it has issued: its context runs, its core is not frozen or retired, its die is not
held, no owner demand stands on it, and it is live, not debug-halted and not yielding (R35, R102, R122, R131, R261, R369, R387,
R418, R419). -/
def State.canIssue (s : State) (w : Who) : Bool :=
  match s.ctx w.c with
  | none => false
  | some x =>
    let k := s.core w.c.cid
    let r := x.role w.r
    x.state == .run && s.hostAllows w.c && !s.demanded w.c && !k.retired && r.live && r.yieldLeft.getD 0 == 0 &&
      (r.issued (s.textOf x) || (k.frozen.isNone && !(s.die (dieOf w.c.cid)).dbgHold && !r.dbgHalt))

/-- A role whose context another role's fault has stopped in this very cycle: where `run`, its own instruction or the end of the wait
in which it stood, faults too, a further record is written, with MULTI set on the one before. The roles of a context move in the order
L, C, S within a cycle, so that the faults are taken in that order (R371; log 16). -/
def State.furtherFault (s : State) (w : Who) (run : State → State) : State :=
  match s.stops.find? (fun e => e.c == w.c), s.ctx w.c with
  | some e, some x =>
    let y := { x with state := .run, trap := none }
    let s0 := (s.setCtx w.c (y.setRole w.r (e.before.getD (Role.code w.r) (x.role w.r)))).markMulti w.c x.part e.seq
    if x.state ≠ .trapped ∨ Role.code w.r ≤ e.role ∨ !s0.canIssue w then s
    else
      let t := run s0
      match t.stops.head?, t.ctx w.c with
      | some f, some y => if f.c = w.c ∧ f.role = Role.code w.r ∧ y.state = .trapped then t.setCtx w.c x else s
      | _, _ => s
  | _, _ => s

end Sys2Proof.Machine
end

