-- ==== Sys2Proof/Machine/Save.lean ====
section
/-! DEFINITION. Context images (R357) and what a quiet point does with the events held off until it (R45, R46, R355,
R385). -/

namespace Sys2Proof.Machine

/-- The header of an image (R357); the whole 128 KiB count as used (log 10). -/
def imageHeader (c : CtxId) (trapped : Bool) (rcb : Nat) : List Byte :=
  bytesN 0x4B435831 4 ++ bytesN c.cid 2 ++ bytesN c.num 1 ++ bytesN (bit1 trapped 0) 1 ++ bytesOf Config.implCode 4 ++
    bytesN 131072 4 ++ bytesN rcb 8 ++ List.replicate 40 0

/-- `n` bytes that the spec leaves to the device (R357). -/
def State.freeBytes (s : State) (n : Nat) : List Byte × State :=
  ((List.range n).map (fun i => (Config.freeWord (s.freeIx + i)).setWidth 8), { s with freeIx := s.freeIx + n })

/-- Writes bytes from a 4 KiB boundary up, one translation for each 4 KiB; none where one fails. -/
def State.writePages : Nat → State → Nat → Nat → List Byte → Option State
  | 0, s, _, _, _ => some s
  | fuel + 1, s, part, va, l =>
    if l.isEmpty then some s
    else match s.writeRun part va (l.take 4096) with
      | some s' => State.writePages fuel s' part (va + 4096) (l.drop 4096)
      | none => none

/-- The context is stopped in the TRAPPED state. -/
def Ctx.isTrapped (x : Ctx) : Bool :=
  x.state == .trapped || ((x.state == .saved || x.state == .parked) && x.savedAs == .trapped)

/-- The planes that have been injected of a row are abandoned: the row is executed again (R239, R404). -/
def abandonRows (l : List ACmd) : List ACmd :=
  l.map (fun k => { k with inj := match k.kind with
    | .epi .. => k.inj
    | _ => 0 })

/-- Revocation and pre-emption abandon the loads in flight: they are issued again on resumption, with their translation made anew;
atomics are performed once (R176, R387, R395). The array stops at a row: what it has begun of one is abandoned (R239, R248). -/
def Ctx.abandon (x : Ctx) : Ctx :=
  { x.unreserve with
    flights := x.flights.map (fun f => if f.atom.isNone then { f with data := none, failed := none, again := true } else f)
    acmds := abandonRows x.acmds }

/-- Writes the image of a context at a virtual address of a partition (R355, R357), and keeps the context as that image
holds it: at a row of the array (R239, R248). -/
def State.writeImage (s : State) (c : CtxId) (x : Ctx) (part addr : Nat) : Option State :=
  let b := s.freeBytes 131008
  match b.2.writePages 32 part addr (imageHeader c x.isTrapped (s.rcbOf x) ++ b.1) with
  | some s' => some { s' with images := (s.freeIx, x.abandon) :: s'.images }
  | none => none

/-- A load of a context that is not an atomic. -/
def Ctx.plainLoad (x : Ctx) (id : Nat) : Bool := x.flights.any (fun f => f.id == id && f.atom.isNone)

/-- A fabric packet carries a plain load of the context. -/
def Packet.plainLoad (p : Packet) (c : CtxId) (x : Ctx) : Bool :=
  p.ctx == c && match p.kind with
    | .load id => x.plainLoad id
    | .store _ | .engine .. | .ckpt .. => false

/-- An acknowledgement that the access itself counts (R296). -/
def Flight.ownAck (f : Flight) : Nat :=
  match f.dest, f.place with
  | .none, .f _ _ => 1
  | _, _ => 0

/-- Acknowledgements that the counter still counts for atomics that have ended in a fault: they stay counted until the context goes
on (R296, R354). -/
def Ctx.faultedAcks (x : Ctx) : Nat :=
  ((x.flights.filter (·.failed.isSome)).map (·.ownAck)).sum + (match x.late with
    | some f => f.ownAck
    | none => 0)

/-- A fabric packet of an access that has ended in a fault. -/
def Packet.ofFaulted (p : Packet) (c : CtxId) (x : Ctx) : Bool :=
  p.ctx == c && match p.kind with
    | .load id => x.flights.any (fun f => f.id == id && f.failed.isSome)
    | .store _ | .engine .. | .ckpt .. => false

/-- Everything of a context that a save must not leave behind has been performed: stores and their acknowledgements, atomics, writes
of engines to other packages (R165, R167, R176, R260; log 17). An atomic that has ended in a fault is saved so, with its count
(R296). -/
def State.saveReady (s : State) (c : CtxId) (x : Ctx) : Bool :=
  x.flights.all (fun f => f.atom.isNone || f.data.isSome || f.failed.isSome) && x.kstores.isEmpty && x.ackc == x.faultedAcks &&
    !(s.core c.cid).sbuf.any (fun e => e.ctx == c) && !s.fab.stos.any (fun o => o.ctx == c) &&
    !s.fab.pkts.any (fun p => p.ctx == c && !p.plainLoad c x && !p.ofFaulted c x)

/-- The packets of abandoned loads, and of atomics that have failed, are gone. -/
def State.dropLoads (s : State) (c : CtxId) (x : Ctx) : State :=
  { s with fab := { s.fab with pkts := s.fab.pkts.filter (fun p => !p.plainLoad c x && !p.ofFaulted c x) } }

/-- An asynchronous event saves the context to an image (R355). -/
def HeldEv.isSave (e : HeldEv) : Bool :=
  match e.ev with
  | .save .. => true
  | _ => false
/-- It is a checkpoint's. -/
def HeldEv.isCkpt (e : HeldEv) : Bool := e.ev == .ckpt

/-- The longest that an event has been held off (R46). -/
def Ctx.heldOff (x : Ctx) : Nat := (x.async.map (·.cycles)).foldl Nat.max 0

/-- The context as it stands once it is SAVED: every role abandons its wait (R46, R355); `image` is none while its storage
stays where it is (R385). A checkpoint's event goes on being held off (R46). -/
def Ctx.toSaved (x : Ctx) (image : Option Nat) (no : Nat) : Ctx :=
  { x.abandon with
    savedAs := if x.isTrapped then .trapped else .run
    state := .saved, image := image, imageNo := no, async := x.async.filter HeldEv.isCkpt
    rl := x.rl.park, rc := x.rc.park, rs := x.rs.park }

/-- Saves a context for a CTXSV, which releases no freeze (R261): the image at `addr`, and the code that the CTXSV returns noted at the saving role; where
the image cannot be written, the translation fault is noted instead (log 17). -/
def State.saveFor (s : State) (c : CtxId) (by_ : CtxId) (role : Role) (addr : Nat) (code : Nat) : State :=
  match s.ctx c, s.ctx by_ with
  | some x, some y =>
    let note := fun (t : State) (v : W64) =>
      if (y.role role).wait = some .target then t.modRole ⟨by_, role⟩ (fun r => { r with mark := some v }) else t
    match s.writeImage c x y.part addr with
    | some s' =>
      note (((((s'.dropLoads c x).modCtx c (fun x => x.toSaved (some addr) s.freeIx))).modCore c.cid (fun k => k.dropLease c.num)).openBands c.cid)
        (BitVec.ofNat 64 code)
    | none => note s (-1)
  | _, _ => s

/-- Revokes a harvest context into its reserve bank; `why` is Ctx.parkedFor. Its lease is lost; its request stands. -/
def State.revoke (s : State) (c : CtxId) (why : Nat) : State :=
  match s.ctx c with
  | none => s
  | some x =>
    if x.state ≠ .run ∧ x.state ≠ .trapped then s
    else ((s.setCtx c { x.unreserve with
        savedAs := if x.state = .trapped then .trapped else .run
        state := .parked, badBank := false, parkedFor := why, flights := x.abandon.flights, acmds := x.abandon.acmds
        rl := x.rl.park, rc := x.rc.park, rs := x.rs.park }).modCore c.cid (fun k => k.dropLease c.num)).openBands c.cid

/-- A victim of pre-emption stops where it stands, its storage kept; the harvest contexts that share its core are revoked and parked
(R385). -/
def State.stopVictim (s : State) (c : CtxId) : State :=
  [1, 2].foldl (fun (s : State) n => s.revoke ⟨c.cid, n⟩ 2)
    (((s.modCtx c (fun x => x.toSaved none 0)).modCore c.cid (fun k => k.dropLease c.num)).openBands c.cid)

/-- The context runs or is TRAPPED. -/
def State.canSave (s : State) (c : CtxId) : Bool :=
  match s.ctx c with
  | some x => x.state == .run || x.state == .trapped
  | none => false

/-- The asynchronous events of a context are taken (R45, R385): a pre-empted context stops where it stands; `code` is 0 at
a quiet point and 1 on the hold-off-overrun path (R355), which saves the whole context for a checkpoint too (R46): it stops where it
stands and is resumed in place, as a victim that nothing claims is (DESIGN CHOICE, log 35: R46 does not say where that save goes). A
context that another cause has trapped keeps a checkpoint's event. -/
def State.takeAsync (s : State) (c : CtxId) (code : Nat) : State :=
  match s.ctx c with
  | none => s
  | some x =>
    let s := s.setCtx c { x with async := if code = 3 then x.async.filter HeldEv.isCkpt else [] }
    x.async.foldl (fun (s : State) (e : HeldEv) => match e.ev with
      | .preempt => if s.canSave c then s.stopVictim c else s
      | .save by_ role addr => s.saveFor c by_ role addr code
      | .ckpt => if code = 1 ∧ s.canSave c then s.stopVictim c else s) s

end Sys2Proof.Machine
end

