-- ==== Sys2Proof/Machine/Scalar.lean ====
section
/-! DEFINITION. Integer, bit, constant, compare and predicate instructions, and the user specials (R103 to R114). -/

namespace Sys2Proof.Machine

abbrev Out := Host.Outcome State Fault Refusal

/-- The immediate of formats S and M (R79). -/
def imm64 (w : WordS) : W64 := w.imm.signExtend 64

/-- Writes d and falls through. -/
def putD (w : Who) (s : State) (d : BitVec 6) (v : W64) : Eff := .done (s.setS w d.toNat v)

/-- A two-operand instruction: d = f a b. -/
def effS2 (v : WordS) (f : W64 → W64 → W64) : Effect := fun w x s =>
  putD w s v.d (f (readSrc w x v.a (imm64 v)) (readSrc w x v.b (imm64 v)))

/-- A one-operand instruction: d = f a. -/
def effS1 (v : WordS) (f : W64 → W64) : Effect := fun w x s => putD w s v.d (f (readSrc w x v.a (imm64 v)))

/-- ADD, SUB, MUL with the modifiers of R104: the exact result of the signed (wrap, `.sat`) or unsigned (`.satn`)
operands, wrapped or clamped at 64 bits or, under `.w`, at 32; SA when the clamp changes it. -/
def arith (f : Int → Int → Int) (m : BitVec 9) (a b : W64) : W64 × Flags :=
  let n := if bitAt m 0 then 32 else 64
  let sat := field m 1 2
  let a := lowBits n a.toNat
  let b := lowBits n b.toNat
  if sat = 0b10#2 then
    let r := satInt (f a b) 0 (2 ^ n - 1)
    (w64 r.1, r.2)
  else
    let r := f (signed n a) (signed n b)
    if sat = 0b01#2 then
      let r := satInt r (-(2 ^ (n - 1))) (2 ^ (n - 1) - 1)
      (w64 r.1, r.2)
    else (w64 (signed n (lowBits n r)), 0)

def effArith (v : WordS) (f : Int → Int → Int) : Effect := fun w x s =>
  let r := arith f v.mod (readSrc w x v.a (imm64 v)) (readSrc w x v.b (imm64 v))
  .done ((s.setS w v.d.toNat r.1).orFlags w r.2)

/-- A shift or rotate with `.w` (R104): `f` at 64 bits, `g` on the low 32, sign-extended. -/
def effShift (v : WordS) (f : W64 → Nat → W64) (g : W32 → Nat → W32) : Effect := fun w x s =>
  let a := readSrc w x v.a (imm64 v)
  let b := (readSrc w x v.b (imm64 v)).toNat
  putD w s v.d (if bitAt v.mod 0 then (g (a.setWidth 32) (b % 32)).signExtend 64 else f a (b % 64))

def execAdd (v : WordS) (s : State) : Out := runS (.add v) v (effArith v (· + ·)) s
def execSub (v : WordS) (s : State) : Out := runS (.sub v) v (effArith v (· - ·)) s
def execMul (v : WordS) (s : State) : Out := runS (.mul v) v (effArith v (· * ·)) s
def execMulh (v : WordS) (s : State) : Out := runS (.mulh v) v (effS2 v (fun a b => w64 (a.toInt * b.toInt / 2 ^ 64))) s
def execMulhn (v : WordS) (s : State) : Out :=
  runS (.mulhn v) v (effS2 v (fun a b => BitVec.ofNat 64 (a.toNat * b.toNat / 2 ^ 64))) s

/-- Signed quotient, towards zero; −1 by a zero divisor; −2^63 by −1 wraps to −2^63 (R103). -/
def quot (a b : W64) : W64 := if b = 0 then -1 else w64 (a.toInt.tdiv b.toInt)
/-- Signed remainder with the sign of a; a by a zero divisor (R103). -/
def remd (a b : W64) : W64 := if b = 0 then a else w64 (a.toInt.tmod b.toInt)
def quotn (a b : W64) : W64 := if b = 0 then -1 else a / b
def remdn (a b : W64) : W64 := if b = 0 then a else a % b
def execDiv (v : WordS) (s : State) : Out := runS (.div v) v (effS2 v quot) s
def execDivn (v : WordS) (s : State) : Out := runS (.divn v) v (effS2 v quotn) s
def execRem (v : WordS) (s : State) : Out := runS (.rem v) v (effS2 v remd) s
def execRemn (v : WordS) (s : State) : Out := runS (.remn v) v (effS2 v remdn) s

def execAnd (v : WordS) (s : State) : Out := runS (.and v) v (effS2 v (· &&& ·)) s
def execOr (v : WordS) (s : State) : Out := runS (.or v) v (effS2 v (· ||| ·)) s
def execXor (v : WordS) (s : State) : Out := runS (.xor v) v (effS2 v (· ^^^ ·)) s
def execAndn (v : WordS) (s : State) : Out := runS (.andn v) v (effS2 v (fun a b => a &&& ~~~b)) s
def execOrn (v : WordS) (s : State) : Out := runS (.orn v) v (effS2 v (fun a b => a ||| ~~~b)) s

def execShl (v : WordS) (s : State) : Out := runS (.shl v) v (effShift v (· <<< ·) (· <<< ·)) s
def execShr (v : WordS) (s : State) : Out := runS (.shr v) v (effShift v (· >>> ·) (· >>> ·)) s
def execSra (v : WordS) (s : State) : Out := runS (.sra v) v (effShift v BitVec.sshiftRight BitVec.sshiftRight) s
def execRotl (v : WordS) (s : State) : Out := runS (.rotl v) v (effShift v BitVec.rotateLeft BitVec.rotateLeft) s

def execMin (v : WordS) (s : State) : Out := runS (.min v) v (effS2 v (fun a b => if a.slt b then a else b)) s
def execMax (v : WordS) (s : State) : Out := runS (.max v) v (effS2 v (fun a b => if b.slt a then a else b)) s
def execMinn (v : WordS) (s : State) : Out := runS (.minn v) v (effS2 v (fun a b => if a < b then a else b)) s
def execMaxn (v : WordS) (s : State) : Out := runS (.maxn v) v (effS2 v (fun a b => if b < a then a else b)) s

/-- Leading zero bits of an `n`-bit value, `n` when it is 0. -/
def clzNat (n x : Nat) : Nat := if x = 0 then n else n - 1 - x.log2
/-- Trailing zero bits, `n` when it is 0. -/
def ctzNat (n x : Nat) : Nat := ((List.range n).find? (fun i => x.testBit i)).getD n
/-- One bits among the low `n`. -/
def popNat (n x : Nat) : Nat := (List.range n).countP (fun i => x.testBit i)

def execClz (v : WordS) (s : State) : Out := runS (.clz v) v (effS1 v (fun a => BitVec.ofNat 64 (clzNat 64 a.toNat))) s
def execCtz (v : WordS) (s : State) : Out := runS (.ctz v) v (effS1 v (fun a => BitVec.ofNat 64 (ctzNat 64 a.toNat))) s
def execPopc (v : WordS) (s : State) : Out := runS (.popc v) v (effS1 v (fun a => BitVec.ofNat 64 (popNat 64 a.toNat))) s
def execBrev (v : WordS) (s : State) : Out := runS (.brev v) v (effS1 v BitVec.reverse) s
/-- Byte i of the result is byte 7 − i (R103). -/
def bswap (a : W64) : W64 := wordOfBytes 64 (bytesOf a 8).reverse
def execBswap (v : WordS) (s : State) : Out := runS (.bswap v) v (effS1 v bswap) s

/-- The widths of SEXT and ZEXT (R106). -/
def extWidth (m : BitVec 9) : Nat := 8 * 2 ^ (field m 0 2).toNat
def execSext (v : WordS) (s : State) : Out :=
  runS (.sext v) v (effS1 v (fun a => (a.setWidth (extWidth v.mod)).signExtend 64)) s
def execZext (v : WordS) (s : State) : Out :=
  runS (.zext v) v (effS1 v (fun a => (a.setWidth (extWidth v.mod)).setWidth 64)) s

/-- pos and len of BFX and BFI (R106). -/
def bfPos (v : WordS) : Nat := (field v.imm 0 6).toNat
def bfLen (v : WordS) : Nat := (field v.imm 6 7).toNat
def execBfx (v : WordS) (s : State) : Out :=
  runS (.bfx v) v (effS1 v (fun a =>
    let f := a.extractLsb' (bfPos v) (bfLen v)
    if bitAt v.mod 0 then f.signExtend 64 else f.setWidth 64)) s
/-- a with `len` bits from `pos` replaced by the low bits of b. -/
def bfi (pos len : Nat) (a b : W64) : W64 :=
  let m : W64 := BitVec.ofNat 64 ((2 ^ len - 1) * 2 ^ pos)
  (a &&& ~~~m) ||| ((b <<< pos) &&& m)
def execBfi (v : WordS) (s : State) : Out := runS (.bfi v) v (effS2 v (bfi (bfPos v) (bfLen v))) s

/-- SEL (R108): p(mod[50:48]) XOR mod[51]. -/
def execSel (v : WordS) (s : State) : Out :=
  runS (.sel v) v (fun w x s =>
    let p := (x.role w.r).p (field v.mod 0 3).toNat != bitAt v.mod 3
    putD w s v.d (if p then readSrc w x v.a (imm64 v) else readSrc w x v.b (imm64 v))) s

def execLim (v : WordS) (s : State) : Out := runS (.lim v) v (fun w _ s => putD w s v.d (imm64 v)) s
def execLimh (v : WordS) (s : State) : Out :=
  runS (.limh v) v (effS1 v (fun a => (field v.imm 0 16 : W16) ++ (field a 0 48 : BitVec 48))) s
def execLea (v : WordS) (s : State) : Out :=
  runS (.lea v) v (effS2 v (fun a b => a + (b <<< (field v.mod 0 3).toNat) + (imm64 v))) s

/-- The conditions of CMP and VICMP (R107, R143). -/
def condOf {n : Nat} (cc : Nat) (a b : BitVec n) : Bool :=
  match cc with
  | 0 => a == b
  | 1 => a != b
  | 2 => a.slt b
  | 3 => a.sle b
  | 4 => b.slt a
  | 5 => b.sle a
  | 6 => a.ult b
  | 7 => a.ule b
  | 8 => b.ult a
  | 9 => b.ule a
  | _ => (a &&& b) != 0

/-- A truth value into a predicate or a scalar. -/
def putBool (w : Who) (s : State) (d : BitVec 6) (b : Bool) : Eff :=
  if isPred d then .done (s.setP w (d.toNat - 48) b) else putD w s d (if b then 1 else 0)

def execCmp (v : WordS) (s : State) : Out :=
  runS (.cmp v) v (fun w x s =>
    putBool w s v.d (condOf (field v.mod 0 4).toNat (readSrc w x v.a (imm64 v)) (readSrc w x v.b (imm64 v)))) s

/-- PLOG (R109): bit 2·a + b of the truth table. -/
def execPlog (v : WordS) (s : State) : Out :=
  runS (.plog v) v (fun w x s =>
    let i := 2 * (readPred w x v.a).toNat + (readPred w x v.b).toNat
    putBool w s v.d (bitAt (field v.mod 0 4) i)) s

/-- PMOV (R110). -/
def execPmov (v : WordS) (s : State) : Out :=
  runS (.pmov v) v (fun w x s =>
    let r := x.role w.r
    if bitAt v.mod 0 then
      if isScalar v.d then putD w s v.d ((r.preds ||| 1).setWidth 64)
      else
        let a := readSrc w x v.a (imm64 v)
        .done (s.modRole w (fun r => { r with preds := (a.setWidth 8) ||| 1 }))
    else if isPred v.d then .done (s.setP w (v.d.toNat - 48) (readSrc w x v.a (imm64 v) != 0))
    else putD w s v.d (if readPred w x v.a then 1 else 0)) s

/-! ## User specials (R111) -/

/-- The value of a user special for a context and role (R11, R29, R32, R36, R39, R44, R112 to R114, R228, R230). -/
def userSpecial (s : State) (c : CtxId) (x : Ctx) (r : Role) (no : Nat) : W64 :=
  let n := fun k : Nat => BitVec.ofNat 64 k
  let kn := s.kernel x.kernel
  let gw := match kn with
    | some k => k.gw
    | none => 0
  let gh := match kn with
    | some k => k.gh
    | none => 0
  match no with
  | 0x00 => n c.cid
  | 0x01 => n (dieOf c.cid)
  | 0x02 => n (x.gidx % gw)
  | 0x03 => n (x.gidx / gw)
  | 0x04 => n gw
  | 0x05 => n gh
  | 0x06 => n (Role.code r)
  | 0x07 => n (c.num + if x.harvest then 4 else 0)
  | 0x08 => s.time (dieOf c.cid)
  | 0x09 => s.cyc c.cid
  | 0x0A => match kn with
    | some k => k.phn.setWidth 64
    | none => 0
  | 0x0B => (x.role r).flg.setWidth 64
  | 0x0C => n x.win
  | 0x0D => n x.wlim
  | 0x0E => x.seed
  | 0x0F => x.ver.setWidth 64
  | 0x10 => n ((s.core c.cid).fmin * 256 + s.cad c.cid)
  | 0x11 => x.ashp.setWidth 64
  | _ => 0

/-- The 64 LFSRs seeded from SEED (R61). -/
def seedAll (v : W64) : List W32 := (List.range 64).map (lfsrSeed v)

/-- A write of a user special: none where the value is refused with the operand-range fault (R40, R61, R72, R111, R113,
R114, R229). -/
def setUserSpecial (s : State) (c : CtxId) (x : Ctx) (r : Role) (no : Nat) (v : W64) : Option Ctx :=
  match no with
  | 0x0B => if v.toNat < 32 then some (x.setRole r { x.role r with flg := v.setWidth 5 }) else none
  | 0x0C => if 1 ≤ v.toNat ∧ v.toNat ≤ 64 then some { x with win := v.toNat } else none
  | 0x0D =>
    if 1 ≤ v.toNat ∧ v.toNat ≤ ((s.core c.cid).wlimmax[c.num]?.getD 0) then some { x with wlim := v.toNat } else none
  | 0x0E => some { x with seed := v, lfsr := seedAll v }
  | 0x0F => if v.toNat < 65536 then some { x with ver := v.setWidth 16 } else none
  | 0x11 => if v = 1 ∨ v = 3 ∨ v = 7 ∨ v = 15 then some { x with ashp := v.setWidth 4 } else none
  | _ => none

/-- An MFS of FLG by the C role waits until the array commands issued before it that record flags are complete (R73). -/
def flgBusy (x : Ctx) : Bool := x.acmds.any (fun c => match c.kind with
  | .mma .. | .epi .. => true
  | _ => false)

def execMfs (v : WordS) (s : State) : Out :=
  runS (.mfs v) v (fun w x s =>
    if v.mod = 0x0B#9 ∧ w.r = .c ∧ flgBusy x then .wait .data
    else putD w s v.d (userSpecial s w.c x w.r v.mod.toNat)) s

def execMts (v : WordS) (s : State) : Out :=
  runS (.mts v) v (fun w x s =>
    let a := readSrc w x v.a (imm64 v)
    match setUserSpecial s w.c x w.r v.mod.toNat a with
    | some x' => .done (s.setCtx w.c x')
    | none => .fault cRange a) s

end Sys2Proof.Machine
end

