-- ==== Sys2Proof/Machine/Control.lean ====
section
/-! DEFINITION. Transfers, loops, broadcast predicates, waiting and stopping, pool reads, hints and the unassigned opcode
(R89, R90, R115 to R126, R45). -/

namespace Sys2Proof.Machine

/-- An effect that does nothing (R90, R123). -/
def effNop : Effect := fun _ _ s => .done s

def execNop (v : WordS) (s : State) : Out := runS (.nop v) v effNop s

/-- Format of a hint: only its tag and tokens act (R90). -/
def execHint (n : BitVec 4) (v : HintWord) (s : State) : Out :=
  runWord (.hint n v) { role := v.role, tok := v.tok, guard := 0, codes := [], whole := true } effNop s

def execUnassignedOpcode (v : Word96) (s : State) : Out :=
  runWord (.unassignedOpcode v) { role := field v 94 2, tok := field v 90 4, guard := 0, codes := [], whole := true }
    (fun _ _ _ => .fault cIllegal 0) s

/-! ## HALT -/

/-- Everything that the last HALT of a core waits for has completed (R124); accesses in flight are among it (log 18). -/
def Ctx.drained (s : State) (c : CtxId) (x : Ctx) : Bool :=
  x.acmds.isEmpty && x.loadQ.isEmpty && x.storeQ.isEmpty && x.flights.isEmpty && x.kstores.isEmpty && x.ackc == 0 &&
    !(s.core c.cid).sbuf.any (fun e => e.ctx == c) && !s.fab.stos.any (fun o => o.ctx == c)

/-- A halted role reads no broadcast predicate any more; an entry without readers is removed (R37, R124). -/
def dropReader (l : List BEnt) (r : Role) : List BEnt :=
  (l.map (fun e => { e with readers := e.readers.filter (· != r) })).filter (fun e => !e.readers.isEmpty)

/-- The role halts. -/
def Ctx.haltRole (x : Ctx) (r : Role) : Ctx :=
  let x := x.setRole r { x.role r with halted := true }
  { x with bf := dropReader x.bf r }

/-- Another role of the context is live. -/
def othersLive (x : Ctx) (r : Role) : Bool := Role.all.any (fun y => y != r && (x.role y).live)

/-- HALT (R124). A request for the lease that stands ends with the C role's (R234). The queues are checked as the last role finds them, a broadcast predicate that it has not read among them; the
token pushes that its word names come after the check, and end with the context (DESIGN CHOICE, log 18). -/
def effHalt : Effect := fun w x s =>
  if othersLive x w.r then
    .stay (s.setCtx w.c { x.haltRole w.r with leaseAsk := x.leaseAsk && w.r != .c })
  else if !x.drained s w.c then .wait .drain
  else if !x.queuesEmpty then .fault cQuiet 0
  else
    let y := x.haltRole w.r
    .final ((s.setCtx w.c (y.setRole w.r { y.role w.r with wait := none })).finishCtx w.c)

def execHalt (v : WordS) (s : State) : Out := runS (.halt v) v effHalt s

/-! ## QPT (R45) -/

/-- Every live role stands at the quiet point: at the same word, having retired the same A-tagged instructions, nothing
left of an earlier instruction, and waiting there or this one. -/
def allAt (x : Ctx) (r : Role) : Bool :=
  Role.all.all (fun y => y == r || !(x.role y).live ||
    ((x.role y).pc == (x.role r).pc && (x.role y).aTrace.length == (x.role r).aTrace.length &&
      (x.role y).rest.isNone && (x.role y).wait == some .meet))

/-- The other live roles retire the QPT with this one. -/
def retireOthers (s : State) (w : Who) (x : Ctx) : State :=
  (Role.all.filter (fun y => y != w.r && (x.role y).live)).foldl
    (fun s y => retireNext s s ⟨w.c, y⟩ (s.textOf x) (x.role y) 0 none true) s

/-- QPT: the point is taken once every load and atomic of the context has completed (R45, R176). -/
def effQpt (a : Bool) : Effect := fun w x s =>
  if !a then .done s
  else if !allAt x w.r ∨ !x.flights.isEmpty ∨ (x.async.any (·.isSave) ∧ !s.saveReady w.c x) then .wait .meet
  else if !x.queuesEmpty then .fault cQuiet 0
  else
    let t := s.textOf x
    let r := x.role w.r
    match fallThrough t r.pc with
    | none => .done s
    | some dest =>
      let e := restOf 0 none r.pc dest false false true
      if countFull r e.enter e.exit then .done s
      else .final (((retireOthers s w x).retire w e).takeAsync w.c 0)

def execQpt (v : WordS) (s : State) : Out := runS (.qpt v) v (effQpt (v.role == 0b11#2)) s

/-! ## Transfers (R115, R116) -/

def targetOf (v : WordB) : Pos := ⟨v.tsec.toNat, v.tword.toNat⟩

def execBr (v : WordB) (s : State) : Out := runB (.br v) v (fun _ _ s => .goto (targetOf v) false s) s

def execBrp (v : WordB) (s : State) : Out :=
  runB (.brp v) v (fun w x s =>
    if readPred w x v.cond != bitAt v.mod 0 then .goto (targetOf v) false s else .done s) s

def execCall (v : WordB) (s : State) : Out :=
  runB (.call v) v (fun w x s =>
    let r := x.role w.r
    if 16 ≤ r.ret.length then .fault cReturn 0
    else .call (targetOf v) (s.modRole w (fun r => { r with ret := ⟨r.pc.sec, r.pc.word + 1⟩ :: r.ret }))) s

/-- A return address past the last word of its section is the first word of the next code section, as control falls through
there (R93); the RET counts as no entry of it. Where no code section follows, the role stands past the last word and raises the
pool-execution fault there (both DESIGN CHOICE, log 28: the spec names neither case). -/
def landing (t : List Section) (p : Pos) : Pos :=
  match sectionOf t p.sec with
  | some x => if p.word < x.words then p else (fallThrough t ⟨p.sec, x.words - 1⟩).getD p
  | none => p

def execRet (v : WordS) (s : State) : Out :=
  runS (.ret v) v (fun w x s =>
    match (x.role w.r).ret with
    | [] => .fault cReturn 0
    | p :: rest => .goto (landing (s.textOf x) p) true (s.modRole w (fun r => { r with ret := rest }))) s

/-! ## Counted loops (R118) -/

def State.setLoop (s : State) (w : Who) (k : Nat) (l : LoopCtr) : State :=
  s.modRole w (fun r => { r with loops := r.loops.setIfInBounds k l })

def execLoop (v : WordB) (s : State) : Out :=
  runB (.loop v) v (fun w x s =>
    let n := if isImm v.cond then v.count.setWidth 64 else readSrc w x v.cond 0
    if n.toInt ≤ 0 then .goto (targetOf v) false s
    else .done (s.setLoop w (field v.mod 0 2).toNat ⟨n, 1, v.count.toNat⟩)) s

def execNext (v : WordB) (s : State) : Out :=
  runB (.next v) v (fun w x s =>
    let k := (field v.mod 0 2).toNat
    let l := (x.role w.r).loop k
    if l.l = 1 then .done (s.setLoop w k { l with l := 0 })
    else if l.l = 0 then .fault cBoundOver 0
    else if l.bnd ≠ 0 ∧ l.trip = l.bnd then .fault cBoundOver 0
    else .goto (targetOf v) false (s.setLoop w k { l with l := l.l - 1, trip := l.trip + 1 })) s

/-! ## Broadcast predicates (R37, R119) -/

def execBqs (v : WordS) (s : State) : Out :=
  runTryS (.bqs v) v (fun w x s =>
    if 8 ≤ x.bf.length then .wait .bfifo
    else
      let e : BEnt := ⟨readPred w x v.a != bitAt v.mod 0, w.r,
        Role.all.filter (fun y => y != w.r && (x.role y).live)⟩
      .done (if e.readers.isEmpty then s else s.setCtx w.c { x with bf := x.bf ++ [e] })) s

/-- Role `r` reads the oldest entry that is still for it: its value and the FIFO after. -/
def readBf : List BEnt → Role → Option (Bool × List BEnt)
  | [], _ => none
  | e :: l, r =>
    if e.readers.contains r then
      let rd := e.readers.filter (· != r)
      some (e.val, if rd.isEmpty then l else { e with readers := rd } :: l)
    else match readBf l r with
      | some (b, l') => some (b, e :: l')
      | none => none

def execBqr (v : WordS) (s : State) : Out :=
  runTryS (.bqr v) v (fun w x s =>
    match readBf x.bf w.r with
    | none => .wait .bfifo
    | some (b, l) => .done ((s.setCtx w.c { x with bf := l }).setP w (v.d.toNat - 48) b)) s

/-! ## Waiting and yielding (R121, R122) -/

/-- The clock of a WAITC. -/
def waitClock (v : WordS) (s : State) (c : CtxId) : W64 :=
  if bitAt v.mod 0 then s.time (dieOf c.cid) else s.cyc c.cid

def execWaitc (v : WordS) (s : State) : Out :=
  runTryS (.waitc v) v (fun w x s =>
    if readSrc w x v.a (imm64 v) ≤ waitClock v s w.c then .done s else .wait .clock) s

/-- YLD retires once its cycles have gone by; until then the role issues nothing (R102, R122). -/
def execYld (v : WordS) (s : State) : Out :=
  runS (.yld v) v (fun w x s => match (x.role w.r).yieldLeft with
    | some 0 => .done s
    | some _ => .final s
    | none =>
      let n := Nat.min (readSrc w x v.a (imm64 v)).toNat 4095
      if n = 0 then .done s else .final (s.modRole w (fun r => { r with yieldLeft := some n, wait := none }))) s

/-! ## Traps (R125) -/

def trapCode (v : WordS) : Nat := (field v.imm 0 16).toNat

def execTrap (v : WordS) (s : State) : Out := runS (.trap v) v (fun _ _ s => .trap cTrap (trapCode v) s) s

def execBkpt (v : WordS) (s : State) : Out :=
  runS (.bkpt v) v (fun w x s =>
    if x.dbgen then .final (s.modRole w (fun r => { r with dbgHalt := true })) else .trap cBkpt (trapCode v) s) s

/-! ## LDP (R126, R405) -/

def execLdp (v : WordS) (s : State) : Out :=
  runS (.ldp v) v (fun w x s =>
    let n := 2 ^ (field v.mod 0 2).toNat
    let a := (field v.imm 0 32).setWidth 64 + readSrc w x v.a 0
    let body := match sectionOf (s.textOf x) (field v.imm 40 8).toNat with
      | some sec => sec.body
      | none => []
    if a.toNat % n ≠ 0 then .fault cAlign a
    else if body.length < a.toNat + n then .fault cPoolRange a
    else if x.textBad (field v.imm 40 8).toNat a.toNat n then .fault cMemory a
    else
      let b := numAt body a.toNat n
      putD w s v.d (if bitAt v.mod 2 then w64 (signed (8 * n) b) else BitVec.ofNat 64 b)) s

end Sys2Proof.Machine
end

