-- ==== Sys2Proof/Machine/Vector.lean ====
section
/-! DEFINITION. The vector unit (R128 to R154): every class-01 instruction reads whole entries or broadcast scalars, and
writes one entry or a scalar, in one step (R131). -/

namespace Sys2Proof.Machine

/-- What a vector instruction reads: its sources as 64 lanes each, the enabled lanes, the lane LFSRs. -/
structure VIn where
  a : List W32 := []
  b : List W32 := []
  c : List W32 := []
  mask : W64
  lfsr : List W32
  deriving DecidableEq, Repr

/-- What it leaves: an entry or a scalar, its flags, the LFSRs after it. -/
structure VRes where
  lanes : List W32 := []
  sc : W64 := 0
  fl : Flags := 0
  lfsr : List W32
  deriving DecidableEq, Repr

/-- The lanes in ascending order. -/
def laneIx : List Nat := List.range 64

def VIn.en (m : VIn) (i : Nat) : Bool := bitAt m.mask i

/-- The state of lane `i`'s LFSR; unlisted ones are seeded as if 0 had been written (R61). -/
def lfsrAt (l : List W32) (i : Nat) : W32 := l.getD i (lfsrSeed 0 i)

/-- A source that is no q-register: in every lane the low 32 bits of its value, or the lane's number (R129). -/
def vScalar (w : Who) (x : Ctx) (imm : BitVec 34) (code : BitVec 6) : List W32 :=
  if code = 60 then laneIx.map (fun i => BitVec.ofNat 32 i)
  else List.replicate 64 ((readSrc w x code (imm.setWidth 64)).setWidth 32)

/-- Reads one source. -/
def Taken.src (t : Taken) (w : Who) (imm : BitVec 34) (p : BitVec 6 × BitVec 1) : Taken :=
  if isQ p.1 then t.q (qOf p.1) (p.2 == 1) else { t with vals := t.vals ++ [vScalar w t.x imm p.1] }

/-- LM (R82): code 0 enables every lane. -/
def vMask (w : Who) (x : Ctx) (lm : BitVec 6) : W64 := if lm = 0 then -1 else (x.role w.r).s lm.toNat

/-- The sources of a vector instruction that reads `n` of a, b, c (R129). -/
def vTake (v : WordV) (n : Nat) (w : Who) (x : Ctx) : Taken :=
  ([(v.a, v.ka), (v.b, v.kb), (v.c, v.kc)].take n).foldl (fun t p => Taken.src t w v.imm p) { x := x }
/-- The q-register that it writes. -/
def vDst (v : WordV) : Option Nat := if isQ v.d then some (qOf v.d) else none
/-- What it reads. -/
def vIn (v : WordV) (n : Nat) (w : Who) (x : Ctx) : VIn where
  a := (vTake v n w x).vals.getD 0 []
  b := (vTake v n w x).vals.getD 1 []
  c := (vTake v n w x).vals.getD 2 []
  mask := vMask w x v.lm
  lfsr := x.lfsr
/-- What it leaves: the pops, the LFSRs, the flags, and an entry or a scalar (R131). -/
def vOut (v : WordV) (n : Nat) (w : Who) (x : Ctx) (r : VRes) (s : State) : State :=
  let y := { (vTake v n w x).x with lfsr := r.lfsr }
  if isQ v.d then (s.setCtx w.c (y.qPush (qOf v.d) r.lanes)).orFlags w r.fl
  else ((s.setCtx w.c y).orFlags w r.fl).setS w v.d.toNat r.sc

/-- A vector instruction that reads `n` of its sources a, b, c (R129, R131). -/
def effV (v : WordV) (n : Nat) (f : VIn → VRes) : Effect := fun w x s =>
  match (vTake v n w x).stop (vDst v) with
  | some e => e
  | none => .done (vOut v n w x (f (vIn v n w x)) s)

/-- Each enabled lane by itself; a disabled one receives zero and sets no flag (R130). -/
def perLane (m : VIn) (g : Nat → Res) : VRes where
  lanes := laneIx.map (fun i => if m.en i then BitVec.ofNat 32 (g i).bits else 0)
  fl := laneIx.foldl (fun fl i => if m.en i then fl ||| (g i).flags else fl) 0
  lfsr := m.lfsr

/-- A lane operation without flags. -/
def perLane1 (m : VIn) (g : W32 → W32) : VRes := perLane m (fun i => ⟨(g (lane m.a i)).toNat, 0⟩)
def perLane2 (m : VIn) (g : W32 → W32 → W32) : VRes := perLane m (fun i => ⟨(g (lane m.a i) (lane m.b i)).toNat, 0⟩)

/-- A lane operation that rounds once per enabled lane: in mode SR each of them steps its LFSR (R60). -/
def perLaneR (m : VIn) (sr : Bool) (g : Nat → W32 → Res) : VRes :=
  let r := perLane m (fun i => g i (lfsrStep (lfsrAt m.lfsr i)))
  { r with lfsr := if sr then laneIx.map (fun i => if m.en i then lfsrStep (lfsrAt m.lfsr i) else lfsrAt m.lfsr i) else m.lfsr }

/-- The f32 value of a lane. -/
def f32 (x : W32) : FVal := fmtF32.unpack x.toNat

/-! ## Floating-point lane arithmetic (R133, R134) -/

def rmOf (v : WordV) : RMode := RMode.ofCode v.rm

/-- `f` on the f32 values of the lanes. -/
def effF (v : WordV) (n : Nat) (f : RMode → FVal → FVal → FVal → W32 → Res) : Effect :=
  effV v n (fun m => perLaneR m (v.rm == 4) (fun i u => f (rmOf v) (f32 (lane m.a i)) (f32 (lane m.b i)) (f32 (lane m.c i)) u))

def execVadd (v : WordV) (s : State) : Out := runV (.vadd v) v (effF v 2 (fun m a b _ u => fAdd fmtF32 m a b u)) s
def execVsub (v : WordV) (s : State) : Out := runV (.vsub v) v (effF v 2 (fun m a b _ u => fAdd fmtF32 m a b.negate u)) s
def execVmul (v : WordV) (s : State) : Out := runV (.vmul v) v (effF v 2 (fun m a b _ u => fMul fmtF32 m a b u)) s
def execVfma (v : WordV) (s : State) : Out := runV (.vfma v) v (effF v 3 (fun m a b c u => fFma fmtF32 m a b c u)) s
def execVfms (v : WordV) (s : State) : Out := runV (.vfms v) v (effF v 3 (fun m a b c u => fFma fmtF32 m a b c.negate u)) s
def execVfnma (v : WordV) (s : State) : Out := runV (.vfnma v) v (effF v 3 (fun m a b c u => fFma fmtF32 m a.negate b c u)) s
def execVdiv (v : WordV) (s : State) : Out := runV (.vdiv v) v (effF v 2 (fun m a b _ u => fDiv fmtF32 m a b u)) s
def execVsqrt (v : WordV) (s : State) : Out := runV (.vsqrt v) v (effF v 1 (fun m a _ _ u => fSqrt fmtF32 m a u)) s

/-- The larger (or smaller) of two f32 lanes, −0 below +0; a NaN gives the canonical NaN (R134, R151). -/
def fPick (max : Bool) (x y : W32) : Res :=
  let a := f32 x
  let b := f32 y
  if a.isNan || b.isNan then nanRes fmtF32 (a.isSnan || b.isSnan)
  else if max then ⟨(if a.lt b then y else x).toNat, 0⟩ else ⟨(if b.lt a then y else x).toNat, 0⟩

def execVmin (v : WordV) (s : State) : Out :=
  runV (.vmin v) v (effV v 2 (fun m => perLane m (fun i => fPick false (lane m.a i) (lane m.b i)))) s
def execVmax (v : WordV) (s : State) : Out :=
  runV (.vmax v) v (effV v 2 (fun m => perLane m (fun i => fPick true (lane m.a i) (lane m.b i)))) s

/-- A change of the sign bit alone (R134). -/
def fSign (g : W32 → W32) (x : W32) : Res :=
  if (f32 x).isNan then nanRes fmtF32 (f32 x).isSnan else ⟨(g x).toNat, 0⟩

def execVabs (v : WordV) (s : State) : Out :=
  runV (.vabs v) v (effV v 1 (fun m => perLane m (fun i => fSign (fun x => x &&& 0x7FFFFFFF#32) (lane m.a i)))) s
def execVneg (v : WordV) (s : State) : Out :=
  runV (.vneg v) v (effV v 1 (fun m => perLane m (fun i => fSign (fun x => x ^^^ 0x80000000#32) (lane m.a i)))) s

/-! ## Transcendental sequences (R135 to R139) -/

/-- A value inside a sequence, and whether a step so far was inexact. -/
structure Seq where
  v : FVal
  nx : Flags := 0
  deriving DecidableEq, Repr

/-- A step's result goes on, keeping only NX (R135). -/
def Seq.of (nx : Flags) (r : Res) : Seq := ⟨fmtF32.unpack r.bits, nx ||| (r.flags &&& fNX)⟩
/-- rne(a·b + c). -/
def sFma (nx : Flags) (a b c : FVal) : Seq := Seq.of nx (fFma fmtF32 .rne a b c 0)
/-- rne(c − a·b). -/
def sFnma (nx : Flags) (a b c : FVal) : Seq := Seq.of nx (fFma fmtF32 .rne a.negate b c 0)
/-- A constant by its bits. -/
def kF (x : Nat) : FVal := fmtF32.unpack x
def k1 : FVal := kF 0x3F800000

/-- The last step: its OF and UF count too (R135). -/
def lastStep (nx : Flags) (r : Res) : Res := ⟨r.bits, r.flags ||| nx⟩
/-- scale(y, n): y·2^n rounded once by RNE. -/
def fScale (y : FVal) (n : Int) : Res := roundDyadic fmtF32 .rne false y.neg y.dyadic.1 (y.dyadic.2 + n) 0

/-- dec(x): the exact m in [1, 2) and e. -/
def fDec (m : Nat) (e : Int) : FVal × Int := (.fin false m (-(m.log2 : Int)), e + (m.log2 : Int))

/-- R136. -/
def vrcp (x : FVal) : Res :=
  match x with
  | .nan s => nanRes fmtF32 s
  | .inf s => ⟨fmtF32.zero s, 0⟩
  | .zero s => ⟨fmtF32.inf s, fOF⟩
  | .fin s mm ee =>
    let (m, e) := fDec mm ee
    let y := sFnma 0 (kF 0x3EF0F0F1) m (kF 0x3FB4B4B5)
    let y := (List.range 3).foldl (fun (y : Seq) _ =>
      let t := sFnma y.nx m y.v k1
      sFma t.nx y.v t.v y.v) y
    let r := fScale y.v (-e)
    lastStep y.nx ⟨fmtF32.signBit s + r.bits, r.flags⟩

/-- R137. -/
def vrsq (x : FVal) : Res :=
  match x with
  | .nan s => nanRes fmtF32 s
  | .zero s => ⟨fmtF32.inf s, fOF⟩
  | .inf s => if s then nanRes fmtF32 true else ⟨0, 0⟩
  | .fin s mm ee =>
    if s then nanRes fmtF32 true
    else
      let (m0, e0) := fDec mm ee
      let odd := e0 % 2 == 1
      let m : FVal := if odd then .fin false m0.dyadic.1.natAbs (m0.dyadic.2 + 1) else m0
      let e := if odd then e0 - 1 else e0
      let h : FVal := .fin false m.dyadic.1.natAbs (m.dyadic.2 - 1)
      let y := sFnma 0 (kF 0x3E400000) m (kF 0x3F900000)
      let y := (List.range 5).foldl (fun (y : Seq) _ =>
        let t := Seq.of y.nx (fMul fmtF32 .rne y.v y.v 0)
        let t := sFnma t.nx h t.v (kF 0x3FC00000)
        Seq.of t.nx (fMul fmtF32 .rne y.v t.v 0)) y
      lastStep y.nx (fScale y.v (-(e / 2)))

/-- c6 down to c0 of R138, after c7. -/
def expCoef : List Nat := [0x39218489, 0x3AAEC3FF, 0x3C1D955B, 0x3D635847, 0x3E75FDF0, 0x3F317218, 0x3F800000]

/-- R138. -/
def vexp2 (x : FVal) : Res :=
  match x with
  | .nan s => nanRes fmtF32 s
  | .inf s => ⟨if s then 0 else fmtF32.inf false, 0⟩
  | x =>
    let hi := kF 0x43480000
    let x := if hi.lt x then hi else if x.lt hi.negate then hi.negate else x
    let (v, k) := x.dyadic
    let n := sgn (v < 0) (roundInt .rne (v < 0) (fixOf v.natAbs 1 k) 0)
    let f := addDyadic v k (-n) 0
    let f : FVal := if f.1 = 0 then .zero false else .fin (f.1 < 0) f.1.natAbs f.2
    let p := expCoef.foldl (fun (p : Seq) c => sFma p.nx p.v f (kF c)) ⟨kF 0x377FE5FE, 0⟩
    lastStep p.nx (fScale p.v n)

/-- k7 down to k1 of R139, after k9. -/
def logCoef : List Nat := [0x3ED30BB1, 0x3F13BB63, 0x3F76384F, 0x4038AA3B]

/-- R139. -/
def vlog2 (x : FVal) : Res :=
  match x with
  | .nan s => nanRes fmtF32 s
  | .inf s => if s then nanRes fmtF32 true else ⟨fmtF32.inf false, 0⟩
  | .zero _ => ⟨fmtF32.inf true, fOF⟩
  | .fin s mm ee =>
    if s then nanRes fmtF32 true
    else
      let (m0, e0) := fDec mm ee
      let big := (kF 0x3FB504F3).lt m0
      let m : FVal := if big then .fin false m0.dyadic.1.natAbs (m0.dyadic.2 - 1) else m0
      let e := if big then e0 + 1 else e0
      let a := Seq.of 0 (fAdd fmtF32 .rne m k1.negate 0)
      let b := Seq.of a.nx (fAdd fmtF32 .rne m k1 0)
      let t := Seq.of b.nx (fDiv fmtF32 .rne a.v b.v 0)
      let u := Seq.of t.nx (fMul fmtF32 .rne t.v t.v 0)
      let q := logCoef.foldl (fun (q : Seq) c => sFma q.nx q.v u.v (kF c)) ⟨kF 0x3EA4258A, u.nx⟩
      lastStep q.nx (fFma fmtF32 .rne t.v q.v (fmtF32.unpack (fOfInt fmtF32 .rne false e 0).bits) 0)

def effT (v : WordV) (f : FVal → Res) : Effect := effV v 1 (fun m => perLane m (fun i => f (f32 (lane m.a i))))

def execVrcp (v : WordV) (s : State) : Out := runV (.vrcp v) v (effT v vrcp) s
def execVrsq (v : WordV) (s : State) : Out := runV (.vrsq v) v (effT v vrsq) s
def execVexp2 (v : WordV) (s : State) : Out := runV (.vexp2 v) v (effT v vexp2) s
def execVlog2 (v : WordV) (s : State) : Out := runV (.vlog2 v) v (effT v vlog2) s

/-! ## Integer and bit operations (R140, R141) -/

/-- The value of a lane under the integer type of the instruction. -/
def iVal (v : WordV) (x : W32) : Int := intOfCode v.type x.toNat
/-- A saturated lane result. -/
def iSat (v : WordV) (x : Int) : Res :=
  let r := satInt x (codeRange v.type).1 (codeRange v.type).2
  ⟨lowBits 32 r.1, r.2⟩

def effI1 (v : WordV) (g : W32 → W32) : Effect := effV v 1 (fun m => perLane1 m g)
def effI2 (v : WordV) (g : W32 → W32 → W32) : Effect := effV v 2 (fun m => perLane2 m g)

def execViadd (v : WordV) (s : State) : Out := runV (.viadd v) v (effI2 v (· + ·)) s
def execVisub (v : WordV) (s : State) : Out := runV (.visub v) v (effI2 v (· - ·)) s
def execVimul (v : WordV) (s : State) : Out := runV (.vimul v) v (effI2 v (· * ·)) s
def execVimad (v : WordV) (s : State) : Out :=
  runV (.vimad v) v (effV v 3 (fun m =>
    perLane m (fun i => ⟨(lane m.a i * lane m.b i + lane m.c i).toNat, 0⟩))) s
def execVimulh (v : WordV) (s : State) : Out :=
  runV (.vimulh v) v (effI2 v (fun a b => BitVec.ofInt 32 (iVal v a * iVal v b / 2 ^ 32))) s
def execVsadd (v : WordV) (s : State) : Out :=
  runV (.vsadd v) v (effV v 2 (fun m => perLane m (fun i => iSat v (iVal v (lane m.a i) + iVal v (lane m.b i))))) s
def execVssub (v : WordV) (s : State) : Out :=
  runV (.vssub v) v (effV v 2 (fun m => perLane m (fun i => iSat v (iVal v (lane m.a i) - iVal v (lane m.b i))))) s
def execVimin (v : WordV) (s : State) : Out :=
  runV (.vimin v) v (effI2 v (fun a b => if iVal v b < iVal v a then b else a)) s
def execVimax (v : WordV) (s : State) : Out :=
  runV (.vimax v) v (effI2 v (fun a b => if iVal v a < iVal v b then b else a)) s
def execViabs (v : WordV) (s : State) : Out :=
  runV (.viabs v) v (effV v 1 (fun m => perLane m (fun i => iSat v ((lane m.a i).toInt.natAbs : Nat)))) s

def execVshl (v : WordV) (s : State) : Out := runV (.vshl v) v (effI2 v (fun a b => a <<< (b.toNat % 32))) s
def execVshr (v : WordV) (s : State) : Out := runV (.vshr v) v (effI2 v (fun a b => a >>> (b.toNat % 32))) s
def execVsra (v : WordV) (s : State) : Out := runV (.vsra v) v (effI2 v (fun a b => a.sshiftRight (b.toNat % 32))) s
def execVand (v : WordV) (s : State) : Out := runV (.vand v) v (effI2 v (· &&& ·)) s
def execVor (v : WordV) (s : State) : Out := runV (.vor v) v (effI2 v (· ||| ·)) s
def execVxor (v : WordV) (s : State) : Out := runV (.vxor v) v (effI2 v (· ^^^ ·)) s
def execVpopc (v : WordV) (s : State) : Out :=
  runV (.vpopc v) v (effI1 v (fun a => BitVec.ofNat 32 (popNat 32 a.toNat))) s
def execVclz (v : WordV) (s : State) : Out :=
  runV (.vclz v) v (effI1 v (fun a => BitVec.ofNat 32 (clzNat 32 a.toNat))) s

/-! ## Compare and select (R142 to R144) -/

/-- The conditions of VCMP (R142). -/
def condF (cc : Nat) (a b : FVal) : Bool :=
  match cc with
  | 0 => a.eq b
  | 1 => !a.eq b
  | 2 => a.ltNum b
  | 3 => a.ltNum b || a.eq b
  | 4 => b.ltNum a
  | 5 => b.ltNum a || a.eq b
  | 6 => a.isNan || b.isNan
  | _ => !a.isNan && !b.isNan

/-- A mask from a truth value for each enabled lane (R130). -/
def maskOf (m : VIn) (g : Nat → Bool) : W64 :=
  laneIx.foldl (fun (d : W64) i => if m.en i && g i then d ||| (1#64 <<< i) else d) 0

def execVcmp (v : WordV) (s : State) : Out :=
  runV (.vcmp v) v (effV v 2 (fun m =>
    let x := fun i => f32 (lane m.a i)
    let y := fun i => f32 (lane m.b i)
    { sc := maskOf m (fun i => condF (field v.imm 0 4).toNat (x i) (y i))
      fl := flagIf (laneIx.any (fun i => m.en i && ((x i).isSnan || (y i).isSnan))) fNV
      lfsr := m.lfsr })) s
def execVicmp (v : WordV) (s : State) : Out :=
  runV (.vicmp v) v (effV v 2 (fun m =>
    { sc := maskOf m (fun i => condOf (field v.imm 0 4).toNat (lane m.a i) (lane m.b i)), lfsr := m.lfsr })) s
/-- c is a scalar read whole (R144). -/
def execVsel (v : WordV) (s : State) : Out :=
  runV (.vsel v) v (fun w x s =>
    let c := (x.role w.r).s v.c.toNat
    effV v 2 (fun m => perLane m (fun i => ⟨(if bitAt c i then lane m.a i else lane m.b i).toNat, 0⟩)) w x s) s

/-! ## Conversion and packing (R145 to R148) -/

def execVcvt (v : WordV) (s : State) : Out :=
  runV (.vcvt v) v (effV v 1 (fun m =>
    let st := field v.imm 0 5
    perLaneR m (v.rm == 4 && !neverRounds st v.type) (fun i u =>
      convElem st v.type (rmOf v) (bitAt v.imm 5) (lane m.a i).toNat u))) s

/-- Element `k` of `n` bytes of a dense array (R128). -/
def denseAt (l : List W32) (n k : Nat) : Nat :=
  let bit := 8 * n * k
  (lane l (bit / 32)).toNat / 2 ^ (bit % 32) % 2 ^ (8 * n)

/-- The 64 lanes of a dense array of elements of `n` bytes, cleared where disabled. -/
def fromDense (m : VIn) (n : Nat) (g : Nat → Nat) : VRes :=
  let per := 4 / n
  perLane m (fun i => ⟨(List.range per).foldl (fun a j => a + g (per * i + j) % 2 ^ (8 * n) * 2 ^ (8 * n * j)) 0, 0⟩)

def execVpack (v : WordV) (s : State) : Out :=
  runV (.vpack v) v (effV v 2 (fun m =>
    if codeBits v.type = 16 then fromDense m 2 (fun k => (if k < 64 then lane m.a k else lane m.b (k - 64)).toNat)
    else fromDense m 1 (fun k => if k < 128 then denseAt m.a 2 k else denseAt m.b 2 (k - 128)))) s

def execVunpk (v : WordV) (s : State) : Out :=
  runV (.vunpk v) v (effV v 1 (fun m =>
    let h := (field v.imm 0 1).toNat
    if codeBits v.type = 16 then perLane m (fun i => ⟨lowBits 32 (intOfCode v.type (denseAt m.a 2 (64 * h + i))), 0⟩)
    else fromDense m 2 (fun k => lowBits 16 (intOfCode v.type (denseAt m.a 1 (128 * h + k)))))) s

/-- A row in plane layout from its blocks of 32 (R67). -/
def planeRow (m : Nat) (blocks : List Block) : List Byte :=
  let mant := blocks.flatMap (fun b => b.mant.map (lowBits m))
  blocks.map (fun b => BitVec.ofNat 8 b.exp) ++
    (List.range m).flatMap (fun p => (List.range 16).map (fun j =>
      BitVec.ofNat 8 (((mant.drop (8 * j)).take 8).zipIdx.foldl (fun a e => a + bit1 (e.1.testBit p) e.2) 0)))

/-- The mantissa of element `j` of a row in plane layout. -/
def planeMant (row : List Byte) (m j : Nat) : Int :=
  mantOf m ((List.range m).foldl (fun a p => a + bit1 (bitAt (row.getD (4 + 16 * p + j / 8) 0) (j % 8)) p) 0)

/-- The value of element `j` of a row in plane layout (R64, R67, R68). -/
def planeVal (half : Bool) (m : Nat) (row : List Byte) (j : Nat) : FVal :=
  blockVal half m (row.getD (j / 32) 0).toNat (planeMant row m j)

/-- Cuts a list into four blocks of 32. -/
def blocks4 {α : Type} (l : List α) : List (List α) := (List.range 4).map (fun b => (l.drop (32 * b)).take 32)

def execVqbfp (v : WordV) (s : State) : Out :=
  runV (.vqbfp v) v (effV v 2 (fun m =>
    let u1 := fun i => lfsrStep (lfsrAt m.lfsr i)
    let u2 := fun i => lfsrStep (u1 i)
    let xs := laneIx.map (fun i => (f32 (lane m.a i), u1 i)) ++ laneIx.map (fun i => (f32 (lane m.b i), u2 i))
    let bs := (blocks4 xs).map (toBlock (blockHalf v.type) (blockWidth v.type) (rmOf v))
    { lanes := bytesLanes (planeRow (blockWidth v.type) bs)
      fl := bs.foldl (fun f b => f ||| b.flags) 0
      lfsr := if v.rm = 4 then laneIx.map u2 else m.lfsr })) s

def execVdqbfp (v : WordV) (s : State) : Out :=
  runV (.vdqbfp v) v (effV v 1 (fun m =>
    let row := laneBytes m.a
    let h := (field v.imm 0 1).toNat
    perLane m (fun i => fConv fmtF32 .rne false (planeVal (blockHalf v.type) (blockWidth v.type) row (64 * h + i)) 0))) s

/-! ## Moving lanes (R149, R150) -/

def execVmov (v : WordV) (s : State) : Out := runV (.vmov v) v (effI1 v (fun a => a)) s
def execVins (v : WordV) (s : State) : Out :=
  runV (.vins v) v (effV v 3 (fun m =>
    perLane m (fun i => ⟨(if i = (lane m.c 0).toNat % 64 then lane m.b i else lane m.a i).toNat, 0⟩))) s
def execVext (v : WordV) (s : State) : Out :=
  runV (.vext v) v (effV v 2 (fun m =>
    let e := lane m.a ((lane m.b 0).toNat % 64)
    { sc := if v.type = 2 then e.signExtend 64 else e.setWidth 64, lfsr := m.lfsr })) s
def execVperm (v : WordV) (s : State) : Out :=
  runV (.vperm v) v (effV v 2 (fun m => perLane m (fun i => ⟨(lane m.a ((lane m.b i).toNat % 64)).toNat, 0⟩))) s
def execVrot (v : WordV) (s : State) : Out :=
  runV (.vrot v) v (effV v 2 (fun m =>
    perLane m (fun i => ⟨(lane m.a ((i + 64 - (lane m.b 0).toNat % 64) % 64)).toNat, 0⟩))) s

/-- The enabled lanes in ascending order. -/
def VIn.enabled (m : VIn) : List Nat := laneIx.filter m.en
def execVcmpr (v : WordV) (s : State) : Out :=
  runV (.vcmpr v) v (effV v 1 (fun m =>
    { lanes := laneIx.map (fun i => (m.enabled[i]?.map (fun j => lane m.a j)).getD 0)
      lfsr := m.lfsr })) s
def execVexpd (v : WordV) (s : State) : Out :=
  runV (.vexpd v) v (effV v 1 (fun m =>
    perLane m (fun i => ⟨(lane m.a (m.enabled.countP (· < i))).toNat, 0⟩))) s

/-! ## Reductions, scans, argument search (R151 to R153) -/

/-- The identity of an operation (R151). -/
def redId (op : Nat) (ty : BitVec 5) : W32 :=
  match op with
  | 0 => 0x80000000#32
  | 1 => 0xFF800000#32
  | 2 => 0x7F800000#32
  | 4 => BitVec.ofInt 32 (codeRange ty).1
  | 5 => BitVec.ofInt 32 (codeRange ty).2
  | 6 => -1
  | _ => 0

/-- One application of an operation (R151, R152). -/
def redOp (op : Nat) (ty : BitVec 5) (a b : W32) : Res :=
  match op with
  | 0 => fAdd fmtF32 .rne (f32 a) (f32 b) 0
  | 1 => fPick true a b
  | 2 => fPick false a b
  | 3 => ⟨(a + b).toNat, 0⟩
  | 4 => ⟨(if intOfCode ty a.toNat < intOfCode ty b.toNat then b else a).toNat, 0⟩
  | 5 => ⟨(if intOfCode ty b.toNat < intOfCode ty a.toNat then b else a).toNat, 0⟩
  | 6 => ⟨(a &&& b).toNat, 0⟩
  | 7 => ⟨(a ||| b).toNat, 0⟩
  | _ => ⟨(a ^^^ b).toNat, 0⟩

/-- One level of the tree: neighbours are combined. -/
def pairUp (g : W32 → W32 → Res) : List W32 → List W32 × Flags
  | a :: b :: l =>
    let r := g a b
    let t := pairUp g l
    (BitVec.ofNat 32 r.bits :: t.1, r.flags ||| t.2)
  | l => (l, 0)

/-- The fixed tree of R151 over 64 values: six levels. -/
def treeRed (g : W32 → W32 → Res) (l : List W32) : W32 × Flags :=
  let r := (List.range 6).foldl (fun (p : List W32 × Flags) _ =>
    let t := pairUp g p.1
    (t.1, p.2 ||| t.2)) (l, 0)
  (r.1.headD 0, r.2)

def execVred (v : WordV) (s : State) : Out :=
  runV (.vred v) v (effV v 1 (fun m =>
    let op := (field v.imm 0 4).toNat
    let r := treeRed (redOp op v.type) (laneIx.map (fun i => if m.en i then lane m.a i else redId op v.type))
    { sc := if v.type = 2 then r.1.signExtend 64 else r.1.setWidth 64, fl := r.2, lfsr := m.lfsr })) s

/-- The scan of R152: lanes so far (last first), the accumulator, flags. -/
def scanStep (m : VIn) (op : Nat) (ty : BitVec 5) (ex : Bool) (p : List W32 × W32 × Flags) (i : Nat) :
    List W32 × W32 × Flags :=
  if m.en i then
    let r := redOp op ty p.2.1 (lane m.a i)
    let acc : W32 := BitVec.ofNat 32 r.bits
    ((if ex then p.2.1 else acc) :: p.1, acc, p.2.2 ||| r.flags)
  else (0 :: p.1, p.2)

def execVscan (v : WordV) (s : State) : Out :=
  runV (.vscan v) v (effV v 1 (fun m =>
    let op := (field v.imm 0 4).toNat
    let r := laneIx.foldl (scanStep m op v.type (bitAt v.imm 4)) ([], redId op v.type, 0)
    { lanes := r.1.reverse, fl := r.2.2, lfsr := m.lfsr })) s

/-- Lane value `a` ranks before `b` in the search of VARG (R153): numeric order, −0 equal to +0. -/
def argLess (ty : BitVec 5) (a b : W32) : Bool :=
  if ty = 8 then (f32 a).ltNum (f32 b) else decide (intOfCode ty a.toNat < intOfCode ty b.toNat)

/-- The lane that VARG finds: the first of those that no other outranks, NaNs left out. -/
def argBest (v : WordV) (m : VIn) : Option Nat :=
  let min := bitAt v.imm 0
  let nan := fun i => v.type == 8 && (f32 (lane m.a i)).isNan
  (m.enabled.filter (fun i => !nan i)).foldl (fun (b : Option Nat) i => match b with
    | none => some i
    | some j =>
      let x := lane m.a i
      let y := lane m.a j
      if (if min then argLess v.type x y else argLess v.type y x) then some i else some j) none

def execVarg (v : WordV) (s : State) : Out :=
  runV (.varg v) v (effV v 1 (fun m =>
    { sc := ((argBest v m).map (fun i => BitVec.ofNat 64 i)).getD (-1)
      fl := flagIf (m.enabled.any (fun i => v.type == 8 && (f32 (lane m.a i)).isSnan)) fNV
      lfsr := m.lfsr })) s

end Sys2Proof.Machine
end

