-- ==== Sys2Proof/Machine/Command.lean ====
section
/-! DEFINITION. Copy commands (R252 to R256): fields, limits, addresses of elements, and the ranges that the range checker
keeps (R233, R241, R259). -/

namespace Sys2Proof.Machine

/-- A dimension: extent and signed strides (R254). -/
structure Dim where
  ext : Nat
  ss : Int
  ds : Int
  rsvd : Nat
  deriving DecidableEq, Repr, Inhabited

/-- The fields of a command block. -/
structure Cmd where
  op : Nat
  ord : Nat
  tps : Nat
  qb : Nat
  ssp : Nat
  dsp : Nat
  sty : Nat
  dty : Nat
  cnv : Nat
  rnd : Nat
  peer : Nat
  pkg : Nat
  sadr : Nat
  dadr : Nat
  dims : List Dim
  gix : Nat
  xadr : Nat
  stw : Nat
  rsvd : Bool
  deriving DecidableEq, Repr, Inhabited

def Cmd.of (b : List Byte) : Cmd where
  op := numAt b 0 1
  ord := numAt b 1 1
  tps := numAt b 2 1
  qb := numAt b 3 1
  ssp := numAt b 4 1
  dsp := numAt b 5 1
  sty := numAt b 6 1
  dty := numAt b 7 1
  cnv := numAt b 8 1
  rnd := numAt b 9 1
  peer := numAt b 10 1
  pkg := numAt b 12 2
  sadr := numAt b 0x10 8
  dadr := numAt b 0x18 8
  dims := (List.range 4).map (fun k =>
    ⟨numAt b (0x20 + 16 * k) 4, signed 32 (numAt b (0x24 + 16 * k) 4), signed 32 (numAt b (0x28 + 16 * k) 4),
      numAt b (0x2C + 16 * k) 4⟩)
  gix := numAt b 0x60 8
  xadr := numAt b 0x68 8
  stw := numAt b 0x70 2
  rsvd := numAt b 11 1 != 0 || numAt b 14 2 != 0 || numAt b 0x72 14 != 0

def Cmd.dim (m : Cmd) (i : Nat) : Dim := m.dims.getD i ⟨1, 0, 0, 0⟩
def Cmd.ext (m : Cmd) (i : Nat) : Nat := (m.dim i).ext
/-- The element count. -/
def Cmd.count (m : Cmd) : Nat := m.ext 0 * m.ext 1 * m.ext 2 * m.ext 3
def Cmd.fill (m : Cmd) : Bool := m.op == 1
def Cmd.acq (m : Cmd) : Bool := m.ord.testBit 0
def Cmd.rel (m : Cmd) : Bool := m.ord.testBit 1
def Cmd.rm (m : Cmd) : RMode := RMode.ofCode (BitVec.ofNat 3 m.rnd)
def Cmd.sat (m : Cmd) : Bool := m.rnd.testBit 3

/-- Bytes of an element of a type (R49); 0 for a block code. -/
def elemSize (t : Nat) : Nat := if t ≤ 12 then codeBits (BitVec.ofNat 5 t) / 8 else 0
def isBlock (t : Nat) : Bool := 13 ≤ t && t ≤ 30
def isFloat3 (t : Nat) : Bool := 8 ≤ t && t ≤ 10
/-- m of a block code. -/
def mOf (t : Nat) : Nat := blockWidth (BitVec.ofNat 5 t)
def halfCode (t : Nat) : Bool := blockHalf (BitVec.ofNat 5 t)
/-- The codes of element conversion (R256). -/
def cnv1Type (t : Nat) : Bool := t ≤ 12 && t != 3 && t != 7

/-- The source is packed BFP: mantissas at SADR, exponents at XADR (R66, R256). -/
def Cmd.packedIn (m : Cmd) : Bool := m.cnv == 5 || (m.cnv == 3 && isBlock m.sty)
/-- XADR is used. -/
def Cmd.usesX (m : Cmd) : Bool := m.packedIn || m.cnv == 4

/-- Bytes of an element, or of a plane row, on each side. -/
def Cmd.srcSize (m : Cmd) : Nat := elemSize m.sty
def Cmd.dstSize (m : Cmd) : Nat := if m.cnv = 2 then 4 + 16 * mOf m.dty else elemSize m.dty

/-- The bytes that a block's mantissas occupy in packed layout, and the m that counts. -/
def Cmd.packM (m : Cmd) : Nat := if m.packedIn then mOf m.sty else mOf m.dty

/-- The stride of dimension 0 in bytes. -/
def Cmd.s0 (m : Cmd) : Int := if (m.dim 0).ss = 0 then m.srcSize else (m.dim 0).ss
def Cmd.d0 (m : Cmd) : Int := if m.cnv = 2 then 0 else if (m.dim 0).ds = 0 then m.dstSize else (m.dim 0).ds

/-! ## The checks of R265 -/

/-- The spaces that each queue accepts (R253). -/
def srcSpace (store : Bool) (n : Nat) : Bool := if store then n == 0 || n == 6 else n == 0 || (2 ≤ n && n ≤ 5)
def dstSpace (store : Bool) (n : Nat) : Bool := if store then 2 ≤ n && n ≤ 5 else n == 0 || n == 1 || n == 6

/-- PKG holds what its side allows. -/
def Cmd.pkgOk (m : Cmd) : Bool :=
  if m.ssp = 4 ∨ m.dsp = 4 then m.pkg < 2048 else if m.ssp = 5 ∨ m.dsp = 5 then m.pkg < 2 else m.pkg == 0

/-- Types and strides of a conversion (R254, R256). -/
def Cmd.convOk (m : Cmd) : Bool :=
  let srcBlk := isFloat3 m.sty
  let flatD := m.dims.all (fun d => d.ds == 0)
  let flatS := m.dims.all (fun d => d.ss == 0)
  match m.cnv with
  | 0 => m.sty == m.dty && m.sty ≤ 12
  | 1 => cnv1Type m.sty && cnv1Type m.dty
  | 2 => srcBlk && isBlock m.dty && m.ext 0 == 128 && (m.dim 0).ds == 0 && m.dadr % 4 == 0 &&
      (m.dims.drop 1).all (fun d => d.ds % 4 == 0 &&
        (if d.ds = 0 then d.ext == 1 else decide (((4 + 16 * mOf m.dty : Nat) : Int) ≤ d.ds)))
  | 3 => (srcBlk || (m.sty == m.dty && flatS)) && 13 ≤ m.dty && m.dty ≤ 22 && m.dsp == 1 && m.ext 0 == 128 && m.ext 1 == 128 &&
      m.ext 2 == 1 && m.ext 3 == 1 && m.dadr % 256 == 0 && flatD
  | 4 => srcBlk && isBlock m.dty && m.ext 0 % 32 == 0 && flatD
  | 5 => isBlock m.sty && isFloat3 m.dty && m.ext 0 % 32 == 0 && flatS
  | _ => false

/-- Every element of a side is aligned to its size (R254); the stride of a dimension of one element moves none. An indexed dimension
moves its elements whatever its extent. -/
def alignedSide (base : Nat) (size : Nat) (indexed : Bool) (strides : List (Nat × Int)) : Bool :=
  base % size == 0 &&
    strides.zipIdx.all (fun (d, i) => (d.1 == 1 && !(indexed && i == 1)) || d.2 % (size : Int) == 0)

/-- Both sides are aligned, as far as their elements have a size. -/
def Cmd.aligned (m : Cmd) : Bool :=
  (m.fill || m.ssp == 6 || m.packedIn || alignedSide m.sadr m.srcSize (m.op == 2) (m.dims.map (fun d => (d.ext, d.ss)))) &&
    (m.dsp == 6 || (2 ≤ m.cnv && m.cnv ≤ 4) || alignedSide m.dadr m.dstSize (m.op == 3) (m.dims.map (fun d => (d.ext, d.ds))))

/-- The whole-row rule of the W buffer (R254); an element of a block code has m bits (R49). -/
def Cmd.wideRows (m : Cmd) : Bool :=
  let bits := if isBlock m.dty then mOf m.dty else 8 * m.dstSize
  m.dsp != 1 || m.cnv == 3 || 32 ≤ bits ||
    ((isBlock m.dty || m.d0 == m.dstSize) && m.dadr % 32 == 0 && m.ext 0 * bits % 256 == 0 &&
      (m.dims.drop 1).all (fun d => d.ds % 32 == 0))

/-- Step 3 of R265: every field lies within R252 to R256 and is accepted by the queue and the operations of the
instruction. -/
def Cmd.ok (m : Cmd) (store : Bool) (ops : List Nat) : Bool :=
  ops.contains m.op && m.ord < 16 && (m.acq || m.rel || m.ord < 4) && m.tps ≤ 1 && m.qb / 16 % 8 == 0 &&
    srcSpace store m.ssp && dstSpace store m.dsp && (!m.fill || (m.ssp == 0 && m.cnv ≤ 1)) &&
    (m.qb.testBit 7 == (m.ssp == 6 || m.dsp == 6)) && m.rnd < 16 && m.rnd % 8 ≤ 3 && m.peer < 128 && m.pkgOk && !m.rsvd &&
    m.dims.all (fun d => 1 ≤ d.ext && d.ext ≤ 2 ^ 24 && d.rsvd == 0) && m.count ≤ 2 ^ 32 &&
    (if 2 ≤ m.op then m.gix % 4 == 0 else m.gix == 0) && (m.usesX || m.xadr == 0) && (m.stw == 0xFFFF || m.stw % 16 == 0) &&
    (m.ssp != 6 || (m.sadr == 0 && m.cnv ≤ 1)) && (m.dsp != 6 || (m.dadr == 0 && m.cnv ≤ 1)) &&
    m.convOk && m.aligned && m.wideRows

/-! ## Addresses (R254, R255) -/

/-- The coordinates of element `n` in transfer order. -/
def Cmd.coord (m : Cmd) (n i : Nat) : Nat :=
  match i with
  | 0 => n % m.ext 0
  | 1 => n / m.ext 0 % m.ext 1
  | 2 => n / (m.ext 0 * m.ext 1) % m.ext 2
  | _ => n / (m.ext 0 * m.ext 1 * m.ext 2)

/-- The coordinate of dimension 1 as a side counts it: the index, on the indexed side. -/
def Cmd.row (m : Cmd) (idx : List W32) (src : Bool) (n : Nat) : Nat :=
  if (src ∧ m.op = 2) ∨ (!src ∧ m.op = 3) then (idx.getD (m.coord n 1) 0).toNat else m.coord n 1

/-- The address of element `n` on a side. -/
def Cmd.at (m : Cmd) (idx : List W32) (src : Bool) (n : Nat) : Int :=
  let st := fun i => if src then (m.dim i).ss else (m.dim i).ds
  (if src then (m.sadr : Int) + m.coord n 0 * m.s0 else (m.dadr : Int) + m.coord n 0 * m.d0) +
    m.row idx src n * st 1 + m.coord n 2 * st 2 + m.coord n 3 * st 3

/-- Elements that move together: what one q-register entry holds, a row, a block, or one element. -/
def Cmd.unit (m : Cmd) : Nat :=
  if m.ssp = 6 then 256 / m.srcSize else if m.dsp = 6 then 256 / m.dstSize
  else if m.cnv = 2 ∨ m.cnv = 3 then 128 else if m.cnv = 4 ∨ m.cnv = 5 then 32 else 1

/-- The source bytes of the unit that begins at element `n`: address and length. -/
def Cmd.srcPieces (m : Cmd) (idx : List W32) (n : Nat) : List (Int × Nat) :=
  if m.fill then []
  else if m.packedIn then
    [((m.sadr : Int) + 4 * m.packM * (n / 32), 4 * m.packM * (m.unit / 32)), ((m.xadr : Int) + n / 32, m.unit / 32)]
  else (List.range m.unit).map (fun i => (m.at idx true (n + i), m.srcSize))

/-- Elements that one destination piece holds: a plane row, a tile column, a block, or one. -/
def Cmd.grain (m : Cmd) : Nat := if m.cnv = 2 ∨ m.cnv = 3 then 128 else if m.cnv = 4 then 32 else 1

/-- The destination bytes of the grain that begins at element `n`. -/
def Cmd.dstAt (m : Cmd) (idx : List W32) (n : Nat) : List (Int × Nat) :=
  if m.cnv = 3 then
    [((m.dadr : Int) + 4 * (n / 128), 4), ((m.dadr : Int) + 512 + 16 * mOf m.dty * (n / 128), 16 * mOf m.dty)]
  else if m.cnv = 4 then
    [((m.dadr : Int) + 4 * m.packM * (n / 32), 4 * m.packM), ((m.xadr : Int) + n / 32, 1)]
  else [(m.at idx false n, m.dstSize)]

/-- The destination bytes of the unit. -/
def Cmd.dstPieces (m : Cmd) (idx : List W32) (n : Nat) : List (Int × Nat) :=
  (List.range (m.unit / m.grain)).flatMap (fun i => m.dstAt idx (n + m.grain * i))

/-! ## Conversion (R256) -/

/-- The value of the bytes of one float element. -/
def floatOf (t : Nat) (b : List Byte) : FVal :=
  match fmtOfCode (BitVec.ofNat 5 t) with
  | some f => f.unpack (natOfBytes b)
  | none => .zero false

/-- The mantissas of a block in packed layout (R66). -/
def unpackBlock (mw : Nat) (b : List Byte) : List Int :=
  (List.range 32).map (fun i => mantOf mw (natOfBytes b >>> (mw * i)))
/-- The bytes of a block in packed layout. -/
def packBlock (mw : Nat) (l : List Int) : List Byte :=
  bytesN (l.zipIdx.foldl (fun a e => a + lowBits mw e.1 * 2 ^ (mw * e.2)) 0) (4 * mw)

/-- The blocks of a unit: converted floats, or packed blocks moved as they are. -/
def Cmd.blocks (m : Cmd) (src : List (List Byte)) : List Block :=
  if m.packedIn then
    let mw := mOf m.sty
    (List.range (m.unit / 32)).map (fun b =>
      ⟨numAt (src.getD 1 []) b 1, unpackBlock mw (((src.getD 0 []).drop (4 * mw * b)).take (4 * mw)), 0⟩)
  else
    (List.range (m.unit / 32)).map (fun b =>
      toBlock (halfCode m.dty) (mOf m.dty) m.rm (((src.drop (32 * b)).take 32).map (fun e => (floatOf m.sty e, 0))))

/-- The converted bytes of a unit, one list for each destination piece, and the flags. -/
def Cmd.convert (m : Cmd) (src : List (List Byte)) : List (List Byte) × Flags :=
  let elem := fun (b : List Byte) =>
    convElem (BitVec.ofNat 5 m.sty) (BitVec.ofNat 5 m.dty) m.rm m.sat (natOfBytes b) 0
  if m.fill then
    if m.cnv = 0 then (List.replicate m.unit (bytesN m.sadr m.dstSize), 0)
    else
      let r := elem (bytesN m.sadr m.srcSize)
      (List.replicate m.unit (bytesN r.bits m.dstSize), r.flags)
  else match m.cnv with
    | 0 => (src, 0)
    | 1 =>
      let r := src.map elem
      (r.map (fun e => bytesN e.bits m.dstSize), r.foldl (fun f e => f ||| e.flags) 0)
    | 5 =>
      match fmtOfCode (BitVec.ofNat 5 m.dty) with
      | none => ([], 0)
      | some f =>
        let r := (m.blocks src).flatMap (fun b => b.mant.map (fun c =>
          fConv f m.rm m.sat (blockVal (halfCode m.sty) (mOf m.sty) b.exp c) 0))
        (r.map (fun e => bytesN e.bits m.dstSize), r.foldl (fun f e => f ||| e.flags) 0)
    | _ =>
      let bs := m.blocks src
      let fl := bs.foldl (fun f b => f ||| b.flags) 0
      let row := planeRow (mOf m.dty) bs
      if m.cnv = 2 then ([row], fl)
      else if m.cnv = 3 then ([row.take 4, row.drop 4], fl)
      else (bs.flatMap (fun b => [packBlock (mOf m.dty) b.mant, bytesN b.exp 1]), fl)

/-! ## Writes of buffers, and earlier accesses to them -/

/-- Clears the poison of the words of a buffer that a write covers whole (R405). -/
def State.cleanS (s : State) (c : CtxId) (buf o n : Nat) : State :=
  { s with poisonS := s.poisonS.filter (fun (d, b, q) => !(d == c && b == buf && decide (o ≤ q) && decide (q + 8 ≤ o + n))) }

/-- Writes bytes of a context's A buffer. -/
def State.putA (s : State) (c : CtxId) (o : Nat) (l : List Byte) : State :=
  (s.modCtx c (fun y => { y with abuf := y.abuf.write o l })).cleanS c 0 o l.length

/-- The accesses of the issuing role to the context's own A buffer that precede a command have been performed: the command's reads see
them (R190, R241). -/
def ownSettled (s : State) (c : CtxId) (x : Ctx) (r : Role) (n : Nat) : Bool :=
  let here := fun (p : Place) => match p with
    | .a d _ => d == c
    | _ => false
  !(s.core c.cid).sbuf.any (fun e => e.ctx == c && e.role == r && decide (e.id < n) && here e.place) &&
    !x.kstores.any (fun e => e.role == r && decide (e.id < n) && here e.place) &&
    !x.flights.any (fun f => f.role == r && decide (f.id < n) && f.atom.isSome && f.data.isNone && here f.place)

/-- An access of the role that a read at the issue of its command would not see yet: an atomic in flight or a message to its own A
buffer, or an acquire (R178, R190). -/
def ownPending (s : State) (w : Who) (x : Ctx) : Bool :=
  (s.core w.c.cid).sbuf.any (fun e => e.ctx == w.c && e.role == w.r && e.k && e.place.own w.c) ||
    x.kstores.any (fun e => e.role == w.r && e.place.own w.c) ||
    x.flights.any (fun f => f.role == w.r && f.data.isNone && (f.acq || (f.atom.isSome && f.place.own w.c)))

/-! ## Ranges (R259) -/

/-- A range of a buffer of the context: A (0) or W (1), from, to, written. -/
structure Span where
  buf : Nat
  lo : Int
  hi : Int
  write : Bool
  deriving DecidableEq, Repr

def Span.conflicts (a b : Span) : Bool := a.buf == b.buf && a.lo < b.hi && b.lo < a.hi && (a.write || b.write)

/-- The interval of the elements of a side; `indexed` leaves dimension 1 out. -/
def sideSpan (base : Nat) (size : Nat) (st0 : Int) (dims : List (Nat × Int)) (ext0 : Nat) : Int × Int :=
  ((ext0, st0) :: dims).foldl (fun (p : Int × Int) (d : Nat × Int) =>
    let r : Int := ((d.1 : Int) - 1) * d.2
    (p.1 + min 0 r, p.2 + max 0 r)) ((base : Int), (base : Int) + size)

/-- The static bounds of the source and the destination without an indexed dimension (R265). -/
def Cmd.srcSpan (m : Cmd) : Int × Int :=
  if m.packedIn then (m.sadr, m.sadr + 4 * m.packM * (m.count / 32))
  else sideSpan m.sadr m.srcSize m.s0
    ((m.dims.drop 1).zipIdx.filterMap (fun (d, i) => if i = 0 ∧ m.op = 2 then none else some (d.ext, d.ss))) (m.ext 0)
def Cmd.dstSpan (m : Cmd) : Int × Int :=
  if m.cnv = 3 then (m.dadr, m.dadr + 512 + 2048 * mOf m.dty)
  else if m.cnv = 4 then (m.dadr, m.dadr + 4 * m.packM * (m.count / 32))
  else sideSpan m.dadr m.dstSize m.d0
    ((m.dims.drop 1).zipIdx.filterMap (fun (d, i) => if i = 0 ∧ m.op = 3 then none else some (d.ext, d.ds))) (m.ext 0)
/-- The exponent array. -/
def Cmd.xSpan (m : Cmd) : Int × Int := (m.xadr, m.xadr + m.count / 32)

/-- The spaces and bounds of the sides that have addresses, for the checks of R265. -/
def Cmd.sides (m : Cmd) : List (Nat × Int × Int) :=
  (if m.fill ∨ m.ssp = 6 then [] else [(m.ssp, m.srcSpan)]) ++ (if m.dsp = 6 then [] else [(m.dsp, m.dstSpan)]) ++
    (if m.usesX then [(if m.packedIn then m.ssp else m.dsp, m.xSpan)] else [])

/-- The bounding interval of intervals (R259); none of none. -/
def bounding (buf : Nat) (write : Bool) : List (Int × Int) → List Span
  | [] => []
  | p :: r => [r.foldl (fun (a : Span) q => { a with lo := min a.lo q.1, hi := max a.hi q.2 }) ⟨buf, p.1, p.2, write⟩]

/-- The intervals that the checker keeps: one of the A bytes read, one of the A bytes written, one of the W bytes written, with the
command block, the index list and the status word; an indexed side counts as its whole buffer (R259). -/
def Cmd.spans (m : Cmd) (off : Nat) : List Span :=
  let whole : Int × Int := (0, 2 ^ 32)
  let sp := if m.op = 2 then whole else m.srcSpan
  let dp := if m.op = 3 then whole else m.dstSpan
  let dst := fun n => (if m.dsp = n then [dp] else []) ++ (if m.cnv = 4 ∧ m.dsp = n then [m.xSpan] else [])
  bounding 0 false ([((off : Int), (off : Int) + 128)] ++
      (if 2 ≤ m.op then [((m.gix : Int), (m.gix : Int) + 4 * m.ext 1)] else []) ++
      (if m.ssp = 0 ∧ !m.fill then [sp] else []) ++ (if m.packedIn ∧ m.ssp = 0 then [m.xSpan] else [])) ++
    bounding 0 true ((if m.stw = 0xFFFF then [] else [((m.stw : Int), (m.stw : Int) + 16)]) ++ dst 0) ++
    bounding 1 true (dst 1)

def ECmd.spans (k : ECmd) : List Span := (Cmd.of k.bytes).spans k.off

/-- The A ranges of an MMA and of an EPI (R241). -/
def AKind.spans : AKind → List Span
  | .mma _ _ nr t _ off str _ => [⟨0, off, off + (nr - 1) * str + (4 + 16 * blockWidth t), false⟩]
  | .epi _ nr q off str _ c =>
    let row := if c.ofmt = 8 then 512 else if c.ofmt = 10 then 256 else if c.ofmt.toNat < 16 then 128 else 4 + 16 * blockWidth c.ofmt
    let arr := fun (o n : Nat) (b : Bool) => if b then [] else [(⟨0, o, o + n, false⟩ : Span)]
    (if q.isSome then [] else [⟨0, off, off + (nr - 1) * str + row, true⟩]) ++ arr c.csoff 512 (c.csoff == 0xFFFF) ++
      arr c.rsoff 192 (c.rsoff == 0xFFFF) ++ arr c.bioff 512 (c.bioff == 0xFFFF) ++ arr c.tboff 260 (c.act != 3)
  | _ => []

def spansConflict (a b : List Span) : Bool := a.any (fun p => b.any (fun q => p.conflicts q))

/-- An array command is held by an earlier-accepted copy command that has not completed (R259). -/
def Ctx.copyHolds (x : Ctx) (k : ACmd) : Bool :=
  (x.loadQ ++ x.storeQ).any (fun e => decide (e.acc < k.acc) && spansConflict e.spans k.kind.spans)

/-- A copy command is held by an earlier-accepted copy or array command (R259). -/
def Ctx.rangeHolds (x : Ctx) (e : ECmd) : Bool :=
  (x.loadQ ++ x.storeQ).any (fun f => decide (f.acc < e.acc) && spansConflict f.spans e.spans) ||
    x.acmds.any (fun k => decide (k.acc < e.acc) && spansConflict k.kind.spans e.spans)

/-- Bytes of a weight tile (R227). -/
def tileSize (f : BitVec 5) : Nat := 512 + 2048 * blockWidth f

/-- The W tiles pinned for a context (R233). -/
def Ctx.pinned (x : Ctx) : List Span :=
  let one := fun (p : PlaneRec) => if p.valid then [(⟨1, p.off, p.off + tileSize p.fmt, false⟩ : Span)] else []
  one x.actRec ++ one x.shRec ++ one x.act.rec_ ++ one x.sh.rec_ ++
    x.acmds.flatMap (fun k => match k.kind with
      | .wload p => one p
      | _ => [])

end Sys2Proof.Machine
end

