-- ==== Sys2Proof/Machine/Memory.lean ====
section
/-! DEFINITION. Loads, stores, gather and scatter, prefetch, atomics and FENCE as a role issues them (R160 to R175, R178,
R181, R195, R303): the place of an access and its faults, what it waits for, the flight or store-buffer entry it leaves.
Machine/Transport.lean performs what is issued here. -/

namespace Sys2Proof.Machine

/-! ## Places (R160, R162, R175) -/

/-- The spaces of R160. -/
inductive Space where
  | l | k | g | f | o | h
  deriving DecidableEq, Repr

/-- What an access names. -/
structure Acc where
  sp : Space
  base : W64
  idx : W64
  disp : W64
  size : Nat
  write : Bool
  atomic : Bool
  deriving DecidableEq, Repr

/-- Checks 1 to 4 of R175. -/
inductive Placed where
  | ok (p : Place)
  | fault (cause : Nat) (val : W64)
  | hold (k : Wait)
  /-- an LDH on a link that is down -/
  | down (port : Nat) (val : W64)
  deriving DecidableEq, Repr

/-- base field + index·size + displacement (R160). -/
def Acc.off (a : Acc) (b : W64) : W64 := b + a.idx * BitVec.ofNat 64 a.size + a.disp

/-- The alignment of R162: the size, but 16 for .v in L and K and 64 in the other spaces. -/
def Acc.align (a : Acc) : Nat := if a.size = 256 then (if a.sp = .l ∨ a.sp = .k then 16 else 64) else a.size

/-- An offset outside the A budget (R160). -/
def outsideA (budget : Nat) (o : W64) (size : Nat) : Bool := o.toInt < 0 || decide (budget < o.toNat + size)

/-- The slot of a context holds the kernel's context. -/
def State.ofKernel (s : State) (c : CtxId) (kernel : Nat) : Bool :=
  match s.ctx c with
  | some y => y.kernel == kernel
  | none => false
/-- The kernel's context has been saved away, and its slot holds another kernel's. -/
def State.inAway (s : State) (c : CtxId) (kernel : Nat) : Bool := s.away.any (fun e => e.1 == c && e.2.kernel == kernel)

/-- The context of the same kernel on another core of the die (R163, R175): none where there is none. -/
def State.peerOf (s : State) (c : CtxId) (x : Ctx) (peer : Nat) : Option CtxId :=
  match s.kernel x.kernel with
  | none => none
  | some k => k.grant.find? (fun g => g.cid == 128 * dieOf c.cid + peer && !(s.core g.cid).retired &&
      (s.ofKernel g x.kernel || s.inAway g x.kernel))

/-- A context of a kernel that has been saved away from its core (R175). -/
def State.savedAway (s : State) (c : CtxId) (kernel : Nat) : Bool :=
  s.inAway c kernel || (match s.ctx c with
    | some y => y.kernel == kernel && y.state == .saved && (y.claimed || y.image.isSome)
    | none => false)

/-- The group is installed for the partition of a context (R160, R299). -/
def State.installed (s : State) (x : Ctx) (gid : Nat) : Option Group :=
  s.fab.groups.find? (fun g => g.gid == gid && g.part == x.part)

/-- What the core's translation cache says of an address: a physical address, a fault, or a miss. -/
inductive Found where
  | ok (pa : Nat)
  | fault (cause : Nat)
  | hold (k : Wait)
  deriving DecidableEq, Repr

def pageAt (s : State) (w : Who) (x : Ctx) (va : Nat) (write : Bool) (n : Nat := 1) : Found :=
  match (s.core w.c.cid).leaf x.part va with
  | none => .hold (.walk va)
  | some l => match leafAddr s l va write n with
    | .ok pa => .ok pa
    | .error c => .fault c

/-- The physical parts of a G access. -/
def gParts (pa pb n : Nat) : List (Nat × Nat) :=
  let k := 65536 - pa % 65536
  if n ≤ k then [(pa, n)] else [(pa, k), (pb, n - k)]

/-- The place of `n` bytes of G, whose pages `find` translates. Bytes that run into the information window are a store to a
read-only page, or a load of both (R18). -/
def placeBy (find : Nat → Nat → Found) (s : State) (x : Ctx) (va : W64) (n : Nat) (write atomic : Bool) : Placed :=
  if 0xFFFFFF000000 ≤ va.toNat then
    match s.windowFault x (va.toNat - 0xFFFFFF000000) n write atomic with
    | some c => .fault c va
    | none => .ok (.window (va.toNat - 0xFFFFFF000000))
  else
    let next := (va.toNat / 65536 + 1) * 65536
    match find va.toNat (Nat.min n (next - va.toNat)) with
    | .hold k => .hold k
    | .fault c => .fault c va
    | .ok pa =>
      if va.toNat + n ≤ next then .ok (.g pa (pageOf pa + 65536))
      else if 0xFFFFFF000000 ≤ next then
        if write then .fault cProtection (BitVec.ofNat 64 next) else .ok (.gw pa (next - va.toNat))
      else match find next (va.toNat + n - next) with
        | .hold k => .hold k
        | .fault c => .fault c (BitVec.ofNat 64 next)
        | .ok pb => .ok (.g pa pb)

/-- A translated access: a cached leaf decides, a miss is walked (R393). -/
def placeG (s : State) (w : Who) (x : Ctx) (a : Acc) (va : W64) : Placed :=
  placeBy (fun v n => pageAt s w x v a.write n) s x va a.size a.write a.atomic

/-- The place of an access, or the first of faults 1 to 4 (R160, R162, R175). -/
def place (s : State) (w : Who) (x : Ctx) (a : Acc) : Placed :=
  let b := a.base
  match a.sp with
  | .l =>
    let o := a.off b
    if o.toNat % a.align ≠ 0 then .fault cAlign o
    else if outsideA x.abud o a.size then .fault cBound o
    else .ok (.a w.c o.toNat)
  | .k =>
    let o := a.off ((field b 0 16).setWidth 64)
    if field b 23 41 ≠ 0 then .fault cAddrForm b
    else if o.toNat % a.align ≠ 0 then .fault cAlign o
    else if outsideA x.abud o a.size then .fault cBound o
    else match s.peerOf w.c x (field b 16 7).toNat with
      | none => .fault cPeer o
      | some c => if s.savedAway c x.kernel then .hold .peer else .ok (.a c o.toNat)
  | .g =>
    let va := a.off b
    if field va 48 16 ≠ 0 then .fault cAddrForm va
    else if va.toNat % a.align ≠ 0 then .fault cAlign va
    else placeG s w x a va
  | .f =>
    let pkg := (field b 48 11).toNat
    let va := (field (a.off ((field b 0 48).setWidth 64)) 0 48).setWidth 64
    if field b 59 5 ≠ 0 ∨ !s.fab.routes.any (fun r => r.dst == pkg) then .fault cAddrForm b
    else if va.toNat % a.align ≠ 0 then .fault cAlign va
    else .ok (.f pkg va.toNat)
  | .o =>
    let gid := (field b 48 12).toNat
    let o := a.off ((field b 0 48).setWidth 64)
    match s.installed x gid with
    | none => .fault cAddrForm b
    | some g =>
      if field b 60 4 ≠ 0 ∨ 2 ^ g.wlog < o.toNat + a.size then .fault cAddrForm b
      else if o.toNat % a.align ≠ 0 then .fault cAlign o
      else .ok (.o gid o.toNat)
  | .h =>
    let port := (field b 48 1).toNat
    let o := a.off ((field b 0 48).setWidth 64)
    if field b 49 15 ≠ 0 ∨ (s.window x.part port).len < o.toNat + a.size then .fault cAddrForm b
    else if o.toNat % a.align ≠ 0 then .fault cAlign o
    else if !a.write ∧ !(if port = 0 then s.host.link0 else s.host.link1) then .down port o
    else .ok (.h port o.toNat ((s.window x.part port).base + o.toNat))

/-- The runs of a G access: in memory (false) or in the system window (true), from where, and how many bytes (R18, R389). -/
def Place.runs (p : Place) (n : Nat) : List (Bool × Nat × Nat) :=
  match p with
  | .g i j => (gParts i j n).map (fun a => (false, a.1, a.2))
  | .gw i k => [(false, i, k), (true, 0, n - k)]
  | .window i => [(true, i, n)]
  | _ => []

/-- Two accesses overlap in one space. -/
def Place.overlaps (p : Place) (n : Nat) (q : Place) (m : Nat) : Bool :=
  let cut := fun (i j : Nat) => decide (i < j + m) && decide (j < i + n)
  match p, q with
  | .a c i, .a d j => c == d && cut i j
  | .f k i, .f l j => k == l && cut i j
  | .o k i, .o l j => k == l && cut i j
  | .h k _ i, .h l _ j => k == l && cut i j
  | _, _ => (p.runs n).any (fun a => (q.runs m).any (fun b =>
      a.1 == b.1 && decide (a.2.1 < b.2.1 + b.2.2) && decide (b.2.1 < a.2.1 + a.2.2)))

def Place.isWindow : Place → Bool
  | .window _ => true
  | _ => false
/-- A record of the invalidation log that is to be published, which takes no entry of the buffer (R362). -/
def Place.isLog : Place → Bool
  | .log _ _ => true
  | _ => false
/-- The F space, by place. -/
def Place.isF : Place → Bool
  | .f _ _ => true
  | _ => false

/-! ## What an access waits for before it is issued -/

/-- An entry of the store buffer overlaps a place. -/
def StoreEnt.overlaps (e : StoreEnt) (p : Place) (n : Nat) : Bool :=
  e.place.overlaps e.data.length p n || (match e.place with
    | .a c _ => e.more.any (fun m => (Place.a c m.1).overlaps m.2.length p n)
    | _ => false)

/-- A load or atomic in flight touches a place; an LDLX touches its lanes. -/
def Flight.overlaps (f : Flight) (p : Place) (n : Nat) : Bool :=
  if f.lanes.isEmpty then f.place.overlaps f.size p n
  else match f.place with
    | .a c _ => f.lanes.any (fun o => (Place.a c o).overlaps f.lsize p n)
    | _ => false

/-- An acquire of the role that is not yet performed (R178), bytes that a load in flight still writes (R164), and an
unacknowledged STF to the same bytes (R181). -/
def roleHold (s : State) (w : Who) (x : Ctx) (p : Place) (n : Nat) : Option Wait :=
  if x.flights.any (fun f => f.role == w.r && f.acq && f.data.isNone) then some .fence
  else if x.flights.any (fun f => f.role == w.r && f.overlaps p n) then some .data
  else if p.isF && ((s.core w.c.cid).sbuf.any (fun e => e.ctx == w.c && e.role == w.r && e.overlaps p n) ||
      s.fab.pkts.any (fun k => k.ctx == w.c && k.role == w.r && match k.kind with
        | .store d => (Place.f k.pkg k.va).overlaps d.length p n
        | .load _ | .engine .. | .ckpt .. => false)) then some .fence
  else none

/-- Loads and atomics of a role in flight (R164). -/
def inFlight (x : Ctx) (r : Role) : Nat := x.flights.countP (fun f => f.role == r)

/-- The acknowledgements a context waits for and will wait for (R296). -/
def ackLoad (s : State) (w : Who) (x : Ctx) : Nat :=
  x.ackc + (s.core w.c.cid).sbuf.countP (fun e => e.ctx == w.c && e.place.isF)

/-- The A buffer as a role sees it: its own accepted stores are visible to it at once (R165). -/
def State.ownA (s : State) (w : Who) (x : Ctx) : Mem :=
  (s.core w.c.cid).sbuf.foldl (fun m e =>
    if e.ctx == w.c && e.role == w.r && !e.k then
      match e.place with
      | .a c o => if c = w.c then e.more.foldl (fun m l => m.write l.1 l.2) (m.write o e.data) else m
      | _ => m
    else m) x.abuf

/-- The 8-byte words of a context's buffer that a range touches hold an uncorrectable error (R405). -/
def State.badS (s : State) (c : CtxId) (buf o n : Nat) : Bool :=
  s.poisonS.any (fun (d, b, q) => d == c && b == buf && decide (q < o + n) && decide (o < q + 8))

/-! ## Issue -/

def widthBytes (v : BitVec 3) : Nat := if v = 4 then 256 else 2 ^ v.toNat

/-- The displacement of loads and stores: imm48 sign-extended (R160). -/
def dispOf (v : WordM) : W64 := v.imm.signExtend 64

def accOf (sp : Space) (v : WordM) (w : Who) (x : Ctx) (write : Bool) : Acc where
  sp := sp
  base := readSrc w x v.base 0
  idx := readSrc w x v.index 0
  disp := dispOf v
  size := widthBytes v.width
  write := write
  atomic := false

/-- Adds a flight, and the fabric packet that carries it when it is an F access (R297). -/
def State.sendFlight (s : State) (c : CtxId) (key : W16) (f : Flight) : State :=
  match f.place with
  | .f pkg va =>
    { s with fab := { s.fab with
        pkts := s.fab.pkts ++ [{ ix := s.fab.nextIx, acc := f.id, pkg := pkg, va := va, key := key, ctx := c, role := f.role,
                                 kind := .load f.id }]
        nextIx := s.fab.nextIx + 1 } }
  | _ => s

def State.addFlight (s : State) (w : Who) (x : Ctx) (f : Flight) : State :=
  (s.setCtx w.c { x with flights := x.flights ++ [f] }).sendFlight w.c (s.part x.part).jkey f

/-- The flight of a load; an L load is performed at its issue, but under release order once its role's earlier accesses are (R178); a K
load by its message, to the own core too (R174). -/
def loadFlight (s : State) (w : Who) (x : Ctx) (v : WordM) (p : Place) (va : W64) (size : Nat) (dest : Dest) (k : Bool := false) :
    Flight where
  id := x.nextId
  role := w.r
  place := p
  size := size
  dest := dest
  atom := none
  acq := bitAt v.order 0
  rel := bitAt v.order 1
  scope := v.scope.toNat
  cache := v.cache.toNat
  data := match p with
    | .a _ o => if k || bitAt v.order 1 then none else some ((s.ownA w x).read o size)
    | _ => none
  at_ := (x.role w.r).pc
  va := va
  sent := p.isF
  k := k

/-- An L load that is performed at its issue acquires there (R178, R179). -/
def State.issuedLoad (s : State) (w : Who) (f : Flight) : State :=
  if f.acq ∧ f.data.isSome then s.acquireNow w.c.cid f.scope else s

/-- A port has its 512 non-posted requests outstanding (R436): another LDH waits for one of them, as for a place among its role's loads
in flight (DESIGN CHOICE, log 37: the spec names no wait for it). -/
def State.portFull (s : State) (p : Place) : Bool :=
  match p with
  | .h port _ _ =>
    decide (512 ≤ (s.ctxs.map (fun e => e.2.flights.countP (fun f => f.data.isNone && f.failed.isNone && !f.again && match f.place with
      | .h q _ _ => q == port
      | _ => false))).sum)
  | _ => false

/-- A load (R163, R164). An acquire at package scope is performed only once the core's log can be applied (R395). -/
def effLoad (sp : Space) (v : WordM) : Effect := fun w x s =>
  let a := accOf sp v w x false
  match place s w x a with
  | .fault c val => .fault c val
  | .hold k => .wait k
  | .down p val => .linkDown p val
  | .ok p =>
    match roleHold s w x p a.size with
    | some k => .wait k
    | none =>
      if 32 ≤ inFlight x w.r ∨ s.portFull p then .wait .flights
      else if sp = .l ∧ s.badS w.c 0 (match p with
        | .a _ o => o
        | _ => 0) a.size then .fault cMemory (a.off a.base)
      else if sp = .l ∧ bitAt v.order 0 ∧ 2 ≤ v.scope.toNat ∧ s.logUsers w.c.cid then .wait .fence
      else if isQ v.data then
        match Taken.stop { x := x } (some (qOf v.data)) with
        | some e => e
        | none =>
          let f := loadFlight s w x v p (a.off a.base) a.size (.qent (qOf v.data) x.nextId) (sp == .k)
          .load x.nextId ((s.addFlight w (x.qReserve (qOf v.data)) f).issuedLoad w f)
      else
        let f := loadFlight s w x v p (a.off a.base) a.size (.scalar v.data.toNat) (sp == .k)
        .load x.nextId ((s.addFlight w { x with nextId := x.nextId + 1 } f).issuedLoad w f)

/-- Accepts a store into the core's store buffer (R165). -/
def State.addStore (s : State) (w : Who) (x : Ctx) (v : WordM) (p : Place) (va : Nat)
    (data : List Byte) (more : List (Nat × List Byte)) (k : Bool := false) : State :=
  (s.setCtx w.c { x with nextId := x.nextId + 1 }).modCore w.c.cid (fun j =>
    { j with sbuf := j.sbuf ++ [{ id := x.nextId, ctx := w.c, role := w.r, place := p, va := va, data := data, more := more
                                  rel := bitAt v.order 1, scope := v.scope.toNat, cache := v.cache.toNat, k := k }] })

/-- The store buffer has no room, or the acknowledgement counter is at its limit (R165, R296). -/
def storeHold (s : State) (w : Who) (x : Ctx) (p : Place) : Option Wait :=
  if 64 ≤ (s.core w.c.cid).sbuf.countP (fun e => !e.place.isLog) then some .storeBuffer
  else if p.isF ∧ 1024 ≤ ackLoad s w x then some .flights
  else none

/-- A store (R163, R165). -/
def effStore (sp : Space) (v : WordM) : Effect := fun w x s =>
  let a := accOf sp v w x true
  match place s w x a with
  | .fault c val => .fault c val
  | .hold k => .wait k
  | .down p val => .linkDown p val
  | .ok p =>
    match roleHold s w x p a.size, storeHold s w x p with
    | some k, _ => .wait k
    | none, some k => .wait k
    | none, none =>
      if isQ v.data then withQ x (qOf v.data) none (fun y l =>
        .done (s.addStore w y v p (a.off a.base).toNat (laneBytes l) [] (sp == .k)))
      else .done (s.addStore w x v p (a.off a.base).toNat (bytesOf (readSrc w x v.data 0) a.size) [] (sp == .k))

def execLdl (v : WordM) (s : State) : Out := runM (.ldl v) v (effLoad .l v) s
def execStl (v : WordM) (s : State) : Out := runM (.stl v) v (effStore .l v) s
def execLdk (v : WordM) (s : State) : Out := runM (.ldk v) v (effLoad .k v) s
def execStk (v : WordM) (s : State) : Out := runM (.stk v) v (effStore .k v) s
def execLdg (v : WordM) (s : State) : Out := runM (.ldg v) v (effLoad .g v) s
def execStg (v : WordM) (s : State) : Out := runM (.stg v) v (effStore .g v) s
def execLdf (v : WordM) (s : State) : Out := runM (.ldf v) v (effLoad .f v) s
def execStf (v : WordM) (s : State) : Out := runM (.stf v) v (effStore .f v) s
def execLdo (v : WordM) (s : State) : Out := runM (.ldo v) v (effLoad .o v) s
def execSto (v : WordM) (s : State) : Out := runM (.sto v) v (effStore .o v) s
def execLdh (v : WordM) (s : State) : Out := runM (.ldh v) v (effLoad .h v) s
def execSth (v : WordM) (s : State) : Out := runM (.sth v) v (effStore .h v) s

/-! ## Gather and scatter (R170) -/

/-- The lane offsets. -/
def laneOffs (v : WordM) (w : Who) (x : Ctx) (l : List W32) : List W64 :=
  let size := BitVec.ofNat 64 (widthBytes v.width)
  (List.range 64).map (fun i => readSrc w x v.base 0 + (lane l i).setWidth 64 * size + dispOf v)

/-- The checks of every lane: alignment, then buffer-bound. -/
def laneFault (x : Ctx) (size : Nat) (l : List W64) : Option Eff :=
  match l.find? (fun o => o.toNat % size != 0) with
  | some o => some (.fault cAlign o)
  | none => match l.find? (fun o => outsideA x.abud o size) with
    | some o => some (.fault cBound o)
    | none => none

/-- The value at the head of a q-register, reserved or absent lanes read as nothing. -/
def headLanes (x : Ctx) (q : Nat) : List W32 :=
  match (x.q q).ents with
  | e :: _ => e.lanes.getD []
  | [] => []

/-- The lanes of an LDLX as an entry: each zero-extended to 4 bytes. -/
def gatherA (m : Mem) (size : Nat) (l : List Nat) : List Byte := l.flatMap (fun o => bytesN (m.nat o size) 4)

/-- Offsets are known once the index entry is present: until then the instruction waits or traps as R201 and R202 state. -/
def effLdlx (v : WordM) : Effect := fun w x s =>
  let size := widthBytes v.width
  let t := Taken.q { x := x } (qOf v.index) false
  match Taken.stop t none with
  | some e => e
  | none =>
    let os := laneOffs v w x (headLanes x (qOf v.index))
    match laneFault x size os with
    | some e => e
    | none =>
      match roleHold s w x (.window 0) 0 with
      | some k => .wait k
      | none =>
        if x.flights.any (fun f => f.role == w.r && os.any (fun o => f.overlaps (.a w.c o.toNat) size)) then
          .wait .data
        else if 32 ≤ inFlight x w.r then .wait .flights
        else if os.any (fun o => s.badS w.c 0 o.toNat size) then .fault cMemory (os.headD 0)
        else match t.stop (some (qOf v.data)) with
          | some e => e
          | none =>
              let bytes := gatherA (s.ownA w x) size (os.map (·.toNat))
              .load x.nextId (s.addFlight w (t.x.qReserve (qOf v.data))
                { loadFlight s w x v (.a w.c 0) 0 0 (.qent (qOf v.data) x.nextId) with
                  data := some bytes, lanes := os.map (·.toNat), lsize := size })

/-- The lanes are checked once the index entry is present, whatever the data entry is (R175). -/
def effStlx (v : WordM) : Effect := fun w x s =>
  let size := widthBytes v.width
  let d := Taken.q { x := x } (qOf v.data) false
  let i := Taken.q { x := d.x } (qOf v.index) false
  let t := Taken.q d (qOf v.index) false
  match Taken.stop i none with
  | some e => e
  | none =>
    let os := laneOffs v w x (i.vals.headD [])
    match laneFault x size os with
    | some e => e
    | none =>
      match t.stop none, roleHold s w x (.window 0) 0, storeHold s w x (.window 0) with
      | some e, _, _ => e
      | none, some k, _ => .wait k
      | none, none, some k => .wait k
      | none, none, none =>
        if x.flights.any (fun f => f.role == w.r && os.any (fun o => f.overlaps (.a w.c o.toNat) size)) then
          .wait .data
        else
          let d := (t.vals.headD [])
          let pieces := (List.range 64).map (fun i => ((os.getD i 0).toNat, bytesOf (lane d i) size))
          .done (s.addStore w t.x v (.a w.c (os.headD 0).toNat) 0 (bytesOf (lane d 0) size) (pieces.drop 1))

def execLdlx (v : WordM) (s : State) : Out := runM (.ldlx v) v (effLdlx v) s
def execStlx (v : WordM) (s : State) : Out := runM (.stlx v) v (effStlx v) s

/-! ## The global read cache (R166) and prefetch (R171) -/

/-- The line of an address. -/
def lineOf (pa : Nat) : Nat := pa / 64 * 64

/-- The cached copy of a line. -/
def Core.line (k : Core) (pa : Nat) : Option Line := k.cache.find? (fun l => l.pa == lineOf pa)

/-- Makes room in the 512 lines of 64 bytes: streamed lines go first (R166), then the line that was filled first, a choice of the
model (DESIGN CHOICE, log 9: the spec gives no order, and R184 admits the value that a load returns either way). -/
def evict (l : List Line) : List Line :=
  if l.length < 512 then l
  else match l.find? (·.stream) with
    | some e => l.filter (· != e)
    | none => l.drop 1

/-- Fills a line from memory unless it is present. -/
def State.fillLine (s : State) (cid pa : Nat) (stream : Bool) : State :=
  match (s.core cid).line pa with
  | some _ => s
  | none => s.modCore cid (fun k => { k with cache := evict k.cache ++ [{ pa := lineOf pa, bytes := s.readG (lineOf pa) 64, stream := stream }] })

/-- The bytes that an LDG reads: an older value of a word where `pick` names one that R184 still admits, else from the line where
it is cached, else from memory. -/
def State.readCached (s : State) (cid : Nat) (d : Reader) (pick : List Byte) (pa n : Nat) : List Byte :=
  (List.range n).map (fun i => s.byteBack d (pick.getD ((pa + i) / 4 - pa / 4) 0) (pa + i) (match (s.core cid).line (pa + i) with
    | some l => l.bytes.getD ((pa + i) % 64) 0
    | none => s.hbm.get (pa + i)))

/-- What an STG does to the line of each of its bytes: keep and stream update it, bypass invalidates it (R166). A word that it writes
whole is good again (R405). -/
def updateLine (pa : Nat) (l : List Byte) (bypass : Bool) (e : Line) : Option Line :=
  if e.pa < pa + l.length ∧ pa < e.pa + 64 then
    if bypass then none
    else some { e with bad := clearPoison e.bad pa l.length, bytes := (List.range 64).map (fun i =>
      if pa ≤ e.pa + i ∧ e.pa + i < pa + l.length then l.getD (e.pa + i - pa) 0 else e.bytes.getD i 0) }
  else some e

/-- The lines that a PFG names: four for .v, else one. -/
def effPfg (v : WordM) : Effect := fun w x s =>
  let a := accOf .g v w x false
  let va := (a.off a.base)
  let va := if v.width = 4 then va &&& ~~~0xFF#64 else va
  if v.cache = 2 ∨ field va 48 16 ≠ 0 then .done s
  else match s.look w.c.cid x.part va.toNat false with
    | .error _ => .done s
    | .ok pa => .done ((List.range (if v.width = 4 then 4 else 1)).foldl (fun s i =>
        if s.badG (lineOf (pa + 64 * i)) 64 then s else s.fillLine w.c.cid (pa + 64 * i) (v.cache == 1))
          (s.keepLeaf w.c.cid x.part va.toNat))

def execPfg (v : WordM) (s : State) : Out := runM (.pfg v) v (effPfg v) s

/-! ## Atomics (R172 to R174) -/

/-- The new value of the word (R173). -/
def AtomOp.new (o : AtomOp) (m : W64) : W64 :=
  let n := if o.dword then 64 else 32
  let v := o.v
  let mi := signed n m.toNat
  let vi := signed n v.toNat
  let mu := lowBits n m.toNat
  let vu := lowBits n v.toNat
  match o.op.toNat with
  | 0 => m + v
  | 1 => BitVec.ofNat 64 (fAdd fmtF32 .rne (f32At m) (f32At v) 0).bits
  | 2 => if vi < mi then v else m
  | 3 => if mi < vi then v else m
  | 4 => if vu < mu then v else m
  | 5 => if mu < vu then v else m
  | 6 => m &&& v
  | 7 => m ||| v
  | 8 => m ^^^ v
  | 9 => v
  | 10 => if mu = vu then o.v2 else m
  | _ => if vu ≤ mu then 0 else m + 1
where
  f32At (x : W64) : FVal := fmtF32.unpack (x.toNat % 2 ^ 32)

def AtomOp.size (o : AtomOp) : Nat := if o.dword then 8 else 4

/-- The bytes that replace the old ones. -/
def AtomOp.apply (o : AtomOp) (old : List Byte) : List Byte :=
  bytesOf (o.new (BitVec.ofNat 64 (natOfBytes old))) o.size

def effAtomic (sp : Space) (v : WordM) : Effect := fun w x s =>
  let op := field v.imm 44 4
  let ret := bitAt v.imm 43
  let a := { accOf sp v w x true with disp := (field v.imm 0 32).signExtend 64, atomic := true }
  match place s w x a with
  | .fault c val => .fault c val
  | .hold k => .wait k
  | .down p val => .linkDown p val
  | .ok p =>
    match roleHold s w x p a.size with
    | some k => .wait k
    | none =>
      if 32 ≤ inFlight x w.r then .wait .flights
      else if sp = .f ∧ !ret ∧ 1024 ≤ ackLoad s w x then .wait .flights
      else if p.isWindow ∧ (op ≠ 0 ∨ !ret) then .fault cProtection (a.off a.base)
      else
        let f := { loadFlight s w x v p (a.off a.base) a.size (if ret then .scalar v.data.toNat else .none) (sp == .k) with
          atom := some ⟨op, v.width == 3, readSrc w x v.data 0, if op = 10 then readSrc w x (v.data + 1) 0 else 0⟩
          data := none }
        let y := { x with nextId := x.nextId + 1, ackc := if sp = .f ∧ !ret then x.ackc + 1 else x.ackc }
        let s := s.addFlight w y f
        if ret then .load x.nextId s else .done s

/-- Format M with the second operand register of a CAS (R172). -/
def runAtomic (i : Instr) (v : WordM) (sp : Space) (s : State) : Out :=
  runWord i { role := v.role, tok := v.tok, guard := v.guard,
              codes := [v.data, v.base, v.index] ++ (if field v.imm 44 4 = 10#4 then [v.data + 1] else []) }
    (effAtomic sp v) s

def execAtl (v : WordM) (s : State) : Out := runAtomic (.atl v) v .l s
def execAtk (v : WordM) (s : State) : Out := runAtomic (.atk v) v .k s
def execAtg (v : WordM) (s : State) : Out := runAtomic (.atg v) v .g s
def execAtf (v : WordM) (s : State) : Out := runAtomic (.atf v) v .f s

/-! ## Release and acquire -/

/-- A load or atomic that has ended in a fault, or that the stop of its context has abandoned, has no access left that a release could
wait for: it is issued again after the context goes on (R165, R176; log 17). -/
def Flight.spent (f : Flight) (st : CtxState) : Bool :=
  f.failed.isSome || (f.atom.isNone && (st == .parked || st == .saved))

/-- Every earlier access of the role (those numbered below `id`) has been performed (R178), a store of its own package's F space and,
at the own replica, an STO too (R168); at system scope also every acknowledgement has arrived, but for `own` of the access itself, and
every STO of the role has been stamped or rejected (R186). -/
def released (s : State) (c : CtxId) (x : Ctx) (r : Role) (id scope : Nat) (own : Nat := 0) : Bool :=
  !(s.core c.cid).sbuf.any (fun e => e.ctx == c && e.role == r && decide (e.id < id)) &&
    !x.kstores.any (fun e => e.role == r && decide (e.id < id)) &&
    !x.flights.any (fun f => f.role == r && decide (f.id < id) && f.data.isNone && !f.spent x.state) &&
    !s.fab.pkts.any (fun p => p.ctx == c && p.role == r && decide (p.acc < id) && p.pkg == s.fab.pkgid && p.served.isNone &&
      p.kind.isStore) &&
    !s.fab.stos.any (fun o => o.ctx == c && o.role == r && (scope == 3 || !o.marked)) && (scope != 3 || decide (x.ackc ≤ own))

/-- FENCE (R195). -/
def effFence (v : WordM) : Effect := fun w x s =>
  if bitAt v.order 1 ∧ !released s w.c x w.r x.nextId v.scope.toNat then .wait .fence
  else if bitAt v.order 0 ∧ x.flights.any (fun f => f.role == w.r && f.dest != .none) then .wait .fence
  else
    let s := if bitAt v.order 1 then s.release w.c v.scope.toNat else s
    .done (if bitAt v.order 0 then s.acquire w.c.cid v.scope.toNat else s)

def execFence (v : WordM) (s : State) : Out := runM (.fence v) v (effFence v) s

end Sys2Proof.Machine
end

