-- ==== Sys2Proof/Machine/Sync.lean ====
section
/-! DEFINITION. Q-register inspection, tokens, circular buffers, deques, barriers, PHASE, work lists and the O-space reads
(R203 to R221, R266 to R271, R304, R305). -/

namespace Sys2Proof.Machine

/-! ## Q-registers and tokens -/

/-- The wait for a mailbox. -/
def Wait.isMailbox : Wait → Bool
  | .mailbox _ => true
  | _ => false

/-- The role waits at an instruction that holds a reservation in the q-register once that has room: a WLTAK whose list is empty,
an MBRCV whose box is empty (R268, R321). -/
def reserving (t : List Section) (r : RoleSt) (q : Nat) : Bool :=
  (match r.wait with
    | some k => k == .worklist || k.isMailbox
    | none => false) && match decode (fetchBytes t r.pc) with
    | .ok (.wltak v, _) => qOf v.data == q
    | .ok (.mbrcv v, _) => qOf v.d == q
    | _ => false

/-- Some role of the context holds such a reservation. -/
def State.reserved (s : State) (x : Ctx) (q : Nat) : Bool :=
  x.qFree q != 0 && Role.all.any (fun r => reserving (s.textOf x) (x.role r) q)

def execQcnt (v : WordM) (s : State) : Out :=
  runM (.qcnt v) v (fun w x s =>
    let q := qOf v.base
    let x := x.settleQ q
    let present := (x.q q).ents.countP (fun e => e.lanes.isSome)
    let free := x.qFree q - (if s.reserved x q then 1 else 0)
    putD w s v.data (BitVec.ofNat 64 (present + free * 256 + bit1 (x.q q).bind.isSome 16))) s

def execQclr (v : WordM) (s : State) : Out :=
  runM (.qclr v) v (fun w x s =>
    let q := qOf v.base
    if (x.q q).bind.isSome then .fault cQueueMap 0
    else if (x.q q).ents.any (fun e => e.lanes.isNone) ∨ x.owed q ≠ 0 ∨ s.reserved x q then .wait .qclr
    else .done (s.setCtx w.c (x.setQ q { x.q q with ents := [] }))) s

def execQbnd (v : WordM) (s : State) : Out :=
  runM (.qbnd v) v (fun w x s =>
    let q := qOf v.data
    let n := (field v.imm 0 16).toNat + (field (readSrc w x v.base 0) 0 16).toNat
    if n = 0 ∨ 65535 < n then .fault cRange (BitVec.ofNat 64 n)
    else if (x.q q).bind.isSome then .wait .qbnd
    else .done (s.setCtx w.c (x.setQ q { x.q q with bind := some { out := bitAt v.imm 16, left := n, cmd := none } }))) s

/-- TKTRY (R206): a push is a release, and a pop an acquire, at core scope (R182). -/
def execTktry (v : WordM) (s : State) : Out :=
  runM (.tktry v) v (fun w x s =>
    let f := (field v.imm 0 2).toNat
    let p := v.data.toNat - 48
    if bitAt v.imm 2 then
      if 8 ≤ x.tok f then .done (s.setP w p false)
      else if !lDrained (s.core w.c.cid) x w then .hold .order
      else .done ((s.setCtx w.c (x.setTok f (x.tok f + 1))).setP w p true)
    else if x.tok f = 0 then .done (s.setP w p false)
    else .done (((s.setCtx w.c (x.setTok f (x.tok f - 1))).acquire w.c.cid 0).setP w p true)) s

/-! ## Objects of a bank unit (R209) -/

/-- The object that an instruction names, once its first three checks have passed: its owner and offset. -/
inductive Object where
  | ok (c : CtxId) (y : Ctx) (off : Nat)
  | stop (e : Eff)
  deriving DecidableEq, Repr

/-- Accesses of the role to the owner's A buffer that are still to be performed: the operation follows them (R174, R181). -/
def earlierAt (s : State) (w : Who) (x : Ctx) (c : CtxId) : Bool :=
  (s.core w.c.cid).sbuf.any (fun e => e.ctx == w.c && e.role == w.r && e.place.own c) ||
    x.kstores.any (fun e => e.role == w.r && e.place.own c) ||
    x.flights.any (fun f => f.role == w.r && f.place.own c && f.data.isNone)

/-- Checks 1 to 3 of R225, and check 4 as far as the operands alone decide it: `bad` is the operand out of range. `n` is the size
of the control block. A peer operation travels as a message behind the role's earlier accesses to the peer (R211, log 27). -/
def object (s : State) (w : Who) (x : Ctx) (v : WordM) (n : Nat) (bad : Option W64 := none) : Object :=
  let b := readSrc w x v.base 0
  let o := (field b 0 16).toNat
  let peer := bitAt v.imm 40
  if field b 23 41 ≠ 0 ∨ (!peer ∧ field b 16 7 ≠ 0) then .stop (.fault cAddrForm b)
  else if o % n ≠ 0 then .stop (.fault cAlign b)
  else if x.abud < o + n then .stop (.fault cBound b)
  else
    let c? := if peer then s.peerOf w.c x (field b 16 7).toNat else some w.c
    match c?, bad with
    | none, _ => .stop (.fault cPeer b)
    | some _, some a => .stop (.fault cRange a)
    | some c, none =>
      if s.savedAway c x.kernel then .stop (.wait .peer)
      else if x.flights.any (fun f => f.role == w.r && f.acq && f.data.isNone) ∨ earlierAt s w x c then .stop (.hold .order)
      else if peer ∧ (x.role w.r).mark.isNone then .stop (.hold .order)
      else match s.ctx c with
        | some y => .ok c y o
        | none => .stop (.fault cPeer b)

/-- The object's scope: core, or cluster with PEER (R209). -/
def objScope (v : WordM) : Nat := if bitAt v.imm 40 then 1 else 0

/-- n of R209. -/
def objN (w : Who) (x : Ctx) (v : WordM) : W64 :=
  if v.index = 0 then (field v.imm 0 8).setWidth 64 else readSrc w x v.index 0

/-- Counter arithmetic modulo 2^32. -/
def sub32 (a b : Nat) : Nat := (a + 2 ^ 32 - b % 2 ^ 32) % 2 ^ 32

/-- A circular-buffer control block (R208). -/
structure CBlock where
  base : Nat
  esz : Nat
  n : Nat
  clm : Nat
  pub : Nat
  tak : Nat
  rel : Nat
  fill : Nat
  free : Nat
  deriving DecidableEq, Repr

def CBlock.read (m : Mem) (o : Nat) : CBlock :=
  ⟨m.nat o 2, m.nat (o + 2) 2, m.nat (o + 4) 1, m.nat (o + 8) 4, m.nat (o + 12) 4, m.nat (o + 16) 4, m.nat (o + 20) 4,
    m.nat (o + 32) 16, m.nat (o + 48) 16⟩

/-- The counters and bitmaps written back. -/
def CBlock.write (b : CBlock) (m : Mem) (o : Nat) : Mem :=
  ((m.write (o + 8) (bytesN b.clm 4 ++ bytesN b.pub 4 ++ bytesN b.tak 4 ++ bytesN b.rel 4)).write (o + 32)
    (bytesN b.fill 16)).write (o + 48) (bytesN b.free 16)

/-- REL ≤ TAK ≤ PUB ≤ CLM ≤ REL + N (R208). -/
def CBlock.ok (b : CBlock) : Bool :=
  decide (sub32 b.tak b.rel ≤ sub32 b.pub b.rel) && decide (sub32 b.pub b.rel ≤ sub32 b.clm b.rel) &&
    decide (sub32 b.clm b.rel ≤ b.n)

/-- The positions of `n` counter values from `v`. -/
def CBlock.positions (b : CBlock) (v n : Nat) : List Nat := (List.range n).map (fun i => (v + i) % 2 ^ 32 % b.n)

/-- mark of R210. -/
def markBits (bits : Nat) (l : List Nat) : Nat := l.foldl (fun b p => b ||| 2 ^ p) bits

/-- The advance step of R210: the counter and the bitmap after it. -/
def advance (n : Nat) : Nat → Nat → Nat → Nat × Nat
  | 0, c, bits => (c, bits)
  | fuel + 1, c, bits => if bits.testBit (c % n) then advance n fuel ((c + 1) % 2 ^ 32) (bits - 2 ^ (c % n)) else (c, bits)

/-- Writes the owner's A buffer. -/
def State.setA (s : State) (c : CtxId) (m : Mem) : State := s.modCtx c (fun y => { y with abuf := m })

/-- The cfg limits of CBINI (R208, R210). -/
def cbCfgOk (cfg : W64) (o budget : Nat) : Bool :=
  let base := (field cfg 0 16).toNat
  let esz := (field cfg 16 16).toNat
  let n := (field cfg 32 8).toNat
  field cfg 40 24 == 0 && base % 16 == 0 && esz % 16 == 0 && decide (16 ≤ esz) && decide (esz ≤ 4096) && decide (1 ≤ n) &&
    decide (n ≤ 128) && decide (base + esz * n ≤ budget) && (decide (base + esz * n ≤ o) || decide (o + 64 ≤ base))

/-- CBINI (R210): the contexts of a kernel have one budget (R33). It and DQINI do not check the invariants of what the block holds
before, which they replace (DESIGN CHOICE, log 19: R208 and R212 speak of each operation, and a fresh block holds anything). -/
def effCbini (v : WordM) : Effect := fun w x s =>
  let cfg := readSrc w x v.data 0
  match object s w x v 64 (if cbCfgOk cfg (field (readSrc w x v.base 0) 0 16).toNat x.abud then none else some cfg) with
  | .stop e => e
  | .ok c y o =>
    .done (s.setA c (y.abuf.write o (bytesOf (field cfg 0 40) 5 ++ List.replicate 59 0)))

/-- A circular-buffer operation after its operand and invariant checks. -/
def cbOp (v : WordM) (f : Who → CtxId → Nat → Ctx → CBlock → Nat → State → Eff) : Effect := fun w x s =>
  let n := objN w x v
  match object s w x v 64 (if n = 0 ∨ 128 < n.toNat then some n else none) with
  | .stop e => e
  | .ok c y o =>
    let b := CBlock.read y.abuf o
    if n = 0 ∨ b.n < n.toNat then .fault cRange n
    else if !b.ok then .fault cCircular (BitVec.ofNat 64 o)
    else f w c o y b n.toNat s

def execCbini (v : WordM) (s : State) : Out := runM (.cbini v) v (effCbini v) s

def execCbclm (v : WordM) (s : State) : Out :=
  runTryM (.cbclm v) v (cbOp v (fun w c o y b n s =>
    if b.n < sub32 (b.clm + n) b.rel then .wait .bank
    else .done (((s.setA c (CBlock.write { b with clm := (b.clm + n) % 2 ^ 32 } y.abuf o)).acquire w.c.cid (objScope v)).setS w
      v.data.toNat (BitVec.ofNat 64 b.clm)))) s

def execCbtak (v : WordM) (s : State) : Out :=
  runTryM (.cbtak v) v (cbOp v (fun w c o y b n s =>
    if sub32 b.pub b.tak < n then .wait .bank
    else .done (((s.setA c (CBlock.write { b with tak := (b.tak + n) % 2 ^ 32 } y.abuf o)).acquire w.c.cid (objScope v)).setS w
      v.data.toNat (BitVec.ofNat 64 b.tak)))) s

/-- The requirement of CBPUB and CBREL, its differences taken modulo 2^32 (R208): `lo` ≤ v and v + n ≤ `hi`, no position
marked. -/
def cbMarkOk (b : CBlock) (lo hi bits v n : Nat) : Bool :=
  decide (sub32 v lo + n ≤ sub32 hi lo) && (b.positions v n).all (fun p => !bits.testBit p)

/-- CBPUB and CBREL follow every earlier access of the role at the object's scope. -/
def cbRelease (v : WordM) (f : Who → CtxId → Nat → Ctx → CBlock → Nat → State → Eff) : Effect :=
  cbOp v (fun w c o y b n s =>
    match s.ctx w.c with
    | some x => if !released s w.c x w.r x.nextId (objScope v) then .hold .order else f w c o y b n s
    | none => f w c o y b n s)

/-- The counter value in data. -/
def valueOf (w : Who) (s : State) (v : WordM) : W64 :=
  match s.ctx w.c with
  | some x => readSrc w x v.data 0
  | none => 0

def execCbpub (v : WordM) (s : State) : Out :=
  runM (.cbpub v) v (cbRelease v (fun w c o y b n s =>
    let a := valueOf w s v
    if !cbMarkOk b b.pub b.clm b.fill a.toNat n then .fault cCircular a
    else
      let r := advance b.n b.n b.pub (markBits b.fill (b.positions a.toNat n))
      .done ((s.setA c (CBlock.write { b with pub := r.1, fill := r.2 } y.abuf o)).release w.c (objScope v)))) s

def execCbrel (v : WordM) (s : State) : Out :=
  runM (.cbrel v) v (cbRelease v (fun w c o y b n s =>
    let a := valueOf w s v
    if !cbMarkOk b b.rel b.tak b.free a.toNat n then .fault cCircular a
    else
      let r := advance b.n b.n b.rel (markBits b.free (b.positions a.toNat n))
      .done ((s.setA c (CBlock.write { b with rel := r.1, free := r.2 } y.abuf o)).release w.c (objScope v)))) s

/-! ## Deques (R212 to R214) -/

structure DBlock where
  base : Nat
  cap : Nat
  top : Nat
  bot : Nat
  deriving DecidableEq, Repr

def DBlock.read (m : Mem) (o : Nat) : DBlock := ⟨m.nat o 2, m.nat (o + 2) 2, m.nat (o + 8) 4, m.nat (o + 12) 4⟩
def DBlock.write (b : DBlock) (m : Mem) (o : Nat) : Mem := m.write (o + 8) (bytesN b.top 4 ++ bytesN b.bot 4)
/-- The offset of an item. -/
def DBlock.item (b : DBlock) (v : Nat) : Nat := b.base + 8 * (v % b.cap)

/-- A deque operation after the invariant check; an item area outside the budget, which only a role store to the block can
name, counts as a violation (log 19). -/
def dqOp (v : WordM) (f : Who → Ctx → CtxId → Nat → Ctx → DBlock → State → Eff) : Effect := fun w x s =>
  match object s w x v 32 with
  | .stop e => e
  | .ok c y o =>
    let b := DBlock.read y.abuf o
    if b.cap < sub32 b.bot b.top ∨ y.abud < b.base + 8 * b.cap then .fault cCircular (BitVec.ofNat 64 o)
    else f w x c o y b s

def effDqini (v : WordM) : Effect := fun w x s =>
  let cfg := readSrc w x v.data 0
  let base := (field cfg 0 16).toNat
  let cap := (field cfg 16 16).toNat
  let bad : Bool := decide (field cfg 32 32 ≠ 0 ∨ base % 8 ≠ 0 ∨ cap = 0 ∨ 4096 < cap ∨ x.abud < base + 8 * cap)
  match object s w x v 32 (if bad then some cfg else none) with
  | .stop e => e
  | .ok c y o =>
    .done (s.setA c (y.abuf.write o (bytesOf (field cfg 0 32) 4 ++ List.replicate 28 0)))

def execDqini (v : WordM) (s : State) : Out := runM (.dqini v) v (effDqini v) s

def execDqpsh (v : WordM) (s : State) : Out :=
  runTryM (.dqpsh v) v (dqOp v (fun w x c o y b s =>
    if b.cap ≤ sub32 b.bot b.top then .wait .bank
    else if !released s w.c x w.r x.nextId 1 then .wait .fence
    else .done ((s.setA c (DBlock.write { b with bot := (b.bot + 1) % 2 ^ 32 }
      (y.abuf.write (b.item b.bot) (bytesOf (readSrc w x v.data 0) 8)) o)).release w.c 1))) s

/-- TP of DQPOP and DQSTL. -/
def resultPred (v : WordM) : Nat := (field v.imm 44 3).toNat

def execDqpop (v : WordM) (s : State) : Out :=
  runM (.dqpop v) v (dqOp v (fun w _ c o y b s =>
    if b.bot = b.top then .done (s.setP w (resultPred v) false)
    else
      let bot := sub32 b.bot 1
      .done ((((s.setA c (DBlock.write { b with bot := bot } y.abuf o)).acquire w.c.cid 0).setS w v.data.toNat
        (BitVec.ofNat 64 (y.abuf.nat (b.item bot) 8))).setP w (resultPred v) true))) s

def execDqstl (v : WordM) (s : State) : Out :=
  runM (.dqstl v) v (dqOp v (fun w _ c o y b s =>
    if b.bot = b.top then .done (s.setP w (resultPred v) false)
    else .done ((((s.setA c (DBlock.write { b with top := (b.top + 1) % 2 ^ 32 } y.abuf o)).acquire w.c.cid 1).setS w
      v.data.toNat (BitVec.ofNat 64 (y.abuf.nat (b.item b.top) 8))).setP w (resultPred v) true))) s

/-! ## Barriers (R215 to R220) -/

/-- NBAR of the kernel. -/
def State.chansOf (s : State) (x : Ctx) : Nat :=
  match s.kernel x.kernel with
  | some k => k.g
  | none => 1

/-- j. -/
def barJ (v : WordM) : Nat := (field v.imm 0 4).toNat
/-- e = b + ((i + j) mod D) (R216). -/
def chanOf (x : Ctx) (j : Nat) : Nat := x.barB + (x.barI.toNat + j) % x.barD
def Ctx.chan (x : Ctx) (e : Nat) : ChanSt := x.chans[e]?.getD {}
def Ctx.setChan (x : Ctx) (e : Nat) (c : ChanSt) : Ctx := { x with chans := x.chans.setIfInBounds e c }

/-- The operand limits of R217. -/
def barRange (s : State) (x : Ctx) (v : WordM) : Bool := s.chansOf x == 1 || decide (x.barD ≤ barJ v)

/-- Arrives on the channel, a release at package scope (R179). -/
def arrive (w : Who) (x : Ctx) (e : Nat) (s : State) (k : Ctx → Eff) : Eff :=
  if (x.chan e).pending then .wait .barrier
  else if !released s w.c x w.r x.nextId 2 then .wait .fence
  else k (x.setChan e { x.chan e with pending := true, ever := true })

/-- Waits for the latest arrival's release and takes its status; an acquire at package scope. -/
def awaitRelease (w : Who) (x : Ctx) (v : WordM) (e : Nat) (s : State) : Eff :=
  if (x.chan e).pending then .wait .barrier
  else .done ((s.acquire w.c.cid 2).setS w v.data.toNat (x.chan e).status)

def execBara (v : WordM) (s : State) : Out :=
  runTryM (.bara v) v (fun w x s =>
    if barRange s x v then .fault cRange (BitVec.ofNat 64 (barJ v))
    else arrive w x (chanOf x (barJ v)) s (fun y => .done ((s.setCtx w.c y).release w.c 2))) s

def execBarw (v : WordM) (s : State) : Out :=
  runTryM (.barw v) v (fun w x s =>
    if barRange s x v then .fault cRange (BitVec.ofNat 64 (barJ v))
    else if !(x.chan (chanOf x (barJ v))).ever then .fault cBarrier 0
    else awaitRelease w x v (chanOf x (barJ v)) s) s

/-- BAR arrives, and then awaits the release of the channel on which it has arrived (R217, R220). -/
def execBar (v : WordM) (s : State) : Out :=
  runM (.bar v) v (fun w x s => match (x.role w.r).arrived with
    | some e => awaitRelease w x v e s
    | none =>
      if barRange s x v then .fault cRange (BitVec.ofNat 64 (barJ v))
      else arrive w x (chanOf x (barJ v)) s (fun y =>
        .waitIn .barrier ((s.setCtx w.c (y.setRole w.r { y.role w.r with arrived := some (chanOf x (barJ v)) })).release w.c 2))) s

def execBidb (v : WordM) (s : State) : Out :=
  runWholeM (.bidb v) v (fun w x s =>
    let b := (field v.imm 0 4).toNat
    let d := (field v.imm 8 4).toNat
    if s.chansOf x = 1 ∨ b = 0 ∨ d = 0 ∨ s.chansOf x < b + d then .fault cRange (v.imm.setWidth 64)
    else if x.chans.toList.any (·.pending) then .wait .barrier
    else .done (s.setCtx w.c { x with barB := b, barD := d, barI := 0 })) s

def execBida (v : WordM) (s : State) : Out :=
  runWholeM (.bida v) v (fun w x s =>
    if s.chansOf x = 1 then .fault cRange 0
    else .done (s.setCtx w.c { x with barI := x.barI + 1 })) s

/-! ## PHASE (R43, R196, R221) -/

/-- Every other live role stands at the PHASE. -/
def allAtPhase (x : Ctx) (r : Role) : Bool :=
  Role.all.all (fun y => y == r || !(x.role y).live ||
    ((x.role y).pc == (x.role r).pc && (x.role y).rest.isNone && (x.role y).wait == some .meet))

/-- An engine command reads or writes G, F or H: SSP or DSP is 3, 4 or 5 (R252, R253). -/
def ECmd.outside (k : ECmd) : Bool :=
  let far := fun n => decide (3 ≤ n) && decide (n ≤ 5)
  far (numAt k.bytes 4 1) || far (numAt k.bytes 5 1)

/-- What R196 waits for before the arrival. -/
def phaseReady (s : State) (c : CtxId) (x : Ctx) : Bool :=
  x.flights.isEmpty && x.kstores.isEmpty && x.ackc == 0 && !(s.core c.cid).sbuf.any (fun e => e.ctx == c) &&
    !s.fab.stos.any (fun o => o.ctx == c) && !x.loadQ.any ECmd.outside && !x.storeQ.any ECmd.outside

/-- The role that the tag of the PHASE at the roles' program counters names, and its token pushes. -/
def phaseRole (t : List Section) (x : Ctx) : Role × BitVec 4 :=
  match decode (fetchBytes t (if x.rl.live then x.rl.pc else if x.rc.live then x.rc.pc else x.rs.pc)) with
  | .ok (.phase v, _) => (roleOf v.role.toNat, v.tok)
  | _ => (.l, 0)

/-- What the release of channel 0 does to a context: every write of its copy commands is ordered, acquires at system scope, section counts cleared, and every live role
goes on after the PHASE (R196, R221). -/
def State.phasePass (s : State) (c : CtxId) : State :=
  match s.ctx c with
  | none => s
  | some x =>
    let t := s.textOf x
    let p := phaseRole t x
    let clear := fun (r : RoleSt) => { r with entries := [], exits := [] }
    let s := ((s.setCtx c { x with phaseArrived := false, phaseDone := false, floor := s.hist.length, rl := clear x.rl,
                                   rc := clear x.rc, rs := clear x.rs }).tightenIf (fun l => l.c == c) 3).acquireNow c.cid 3
    (Role.all.filter (fun r => (x.role r).live)).foldl (fun (s : State) r =>
      retireNext s s ⟨c, r⟩ t (clear (x.role r)) (if r = p.1 then p.2 else 0) none false) s

def effPhase : Effect := fun w x s =>
  if (fallThrough (s.textOf x) (x.role w.r).pc).isNone then .done s
  else if x.phaseDone then if s.logUsers w.c.cid then .wait .phase else .final (s.phasePass w.c)
  else if x.phaseArrived then .wait .phase
  else if !allAtPhase x w.r then .wait .meet
  else if !phaseReady s w.c x then .wait .fence
  else .waitIn .phase (s.setCtx w.c { x with phaseArrived := true })

def execPhase (v : WordM) (s : State) : Out :=
  runWord (.phase v) { role := v.role, tok := v.tok, guard := v.guard, codes := [], phase := true } effPhase s

/-! ## Work lists (R266 to R271) -/

/-- The work lists of a context's kernel. -/
def State.lists (s : State) (x : Ctx) : Option WorkLists :=
  match s.kernel x.kernel with
  | some k => k.wl
  | none => none
def State.setLists (s : State) (x : Ctx) (l : WorkLists) : State := s.modKernel x.kernel (fun k => { k with wl := some l })
/-- The number of cores of the grid. -/
def State.gridSize (s : State) (x : Ctx) : Nat :=
  match s.kernel x.kernel with
  | some k => k.gw * k.gh
  | none => 0

/-- Appends each item to its list; none where a list has no room for all its items. -/
def appendItems (cap : Nat) : List (Nat × W32) → List (List W32) → Option (List (List W32))
  | [], l => some l
  | (d, i) :: r, l =>
    if cap ≤ (l.getD d []).length then none else appendItems cap r (l.set d (l.getD d [] ++ [i]))

def effWlapp (v : WordM) : Effect := fun w x s =>
  match s.lists x with
  | none => .fault cWorkList 0
  | some l =>
    let t := Taken.q (Taken.q { x := x } (qOf v.data) false) (qOf v.index) false
    let mask : W64 := if v.base = 0 then -1 else readSrc w x v.base 0
    let items := ((List.range 64).filter (fun i => bitAt mask i)).map (fun i =>
      ((lane (t.vals.getD 1 []) i).toNat, lane (t.vals.headD []) i))
    match items.find? (fun p => decide (s.gridSize x ≤ p.1)) with
    | some p => .fault cRange (BitVec.ofNat 64 p.1)
    | none =>
      match t.stop none with
      | some e => e
      | none =>
        if !released s w.c x w.r x.nextId 2 then .wait .fence
        else match appendItems l.cap items l.lists with
          | none => .wait .worklist
          | some ls =>
            .done (((s.setCtx w.c { t.x with idle := false }).setLists x
              { l with lists := ls, appended := l.appended + items.length, latch := false, wave := none }).release w.c 2)

def execWlapp (v : WordM) (s : State) : Out := runTryM (.wlapp v) v (effWlapp v) s

def effWltak (v : WordM) : Effect := fun w x s =>
  match s.lists x with
  | none => .fault cWorkList 0
  | some l =>
    match Taken.stop { x := x } (some (qOf v.data)) with
    | some e => e
    | none =>
      let own := l.lists.getD x.gidx []
      let k := Nat.min (field v.imm 0 7).toNat own.length
      if own.isEmpty ∧ !l.latch then .wait .worklist
      else
        let lanes := (List.range 64).map (fun i => if i < k then own.getD i 0 else 0)
        let y := { x.qPush (qOf v.data) lanes with idle := x.idle && k == 0 }
        let s := (s.setCtx w.c y).setLists x { l with lists := l.lists.set x.gidx (own.drop k), taken := l.taken + k }
        .done ((if k = 0 then s else s.acquire w.c.cid 2).setS w v.base.toNat (BitVec.ofNat 64 k))

def execWltak (v : WordM) (s : State) : Out := runTryM (.wltak v) v (effWltak v) s

def execWlidl (v : WordM) (s : State) : Out :=
  runM (.wlidl v) v (fun w x s =>
    match s.lists x with
    | none => .fault cWorkList 0
    | some _ => .done (s.setCtx w.c { x with idle := true })) s

def execTrmw (v : WordM) (s : State) : Out :=
  runTryM (.trmw v) v (fun w x s =>
    match s.lists x with
    | none => .fault cWorkList 0
    | some l =>
      if !l.latch then .wait .worklist
      else .done ((s.acquire w.c.cid 2).setS w v.data.toNat (BitVec.ofNat 64 l.appended))) s

/-! ## OSEQ and OWT (R298, R304, R305) -/

/-- The fabric status word (R298). -/
def fabWord (s : State) (x : Ctx) : W64 :=
  BitVec.ofNat 64 (x.orjc.toNat * 2 ^ 32 + x.ackc * 2 ^ 16 + (s.part x.part).rcls % 4 * 8 + bit1 x.orj 1 + bit1 x.rrj 0)

/-- The group word (R304). -/
def Group.word (g : Group) : W64 :=
  BitVec.ofNat 64 (g.epoch.toNat * 2 ^ 48 + g.wlog * 2 ^ 31 + bit1 g.ref 30 + g.memb)

/-- The group that a base names. -/
def groupBase (s : State) (w : Who) (x : Ctx) (v : WordM) : Option Group :=
  s.installed x (field (readSrc w x v.base 0) 48 12).toNat

def execOseq (v : WordM) (s : State) : Out :=
  runM (.oseq v) v (fun w x s =>
    if field v.imm 0 2 = 1#2 then
      let s' := if bitAt v.imm 2 then s.setCtx w.c { x with rrj := false, orj := false } else s
      putD w s' v.data (fabWord s x)
    else match groupBase s w x v with
      | none => .fault cAddrForm (readSrc w x v.base 0)
      | some g =>
        if field v.imm 0 2 = 2#2 then putD w s v.data g.word
        else putD w (if v.order = 1 then s.acquire w.c.cid v.scope.toNat else s) v.data (BitVec.ofNat 64 g.applied)) s

def execOwt (v : WordM) (s : State) : Out :=
  runTryM (.owt v) v (fun w x s =>
    match groupBase s w x v with
    | none => .fault cAddrForm (readSrc w x v.base 0)
    | some g =>
      if g.applied < (field (readSrc w x v.data 0) 0 48).toNat then .wait (.multicast g.gid)
      else .done (if v.order = 1 then s.acquire w.c.cid v.scope.toNat else s)) s

end Sys2Proof.Machine
end

