-- ==== Sys2Proof/Machine/Matrix.lean ====
section
/-! DEFINITION. The array and the epilogue (R226 to R248): lease, array commands at their issue, and the device steps that
carry them out in queue order. -/

namespace Sys2Proof.Machine

/-! ## The lease (R232 to R234) -/

/-- The bytes of a plane as its tile stands in the W buffer now; an invalid plane holds none. -/
def PlaneRec.load (p : PlaneRec) (w : Mem) : Plane := ⟨p, if p.valid then w.read p.off (tileSize p.fmt) else []⟩

/-- The context has the array back after another one used it: both planes are loaded again (R233). -/
def Ctx.reload (x : Ctx) : Ctx := { x with act := x.act.rec_.load x.wbuf, sh := x.sh.rec_.load x.wbuf }

/-- Commands that a grant carries (R232). -/
def leaseCount (num : Nat) : Nat := if num = 0 then 64 else 16

/-- Gives the lease to a context of a core. -/
def State.grantLease (s : State) (c : CtxId) : State :=
  let k := s.core c.cid
  let s := if k.arrayOf ≠ some c.num then s.modCtx c Ctx.reload else s
  s.modCore c.cid (fun k => { k with
    lease := some ⟨c.num, leaseCount c.num⟩, arrayOf := some c.num
    lastHarvest := if c.num = 0 then k.lastHarvest else c.num })

def AKind.usesArray : AKind → Bool
  | .wload _ | .wswp | .mma .. => true
  | _ => false

/-- A context asks for the lease now: it runs and its request stands, or it has commands that use the array, which wait where the
lease has passed on (R232). A TRAPPED context asks only for its queued commands, which still run (R369): its roles issue none (DESIGN
CHOICE, log 30: R232 does not say whether its standing request alone takes part). -/
def State.asking (s : State) (c : CtxId) : Bool :=
  match s.ctx c with
  | some x => (x.leaseAsk && x.state == .run) ||
      ((x.state == .run || x.state == .trapped) && x.acmds.any (fun k => k.kind.usesArray && !k.done))
  | none => false

/-- The winner of an arbitration among contexts of a core other than `not` (R232). -/
def State.winner (s : State) (cid : Nat) (not : Option Nat) : Option Nat :=
  let k := s.core cid
  let other := if k.lastHarvest = 1 then 2 else 1
  [0, other, k.lastHarvest].find? (fun n => some n != not && s.asking ⟨cid, n⟩)

/-- The context holds the lease. -/
def State.holds (s : State) (c : CtxId) : Bool :=
  match (s.core c.cid).lease with
  | some l => l.num == c.num
  | none => false

/-- The give-up of a ULEASE takes effect once the array-using commands before it have completed (R234). -/
def State.settleLease (s : State) (c : CtxId) : State :=
  match s.ctx c with
  | none => s
  | some x =>
    match x.leaseGive with
    | none => s
    | some n =>
      if x.acmds.any (fun k => k.kind.usesArray && decide (k.acc < n)) then s
      else
        let s := s.setCtx c { x with leaseGive := none }
        if s.holds c then s.modCore c.cid (fun k => { k with lease := none }) else s

/-- A context requests the lease: whether it holds it, or is granted it at once, and the state with its request standing (R232, R234).
A give-up that an earlier ULEASE has left pending is cancelled, also where the lease has passed on meanwhile and is granted anew (DESIGN
CHOICE, log 30: R234 says so of a lease still held). -/
def State.askLease (s : State) (c : CtxId) (x : Ctx) : Bool × State :=
  let s1 := s.setCtx c { x with leaseAsk := true, leaseGive := none }
  if s.holds c then (true, s1)
  else if (s.core c.cid).lease.isNone ∧ s1.winner c.cid none = some c.num then (true, s1.grantLease c)
  else (false, s1)

/-- LEASE waits until the context holds the lease; under TRY it sets p(TP) to whether it holds it, or is granted it at once, and a
false result leaves the request standing (R234). Its token actions are those of any instruction (R77). The request of a LEASE that the
wait-timeout fault ends stands as well (DESIGN CHOICE, log 30: R223 gives the instruction no effect, R234 ends a request at ULEASE or
HALT only). -/
def effLease (try_ : Bool) (tp : Nat) : Effect := fun w x s =>
  let r := s.askLease w.c x
  if try_ then .done (r.2.setP w tp r.1) else if r.1 then .done r.2 else .waitIn .lease r.2

def execLease (v : WordX) (s : State) : Out :=
  runX (.lease v) v (effLease (bitAt v.low 56) (field v.low 53 3).toNat) s

def execUlease (v : WordX) (s : State) : Out :=
  runX (.ulease v) v (fun w x s =>
    let some_ := s.holds w.c || x.acmds.any (fun k => k.kind.usesArray)
    .done ((s.setCtx w.c { x with leaseAsk := false, leaseGive := if some_ then some x.nextAcc else none }).settleLease w.c)) s

/-! ## Issue (R231, R247) -/

/-- CPT [38:37]. -/
def cptOf (v : WordX) : Nat := (field v.low 37 2).toNat
def zrOf (v : WordX) : Nat := (field v.low 51 6).toNat
def nrOf (v : WordX) : Nat := (field v.low 45 6).toNat
def strOf (v : WordX) : Nat := (field v.low 12 12).toNat
def typeOf (v : WordX) : BitVec 5 := field v.low 40 5

/-- ZR is 0 to 47 and NR 1 to 48. -/
def rowsOk (v : WordX) : Bool := decide (zrOf v ≤ 47) && decide (1 ≤ nrOf v) && decide (nrOf v ≤ 48)

/-- The first of the faults that apply. -/
def faults (l : List (Bool × Nat × W64)) : Option Eff :=
  match l.find? (·.1) with
  | some (_, c, v) => some (.fault c v)
  | none => none

/-- Places a command in the array command queue; a full queue is waited for (R231). Each context has 8 places of its own, its head
command's among them (DESIGN CHOICE, log 30: R231 speaks of the core's queue of 8, R35 of the array command records in each context's
storage). -/
def accept (s : State) (w : Who) (x : Ctx) (k : AKind) (cpt : Nat) : Eff :=
  if 8 ≤ x.acmds.length then .wait .array
  else .done (s.setCtx w.c { x with
      acmds := x.acmds ++ [{ acc := x.nextAcc, kind := k, cpt := cpt, at_ := x.nextId }], nextAcc := x.nextAcc + 1 })

/-- An offset as a 64-bit number that may be large. -/
def past (budget : Nat) (off : W64) (n : Nat) : Bool := decide (budget < off.toNat + n)

/-- The types that WLOAD accepts (R235). -/
def weightType (t : BitVec 5) : Bool := (13 ≤ t.toNat && t.toNat ≤ 22)

def execWload (v : WordX) (s : State) : Out :=
  runX (.wload v) v (fun w x s =>
    let off := readSrc w x v.a 0
    let t := typeOf v
    match faults [(!weightType t, cRange, (t.setWidth 64)), (off.toNat % 256 != 0, cAlign, off),
                  (past x.wbud off (tileSize t), cBound, off), (!x.leaseAsk, cLease, 0)] with
    | some e => e
    | none => accept s w { x with shRec := ⟨off.toNat, t, true⟩ } (.wload ⟨off.toNat, t, true⟩) (cptOf v)) s

def execWswp (v : WordX) (s : State) : Out :=
  runX (.wswp v) v (fun w x s =>
    match faults [(!x.leaseAsk, cLease, 0), (!x.shRec.valid, cArray, 0)] with
    | some e => e
    | none => accept s w { x with actRec := x.shRec, shRec := x.actRec } .wswp 0) s

/-- ASHP (R229): not an array command. -/
def execAshp (v : WordX) (s : State) : Out :=
  runX (.ashp v) v (fun w x s =>
    let b := if isImm v.a then (field v.low 0 4).setWidth 64 else readSrc w x v.a 0
    if b = 1 ∨ b = 3 ∨ b = 7 ∨ b = 15 then .done (s.setCtx w.c { x with ashp := b.setWidth 4 })
    else .fault cRange b) s

/-- The three matrix multiplies (R237): kind 0 MMA, 1 MMAZ, 2 MMAI. -/
def effMma (kind : Nat) (v : WordX) : Effect := fun w x s =>
  let ao := readSrc w x v.a 0
  let t := typeOf v
  let row := 4 + 16 * blockWidth t
  let str := if strOf v = 0 then row else strOf v
  match faults [
      (!rowsOk v || !(16 ≤ t.toNat && t.toNat ≤ 30) || str % 4 != 0 || decide (str < row), cRange, (v.low.setWidth 64)),
      (ao.toNat % 4 != 0, cAlign, ao),
      (past x.abud ao ((nrOf v - 1) * str + row), cBound, ao),
      (decide (x.zbud / 512 < zrOf v + nrOf v), cBound, BitVec.ofNat 64 (zrOf v)),
      (!x.leaseAsk, cLease, 0),
      (!x.actRec.valid || (kind == 2 && blockHalf x.actRec.fmt), cArray, 0)] with
  | some e => e
  | none =>
    accept s w x (.mma kind (zrOf v) (nrOf v) t (kind == 1 || (kind == 2 && bitAt v.low 39)) ao.toNat str x.ashp) (cptOf v)

def execMma (v : WordX) (s : State) : Out := runX (.mma v) v (effMma 0 v) s
def execMmaz (v : WordX) (s : State) : Out := runX (.mmaz v) v (effMma 1 v) s
def execMmai (v : WordX) (s : State) : Out := runX (.mmai v) v (effMma 2 v) s

/-! ## The epilogue configuration (R242) -/

/-- The configuration that 64 descriptor bytes name. -/
def EpiCfg.ofBytes (b : List Byte) : EpiCfg where
  csoff := numAt b 0 2
  rsoff := numAt b 2 2
  bioff := numAt b 4 2
  tboff := numAt b 6 2
  act := numAt b 8 1
  ofmt := BitVec.ofNat 5 (numAt b 9 1)
  rm := BitVec.ofNat 3 (numAt b 10 1)
  sat := (numAt b 11 1).testBit 0
  inz := (numAt b 11 1).testBit 1
  clo := BitVec.ofNat 32 (numAt b 12 4)
  chi := BitVec.ofNat 32 (numAt b 16 4)
  tlo := BitVec.ofNat 32 (numAt b 20 4)
  tinv := BitVec.ofNat 32 (numAt b 24 4)

/-- The output types of R242. -/
def epiType (n : Nat) : Bool := n == 0 || n == 8 || (10 ≤ n && n ≤ 12) || (16 ≤ n && n ≤ 30)

/-- An array of `n` bytes named by the descriptor: skipped, or aligned and within the budget. -/
def epiArray (budget off n : Nat) (skip : Bool) : Bool := skip || (off % 4 == 0 && decide (off + n ≤ budget))

/-- The checks of the descriptor's fields. -/
def epiOk (b : List Byte) (budget : Nat) : Bool :=
  let c := EpiCfg.ofBytes b
  c.act ≤ 3 && epiType (numAt b 9 1) && numAt b 10 1 ≤ 4 && numAt b 11 1 ≤ 3 &&
    epiArray budget c.csoff 512 (c.csoff == 0xFFFF) && epiArray budget c.rsoff 192 (c.rsoff == 0xFFFF) &&
    epiArray budget c.bioff 512 (c.bioff == 0xFFFF) && epiArray budget c.tboff 260 (c.act != 3) &&
    !(f32 c.clo).isNan && !(f32 c.chi).isNan && !(f32 c.chi).ltNum (f32 c.clo) &&
    (c.act != 3 || (!(f32 c.tlo).isNan && !(f32 c.tinv).isNan && !(f32 c.tinv).isInf && (FVal.zero false).ltNum (f32 c.tinv))) &&
    (b.drop 28).all (· == 0)

/-- EPICF (R242). An uncorrectable error in the 64 bytes that it reads has no effect on them (DESIGN CHOICE, log 30: R405 names no outcome for
EPICF). -/
def execEpicf (v : WordX) (s : State) : Out :=
  runX (.epicf v) v (fun w x s =>
    let o := readSrc w x v.a 0
    match faults [(o.toNat % 64 != 0, cAlign, o), (past x.abud o 64, cBound, o)] with
    | some e => e
    | none =>
      let b := (s.ownA w x).read o.toNat 64
      if epiOk b x.abud then .done (s.setCtx w.c { x with epi := EpiCfg.ofBytes b }) else .fault cRange o) s

/-- Bytes of an output row (R245). -/
def epiRow (t : BitVec 5) : Nat :=
  if t = 8 then 512 else if t = 10 then 256 else if t.toNat < 16 then 128 else 4 + 16 * blockWidth t
/-- Queue entries of an output row. -/
def epiEntries (t : BitVec 5) : Nat := if t = 8 then 2 else 1

/-- EPI (R243, R245); one into a q-register reserves its entries from then on, each as one is free (R199, R202). -/
def execEpi (v : WordX) (s : State) : Out :=
  runX (.epi v) v (fun w x s =>
    let ao := if isQ v.d then 0 else readSrc w x v.a 0
    let t := x.epi.ofmt
    let str := if strOf v = 0 then epiRow t else strOf v
    let q := qOf v.d
    match faults [
        (!rowsOk v || str % 4 != 0 || (isQ v.d && t == 30), cRange, (v.low.setWidth 64)),
        (ao.toNat % 4 != 0, cAlign, ao),
        (!isQ v.d && past x.abud ao ((nrOf v - 1) * str + epiRow t), cBound, ao),
        (decide (x.zbud / 512 < zrOf v + nrOf v), cBound, BitVec.ofNat 64 (zrOf v))] with
    | some e => e
    | none =>
      if isQ v.d ∧ x.selfLoop q ∧ qDepth x.harvest q < nrOf v * epiEntries t then .loopTrap true else
      let kind := AKind.epi (zrOf v) (nrOf v) (if isQ v.d then some q else none) ao.toNat str (bitAt v.low 44) x.epi
      if !isQ v.d then accept s w x kind (cptOf v)
      else if 8 ≤ x.acmds.length then .wait .array
      else
        let k : ACmd := { acc := x.nextAcc, kind := kind, cpt := cptOf v, at_ := x.nextId, owed := nrOf v * epiEntries t, qid := x.nextId }
        let y := { x with acmds := x.acmds ++ [k], nextAcc := x.nextAcc + 1, nextId := x.nextId + 1 }
        .done (s.setCtx w.c (y.settleQ q))) s

/-! ## Direct Z access (R246) -/

/-- H [50]. -/
def halfOf (v : WordX) : Nat := (field v.low 50 1).toNat

/-- The row checks of ZRD and ZWR. -/
def zFaults (x : Ctx) (v : WordX) : Option Eff :=
  faults [(decide (47 < zrOf v), cRange, BitVec.ofNat 64 (zrOf v)),
          (decide (x.zbud / 512 < zrOf v + 1), cBound, BitVec.ofNat 64 (zrOf v))]

def execZrd (v : WordX) (s : State) : Out :=
  runX (.zrd v) v (fun w x s =>
    match zFaults x v with
    | some e => e
    | none =>
      match Taken.stop { x := x } (some (qOf v.d)) with
      | some e => e
      | none => accept s w (x.qReserve (qOf v.d)) (.zrd (zrOf v) (halfOf v) (qOf v.d) x.nextId) 0) s

def execZwr (v : WordX) (s : State) : Out :=
  runX (.zwr v) v (fun w x s =>
    match zFaults x v with
    | some e => e
    | none =>
      withQ x (qOf v.a) none (fun y l => accept s w y (.zwr (zrOf v) (halfOf v) l) 0)) s

def execZclr (v : WordX) (s : State) : Out :=
  runX (.zclr v) v (fun w x s =>
    match faults [(!rowsOk v, cRange, (v.low.setWidth 64)),
                  (decide (x.zbud / 512 < zrOf v + nrOf v), cBound, BitVec.ofNat 64 (zrOf v))] with
    | some e => e
    | none => accept s w x (.zclr (zrOf v) (nrOf v)) 0) s

/-! ## Device steps of the array

The array serves the command at the head of a context's queue (R240). -/

/-- The head command of a context whose array commands may run: the context runs or is TRAPPED, no owner demand stands on it, and its
core is neither frozen nor under a debug hold; these two stop it at the next row boundary (R248, R261, R369, R387, R419). -/
def State.arrayHead (s : State) (c : CtxId) : Option (Ctx × ACmd) :=
  match s.ctx c with
  | none => none
  | some x =>
    match x.acmds with
    | k :: _ =>
      if (x.state = .run ∨ x.state = .trapped) ∧ (((s.core c.cid).frozen.isNone ∧ !(s.die (dieOf c.cid)).dbgHold) ∨ k.inj ≠ 0) ∧
          !s.demanded c then
        some (x, k)
      else none
    | [] => none

/-- Entries that the head command has still to reserve. -/
def Ctx.headOwed (x : Ctx) : Nat := ((x.acmds.head?).map (·.owed)).getD 0

/-- Replaces the head command. -/
def Ctx.setHead (x : Ctx) (k : ACmd) : Ctx := { x with acmds := k :: x.acmds.tail }

/-- The last read and write of the head are made: without a completion token it has completed (R231). -/
def State.headDone (s : State) (c : CtxId) (k : ACmd) : State :=
  if k.cpt = 0 then ((s.modCtx c (fun x => { x with acmds := x.acmds.tail })).settleLease c).openBands c.cid
  else s.modCtx c (fun x => x.setHead { k with done := true })

/-- The array begins the head command, or goes on with it: an array-using one needs the lease, and to begin a grant that is not used
up, which it counts (R232, R239): a command that a revocation has interrupted goes on and is not counted again (DESIGN CHOICE, log 30:
R232 counts a command when the array begins it, R239 has it go on at its next row); none where it may not, as for a command that an earlier copy command holds (R259) or whose reads
of A an access of the C role precedes that is not yet performed (R241). -/
def State.beginHead (s : State) (c : CtxId) (k : ACmd) : Option State :=
  if k.done || (!k.begun && (match s.ctx c with
    | some x => x.copyHolds k || (!k.kind.spans.isEmpty && !ownSettled s c x .c k.at_)
    | none => true)) then none
  else if !k.kind.usesArray then some s
  else match (s.core c.cid).lease with
    | some l =>
      if l.num ≠ c.num then none
      else if k.begun then some s
      else if 0 < l.count then
        some ((s.modCore c.cid (fun k => { k with lease := some { l with count := l.count - 1 } })).modCtx c
          (fun x => x.setHead { k with begun := true }))
      else none
    | none => none

/-- ARRAY_COMPLETION_PUSH: the head command's completion token, once its FIFO has room (R231). -/
def execArrayCompletionPush (s : State) : Out :=
  match s.ctx s.inp.c with
  | none => .next s
  | some x =>
    match x.acmds with
    | k :: rest =>
      let f := if k.cpt = 1 then 1 else 2
      if k.done ∧ x.tok f < 8 ∧ (s.core s.inp.c.cid).frozen.isNone then
        .next (((s.setCtx s.inp.c { x.setTok f (x.tok f + 1) with acmds := rest }).settleLease s.inp.c).openBands s.inp.c.cid)
      else .next s
    | [] => .next s

/-- WLOAD_TILE_COPY: the tile is copied into the shadow plane (R235); one with an uncorrectable error posts SUB 5 (R405). -/
def execWloadTileCopy (s : State) : Out :=
  let c := s.inp.c
  match s.arrayHead c with
  | some (x, k) =>
    match k.kind, s.beginHead c k with
    | .wload p, some s1 =>
      let bad := s.badS c 1 p.off (tileSize p.fmt)
      let s2 := s1.modCtx c (fun y => { y with sh := p.load x.wbuf })
      .next ((if bad then s2.post (dieOf c.cid) 5 (c.cid % 128) 0 else s2).headDone c { k with begun := true })
    | _, _ => .next s
  | none => .next s

/-- WSWP_EXCHANGE (R236). -/
def execWswpExchange (s : State) : Out :=
  let c := s.inp.c
  match s.arrayHead c with
  | some (x, k) =>
    match k.kind, s.beginHead c k with
    | .wswp, some s1 => .next ((s1.modCtx c (fun y => { y with act := x.sh, sh := x.act })).headDone c { k with begun := true })
    | _, _ => .next s
  | none => .next s

/-- The planes that the cadence lets into a window (R428). -/
def State.windowCap (s : State) (cid : Nat) : Nat := 64 / Nat.max 1 (s.cad cid)

/-- Planes that a core may inject in the present window (R428). -/
def State.allowance (s : State) (cid : Nat) : Nat :=
  let k := s.core cid
  let p := s.power
  if p.maclimEn then Nat.min (s.windowCap cid) (Nat.max p.floor (k.lastPlanes + p.step)) else s.windowCap cid

/-- Ballast is in force on a core: the limiter is enabled, and the 20 µs of R430 have not run out (R429). -/
def State.ballastOn (s : State) (cid : Nat) : Bool :=
  let p := s.group (groupOf (dieOf cid))
  s.power.maclimEn && !p.balStopped && !(p.bal && decide (p.balFrom + ballastCycles ≤ s.cycles))

/-- The planes below which a window may not fall (R429). -/
def State.ballastFloor (s : State) (cid : Nat) : Nat :=
  if s.ballastOn cid then Nat.min (s.windowCap cid) ((s.core cid).lastPlanes - s.power.dstep) else 0

/-- A window ends: ballast has filled it up where its planes fell short. -/
def State.endWindow (s : State) (cid : Nat) : State :=
  let n := s.ballastFloor cid
  s.modCore cid (fun k => { k with winNo := k.winNo + 1, lastPlanes := Nat.max k.winPlanes n, winPlanes := 0,
                                   ballast := decide (k.winPlanes < n) })

/-- `n` windows end. -/
def State.endWindows (s : State) (cid : Nat) : Nat → State
  | 0 => s
  | n + 1 => State.endWindows (s.endWindow cid) cid n

/-- The limiter of a core up to the present window: cycles that a freeze has taken let the ballast ramp down by DSTEP per 64, and the
limiter continues from there, so that the planes of the window that the freeze interrupted count for no more (DEDUCED, log 24); the
windows that have gone by are filled; after 66 of them none differs from the next (R428, R429). -/
def State.roll (s : State) (cid : Nat) : State :=
  let k := s.core cid
  let f := (k.lost - k.lostSeen) / 64
  let n := k.lastPlanes - f * s.power.dstep
  let s1 := if f = 0 then s else s.modCore cid (fun k => { k with
    lostSeen := k.lostSeen + 64 * f
    lastPlanes := if s.ballastOn cid then n else k.lastPlanes
    winPlanes := if s.ballastOn cid then Nat.min k.winPlanes n else k.winPlanes })
  let w := (s.cyc cid).toNat / 64
  (s1.endWindows cid (Nat.min 66 (w - k.winNo))).modCore cid (fun k => { k with winNo := w })

/-- The limiters of all cores up to their present windows: what has gone by is judged before what governs it changes. -/
def State.rollAll (s : State) : State := s.cores.foldl (fun (s : State) e => s.roll e.1) s

/-- The Thaw deferral of a core has ended (R427). -/
def State.thawed (s : State) (cid : Nat) : Bool :=
  match (s.core cid).thaw with
  | none => true
  | some t => decide (t ≤ (s.time (dieOf cid)).toNat)

/-- PLANE_INJECTION: one plane of the head multiply's next row enters the array, within the Thaw deferral, the allowance of
the window and the powered bands (R228, R238, R427, R428); with `flag`, a ballast plane (R429). The planes that end a row while the core
is frozen fall in cycles that form no window: they are neither limited nor counted (R428). -/
def execPlaneInjection (s0 : State) : Out :=
  let c := s0.inp.c
  let s := s0.roll c.cid
  let core := s.core c.cid
  let still := core.frozen.isSome
  if s.inp.flag then
    if !still ∧ core.winPlanes < s.ballastFloor c.cid then
      .next (s.modCore c.cid (fun k => { k with winPlanes := k.winPlanes + 1 }))
    else .next s
  else match s.arrayHead c with
    | some (_, k) =>
      match k.kind with
      | .mma _ _ _ t _ _ _ ben =>
        if (still ∨ core.winPlanes < s.allowance c.cid) ∧ s.thawed c.cid ∧ core.bands &&& ben = ben ∧ k.inj < blockWidth t then
          match s.beginHead c k with
          | some s1 =>
            .next ((s1.modCore c.cid (fun k => { k with winPlanes := k.winPlanes + (if still then 0 else 1), thaw := none })).modCtx c
              (fun y => y.setHead { k with begun := true, inj := k.inj + 1 }))
          | none => .next s
        else .next s
      | _ => .next s
    | none => .next s

/-- BAND_POWER_UP: the bands that the head multiply needs are switched on (R228). -/
def execBandPowerUp (s : State) : Out :=
  let c := s.inp.c
  match s.arrayHead c with
  | some (_, k) =>
    match k.kind with
    | .mma _ _ _ _ _ _ _ ben => .next (s.modCore c.cid (fun k => { k with bands := k.bands ||| ben }))
    | _ => .next s
  | none => .next s

/-! ### Rows of a multiply (R70, R71, R237) -/

/-- The weights of a column in its 16·mw bytes (R227). -/
def columnWeights (mw : Nat) (col : List Byte) : List Int :=
  (List.range 128).map (fun k =>
    mantOf mw ((List.range mw).foldl (fun a p => a + bit1 (bitAt (col.getD (16 * p + k / 8) 0) (k % 8)) p) 0))

/-- One band of one column, as S_b. -/
def bandOf (half : Bool) (acts ws : List Int) (b : Nat) : Int :=
  bandSum half ((acts.drop (32 * b)).take 32) ((ws.drop (32 * b)).take 32)

/-- One output word: the enabled bands in ascending order (R70, R71). `row` holds the activation row, `acts` its mantissas. -/
def outWord (intMode : Bool) (ma : Nat) (p : Plane) (ben : BitVec 4) (row : List Byte) (acts : List Int) (z : Nat) (j : Nat) :
    Res :=
  let mw := blockWidth p.rec_.fmt
  let half := blockHalf p.rec_.fmt
  let ws := columnWeights mw ((p.tile.drop (512 + 16 * mw * j)).take (16 * mw))
  (List.range 4).foldl (fun (r : Res) b =>
    if !bitAt ben b then r
    else
      let sb := bandOf half acts ws b
      if intMode then
        let q := accI32 r.bits sb
        ⟨q.bits, r.flags ||| q.flags⟩
      else
        let t := bandTerm half sb (row.getD b 0).toNat (p.tile.getD (4 * j + b) 0).toNat ma mw
        let q := accF32 r.bits t.bits
        ⟨q.bits, r.flags ||| t.flags ||| q.flags⟩) ⟨z, 0⟩

/-- The 128 words of an output row. -/
def mmaRow (kind : Nat) (zs : Bool) (t : BitVec 5) (p : Plane) (ben : BitVec 4) (row : List Byte) (zrow : List Nat) : List Res :=
  let ma := blockWidth t
  let acts := (List.range 128).map (planeMant row ma)
  zrow.zipIdx.map (fun (z, j) => outWord (kind == 2) ma p ben row acts (if zs then 0 else z) j)

/-- The words of a Z row. -/
def Ctx.zRow (x : Ctx) (r : Nat) : List Nat := (List.range 128).map (fun j => x.zbuf.nat (512 * r + 4 * j) 4)
/-- Writes a Z row whole. -/
def Ctx.setZRow (x : Ctx) (r : Nat) (l : List Nat) : Ctx := { x with zbuf := x.zbuf.write (512 * r) (l.flatMap (fun v => bytesN v 4)) }
/-- Flags of the array and the epilogue appear in the C role's FLG (R73). -/
def Ctx.cFlags (x : Ctx) (f : Flags) : Ctx := { x with rc := { x.rc with flg := x.rc.flg ||| f } }

/-- The word that a row with an uncorrectable error receives (R405). -/
def badWord (int : Bool) : Nat := if int then 0x80000000 else 0x7FC00000

/-- An enabled band of an activation row holds a byte with an uncorrectable error; the array does not read the others (R228). -/
def State.badBands (s : State) (c : CtxId) (ben : BitVec 4) (o ma : Nat) : Bool :=
  (List.range 4).any (fun b => bitAt ben b &&
    (s.badS c 0 (o + b) 1 || (List.range ma).any (fun p => s.badS c 0 (o + 4 + 16 * p + 4 * b) 4)))

/-- ARRAY_ROW_COMPLETE: the row whose planes are all injected is written to Z whole, with its flags (R70, R71, R73, R237). -/
def execArrayRowComplete (s : State) : Out :=
  let c := s.inp.c
  match s.arrayHead c with
  | some (x, k) =>
    match k.kind with
    | .mma kind zr nr t zs off str ben =>
      if k.inj < blockWidth t ∨ k.done then .next s
      else
        let row := x.abuf.read (off + k.next * str) (4 + 16 * blockWidth t)
        let bad := s.badBands c ben (off + k.next * str) (blockWidth t) || (!zs && s.badS c 2 (512 * (zr + k.next)) 512)
        let r := if bad then List.replicate 128 ⟨badWord (kind == 2), 0⟩
          else mmaRow kind zs t x.act ben row (x.zRow (zr + k.next))
        let y := (x.setZRow (zr + k.next) (r.map (·.bits))).cFlags (r.foldl (fun f e => f ||| e.flags) 0)
        let s1 := (s.setCtx c y).cleanS c 2 (512 * (zr + k.next)) 512
        let s1 := if bad then s1.post (dieOf c.cid) 5 (c.cid % 128) 0 else s1
        if k.next + 1 = nr then .next (s1.headDone c { k with next := k.next + 1, inj := 0 })
        else .next (s1.modCtx c (fun y => y.setHead { k with next := k.next + 1, inj := 0 }))
    | _ => .next s
  | none => .next s

/-! ### Rows of the epilogue (R243 to R245) -/

/-- A value of a step with its flags so far. -/
def Res.then_ (r : Res) (q : Res) : Res := ⟨q.bits, r.flags ||| q.flags⟩
/-- f32 at an A offset. -/
def aF32 (m : Mem) (o : Nat) : FVal := fmtF32.unpack (m.nat o 4)
def resVal (r : Res) : FVal := fmtF32.unpack r.bits

/-- The table sequence (R244): its pseudocode, also where the prose beside it gives tab[0] and tab[64] outside the table and the arithmetic
differs from these (DESIGN CHOICE, log 30). -/
def epiTable (cfg : EpiCfg) (m : Mem) (t : FVal) : Res :=
  if t.isNan then nanRes fmtF32 t.isSnan
  else
    let d := fAdd fmtF32 .rne t (f32 cfg.tlo).negate 0
    let u := d.then_ (fMul fmtF32 .rne (resVal d) (f32 cfg.tinv) 0)
    if (resVal u).isNan then ⟨fmtF32.qnan, u.flags⟩
    else
      let top := kF 0x42800000
      let v := if top.lt (resVal u) then top else if (resVal u).lt (.zero false) then .zero false else resVal u
      let (n, e) := v.dyadic
      let i := Nat.min (fixOf n.natAbs 1 e).floor 63
      let (fn, fe) := addDyadic n e (-(i : Int)) 0
      let f : FVal := if fn = 0 then .zero false else .fin (fn < 0) fn.natAbs fe
      let tab := fun j => aF32 m (cfg.tboff + 4 * j)
      let dd := u.then_ (fAdd fmtF32 .rne (tab (i + 1)) (tab i).negate 0)
      dd.then_ (fFma fmtF32 .rne f (resVal dd) (tab i) 0)

/-- act(t) (R244). A signalling NaN sets NV where the result is the canonical NaN (log 21). -/
def epiAct (cfg : EpiCfg) (m : Mem) (bits : Nat) : Res :=
  let t := fmtF32.unpack bits
  match cfg.act with
  | 0 => ⟨bits, 0⟩
  | 1 => if t.isNan then nanRes fmtF32 t.isSnan else if t.neg || t.isZero then ⟨0, 0⟩ else ⟨bits, 0⟩
  | 2 =>
    if t.isNan then nanRes fmtF32 t.isSnan
    else
      let b := if t.lt (f32 cfg.clo) then cfg.clo.toNat else bits
      ⟨if (f32 cfg.chi).lt (fmtF32.unpack b) then cfg.chi.toNat else b, 0⟩
  | _ => epiTable cfg m t

/-- One element before its conversion (R243): Z row `i`, column `j`. -/
def epiElem (cfg : EpiCfg) (m : Mem) (i j : Nat) (z : Nat) : Res :=
  let r : Res := if cfg.inz then fOfInt fmtF32 .rne false (intOfCode 2 z) 0 else ⟨z, 0⟩
  let r := if cfg.csoff = 0xFFFF then r else r.then_ (fMul fmtF32 .rne (resVal r) (aF32 m (cfg.csoff + 4 * j)) 0)
  let r := if cfg.rsoff = 0xFFFF then r else r.then_ (fMul fmtF32 .rne (resVal r) (aF32 m (cfg.rsoff + 4 * i)) 0)
  let r := if cfg.bioff = 0xFFFF then r else r.then_ (fAdd fmtF32 .rne (resVal r) (aF32 m (cfg.bioff + 4 * j)) 0)
  r.then_ (epiAct cfg m r.bits)

/-- A converted output row: its bytes, flags, and the LFSRs after it (R60, R245). -/
structure OutRow where
  bytes : List Byte
  flags : Flags
  lfsr : List W32
  deriving DecidableEq, Repr

/-- Conversion of a row of 128 f32 values (R245). -/
def epiConvert (cfg : EpiCfg) (lfsr : List W32) (vals : List Nat) : OutRow :=
  if cfg.ofmt = 8 then ⟨vals.flatMap (fun v => bytesN v 4), 0, lfsr⟩
  else
    let rm := RMode.ofCode cfg.rm
    let u := fun j => if j < 64 then lfsrStep (lfsrAt lfsr j) else lfsrStep (lfsrStep (lfsrAt lfsr (j - 64)))
    let after := if cfg.rm = 4 then laneIx.map (fun i => u (64 + i)) else lfsr
    if cfg.ofmt.toNat < 16 then
      let r := vals.zipIdx.map (fun (v, j) => convElem 8 cfg.ofmt rm cfg.sat v (u j))
      ⟨r.flatMap (fun e => bytesN e.bits (codeBits cfg.ofmt / 8)), r.foldl (fun f e => f ||| e.flags) 0, after⟩
    else
      let bs := (blocks4 (vals.zipIdx.map (fun (v, j) => (fmtF32.unpack v, u j)))).map
        (toBlock false (blockWidth cfg.ofmt) rm)
      ⟨planeRow (blockWidth cfg.ofmt) bs, bs.foldl (fun f b => f ||| b.flags) 0, after⟩

/-- The bytes of a row that every word is the replacement of R405. -/
def badRow (cfg : EpiCfg) : List Byte :=
  ((List.range 128).flatMap (fun _ => bytesN (badWord cfg.inz) 4)).take (epiRow cfg.ofmt)

/-- The entries of an output row for a q-register (R245). -/
def rowEntries (t : BitVec 5) (b : List Byte) : List (List W32) :=
  if t = 8 then [bytesLanes (b.take 256), bytesLanes (b.drop 256)] else [bytesLanes b]

/-- An EPI reads a byte with an uncorrectable error for a row: of Z, of the arrays that its configuration names, whose column
scales, biases and table are read whole (R242, R405). -/
def State.badEpi (s : State) (c : CtxId) (cfg : EpiCfg) (i : Nat) : Bool :=
  let arr := fun (o n skip : Nat) => o != skip && s.badS c 0 o n
  s.badS c 2 (512 * i) 512 || arr cfg.csoff 512 0xFFFF || arr (if cfg.rsoff = 0xFFFF then 0xFFFF else cfg.rsoff + 4 * i) 4 0xFFFF ||
    arr cfg.bioff 512 0xFFFF || (cfg.act == 3 && s.badS c 0 cfg.tboff 260)

/-- A row of the epilogue is written whole: its flags and the LFSRs, and +0 in its place under CLR (R60, R73, R243). -/
def State.rowDone (s : State) (c : CtxId) (k : ACmd) (nr i : Nat) (clr bad : Bool) (fl : Flags) (lfsr : List W32) : State :=
  let s1 := s.modCtx c (fun y =>
    let y := ({ y with lfsr := lfsr }).cFlags fl
    if clr then y.setZRow i (List.replicate 128 0) else y)
  let s1 := if clr then s1.cleanS c 2 (512 * i) 512 else s1
  let s1 := if bad then s1.post (dieOf c.cid) 5 (c.cid % 128) 0 else s1
  if k.next + 1 = nr then s1.headDone c { k with next := k.next + 1, inj := 0, owed := 0, begun := true }
  else s1.modCtx c (fun y => y.setHead { k with next := k.next + 1, inj := 0, owed := y.headOwed, begun := true })

/-- EPILOGUE_ROW: the head EPI drains its next row; into a q-register it writes the row's next entry, once one is reserved for it
(R243, R245). -/
def execEpilogueRow (s : State) : Out :=
  let c := s.inp.c
  match s.arrayHead c with
  | some (x, k) =>
    match k.kind with
    | .epi zr nr q off str clr cfg =>
      if (s.beginHead c k).isNone then .next s
      else
        let i := zr + k.next
        let bad := s.badEpi c cfg i
        let vals := (x.zRow i).zipIdx.map (fun (z, j) => epiElem cfg x.abuf i j z)
        let o := epiConvert cfg x.lfsr (vals.map (·.bits))
        let bytes := if bad then badRow cfg else o.bytes
        let fl := if bad then 0 else vals.foldl (fun f e => f ||| e.flags) o.flags
        match q with
        | none => .next ((s.putA c (off + k.next * str) bytes).rowDone c k nr i clr bad fl o.lfsr)
        | some q => match x.qFillNext q k.qid ((rowEntries cfg.ofmt bytes).getD k.inj []) with
          | none => .next s
          | some y =>
            if k.inj + 1 < epiEntries cfg.ofmt then
              .next (s.setCtx c (y.setHead { k with inj := k.inj + 1, owed := y.headOwed, begun := true }))
            else .next ((s.setCtx c y).rowDone c k nr i clr bad fl o.lfsr)
    | _ => .next s
  | none => .next s

/-- Z_DIRECT_EXECUTE: the head ZRD, ZWR or ZCLR is performed on Z (R246). -/
def execZDirectExecute (s : State) : Out :=
  let c := s.inp.c
  match s.arrayHead c with
  | some (x, k) =>
    match k.kind with
    | .zrd zr h q id =>
      let bad := s.badS c 2 (512 * zr + 256 * h) 256
      let l := if bad then List.replicate 64 (BitVec.ofNat 32 (badWord false))
        else (List.range 64).map (fun i => BitVec.ofNat 32 ((x.zRow zr).getD (64 * h + i) 0))
      let s1 := s.setCtx c (x.qFill q id l)
      .next ((if bad then s1.post (dieOf c.cid) 5 (c.cid % 128) 0 else s1).headDone c k)
    | .zwr zr h l =>
      .next (((s.setCtx c { x with zbuf := x.zbuf.write (512 * zr + 256 * h) (laneBytes l) }).cleanS c 2 (512 * zr + 256 * h)
        256).headDone c k)
    | .zclr zr nr =>
      .next (((s.setCtx c { x with zbuf := x.zbuf.write (512 * zr) (List.replicate (512 * nr) 0) }).cleanS c 2 (512 * zr)
        (512 * nr)).headDone c k)
    | _ => .next s
  | none => .next s

/-- LEASE_HANDOVER: at a command boundary the lease is arbitrated when nobody holds it or the grant is used up (R232). -/
def execLeaseHandover (s : State) : Out :=
  let cid := s.inp.cid
  match (s.core cid).lease with
  | none => match s.winner cid none with
    | some n => .next (s.grantLease ⟨cid, n⟩)
    | none => .next s
  | some l =>
    let busy : Bool := match s.ctx ⟨cid, l.num⟩ with
      | some x => match x.acmds with
        | k :: _ => k.begun && !k.done && k.kind.usesArray
        | [] => false
      | none => false
    if 0 < l.count ∨ busy then .next s
    else match s.winner cid (some l.num) with
      | some n => .next (s.grantLease ⟨cid, n⟩)
      | none => .next (s.modCore cid (fun k => { k with lease := some ⟨l.num, leaseCount l.num⟩ }))

end Sys2Proof.Machine
end

