-- ==== Sys2Proof/Machine/Queue.lean ====
section
/-! DEFINITION. Launch queues: the queue directory, registration and closing (R373, R374), the queue registers (R375), and the
choice of a leader (R382). -/

namespace Sys2Proof.Machine

/-! ## Leaders (R382) -/

/-- A die may lead a queue: live, not drained, not forced to cadence 63 by over-current or a thermal trip (log 24), and in
the queue's partition. -/
def State.qualifies (s : State) (q : LQueue) (d : Nat) : Bool :=
  let p := s.part q.part
  let g := s.group (groupOf d)
  (s.die d).live && !(s.die d).drained && !g.oc && !g.trips.contains d && p.valid && bitAt p.pgmask (groupOf d)

/-- The first die of the order that qualifies. -/
def State.leaderOf (s : State) (q : LQueue) : Option Nat :=
  ((List.range 64).map (fun i => (5 * q.q + i) % 64)).find? (s.qualifies q)

/-- LEADER_HAND_OVER of queue `q`: HEAD is written, and the next qualifying die continues from it. -/
def State.handOver (s : State) (q : LQueue) : State :=
  (s.tryWrite q.part (q.daddr + 0x10) (bytesOf q.head 4)).modQueue q.q (fun k => { k with leader := s.leaderOf q })

def execLeaderHandOver (s : State) : Out :=
  let q := s.queue s.inp.q
  match q.leader with
  | some d => if (q.sts = 1 ∨ q.sts = 3) ∧ !s.qualifies q d then .next (s.handOver q) else .next s
  | none => if q.sts = 1 ∨ q.sts = 3 then .next (s.handOver q) else .next s

/-! ## Registration (R373, R374) -/

/-- A descriptor keeps R373 and names the partition of its entry. -/
def descriptorOk (d : List Byte) (part : Nat) : Bool :=
  let size := numAt d 8 4
  numAt d 0 8 % 4096 == 0 && (List.range 13).any (fun i => size == 2 ^ (i + 4)) && numAt d 0xC 1 == part &&
    decide (numAt d 0xD 1 < 8) && numAt d 0x14 4 == 0 && numAt d 0x18 8 % 131072 == 0 && numAt d 0x24 28 == 0

/-- Every 64 KiB page that a range touches is mapped. -/
def State.mapped (s : State) (part va n : Nat) (write : Bool) : Bool :=
  n == 0 || (List.range ((va + n - 1) / 65536 + 1 - va / 65536)).all (fun i =>
    match s.xlate part ((va / 65536 + i) * 65536) write with
    | .ok _ => true
    | .error _ => false)

/-- The management controller reads and checks the descriptor of a closed entry: none where it refuses. -/
def State.openQueue (s : State) (q part daddr : Nat) (pf : Bool) : Option State :=
  match s.readV part daddr 64 with
  | none => none
  | some d =>
    let base := numAt d 0 8
    let size := numAt d 8 4
    let savep := numAt d 0x18 8
    let saven := numAt d 0x20 4
    let kapp := (numAt d 0xD 1).testBit 2
    if !(s.part part).valid ∨ !descriptorOk d part ∨ !s.mapped part base (8 * size) false ∨
        !s.mapped part savep (131072 * saven) false then none
    else match s.writeRun part (daddr + 0xD) (bytesN (1 + bit1 pf 1 + bit1 kapp 2) 1) with
      | none => none
      | some s1 =>
        let k : LQueue := { q := q, part := part, daddr := daddr, wpart := part, waddr := daddr, sts := 1, reg := true, pf := pf, kapp := kapp, base := base,
                            size := size, msix := numAt d 0xE 2, savep := savep, saven := saven }
        some ((s1.tryWrite part (daddr + 0x10) (bytesN 0 4)).modQueue q (fun _ => { k with leader := s1.leaderOf k }))

/-- The queues take no writes: before bring-up step 6, and in standby (R440, R441). -/
def State.queuesOff (s : State) : Bool := decide (s.host.step < 6) || s.host.step == 15 || s.host.stbya

/-- A write of a directory entry, of which there are 64 (R373); `pf`: through the physical function. A closing write leaves in the entry
what it has written there; the queue drains with the descriptor with which it was opened (R374). -/
def State.writeDirectory (s : State) (q word : Nat) (pf : Bool) : State :=
  let k := s.queue q
  let part := word / 2 ^ 60 % 16
  let daddr := word % 2 ^ 48 / 64 * 64
  let opened := k.sts = 1 ∨ k.sts = 3
  if 64 ≤ q then s
  else if word % 2 = 1 then
    if opened then s
    else (s.openQueue q part daddr pf).getD
      (s.modQueue q (fun _ => { k with part := part, daddr := daddr, wpart := part, waddr := daddr, reg := true, sts := 2 }))
  else if opened then
    s.modQueue q (fun _ => { k with wpart := part, waddr := daddr, reg := false, sts := if k.head = k.tail then 0 else 3 })
  else s.modQueue q (fun _ => { k with part := part, daddr := daddr, wpart := part, waddr := daddr, reg := false, sts := 0 })

/-- QUEUE_REGISTER: entry `q` of the directory is written with `v`, REG set; `flag`: through the physical function. -/
def execQueueRegister (s : State) : Out := .next (s.writeDirectory s.inp.q (s.inp.v.toNat / 2 * 2 + 1) s.inp.flag)
/-- QUEUE_CLOSE: REG of entry `q` is written with 0. -/
def execQueueClose (s : State) : Out := .next (s.writeDirectory s.inp.q ((s.queue s.inp.q).word / 2 * 2) s.inp.flag)

/-! ## Registers (R375) -/

/-- TAIL advances over every contiguous published index. -/
def LQueue.advance (k : LQueue) : Nat → LQueue
  | 0 => k
  | n + 1 =>
    if k.published.contains k.tail.toNat then
      LQueue.advance { k with tail := k.tail + 1, published := k.published.filter (· != k.tail.toNat) } n
    else k

/-- How far an index lies beyond TAIL. -/
def LQueue.ahead (k : LQueue) (t : W32) : Nat := (t - k.tail).toNat
/-- Indices that may still be published, counted from TAIL. -/
def LQueue.room (k : LQueue) : Nat := (k.head + BitVec.ofNat 32 k.size - k.tail).toNat

/-- The record of who published an index. -/
def appended (who : Option Appender) (l : List Nat) : List Appender :=
  match who with
  | some a => l.map (fun i => { a with idx := i })
  | none => []

/-- A write of `t` to TAIL; one that R375 ignores sets ERR. -/
def State.writeTail (s : State) (q : Nat) (t : W32) (who : Option Appender) : State :=
  let k := s.queue q
  let l := (List.range (k.ahead t)).map (fun i => (k.tail.toNat + i) % 2 ^ 32)
  if k.sts ≠ 1 ∨ s.queuesOff ∨ k.room < k.ahead t ∨ l.any k.published.contains then s.modQueue q (fun k => { k with err := true })
  else s.modQueue q (fun k => LQueue.advance { k with tail := t, appenders := k.appenders ++ appended who l } k.published.length)

/-- A write of `v` to PUBL. -/
def State.publIndex (s : State) (q : Nat) (v : W32) (who : Option Appender) : State :=
  let k := s.queue q
  if k.sts ≠ 1 ∨ s.queuesOff ∨ k.room ≤ k.ahead v ∨ k.published.contains v.toNat then s.modQueue q (fun k => { k with err := true })
  else s.modQueue q (fun k => LQueue.advance { k with published := k.published ++ [v.toNat]
                                                      appenders := k.appenders ++ appended who [v.toNat] } (k.published.length + 1))

/-- An atomic add on CLAIM: the old value is returned. -/
def State.claimIndex (s : State) (q : Nat) (n : W32) : W32 × State :=
  ((s.queue q).claim, s.modQueue q (fun k => { k with claim := k.claim + n }))

/-- A host function is enabled: 0, the PF, always; p + 1, the VF of partition p, while that partition is valid (R399, R436). -/
def State.fnOn (s : State) (fn : Nat) : Bool := fn == 0 || (decide (fn ≤ 16) && (s.part (fn - 1)).valid)

/-- A function reaches the registers of a queue: the PF every one, a VF those of its own partition's queues (R436, R437). -/
def State.reaches (s : State) (fn q : Nat) : Bool :=
  fn == 0 || (s.fnOn fn && (s.queue q).part == fn - 1 && !((s.queue q).sts == 0 && (s.queue q).base == 0))

/-- TAIL_WRITE, PUBL: a host writes `v` through its function `e`. CLAIM: an add of `v`. What a VF writes outside its partition's queues
is dropped (R437). -/
def execTailWrite (s : State) : Out :=
  .next (if s.reaches s.inp.e s.inp.q then s.writeTail s.inp.q (s.inp.v.setWidth 32) none else s)
def execPubl (s : State) : Out :=
  .next (if s.reaches s.inp.e s.inp.q then s.publIndex s.inp.q (s.inp.v.setWidth 32) none else s)
def execClaim (s : State) : Out :=
  .next (if s.reaches s.inp.e s.inp.q then (s.claimIndex s.inp.q (s.inp.v.setWidth 32)).2 else s)

/-- What a context is as an appender. -/
def State.appender (s : State) (x : Ctx) : Option Appender :=
  match s.kernel x.kernel with
  | some k => some ⟨0, k.node, k.id, x.priv, x.priv && x.servPart == 31⟩
  | none => none

/-- A write of `v` at an offset of a queue's register block (R375). -/
def State.writeQueueReg (s : State) (q off : Nat) (v : W32) (who : Option Appender) : State :=
  match off with
  | 0x00 => s.writeTail q v who
  | 0x10 => s.publIndex q v who
  | 0x28 => if bitAt v 0 then s.modQueue q (fun k => { k with err := false }) else s
  | _ => s

/-- A performed store of a context to the system window (R374, R375, R389). -/
def State.writeWindow (s : State) (x : Ctx) (off : Nat) (l : List Byte) : State :=
  if off < 0x20000 then
    s.writeQueueReg ((off - 0x10000) / 64) ((off - 0x10000) % 64) (BitVec.ofNat 32 (natOfBytes l)) (s.appender x)
  else
    let q := (off - 0x20000) / 8
    let old := bytesN (s.queue q).word 8
    s.writeDirectory q (natOfBytes (old.take (off % 8) ++ l ++ old.drop (off % 8 + l.length))) false

end Sys2Proof.Machine
end

