-- ==== Sys2Proof/Machine/Engines.lean ====
section
/-! DEFINITION. The copy engines (R250 to R264): acceptance, transfer, completion, copy faults and the freeze of a core. -/

namespace Sys2Proof.Machine

/-! ## Acceptance (R251, R265) -/

def Ctx.engQ (x : Ctx) (store : Bool) : List ECmd := if store then x.storeQ else x.loadQ
def Ctx.setEngQ (x : Ctx) (store : Bool) (l : List ECmd) : Ctx :=
  if store then { x with storeQ := l } else { x with loadQ := l }
/-- Changes the command with an acceptance number. -/
def Ctx.modCmd (x : Ctx) (store : Bool) (acc : Nat) (f : ECmd → ECmd) : Ctx :=
  x.setEngQ store ((x.engQ store).map (fun k => if k.acc = acc then f k else k))

/-- The bound of a side's space that an address may not pass: G and F addresses have 48 bits, an H offset lies in the host
window (R160). -/
def sideForm (s : State) (x : Ctx) (m : Cmd) (e : Nat × Int × Int) : Bool :=
  match e.1 with
  | 3 | 4 => 0 ≤ e.2.1 && decide (e.2.2 ≤ (2 ^ 48 : Nat))
  | 5 => 0 ≤ e.2.1 && decide (e.2.2 ≤ (s.window x.part (m.pkg % 2)).len)
  | _ => true

/-- A side lies in its buffer's budget (A, W, K). -/
def sideBound (x : Ctx) (e : Nat × Int × Int) : Bool :=
  match e.1 with
  | 0 | 2 => 0 ≤ e.2.1 && decide (e.2.2 ≤ x.abud)
  | 1 => 0 ≤ e.2.1 && decide (e.2.2 ≤ x.wbud)
  | _ => true

/-- The bytes that the q-register side of a command moves. -/
def Cmd.qBytes (m : Cmd) : Nat := m.count * (if m.ssp = 6 then m.srcSize else m.dstSize)

/-- A pending binding of the queue names the q-register, has no command yet, and counts the command's bytes (R203). -/
def bindFits (x : Ctx) (store : Bool) (m : Cmd) : Bool :=
  match (x.q (m.qb % 16)).bind with
  | some b => b.out == store && b.cmd.isNone && decide (m.qBytes = 256 * b.left)
  | none => false

/-- Steps 3 to 6 of R265; an absent K peer raises the cluster-peer fault after the address-form one (R175, R253). -/
def cmdFault (s : State) (w : Who) (x : Ctx) (store : Bool) (ops : List Nat) (off : W64) (m : Cmd) : Option Eff :=
  let formBad := m.sides.any (fun e => !sideForm s x m e) ||
    ((m.ssp == 4 || m.dsp == 4) && !s.fab.routes.any (fun r => r.dst == m.pkg))
  let peerBad := (m.ssp == 2 || m.dsp == 2) && (s.peerOf w.c x m.peer).isNone
  let boundBad := m.sides.any (fun e => !sideBound x e) ||
    (decide (2 ≤ m.op) && decide (x.abud < m.gix + 4 * m.ext 1)) || (m.stw != 0xFFFF && decide (x.abud < m.stw + 16))
  faults [(!m.ok store ops, cCopy, off), (formBad, cAddrForm, off), (peerBad, cPeer, off), (boundBad, cBound, off),
          (m.qb.testBit 7 && !bindFits x store m, cQueueMap, off)]

/-- The command takes its place in the queue, and its binding attaches to it; one that fills the q-register reserves its entries
from then on, each as one is free (R199, R203). -/
def Ctx.acceptCmd (x : Ctx) (store : Bool) (off : Nat) (b : List Byte) (floor : Nat) : Ctx :=
  let m := Cmd.of b
  let y := { x.setEngQ store (x.engQ store ++ [{ acc := x.nextAcc, off := off, bytes := b, at_ := x.nextId, floor := floor }]) with
    nextAcc := x.nextAcc + 1 }
  if m.qb.testBit 7 then
    let q := m.qb % 16
    let z := y.setQ q { y.q q with bind := (y.q q).bind.map (fun b =>
      { b with cmd := some x.nextAcc, owed := if b.out then 0 else b.left, id := x.nextId }) }
    Ctx.settleQ { z with nextId := y.nextId + 1 } q
  else y

/-- The role's earlier accesses to its A buffer go first, as the command block is read here (R190). -/
def effCopy (store : Bool) (ops : List Nat) (v : WordX) : Effect := fun w x s =>
  let off := readSrc w x v.a 0
  match faults [(off.toNat % 128 != 0, cAlign, off), (past x.abud off 128, cBound, off)] with
  | some e => e
  | none =>
    if ownPending s w x then .hold .order else
    let b := (s.ownA w x).read off.toNat 128
    match cmdFault s w x store ops off (Cmd.of b) with
    | some e => e
    | none =>
      if s.badS w.c 0 off.toNat 128 then .fault cMemory off
      else if 16 ≤ (x.engQ store).length then .wait .engine
      else .done (s.setCtx w.c (x.acceptCmd store off.toNat b (s.core w.c.cid).floor))

def execCpyi (v : WordX) (s : State) : Out := runTryX (.cpyi v) v (effCopy false [0, 1] v) s
def execCpyo (v : WordX) (s : State) : Out := runTryX (.cpyo v) v (effCopy true [0, 1] v) s
def execGthi (v : WordX) (s : State) : Out := runTryX (.gthi v) v (effCopy false [2] v) s
def execScto (v : WordX) (s : State) : Out := runTryX (.scto v) v (effCopy true [3] v) s

/-- The word that ECHK reads (R264). -/
def Ctx.queueWord (x : Ctx) (store frozen : Bool) : W64 :=
  let n := (x.engQ store).length
  BitVec.ofNat 64 ((if store then x.storeCmpl else x.loadCmpl).toNat * 2 ^ 32 +
    bit1 (if store then x.storeFlt else x.loadFlt) 17 + bit1 frozen 16 + (16 - n) * 256 + n)

def execEchk (v : WordX) (s : State) : Out :=
  runX (.echk v) v (fun w x s =>
    let q := bitAt v.low 48
    let y := if q then { x with storeFlt := false } else { x with loadFlt := false }
    .done ((s.setCtx w.c y).setS w v.d.toNat (x.queueWord q (s.core w.c.cid).frozen.isSome))) s

/-! ## Bytes of a side in transfer

An error is an FCODE (R257), or 0 where the transfer must wait. -/

/-- The partition to which an endpoint entry of this package pairs a key (R297, R400). -/
def State.endpointPart (s : State) (key : W16) : Option Nat :=
  match s.fab.keys.find? (fun e => e.1.1 == 33 && e.2.1 == key) with
  | some e => some e.2.2
  | none => (s.parts.find? (fun p => p.2.valid && p.2.jkey == key)).map (·.1)

/-- FCODE of a translation cause. -/
def fcodeOf (cause : Nat) : Nat := if cause = cTranslation then 1 else 2

/-- The parts of a range that lie in one 64 KiB page each; `n` is at most one page. -/
def pageParts (va n : Nat) : List (Nat × Nat) :=
  let k := 65536 - va % 65536
  if n ≤ k then [(va, n)] else [(va, k), (va + k, n - k)]

/-- The translation that a copy engine of a core makes, through the core's cache (R393), or a package endpoint, without one. -/
def State.transl (s : State) (core : Option Nat) (part va : Nat) (write : Bool) (n : Nat := 1) : Except Nat Nat :=
  match core with
  | some cid => s.look cid part va write n
  | none => s.xlate part va write n

/-- Reads virtual memory of a partition for a core's engines, or for an endpoint; `rd` reads physical bytes. -/
def readPagesBy (rd : Nat → Nat → List Byte) (s : State) (core : Option Nat) (part : Nat) :
    List (Nat × Nat) → Except Nat (List Byte)
  | [] => .ok []
  | (va, n) :: r =>
    match s.transl core part va false with
    | .error c => .error (fcodeOf c)
    | .ok pa => if s.badG pa n then .error 3 else
      match readPagesBy rd s core part r with
      | .ok l => .ok (rd pa n ++ l)
      | .error c => .error c
/-- Reads virtual memory of a partition as it stands, for an endpoint. -/
def readPages (s : State) (part : Nat) (l : List (Nat × Nat)) : Except Nat (List Byte) := readPagesBy s.readG s none part l

/-- Writes virtual memory of a partition; a protected page that cannot be saved holds the write (R414). -/
def storePages (core : Option Nat) (part : Nat) : List (Nat × Nat) → State → List Byte → Except Nat State
  | [], s, _ => .ok s
  | (va, n) :: r, s, l =>
    match s.transl core part va true n with
    | .error c => .error (fcodeOf c)
    | .ok pa => if s.sideFull (pageOf pa) then .error 0 else storePages core part r (s.performG pa va (l.take n)) (l.drop n)

/-- The leaves that a core's engine has used are in the core's cache from then on (R393). -/
def State.keepLeaves (s : State) (cid part : Nat) (l : List (Nat × Nat)) : State :=
  l.foldl (fun (s : State) p => s.keepLeaf cid part p.1) s

/-- A reject is FCODE 4, whatever the target found (R297); a wait stays one. -/
def asReject {α : Type} (r : Except Nat α) : Except Nat α :=
  match r with
  | .error 0 => .error 0
  | .error 3 => .error 3
  | .error _ => .error 4
  | .ok a => .ok a

/-- An address of a piece lies outside what R160 or the budget allows: FCODE 6. -/
def pieceBad (s : State) (x : Ctx) (m : Cmd) (sp : Nat) (a : Int) (n : Nat) : Bool :=
  a < 0 || !sideForm s x m (sp, a, a + n) || !sideBound x (sp, a, a + n)

/-- A PCI Express port's link is up. -/
def State.linkUp (s : State) (port : Nat) : Bool := if port = 0 then s.host.link0 else s.host.link1

/-- The first bytes that the outside has returned, and the rest; too few: the transfer waits. -/
def takeOut (n : Nat) (out : List Byte) : Except Nat (List Byte × List Byte) :=
  if out.length < n then .error 0 else .ok (out.take n, out.drop n)

/-- FCODE of a copy command's access to the system window: a write of the information window meets a read-only page (R18); an access
that is no 4-byte one to a queue register, which the spec gives no FCODE, ends likewise (DESIGN CHOICE, log 30). -/
def State.windowCode (s : State) (x : Ctx) (va n : Nat) (write : Bool) : Option Nat :=
  (s.windowFault x (va - 0xFFFFFF000000) n write false).map fcodeOf

/-- Who reads for a command: it sees what happens before its instruction (R184, R191). -/
def ECmd.reader (k : ECmd) (c : CtxId) (x : Ctx) : Reader := ⟨none, c.cid, Nat.max x.floor k.floor, x.floor⟩

/-- A copy command's read of G: under the acquire flag at memory as it stands, else a plain read, whose `pick` says what it returns
(R184, R191); the system window as it stands, a piece that runs into it among them (R18, R389). -/
def State.engineRead (s : State) (c : CtxId) (x : Ctx) (m : Cmd) (k : ECmd) (pick : List Byte) (va n : Nat) : Except Nat (List Byte) :=
  let pages := fun (n : Nat) =>
    readPagesBy (if m.acq then s.readG else s.readEngine (k.reader c x) pick) s (some c.cid) x.part (pageParts va n)
  if 0xFFFFFF000000 ≤ va then
    match s.windowCode x va n false with
    | some e => .error e
    | none => .ok (s.readWindow (va - 0xFFFFFF000000) n)
  else if 0xFFFFFF000000 < va + n then
    (pages (0xFFFFFF000000 - va)).map (· ++ s.readWindow 0 (va + n - 0xFFFFFF000000))
  else pages n

/-- Reads one piece of the source. `out` holds the bytes that another package or a host has returned; of a G source it says which
values its plain reads return. -/
def readPiece (s : State) (c : CtxId) (x : Ctx) (m : Cmd) (k : ECmd) (a : Int) (n : Nat) (out : List Byte) :
    Except Nat (List Byte × List Byte) :=
  let o := a.toNat
  let own := fun (r : Except Nat (List Byte)) => r.map (fun l => (l, out))
  if pieceBad s x m m.ssp a n then .error 6
  else match m.ssp with
    | 0 => if s.badS c 0 o n then .error 3 else .ok (x.abuf.read o n, out)
    | 2 => match s.peerOf c x m.peer with
      | none => .error 0
      | some d => match s.ctx d with
        | some y => if s.savedAway d x.kernel then .error 0 else if s.badS d 0 o n then .error 3 else .ok (y.abuf.read o n, out)
        | none => .error 0
    | 3 => own (s.engineRead c x m k out o n)
    | 4 =>
      if !s.fabOn then .error 0
      else if m.pkg = s.fab.pkgid then
        match s.endpointPart (s.part x.part).jkey with
        | some p => own (asReject (readPages s p (pageParts o n)))
        | none => .error 4
      else takeOut n out
    | _ => if s.linkUp (m.pkg % 2) then takeOut n out else .error 5

/-- Reads the pieces of a unit in order. -/
def readPieces (s : State) (c : CtxId) (x : Ctx) (m : Cmd) (k : ECmd) : List (Int × Nat) → List Byte →
    Except Nat (List (List Byte) × List Byte)
  | [], out => .ok ([], out)
  | (a, n) :: r, out =>
    match readPiece s c x m k a n out with
    | .error e => .error e
    | .ok (l, out) => match readPieces s c x m k r out with
      | .error e => .error e
      | .ok (ls, out) => .ok (l :: ls, out)

/-- A write of command `k` leaves for another package (R261, R297). -/
def State.sendEngine (s : State) (c : CtxId) (x : Ctx) (m : Cmd) (store : Bool) (k : ECmd) (va : Nat) (l : List Byte) : State :=
  { s with fab := { s.fab with
      pkts := s.fab.pkts ++ [{ ix := s.fab.nextIx, pkg := m.pkg, va := va, key := (s.part x.part).jkey, ctx := c,
                               role := if store then .s else .l, kind := .engine store k.acc k.done l }]
      nextIx := s.fab.nextIx + 1 } }

/-- Writes one piece of the destination. -/
def writePiece (c : CtxId) (x : Ctx) (m : Cmd) (store : Bool) (k : ECmd) (a : Int) (l : List Byte) (s : State) : Except Nat State :=
  let o := a.toNat
  if pieceBad s x m m.dsp a l.length then .error 6
  else match m.dsp with
    | 0 => .ok (s.putA c o l)
    | 1 => .ok ((s.modCtx c (fun y => { y with wbuf := y.wbuf.write o l })).cleanS c 1 o l.length)
    | 2 => match s.peerOf c x m.peer with
      | none => .error 0
      | some d => if s.savedAway d x.kernel then .error 0 else .ok (s.putA d o l)
    | 3 =>
      if 0xFFFFFF000000 ≤ o then
        match s.windowCode x o l.length true with
        | some e => .error e
        | none => .ok (s.writeWindow x (o - 0xFFFFFF000000) l)
      else if 0xFFFFFF000000 < o + l.length then .error (fcodeOf cProtection)
      else (storePages (some c.cid) x.part (pageParts o l.length) s l).map (fun t => t.keepLeaves c.cid x.part (pageParts o l.length))
    | 4 =>
      if !s.fabOn then .error 0
      else if m.pkg = s.fab.pkgid then
        match s.endpointPart (s.part x.part).jkey with
        | some p => asReject (storePages none p (pageParts o l.length) s l)
        | none => .error 4
      else .ok (s.sendEngine c x m store k o l)
    | _ =>
      if s.linkUp (m.pkg % 2) then
        .ok { s with fab := { s.fab with posted := s.fab.posted ++ [(m.pkg % 2, (s.window x.part (m.pkg % 2)).base + o, l)] } }
      else .error 5

def writePieces (c : CtxId) (x : Ctx) (m : Cmd) (store : Bool) (k : ECmd) : List (Int × List Byte) → State → Except Nat State
  | [], s => .ok s
  | (a, l) :: r, s =>
    match writePiece c x m store k a l s with
    | .error e => .error e
    | .ok s => writePieces c x m store k r s

/-! ## Transfer (R255, R258) -/

/-- What the grain at element `n` of a scatter writes of a piece: not the bytes that an earlier grain of a row with a higher index
position has written (R255). -/
def Cmd.keep (m : Cmd) (idx : List W32) (n : Nat) (a : Int) (l : List Byte) : List (Int × List Byte) :=
  let later := ((List.range (n / m.grain)).filter (fun j => decide (m.coord n 1 < m.coord (m.grain * j) 1))).flatMap
    (fun j => m.dstAt idx (m.grain * j))
  if later.any (fun p => decide (p.1 < a + l.length) && decide (a < p.1 + p.2)) then
    l.zipIdx.filterMap (fun (b, i) =>
      if later.any (fun p => decide (p.1 ≤ a + i) && decide (a + i < p.1 + p.2)) then none else some (a + (i : Int), [b]))
  else [(a, l)]

/-- What a unit writes: its pieces, each with its bytes. -/
def Cmd.writes (m : Cmd) (k : ECmd) (ls : List (List Byte)) : List (Int × List Byte) :=
  let ps := (m.dstPieces k.idx k.done).zip ls
  if m.op = 3 then
    ps.zipIdx.flatMap (fun (p, i) => m.keep k.idx (if m.unit = m.grain then k.done else k.done + i) p.1.1 p.2)
  else ps.map (fun p => (p.1.1, p.2))

/-- The number of bytes up to the next multiple of 8. -/
def toEight (e : Nat) : Nat := (8 - e % 8) % 8

/-- What a read between a q-register and G, or this package's F space, has read ahead of its unit: the bytes of the last aligned word beyond the unit, so that the
next unit sees the word as it was read (R197). -/
def Cmd.ahead (m : Cmd) (s : State) (c : CtxId) (x : Ctx) (k : ECmd) (pick : List Byte) : List (Nat × List Byte) :=
  match (m.srcPieces k.idx k.done).getLast? with
  | some (a, n) =>
    let e := a.toNat + n
    let here := m.ssp = 4 ∧ m.pkg = s.fab.pkgid
    if (m.ssp = 3 ∨ here) ∧ m.dsp = 6 ∧ a.toNat + n < 0xFFFFFF000000 ∧ toEight e ≠ 0 then
      match readPiece s c x m k e (toEight e) pick with
      | .ok (l, _) => [(e, l)]
      | .error _ => []
    else []
  | none => []

/-- Bytes of a piece, those that were read ahead among them. -/
def ECmd.seen (k : ECmd) (a : Nat) (l : List Byte) : List Byte :=
  l.zipIdx.map (fun (b, i) => ((k.carry.findSome? (fun e => if e.1 ≤ a + i then e.2[a + i - e.1]? else none))).getD b)

/-- Splits the writes of a unit that begins an aligned word of G, F or H which a later unit from a q-register goes on with: what is written
now, and what is kept for then (R197). -/
def Cmd.split (m : Cmd) (k : ECmd) (ws : List (Int × List Byte)) : List (Int × List Byte) × List (Nat × List Byte) :=
  let e := match ws.getLast? with
    | some (a, l) => a.toNat + l.length
    | none => 0
  if m.ssp = 6 ∧ 3 ≤ m.dsp ∧ m.dsp ≤ 5 ∧ e % 8 ≠ 0 ∧ k.done + m.unit < m.count then
    (ws.filter (fun w => w.1.toNat / 8 != e / 8), (ws.filter (fun w => w.1.toNat / 8 == e / 8)).map (fun w => (w.1.toNat, w.2)))
  else (ws, [])

/-- One entry has passed a binding; the binding ends with the last (R203). -/
def Ctx.passEntry (x : Ctx) (q : Nat) : Ctx :=
  x.setQ q { x.q q with bind := match (x.q q).bind with
    | some b => if b.left ≤ 1 then none else some { b with left := b.left - 1 }
    | none => none }

/-- The source of a unit: its pieces and the state with an entry popped, where the source is a q-register. -/
def unitSource (s : State) (c : CtxId) (x : Ctx) (m : Cmd) (k : ECmd) (out : List Byte) :
    Except Nat (State × List (List Byte) × List Byte) :=
  if m.ssp = 6 then
    let q := m.qb % 16
    match (x.q q).ents with
    | ⟨some l, _, bad⟩ :: _ =>
      if bad then .error 3
      else if x.state = .run ∨ x.state = .trapped then
        let b := laneBytes l
        .ok (s.setCtx c ((x.qPop q).passEntry q),
          (List.range m.unit).map (fun i => (b.drop (m.srcSize * i)).take m.srcSize), out)
      else .error 0
    | _ => .error 0
  else match readPieces s c x m k (m.srcPieces k.idx k.done) out with
    | .ok (ls, out) =>
      .ok (if m.ssp = 3 then s.keepLeaves c.cid x.part ((m.srcPieces k.idx k.done).map (fun p => (p.1.toNat, p.2))) else s,
        if k.carry.isEmpty then ls else ((m.srcPieces k.idx k.done).zip ls).map (fun p => k.seen p.1.1.toNat p.2), out)
    | .error e => .error e

/-- The id under which the binding of a q-register reserves entries. -/
def Ctx.bindId (x : Ctx) (q : Nat) : Nat :=
  match (x.q q).bind with
  | some b => b.id
  | none => 0

/-- The destination of a unit: the next reserved entry of the bound q-register, or the writes of the unit and what it keeps of a word
for the next one. -/
def unitDest (c : CtxId) (x : Ctx) (m : Cmd) (store : Bool) (k : ECmd) (ls : List (List Byte)) (s : State) :
    Except Nat (State × List (Nat × List Byte)) :=
  if m.dsp = 6 then
    let q := m.qb % 16
    if !(x.state == .run || x.state == .trapped) then .error 0
    else match x.qFillNext q (x.bindId q) (bytesLanes ls.flatten) with
      | some y => .ok (s.setCtx c (y.passEntry q), [])
      | none => .error 0
  else
    let p := m.split k (m.writes k ls)
    (writePieces c x m store k (k.carry.map (fun w => ((w.1 : Int), w.2)) ++ p.1) s).map (fun s => (s, p.2))

/-- Transfers one unit of a command that has elements left. -/
def unitStep (s : State) (c : CtxId) (store : Bool) (acc : Nat) (out : List Byte) : Except Nat (State × List Byte) :=
  match s.ctx c with
  | none => .error 0
  | some x =>
    match (x.engQ store).find? (fun k => k.acc == acc) with
    | none => .error 0
    | some k =>
      let m := Cmd.of k.bytes
      if k.finished ∨ m.count < k.done + m.unit then .error 0
      else match unitSource s c x m k out with
      | .error e => .error e
      | .ok (s1, ls, rest) =>
        let r := m.convert ls
        match unitDest c x m store (if m.dsp = 6 then { k with carry := [] } else k) r.1 s1 with
        | .error e => .error e
        | .ok (s2, held) => .ok (s2.modCtx c (fun y => y.modCmd store acc (fun k => { k with
            done := k.done + m.unit, cfl := k.cfl ||| r.2, finished := decide (m.count ≤ k.done + m.unit)
            carry := if m.dsp = 6 then m.ahead s c x k out else held })), rest)

/-- What a command has kept of a word is written before a freeze, so that the elements below DONE are (R257). -/
def State.flushCarry (s : State) (c : CtxId) (store : Bool) (acc : Nat) : State :=
  match s.ctx c with
  | none => s
  | some x =>
    match (x.engQ store).find? (fun k => k.acc == acc) with
    | none => s
    | some k =>
      if (Cmd.of k.bytes).dsp < 3 ∨ (Cmd.of k.bytes).dsp = 6 then s
      else match writePieces c x (Cmd.of k.bytes) store k (k.carry.map (fun w => ((w.1 : Int), w.2))) s with
        | .ok t => t.modCtx c (fun y => y.modCmd store acc (fun k => { k with carry := [] }))
        | .error _ => s

/-- Transfers units until the command is finished, waits or meets a fault; `far` is the FCODE that the outside has
answered with once it returns nothing more (0: none). -/
def runUnits (c : CtxId) (store : Bool) (acc far : Nat) : Nat → State → List Byte → State
  | 0, s, _ => s
  | fuel + 1, s, out =>
    match unitStep s c store acc out with
    | .ok (s, out) => runUnits c store acc far fuel s out
    | .error e =>
      let f := if e = 0 then far else e
      if f = 0 then s
      else (s.flushCarry c store acc).modCtx c (fun y => y.modCmd store acc (fun k => if k.finished then k else { k with fcode := f }))

/-- The newest writes of G, those of one step of a copy command: of each word the value before the first remains, as the word is
written at one point (R197). -/
def onePerWord : List GWrite → List GWrite
  | [] => []
  | e :: r => if r.any (fun f => f.pa == e.pa) then onePerWord r else e :: onePerWord r

/-- The writes of G that copy command `acc` of context `c` has made since write number `n`: each word once, ordered for nobody before
the command's release, and the core's cached copies of the lines gone (R166, R180, R184, R191, R197). -/
def State.settleWrites (s : State) (c : CtxId) (acc n : Nat) : State :=
  let new := onePerWord (s.hist.take (s.hist.length - n))
  let hist := new.map (fun e => { e with loose := some { c := c, acc := acc } }) ++ s.hist.drop (s.hist.length - n)
  State.modCore { s with hist := hist } c.cid
    (fun k => { k with cache := k.cache.filter (fun l => !new.any (fun e => decide (l.pa ≤ e.pa) && decide (e.pa < l.pa + 64))) })

/-- What a command waits for before its first read: its role's earlier accesses to the A buffer, and under the acquire flag
everything that happens before it, at its scope (R190, R191). -/
def roleSettled (s : State) (c : CtxId) (x : Ctx) (store : Bool) (k : ECmd) : Bool :=
  let r : Role := if store then .s else .l
  let m := Cmd.of k.bytes
  ownSettled s c x r k.at_ && (!m.acq || released s c x r k.at_ (m.ord / 4 % 4))

/-- The command may begin: every earlier one of its queue has begun and is among the four in transfer, and nothing holds it
(R250, R259, R233, R191, R419). -/
def mayBegin (s : State) (c : CtxId) (x : Ctx) (store : Bool) (k : ECmd) : Bool :=
  let before := (x.engQ store).takeWhile (fun e => e.acc != k.acc)
  (x.state == .run || x.state == .trapped) && !(s.die (dieOf c.cid)).dbgHold && before.all (·.begun) &&
    decide (before.countP (fun e => !e.finished) < 4) && !x.rangeHolds k &&
    !spansConflict x.pinned (k.spans.filter (·.buf == 1)) && roleSettled s c x store k

/-- A transfer may go on: its core is not frozen and it has met no fault. -/
def mayRun (s : State) (c : CtxId) (x : Ctx) (k : ECmd) : Bool :=
  x.state != .ended && (s.core c.cid).frozen.isNone && !k.finished && k.fcode == 0 && !k.ended

/-- The FCODE that the outside can answer a side with: 4 or 3 from another package, 5 from a host (R261). -/
def farCode (s : State) (m : Cmd) (n : Nat) : Nat :=
  if n = 5 ∧ (m.ssp = 5 ∨ m.dsp = 5) then 5
  else if (n = 4 ∨ n = 3) ∧ (m.ssp = 4 ∨ m.dsp = 4) ∧ m.pkg ≠ s.fab.pkgid then n
  else 0

/-- The index list as it stands in the A buffer (R255). -/
def Cmd.readIdx (m : Cmd) (a : Mem) : List W32 :=
  if 2 ≤ m.op then (List.range (m.ext 1)).map (fun i => BitVec.ofNat 32 (a.nat (m.gix + 4 * i) 4)) else []

/-- ENGINE_COMMAND_BEGIN: the command at position `id` of a queue (`flag`: the store queue) begins, or goes on; `data` is
what the outside returns, `no` the FCODE with which it ends (R258). -/
def execEngineCommandBegin (s : State) : Out :=
  let c := s.inp.c
  let store := s.inp.flag
  match s.ctx c with
  | none => .next s
  | some x =>
    match (x.engQ store)[s.inp.id]? with
    | none => .next s
    | some k =>
      let m := Cmd.of k.bytes
      if !mayRun s c x k ∨ !(k.begun || mayBegin s c x store k) then .next s
      else
        let bad := decide (2 ≤ m.op) && !k.begun && s.badS c 0 m.gix (4 * m.ext 1)
        let s1 := s.setCtx c (x.modCmd store k.acc (fun e =>
          if e.begun then e else { e with begun := true, idx := m.readIdx x.abuf, fcode := if bad then 3 else 0 }))
        .next (if bad then s1 else
          (runUnits c store k.acc (farCode s m s.inp.no) m.count s1 s.inp.data).settleWrites c k.acc s.hist.length)

/-! ## Completion (R250, R257, R258) -/

/-- The 16 bytes of a status word. -/
def statusWord (state seq : Nat) (k : ECmd) : List Byte :=
  bytesN (state + k.cfl.toNat * 2 ^ 8 + k.fcode % 256 * 2 ^ 40 + seq % 2 ^ 16 * 2 ^ 48) 8 ++ bytesN k.done 8

/-- A packet carries a write of a command to another package. -/
def Packet.ofCmd (p : Packet) (c : CtxId) (store : Bool) (acc : Nat) : Bool :=
  p.ctx == c && match p.kind with
    | .engine b a _ _ => b == store && a == acc
    | _ => false
/-- The element with which the unit began that a packet carries. -/
def Packet.first (p : Packet) : Nat :=
  match p.kind with
  | .engine _ _ n _ => n
  | _ => 0
/-- The elements below which every one has been written: those of writes to another package are when they are answered (R257). -/
def State.doneOf (s : State) (c : CtxId) (store : Bool) (k : ECmd) : Nat :=
  (s.fab.pkts.filter (fun p => p.ofCmd c store k.acc)).foldl (fun n p => Nat.min n p.first) k.done

/-- Writes the status word of a command, when it has one. -/
def State.writeStatus (s : State) (c : CtxId) (store : Bool) (k : ECmd) (state seq : Nat) : State :=
  let m := Cmd.of k.bytes
  if m.stw = 0xFFFF then s else s.putA c m.stw (statusWord state seq { k with done := s.doneOf c store k })

/-- Commands of a queue that have completed. -/
def Ctx.cmpl (x : Ctx) (store : Bool) : W32 := if store then x.storeCmpl else x.loadCmpl
/-- The head of a queue has completed. -/
def Ctx.retireCmd (x : Ctx) (store : Bool) : Ctx :=
  let y := x.setEngQ store (x.engQ store).tail
  if store then { y with storeCmpl := y.storeCmpl + 1 } else { y with loadCmpl := y.loadCmpl + 1 }

/-- A write of a command to another package has no answer yet (R261, R297). -/
def State.unanswered (s : State) (c : CtxId) (store : Bool) (k : ECmd) : Bool := s.fab.pkts.any (fun p => p.ofCmd c store k.acc)

/-- The scope of a command's flags (R252). -/
def Cmd.scope (m : Cmd) : Nat := m.ord / 4 % 4

/-- The release flag of a command orders its writes for the parties of its scope, before its completion actions (R191). -/
def State.relCmd (s : State) (c : CtxId) (k : ECmd) : State :=
  let m := Cmd.of k.bytes
  if m.rel then (s.tightenIf (fun l => l.c == c && l.acc == k.acc) m.scope).raiseRel c.cid else s

/-- ENGINE_COMMAND_COMPLETION: the completion actions of the command at the head of a queue: the status word, then the
token push, which waits while the FIFO is full (R258). Its writes have been performed by then, those to another package answered,
with a release flag or without (log 30). -/
def execEngineCommandCompletion (s : State) : Out :=
  let c := s.inp.c
  let store := s.inp.flag
  match s.ctx c with
  | none => .next s
  | some x =>
    match x.engQ store with
    | [] => .next s
    | k :: _ =>
      if !((k.finished && k.fcode == 0) || k.ended) ∨ s.unanswered c store k ∨ (s.core c.cid).frozen.isSome ∨
          !(x.state == .run || x.state == .trapped) then .next s
      else
        let s1 := if k.statused then s
          else ((s.relCmd c k).writeStatus c store k (if k.ended then 2 else 1) (x.cmpl store + 1).toNat).modCtx c
            (fun y => y.modCmd store k.acc (fun e => { e with statused := true }))
        let f := if store then 3 else 0
        if (Cmd.of k.bytes).tps = 0 then .next (s1.modCtx c (fun y => y.retireCmd store))
        else if 8 ≤ x.tok f then .next s1
        else .next (s1.modCtx c (fun y => (y.setTok f (y.tok f + 1)).retireCmd store))

/-! ## Freeze (R261, R263) -/

/-- The first command of a queue that has met a copy fault. -/
def faultyCmd (x : Ctx) (store : Bool) : Option ECmd := (x.engQ store).find? (fun k => k.fcode != 0 && !k.ended)

/-- The record of a copy fault that meets a TRAPPED context: its earlier trap stands (R371). -/
def State.appendCopyRec (s : State) (c : CtxId) (x : Ctx) (store : Bool) (k : ECmd) : State :=
  let d := dieOf c.cid
  let t : TrapRec := ⟨c, if store then 2 else 0, cCopyFault, false, k.fcode, s.rcbOf x, [x.rl.pc, x.rc.pc, x.rs.pc],
    BitVec.ofNat 64 k.off, s.time d, s.cyc c.cid⟩
  (s.appendRec d x.part t).getD (s.endDomain x.kernel cCopyFault)

/-- COPY_FAULT_FREEZE: the core freezes, the faulting command writes its status word with STATE 3, and the context enters
TRAPPED with a copy-fault record (R261). -/
def execCopyFaultFreeze (s : State) : Out :=
  let c := s.inp.c
  let store := s.inp.flag
  match s.ctx c with
  | none => .next s
  | some x =>
    match faultyCmd x store with
    | none => .next s
    | some k =>
      if (s.core c.cid).frozen.isSome ∨ !(x.state == .run || x.state == .trapped) then .next s
      else
        let s1 := (s.writeStatus c store k 3 (x.cmpl store + 1).toNat).modCore c.cid (fun j => { j with frozen := some (c.num, store) })
        if x.state = .run then
          .next (s1.deliver c (if store then 2 else 0) cCopyFault k.fcode (BitVec.ofNat 64 k.off) false)
        else .next (s1.appendCopyRec c x store k)

/-- The binding of a command that has ended under a copy fault ends with it, and gives up what it has reserved (R203, R263, log 30). -/
def Ctx.unbind (x : Ctx) (k : ECmd) : Ctx :=
  let q := (Cmd.of k.bytes).qb % 16
  if (Cmd.of k.bytes).qb.testBit 7 ∧ ((x.q q).bind.bind (·.cmd)) = some k.acc then
    x.setQ q { ents := (x.q q).ents.filter (fun e => !(e.lanes.isNone && e.id == x.bindId q)), bind := none }
  else x

/-- The writes of the faulting command that another package has rejected: sent again when it goes on, gone when it has ended (R261,
R263). -/
def State.resend (s : State) (c : CtxId) (store ended : Bool) : State :=
  match (s.ctx c).bind (fun x => faultyCmd x store) with
  | none => s
  | some k =>
    let rejected := fun (p : Packet) => p.ofCmd c store k.acc && p.served.isSome
    let pkts := if ended then s.fab.pkts.filter (fun p => !rejected p)
      else s.fab.pkts.map (fun p => if rejected p then { p with served := none, tries := 0 } else p)
    { s with fab := { s.fab with pkts := pkts } }

/-- What the end of a freeze does to the faulting context: its command goes on from DONE, and the context returns from TRAPPED to RUN, in
its image too where it has been saved or parked meanwhile (R261, R353); under `ended` the command ends in its status instead (R263).
`done` is what it has written. -/
def Ctx.goOn (x : Ctx) (store ended : Bool) (done : Nat) : Ctx :=
  let y := match faultyCmd x store with
    | none => x
    | some k =>
      if ended then (x.modCmd store k.acc (fun e => { e with ended := true, done := done, carry := [] })).unbind k
      else x.modCmd store k.acc (fun e => { e with fcode := 0 })
  let y := if !ended then y else if store then { y with storeFlt := true } else { y with loadFlt := true }
  match x.trap with
  | some (_, cause, _, _) =>
    if cause ≠ cCopyFault then y
    else if y.state = .trapped then { y with state := .run, trap := none } else { y with savedAs := .run, trap := none }
  | none => y

/-- The faulting context of a slot: there, or saved away from it while another kernel holds the slot. -/
def State.modFaulting (s : State) (c : CtxId) (store : Bool) (f : Ctx → Ctx) : State :=
  if (s.ctx c).any (fun x => (faultyCmd x store).isSome) then s.modCtx c f
  else { s with away := s.away.map (fun e => if e.1 = c ∧ (faultyCmd e.2 store).isSome then (e.1, f e.2) else e) }

/-- The faulting command of a context goes on, or has ended (R261, R263). -/
def State.faultOver (s : State) (c : CtxId) (store ended : Bool) : State :=
  let t := s.resend c store ended
  t.modFaulting c store (fun x => x.goOn store ended (((faultyCmd x store).map (s.doneOf c store)).getD 0))

/-- Releases the freeze of a core (R261). -/
def State.unfreeze (s : State) (cid : Nat) : State :=
  match (s.core cid).frozen with
  | none => s
  | some (num, store) => (s.modCore cid (fun k => { k with frozen := none })).faultOver ⟨cid, num⟩ store false

/-- ERET.next on a copy-fault trap: the faulting command of the context ends, and with it the freeze that it has caused (R263). -/
def State.endFault (s : State) (c : CtxId) (store : Bool) : State :=
  (s.modCore c.cid (fun k => { k with frozen := match k.frozen with
    | some f => if f.1 = c.num then none else some f
    | none => none })).faultOver c store true

/-- A fabric packet has its outcome. -/
def State.dropPkt (s : State) (ix : Nat) : State :=
  { s with fab := { s.fab with pkts := s.fab.pkts.filter (fun p => p.ix != ix) } }

/-- FRZ_RELEASE: a write of 1 to FRZ of core `cid` (R261). -/
def execFrzRelease (s : State) : Out := .next (s.unfreeze s.inp.cid)

end Sys2Proof.Machine
end

