-- ==== Sys2Proof/Machine/Conveyor.lean ====
section
/-! DEFINITION. The conveyor ring (R272 to R290, R453): stations, slot actions, flags, best-effort traffic, and the conveyor
instructions. -/

namespace Sys2Proof.Machine

/-- The station is in pass-through (R284, R352). -/
def State.passing (s : State) (stn : Nat) : Bool := bitAt s.passThrough stn || bitAt s.passForced stn

/-! ## CRC-32C (R274) -/

def crcBit (c : W32) : W32 := if bitAt c 0 then (c >>> 1) ^^^ 0x82F63B78#32 else c >>> 1
def crcByte (c : W32) (b : Byte) : W32 := (List.range 8).foldl (fun c _ => crcBit c) (c ^^^ b.setWidth 32)
def crc32c (l : List Byte) : W32 := ~~~(l.foldl crcByte (-1))

/-! ## The ring's data -/

def emptySlot (trk no : Nat) : Slot := { trk := trk, no := no }

/-- A Goltik flow holds slot `no` of Goltik track `g` (R286). -/
def Goltik.holds (k : Goltik) (g no : Nat) : Bool :=
  k.members != 0 && k.flows.any (fun f => f.g == g && decide ((no + 512 - f.slot0) % 512 < f.k))
/-- The arc: station 121 through 127 and 0 to station 15 (R286). -/
def onArc (stn : Nat) : Bool := decide ((stn + 7) % 128 ≤ 22)
/-- The list of slots in which slot `no` of local track `trk` stands as it passes a station: on the arc, a slot number that is
allotted to a Goltik flow is the Goltik slot that rides there (R286). -/
def Ring.phys (r : Ring) (stn trk no : Nat) : Nat :=
  if 6 ≤ trk ∧ trk < 8 ∧ onArc stn ∧ (r.goltik.holds (trk - 6) no ∨ r.slots.any (fun t => t.trk == trk + 2 && t.no == no)) then
    trk + 2
  else trk
def Ring.slot (r : Ring) (trk no : Nat) : Slot :=
  (r.slots.find? (fun t => t.trk == trk && t.no == no)).getD (emptySlot trk no)
/-- Stores a slot; an empty one is not listed. -/
def Ring.setSlot (r : Ring) (t : Slot) : Ring :=
  let rest := r.slots.filter (fun u => !(u.trk == t.trk && u.no == t.no))
  { r with slots := if t = emptySlot t.trk t.no then rest else t :: rest }
def Ring.entry (r : Ring) (stn trk no : Nat) : W64 :=
  match r.table.find? (fun e => e.stn == stn && e.trk == trk && e.slot == no) with
  | some e => e.e
  | none => 0
def Ring.loads (r : Ring) (stn trk no : Nat) : W16 :=
  match r.table.find? (fun e => e.stn == stn && e.trk == trk && e.slot == no) with
  | some e => e.loads
  | none => 0
/-- Writes an entry; its load count starts at 0 (log 22). -/
def Ring.setEntry (r : Ring) (stn trk no : Nat) (e : W64) : Ring :=
  let rest := r.table.filter (fun t => !(t.stn == stn && t.trk == trk && t.slot == no))
  { r with table := if e = 0 then rest else { stn := stn, trk := trk, slot := no, e := e, loads := 0 } :: rest }
def Ring.bumpLoads (r : Ring) (stn trk no : Nat) : Ring :=
  { r with table := r.table.map (fun t => if t.stn = stn ∧ t.trk = trk ∧ t.slot = no then { t with loads := t.loads + 1 } else t) }
def Ring.flag (r : Ring) (stn f : Nat) : W16 := (aget r.flags (stn, f)).getD 0
def Ring.setFlag (r : Ring) (stn f : Nat) (v : W16) : Ring :=
  let rest := r.flags.filter (fun e => e.1 != (stn, f))
  { r with flags := if v = 0 then rest else ((stn, f), v) :: rest }

/-! ## Entries (R275) -/

def entOp (e : W64) : Nat := (field e 61 3).toNat
def entFlow (e : W64) : Nat := (field e 49 12).toNat
def entFmt (e : W64) : BitVec 2 := field e 47 2
def entWh (e : W64) : Bool := bitAt e 46
def entFlag (e : W64) : Nat := (field e 40 6).toNat
def entFinc (e : W64) : Nat := (field e 36 4).toNat
def entTgt (e : W64) : Nat := (field e 0 32).toNat

/-- The kernel of a flow, with the flow. -/
def State.flowOf (s : State) (id : Nat) : Option (Kernel × Flow) :=
  s.kernels.findSome? (fun k => if k.state = .ended then none else
    (k.flows.find? (fun f => f.id == id)).map (fun f => (k, f)))

/-- The units of a flow's window on a stack, in ascending virtual order: the physical address of each, and W of its leaf (R275,
R392). -/
def State.units (s : State) (f : Flow) (stack : Nat) : List (Nat × Bool) :=
  match f.window with
  | none => []
  | some (va, len, pages) =>
    (List.range (len / 256)).filterMap (fun i =>
      let a := va + 256 * i
      match pages.find? (fun p => decide (p.va ≤ a) && decide (a < p.va + p.len)) with
      | some p => if s.stackOf (p.pa + (a - p.va)) = stack then some (p.pa + (a - p.va), p.w) else none
      | none => none)

/-- What an entry's target is: an A buffer; the storage reserved for core `g` of a kernel that has been admitted and not yet issued;
a unit of G, with W of its leaf. -/
inductive Target where
  | none
  | a (c : CtxId) (off : Nat)
  | p (k g : Nat) (c : CtxId) (off : Nat)
  | g (pa : Nat) (w : Bool)
  deriving DecidableEq, Repr

/-- The valid target of an entry at a station (R453). The tables act from admission (R335): until its issue a kernel's owner contexts
are the storage reserved for them, once their slots are free (DESIGN CHOICE, log 22). -/
def State.target (s : State) (stn : Nat) (e : W64) : Target :=
  match s.flowOf (entFlow e) with
  | none => .none
  | some (k, f) =>
    if isDieStation stn then
      let off := entTgt e % 65536
      let c : CtxId := ⟨128 * stationUnit stn + entTgt e / 65536 % 128, 0⟩
      if !k.grant.contains c ∨ (s.core c.cid).retired ∨ k.abud < off + (if entWh e then 272 else 256) then .none
      else if s.ofKernel c k.id ∨ s.inAway c k.id then .a c off
      else if k.pending ∧ s.slotFree c then .p k.id (k.grant.idxOf c) c off
      else .none
    else match (s.units f (stationUnit stn))[entTgt e]? with
      | some (pa, w) => .g pa w
      | none => .none

/-- The cause for which an action is held (R282): none, or whether it is a debug hold. -/
def State.holdCause (s : State) (stn : Nat) (e : W64) (t : Target) : Option Bool :=
  let dbg := isDieStation stn && (s.die (stationUnit stn)).dbgHold
  let frz := match t with
    | .a c _ => (s.core c.cid).frozen.isSome || (match s.flowOf (entFlow e) with
      | some (k, _) => s.savedAway c k.id
      | none => false)
    | .p _ _ c _ => (s.core c.cid).frozen.isSome
    | .g .. | .none => false
  if dbg then some true else if frz then some false else none

/-- The bytes that a store writes in an A buffer, piece by piece. -/
def StoreEnt.pieces (e : StoreEnt) : List (Nat × List Byte) :=
  match e.place with
  | .a _ off => (off, e.data) :: e.more
  | _ => []

/-- The stores of a context that are on their way to its own A buffer, oldest first. -/
def State.onTheWay (s : State) (c : CtxId) (x : Ctx) : List StoreEnt := x.kstores ++ (s.core c.cid).sbuf.filter (fun e => e.ctx == c)

/-- A retired store with release order at core scope or wider has made the store visible to the stations: one that its role issued
later, or the store itself (R192). -/
def StoreEnt.shown (l : List StoreEnt) (c : CtxId) (e : StoreEnt) : Bool :=
  (match e.place with
    | .a d _ => d == c
    | _ => false) && l.any (fun f => f.role == e.role && f.rel && decide (e.id ≤ f.id))

/-- A context's A buffer as the stations see it (R192). -/
def State.stationA (s : State) (c : CtxId) (x : Ctx) : Mem :=
  let l := s.onTheWay c x
  (l.filter (·.shown l c)).foldl (fun m e => e.pieces.foldl (fun m p => m.write p.1 p.2) m) x.abuf

/-- A station has overwritten `n` bytes at `o` after the store: what is left of it leaves them alone (R192). -/
def StoreEnt.cut (e : StoreEnt) (o n : Nat) : StoreEnt :=
  if !e.pieces.any (fun p => decide (p.1 < o + n) && decide (o < p.1 + p.2.length)) then e
  else { e with data := [], more := e.pieces.flatMap (fun p => (p.2.zipIdx p.1).filterMap (fun b =>
    if o ≤ b.2 ∧ b.2 < o + n then none else some (b.2, [b.1]))) }

/-- A station writes bytes of a context's A buffer, after every store that it sees (R192). -/
def State.stationPut (s : State) (c : CtxId) (o : Nat) (b : List Byte) : State :=
  match s.ctx c with
  | none => s
  | some x =>
    let l := s.onTheWay c x
    let f := fun (e : StoreEnt) => if e.ctx = c ∧ e.shown l c then e.cut o b.length else e
    ((s.modCore c.cid (fun k => { k with sbuf := k.sbuf.map f })).modCtx c (fun y => { y with kstores := y.kstores.map f })).putA c o b

/-- The fragment of a target, and whether its bytes hold an uncorrectable error (R405). -/
def State.fragment (s : State) (t : Target) : List Byte × Bool :=
  match t with
  | .a c o => match s.ctx c with
    | some x => ((s.stationA c x).read o 256, s.badS c 0 o 256)
    | none => ([], false)
  | .p k g _ o => (((s.kernel k).bind (fun j => j.prep[g]?)).map (fun x => x.abuf.read o 256) |>.getD [], false)
  | .g pa _ => (s.readG pa 256, s.badG pa 256)
  | .none => ([], false)

/-- Writes bytes at a target. A write to a unit whose leaf has W = 0 raises the protection fault (R392): no context takes it, and
nothing is written (DESIGN CHOICE, log 22: the spec names no record for it). -/
def State.putTarget (s : State) (t : Target) (l : List Byte) : State :=
  match t with
  | .a c o => s.stationPut c o l
  | .p k g _ o => s.modKernel k (fun j => { j with prep := j.prep.modify g (fun x => { x with abuf := x.abuf.write o l }) })
  | .g pa true => s.performDev pa 0 l
  | .g _ false | .none => s

/-! ## Additions (R277) -/

/-- An element sum with its header flags: SAT, OF, NV. -/
structure Sum where
  bytes : List Byte
  sat : Bool
  of_ : Bool
  nv : Bool
  deriving DecidableEq, Repr

def sumElem (fmt : BitVec 2) (p f : List Byte) : Sum :=
  if fmt = 0 then
    let r := satInt (signed 32 (natOfBytes p) + signed 32 (natOfBytes f)) (-(2 ^ 31)) (2 ^ 31 - 1)
    ⟨bytesN (lowBits 32 r.1) 4, r.2 != 0, false, false⟩
  else
    let m := if fmt = 1 then fmtF32 else fmtBF16
    let r := fAdd m .rne (m.unpack (natOfBytes p)) (m.unpack (natOfBytes f)) 0
    ⟨bytesN r.bits (if fmt = 1 then 4 else 2), false, (r.flags &&& fOF) != 0, (r.flags &&& fNV) != 0⟩

/-- The sum of two payloads. -/
def sumPayload (fmt : BitVec 2) (p f : List Byte) : Sum :=
  let n := if fmt = 2 then 2 else 4
  let r := (List.range (256 / n)).map (fun i => sumElem fmt ((p.drop (n * i)).take n) ((f.drop (n * i)).take n))
  ⟨r.flatMap (·.bytes), r.any (·.sat), r.any (·.of_), r.any (·.nv)⟩

/-- The 16 bytes of a header (R274). -/
def Slot.header (t : Slot) : List Byte :=
  bytesN (t.crc.toNat * 2 ^ 96 + t.seq.toNat * 2 ^ 80 + t.orig * 2 ^ 73 + t.len * 2 ^ 64 + t.flow * 2 ^ 52 + t.cls * 2 ^ 50 +
    t.fmt.toNat * 2 ^ 48 + bit1 t.hold 47 + bit1 t.dbg 46 + bit1 t.crce 45 + bit1 t.pt 44 + bit1 t.nv 34 + bit1 t.of_ 33 +
    bit1 t.sat 32 + t.hst * 2 ^ 25 + t.rsvs * 2 ^ 18 + bit1 t.rsvv 17) 16

/-! ## Slot actions (R276, R282 to R284) -/

/-- A passage may be made now: the slot passes the station at this slot-time, for the first time in it (R273). -/
def State.passes (s : State) : Bool :=
  let p := s.inp.pass
  decide (4 ≤ s.host.step) && decide (p.stn < 128) && decide (p.trk < 8) && decide (p.slot < 512) &&
    s.rst % 512 == (p.slot + 4 * p.stn) % 512 &&
    !(s.ring.at_ == s.rst && s.ring.seen.contains (p.stn, p.trk, p.slot))

/-- Notes that the passage has been made. -/
def State.passed (s : State) : State :=
  let p := s.inp.pass
  { s with ring := { s.ring with
      at_ := s.rst, seen := (p.stn, p.trk, p.slot) :: (if s.ring.at_ = s.rst then s.ring.seen else [])
      incs := if s.ring.at_ = s.rst then s.ring.incs else [] } }

/-- The slot of the passage. -/
def State.slotHere (s : State) : Slot :=
  let p := s.inp.pass
  s.ring.slot (s.ring.phys p.stn p.trk p.slot) p.slot

/-- Stores a slot. With its occupancy ends what stations await of it (R282). -/
def State.setSlot (s : State) (t : Slot) : State :=
  let r := s.ring.setSlot t
  { s with ring := if t.cls = 1 then r else { r with susp := r.susp.filter (fun p => !(p.2.1 == t.trk && p.2.2.1 == t.no)) } }

/-- An emptied slot keeps its reservation (R285). -/
def Slot.emptied (t : Slot) : Slot :=
  if t.rsvv then { emptySlot t.trk t.no with cls := 3, rsvs := t.rsvs, rsvv := true } else emptySlot t.trk t.no

/-- The flag counter of an entry rises by FINC (R276). -/
def State.raiseFlag (s : State) (stn : Nat) (e : W64) : State :=
  if entFinc e = 0 then s
  else
    let r := s.ring.setFlag stn (entFlag e) (s.ring.flag stn (entFlag e) + BitVec.ofNat 16 (entFinc e))
    { s with ring := { r with incs := ((stn, entFlag e), entFinc e) :: r.incs } }

/-- A failed CRC check (R283). -/
def State.crcFailed (s : State) (stn : Nat) (t : Slot) : State :=
  (s.setSlot { t with crce := true }).post (stationUnit stn) 1 stn 0

/-- The site of an SRAM error in a target (R403): the local core, or 0xFF. -/
def Target.unit : Target → Nat
  | .a c _ | .p _ _ c _ => c.cid % 128
  | .g .. | .none => 0xFF

/-- A fragment with an uncorrectable error marks the occupancy (R405). -/
def State.fragBad (s : State) (stn : Nat) (tg : Target) : State :=
  (s.post (stationUnit stn) 5 tg.unit 0).post (stationUnit stn) 1 stn 0

/-- The station awaits its action on the occupancy of a slot: the waits on its entry's flag stand still until it acts (R282). -/
def State.await (s : State) (stn : Nat) (e : W64) (t : Slot) : State :=
  let p := (stn, t.trk, t.no, entFlag e)
  if s.ring.susp.contains p then s else { s with ring := { s.ring with susp := p :: s.ring.susp } }
/-- The station has acted. -/
def State.acted (s : State) (stn : Nat) (t : Slot) : State :=
  { s with ring := { s.ring with susp := s.ring.susp.filter (fun p => !(p.1 == stn && p.2.1 == t.trk && p.2.2.1 == t.no)) } }
/-- The held action: HOLD, HST, DBG; no flag (R282). -/
def State.holdSlot (s : State) (stn : Nat) (t : Slot) (dbg : Bool) : State :=
  s.setSlot { t with hold := true, hst := stn, dbg := dbg }

/-- A passage at a station in service whose entry has the operation `op`; `f` acts on the slot at a valid target. -/
def slotStep (op : Nat) (s : State) (f : Nat → W64 → Slot → Target → State → State) : State :=
  let p := s.inp.pass
  let e := s.ring.entry p.stn p.trk p.slot
  if !s.passes ∨ s.passing p.stn ∨ entOp e ≠ op then s
  else f p.stn e s.slotHere (s.target p.stn e) s.passed

/-- SLOT_LOAD (R276): into a slot that is empty or reserved for the station. -/
def execSlotLoad (s : State) : Out :=
  .next (slotStep 1 s (fun stn e t tg s =>
    let open_ := t.cls == 0 || (t.cls == 3 && t.rsvs == stn)
    if !open_ ∨ tg = .none ∨ (s.holdCause stn e tg).isSome then s
    else
      let p := s.inp.pass
      let fr := s.fragment tg
      let u := { t with
        payload := fr.1, cls := 1, flow := entFlow e, fmt := entFmt e, len := 256, orig := stn
        seq := s.ring.loads stn p.trk p.slot, crc := crc32c fr.1, hold := false, dbg := false, crce := fr.2, pt := false
        nv := false, of_ := false, sat := false }
      let s1 := { s with ring := (s.ring.setSlot u).bumpLoads stn p.trk p.slot }
      if fr.2 then s1.fragBad stn tg else s1.raiseFlag stn e))

/-- The station comes after the holding one on the occupancy's way from its LOAD station, so that its action is still to come
(R282). -/
def Slot.before (t : Slot) (stn : Nat) : Bool := decide ((t.hst + 128 - t.orig) % 128 < (stn + 128 - t.orig) % 128)

/-- The entry's action on an allotted occupancy of its flow: what a CRC or pass-through mark and a hold allow (R276, R282,
R283); `f` performs it on the slot with its hold cleared. An occupancy with a CRC or pass-through mark is emptied at its EMPTY station
though another station holds it: no station will act on it any more (R284; DESIGN CHOICE, log 22). -/
def onOccupancy (stn : Nat) (e : W64) (t : Slot) (tg : Target) (s : State) (f : Slot → State → State) : State :=
  if t.cls ≠ 1 ∨ t.flow ≠ entFlow e then s
  else if t.crce ∨ t.pt then (if entOp e = 4 ∨ entOp e = 5 then s.setSlot t.emptied else s)
  else if t.hold ∧ t.hst ≠ stn then (if t.before stn then s.await stn e t else s)
  else if tg = .none then (if entOp e = 4 ∨ entOp e = 5 then s.setSlot t.emptied else s)
  else match s.holdCause stn e tg with
    | some dbg => (s.holdSlot stn t dbg).await stn e t
    | none => f { t with hold := false, dbg := false } (s.acted stn t)

/-- A station's check of a slot fails: the CRC of its payload, or the header's own check code, which is reported alike (R274,
R283): a header failure comes with the step, as its `flag`. -/
def State.slotBad (s : State) (t : Slot) : Bool := s.inp.flag || crc32c t.payload != t.crc

/-- SLOT_ADD (R276, R277). -/
def execSlotAdd (s : State) : Out :=
  .next (slotStep 3 s (fun stn e t tg s => onOccupancy stn e t tg s (fun t s =>
    let fr := s.fragment tg
    if fr.2 then (s.setSlot { t with crce := true }).fragBad stn tg
    else
      let r := sumPayload (entFmt e) t.payload fr.1
      if s.slotBad t then s.crcFailed stn t
      else (s.setSlot { t with payload := r.bytes, crc := crc32c r.bytes, sat := t.sat || r.sat, of_ := t.of_ || r.of_,
                               nv := t.nv || r.nv }).raiseFlag stn e)))

/-- The bytes that a COPY or EMPTY writes: the payload, and the header under WH at a compute station. -/
def slotBytes (stn : Nat) (e : W64) (t : Slot) : List Byte :=
  if entWh e ∧ isDieStation stn then t.payload ++ t.header else t.payload

/-- SLOT_COPY (R276). -/
def execSlotCopy (s : State) : Out :=
  .next (slotStep 2 s (fun stn e t tg s => onOccupancy stn e t tg s (fun t s =>
    if s.slotBad t then s.crcFailed stn t
    else ((s.putTarget tg (slotBytes stn e t)).setSlot t).raiseFlag stn e)))

/-- SLOT_EMPTY (R276). -/
def execSlotEmpty (s : State) : Out :=
  .next (slotStep 4 s (fun stn e t tg s => onOccupancy stn e t tg s (fun t s =>
    if s.slotBad t then s.crcFailed stn t
    else ((s.putTarget tg (slotBytes stn e t)).setSlot t.emptied).raiseFlag stn e)))

/-- SLOT_EMPTY_ADD (R276, R277): at a memory station. -/
def execSlotEmptyAdd (s : State) : Out :=
  .next (slotStep 5 s (fun stn e t tg s => onOccupancy stn e t tg s (fun t s =>
    let fr := s.fragment tg
    if fr.2 then (s.setSlot { t with crce := true }).fragBad stn tg
    else if s.slotBad t then s.crcFailed stn t
    else
      let r := sumPayload (entFmt e) fr.1 t.payload
      ((s.putTarget tg r.bytes).setSlot t.emptied).raiseFlag stn e)))

/-- SLOT_PASS_THROUGH: a station in pass-through marks PT on an occupancy for which it holds an entry (R284). -/
def execSlotPassThrough (s : State) : Out :=
  let p := s.inp.pass
  let e := s.ring.entry p.stn p.trk p.slot
  let t := s.slotHere
  if !s.passes ∨ !s.passing p.stn then .next s
  else if t.cls = 1 ∧ entOp e ≠ 0 ∧ t.flow = entFlow e then .next (s.passed.setSlot { t with pt := true })
  else .next s.passed

/-- A flow lives: an admitted kernel holds it, or the Goltik ring's allocator lists it (R280, R286). -/
def State.flowLives (s : State) (id : Nat) : Bool := (s.flowOf id).isSome || s.ring.goltik.flows.any (fun f => f.id == id)

/-- ENDED_FLOW_EMPTY: an occupancy of a flow that has ended is emptied without action or flag, at the first station that it
reaches (R280). -/
def execEndedFlowEmpty (s : State) : Out :=
  let t := s.slotHere
  if s.passes ∧ t.cls = 1 ∧ !s.flowLives t.flow then
    .next (s.passed.setSlot t.emptied)
  else .next s

/-! ## Best-effort traffic (R285) -/

/-- No flow holds the slot number on the track, neither one of the package's nor one of the Goltik ring. -/
def State.unallotted (s : State) (trk no : Nat) : Bool :=
  !(decide (6 ≤ trk) && s.ring.goltik.holds (trk - 6) no) && !s.kernels.any (fun k => k.state != .ended && k.flows.any (fun f =>
    f.track == trk && decide ((no + 512 - f.slot0) % 512 < f.k)))

/-- BEST_EFFORT_RESERVE: a station with traffic pending (`data`, for station `e`, joins it) marks an unallotted slot; at most
one reservation for each track. -/
def execBestEffortReserve (s : State) : Out :=
  let p := s.inp.pass
  let s := if s.inp.data.isEmpty ∨ 256 < s.inp.data.length ∨ 128 ≤ s.inp.e then s
    else { s with ring := { s.ring with best := s.ring.best ++ [(p.stn, s.inp.e, s.inp.data)] } }
  let t := s.slotHere
  if s.passes ∧ !s.passing p.stn ∧ s.unallotted p.trk p.slot ∧ !t.rsvv ∧ s.ring.best.any (fun b => b.1 == p.stn) ∧
      !s.ring.slots.any (fun u => u.trk == p.trk && u.rsvv && u.rsvs == p.stn) then
    .next (s.passed.setSlot { t with rsvs := p.stn, rsvv := true, cls := if t.cls = 0 then 3 else t.cls })
  else .next s

/-- BEST_EFFORT_INJECT: into an unallotted slot that passes empty or reserved for the station; its reservation on the track
is released. -/
def execBestEffortInject (s : State) : Out :=
  let p := s.inp.pass
  let t := s.slotHere
  match s.ring.best.find? (fun b => b.1 == p.stn) with
  | none => .next s
  | some b =>
    let mine := t.rsvv && t.rsvs == p.stn
    if s.passes ∧ !s.passing p.stn ∧ s.unallotted p.trk p.slot ∧ ((t.cls = 0 ∧ !t.rsvv) ∨ (t.cls = 3 ∧ mine)) then
      let s1 := s.passed
      let free := fun (u : Slot) => if u.trk = p.trk ∧ u.rsvv ∧ u.rsvs = p.stn then
        { u with rsvv := false, rsvs := 0, cls := if u.cls = 3 then 0 else u.cls } else u
      let r := { s1.ring with
        best := s1.ring.best.erase b
        slots := (s1.ring.slots.map free).filter (fun u => u != emptySlot u.trk u.no) }
      .next { s1 with ring := r.setSlot { emptySlot p.trk p.slot with
        cls := 2, orig := p.stn, len := b.2.2.length, fmt := 3, payload := b.2.2, crc := crc32c b.2.2, dst := b.2.1 } }
    else .next s

/-- BEST_EFFORT_DELIVER: the destination station empties the slot and hands the payload to its agent. -/
def execBestEffortDeliver (s : State) : Out :=
  let p := s.inp.pass
  let t := s.slotHere
  if s.passes ∧ !s.passing p.stn ∧ t.cls = 2 ∧ t.dst = p.stn then
    let s1 := s.passed.setSlot t.emptied
    .next { s1 with ring := { s1.ring with delivered := s1.ring.delivered ++ [(p.stn, t.payload)] } }
  else .next s

/-- Slot numbers of a track are taken from best-effort traffic as a flow gets them: a payload goes back to the station that
injected it, and a reservation ends, so that no allotted slot is delayed (R285; DESIGN CHOICE, log 33). -/
def Ring.reclaim (r : Ring) (trk : Nat) (held : Nat → Bool) : Ring :=
  let hit := r.slots.filter (fun t => t.trk == trk && held t.no && t.cls != 1)
  { r with
    slots := r.slots.filter (fun t => !hit.contains t)
    best := (hit.filter (fun t => t.cls == 2)).map (fun t => (t.orig, t.dst, t.payload)) ++ r.best }

/-! ## The Goltik ring (R286) -/

/-- The entries of a slot number of a track, as stations with operations. On tracks 6 and 7 those on the arc are a Goltik flow's where
one holds the number (R286); `gol` asks for these, otherwise for the package's own. -/
def Ring.laid (g : Ring) (gol : Bool) (trk no : Nat) : List (Nat × Nat) :=
  (g.table.filter (fun a => a.trk == trk && a.slot == no && entOp a.e != 0 &&
    (if gol then onArc a.stn else !(decide (6 ≤ trk) && g.goltik.holds (trk - 6) no && onArc a.stn)))).map (fun a => (a.stn, entOp a.e))

/-- A flow of the package holds a slot number and uses the arc: it stands there, or its occupancies cross it on their way round to a
station below that of their LOAD (R286). -/
def State.arcHeld (s : State) (trk no : Nat) : Bool :=
  let l := s.ring.laid false trk no
  s.kernels.any (fun k => k.state != .ended && k.flows.any (fun f =>
    f.track == trk && !f.gol && decide ((no + 512 - f.slot0) % 512 < f.k))) &&
  (l.any (fun a => onArc a.1) || l.any (fun a => a.2 == 1 && l.any (fun b => decide (b.1 < a.1))))

/-- The Goltik ring's allocator changes its flows: not into slot numbers that a flow of the package uses on the arc. -/
def State.setGoltik (s : State) (l : List GFlow) : State :=
  let k : Goltik := { s.ring.goltik with flows := l }
  let slots := l.flatMap (fun f => (List.range f.k).map (fun i => (f.g + 6, (f.slot0 + i) % 512)))
  if s.ring.goltik.members = 0 ∨ l.any (fun f => decide (2 ≤ f.g) || decide (4096 ≤ f.id) || decide (496 < f.k)) ∨
      slots.any (fun p => s.arcHeld p.1 p.2) ∨ slots.eraseDups.length ≠ slots.length ∨
      l.any (fun f => s.kernels.any (fun j => j.state != .ended && j.flows.any (fun h => h.id == f.id && !h.gol))) then s
  else { s with ring := [6, 7].foldl (fun r trk => r.reclaim trk (fun no => k.holds (trk - 6) no)) { s.ring with goltik := k } }

/-- The slot-times since slot `no` of a Goltik track passed station 121, modulo a rotation: it rides the arc up to 88. -/
def State.golPhase (s : State) (no : Nat) : Nat := (s.rst + 1024 - (no + 484)) % 512

/-- A slot of a header and a payload (R274). -/
def slotOf (trk no : Nat) (h : BitVec 128) (payload : List Byte) : Slot :=
  { trk := trk, no := no, crc := field h 96 32, seq := field h 80 16, orig := (field h 73 7).toNat, len := (field h 64 9).toNat
    flow := (field h 52 12).toNat, cls := (field h 50 2).toNat, fmt := field h 48 2, hold := bitAt h 47, dbg := bitAt h 46
    crce := bitAt h 45, pt := bitAt h 44, nv := bitAt h 34, of_ := bitAt h 33, sat := bitAt h 32, hst := (field h 25 7).toNat
    rsvs := (field h 18 7).toNat, rsvv := bitAt h 17, payload := payload }

/-- An occupancy enters at station 121 from the package before, at the slot-time at which local slot `no` passes there. In a ring
of one package what leaves comes back, and nothing else enters. -/
def State.goltikIn (s : State) (g no : Nat) (h : BitVec 128) (payload : List Byte) : State :=
  if 1 < s.ring.goltik.members ∧ g < 2 ∧ no < 512 ∧ s.ring.goltik.holds g no ∧ s.golPhase no = 0 ∧ payload.length = 256 ∧
      (s.ring.slot (8 + g) no).cls = 0 then
    s.setSlot (slotOf (8 + g) no h payload)
  else s

/-- What leaves at station 15 as `n` slot-times pass: the Goltik slots whose passage there lies before the end of that time. In a
ring of one package they travel on to station 121, which they pass one rotation after its last passage. -/
def State.goltikOut (s : State) (n : Nat) : State :=
  if s.ring.goltik.members ≤ 1 then s
  else
    let out := s.ring.slots.filter (fun t => decide (8 ≤ t.trk) && decide (88 < s.golPhase t.no + n))
    { s with ring := { s.ring with
        slots := s.ring.slots.filter (fun t => !out.contains t)
        susp := s.ring.susp.filter (fun p => !out.any (fun t => t.trk == p.2.1 && t.no == p.2.2.1))
        goltik := { s.ring.goltik with sent := out ++ s.ring.goltik.sent } } }

/-! ## Passages that must be made (R273, R276, R328) -/

/-- Slot-times until slot `no` passes a station. -/
def State.until (s : State) (stn no : Nat) : Nat := (no + 4 * stn + 512 - s.rst % 512) % 512

/-- The passage of an entry: its action, or that of a station in pass-through. -/
def State.entryDue (s : State) (e : TabEnt) : Option (Nat × Instr × Passage) :=
  let p : Passage := ⟨e.stn, e.trk, e.slot⟩
  let at_ := fun i => some (s.until e.stn e.slot, i, p)
  if s.passing e.stn then (if entOp e.e = 0 then none else at_ .slotPassThrough)
  else match entOp e.e with
    | 1 => at_ .slotLoad
    | 2 => at_ .slotCopy
    | 3 => at_ .slotAdd
    | 4 => at_ .slotEmpty
    | 5 => at_ .slotEmptyAdd
    | _ => none

/-- The next station that a slot reaches, which empties it where its flow has ended. -/
def State.endedDue (s : State) (t : Slot) : Option (Nat × Instr × Passage) :=
  let d := (t.no + 512 - s.rst % 512) % 4
  let stn := (s.rst + d + 512 - t.no) % 512 / 4
  if t.cls ≠ 1 ∨ s.flowLives t.flow then none
  else if t.trk < 8 then some (d, .endedFlowEmpty, ⟨stn, t.trk, t.no⟩)
  else if onArc stn then some (d, .endedFlowEmpty, ⟨stn, t.trk - 2, t.no⟩)
  else some (s.until 121 t.no, .endedFlowEmpty, ⟨121, t.trk - 2, t.no⟩)

/-- A best-effort slot reaches its destination; a station in pass-through forwards it (R284). -/
def State.deliverDue (s : State) (t : Slot) : Option (Nat × Instr × Passage) :=
  if t.cls ≠ 2 ∨ s.passing t.dst then none else some (s.until t.dst t.no, .bestEffortDeliver, ⟨t.dst, t.trk, t.no⟩)

/-- What a station with best-effort traffic pending does with a slot that passes it (R285). -/
def State.bestDue (s : State) (stn d trk : Nat) : Option (Nat × Instr × Passage) :=
  let no := (s.rst + d + 512 - 4 * stn) % 512
  let t := s.ring.slot trk no
  let p : Passage := ⟨stn, trk, no⟩
  if s.passing stn ∨ !s.unallotted trk no then none
  else if (t.cls = 0 ∧ !t.rsvv) ∨ (t.cls = 3 ∧ t.rsvv ∧ t.rsvs = stn) then some (d, .bestEffortInject, p)
  else if !t.rsvv ∧ !s.ring.slots.any (fun u => u.trk == trk && u.rsvv && u.rsvs == stn) then some (d, .bestEffortReserve, p)
  else none

/-- The passages at which units of the ring act within the next `n` slot-times and which have not been made. -/
def State.passages (s : State) (n : Nat) : List (Nat × Instr × Passage) :=
  if s.host.step < 4 ∨ s.host.step = 15 then []
  else
    let all := s.ring.slots.filterMap s.endedDue ++ s.ring.table.filterMap s.entryDue ++ s.ring.slots.filterMap s.deliverDue ++
      (s.ring.best.map (·.1)).eraseDups.flatMap (fun stn =>
        (List.range n).flatMap (fun d => (List.range 8).filterMap (s.bestDue stn d)))
    all.filter (fun e => decide (e.1 < n) && !(e.1 == 0 && s.ring.at_ == s.rst &&
      s.ring.seen.contains (e.2.2.stn, e.2.2.trk, e.2.2.slot)))

/-- The core cycles, from `now` on, after which the step watchdog of a Sett core stops the slot on which it executes (R308, R316). -/
def Sett.watchDue (t : Sett) (now : Nat) : Option Nat :=
  let p := t.slots[t.kjepi]?.getD {}
  if t.mode = .m ∨ t.wfi ∨ t.boxWait ∨ !p.counting ∨ p.steplim = 0 then none
  else some ((4 * (p.steplim.toNat + 1 + t.at_ * 3 / 4 - p.wdog) + 2) / 3 - now)

/-- What the passing of time alone brings: the step watchdogs (R316), and the end of 20 µs of ballast above a cap (R430). -/
def State.timers (s : State) : List (Nat × Instr × Input) :=
  s.sett.filterMap (fun e => (e.2.watchDue s.cycles).map (fun n =>
    (n, .stepWatchdogExpiry, { die := e.1.1, e := e.1.2, id := e.2.kjepi }))) ++
  (List.range 16).filterMap (fun g =>
    let p := s.group g
    if p.bal then some (p.balFrom + ballastCycles - s.cycles, .ballastLimitExpiry, { g := g, flag := true }) else none)

/-- The first thing that comes by itself within the next `n` core cycles: at their end at the latest for a timer, before it for a
passage. Where two fall on one cycle the order is that of the list: no passage meets another's slot. -/
def State.due (s : State) (n : Nat) : Option (Nat × Instr × Input) :=
  let l := s.timers.filter (fun e => decide (e.1 ≤ n)) ++ (s.passages n).map (fun e => (e.1, e.2.1, { pass := e.2.2 }))
  l.foldl (fun b e => match b with
    | none => some e
    | some c => if e.1 < c.1 then some e else b) none

/-- `n` slot-times pass on the ring with the core cycles. -/
def State.elapse (s : State) (n : Nat) : State := (s.goltikOut n).tick n

/-- The `n` cycles of a row of the device that lets a clock run go by, and then `f`. What comes by itself in them moves first, and the
row comes again after it. -/
def State.lapse (s : State) (n : Nat) (f : State → State) : State :=
  match s.due n with
  | some (d, i, inp) => { s with agenda := ⟨d, .event i inp⟩ :: ⟨0, s.turn⟩ :: s.agenda }
  | none => f (s.elapse n)

/-! ## Conveyor instructions (R287 to R290) -/

/-- The kernel's flag set at the station of the issuing core (R281). -/
def flagSet (s : State) (w : Who) (x : Ctx) : Option FlagSet :=
  match s.kernel x.kernel with
  | some k => if x.harvest then none else k.flagSets.find? (fun f => f.stn == dieStation (dieOf w.c.cid))
  | none => none

/-- f = (FIX + bits(b, 5, 0)) mod 64, where the context's set holds it; else the conveyor-access fault. -/
def flagIx (s : State) (w : Who) (x : Ctx) (v : WordX) : Option (Nat × Nat) :=
  let f := ((field v.low 47 6).toNat + (field (readSrc w x v.b 0) 0 6).toNat) % 64
  match flagSet s w x with
  | some g => if g.flag0 ≤ f ∧ f < g.flag0 + g.nflg then some (g.stn, f) else none
  | none => none

/-- A count has reached a value (R281). -/
def reached (c v : W16) : Bool := decide ((c - v).toNat < 2 ^ 15)

/-- A CVWT that completes is an acquire at package scope of the increment (R192). -/
def execCvwt (v : WordX) (s : State) : Out :=
  runTryX (.cvwt v) v (fun w x s =>
    match flagIx s w x v with
    | none => .fault cConveyor 0
    | some (stn, f) =>
      if reached (s.ring.flag stn f) ((readSrc w x v.a 0).setWidth 16) then .done (s.acquire w.c.cid 2) else .wait (.flag f)) s

def execCvts (v : WordX) (s : State) : Out :=
  runX (.cvts v) v (fun w x s =>
    match flagIx s w x v with
    | none => .fault cConveyor 0
    | some (stn, f) =>
      let b := reached (s.ring.flag stn f) ((readSrc w x v.a 0).setWidth 16)
      .done ((if b then s.acquire w.c.cid 2 else s).setP w (v.d.toNat - 48) b)) s

/-- CVCL: an increment of the same slot-time is applied after the clearing, and is kept (R281). -/
def execCvcl (v : WordX) (s : State) : Out :=
  runX (.cvcl v) v (fun w x s =>
    match flagIx s w x v with
    | none => .fault cConveyor 0
    | some (stn, f) =>
      let now := if s.ring.at_ = s.rst then ((s.ring.incs.filter (fun i => i.1 == (stn, f))).map (·.2)).sum else 0
      .done { s with ring := s.ring.setFlag stn f (BitVec.ofNat 16 now) }) s

/-- The flow descriptor of a flow index (R288). -/
def flowWord (s : State) (w : Who) (x : Ctx) (i : W64) : W64 :=
  match s.kernel x.kernel with
  | none => 0
  | some k =>
    match k.flows[i.toNat]? with
    | none => 0
    | some f =>
      let g := (k.flagSets.find? (fun g => g.stn == dieStation (dieOf w.c.cid))).getD ⟨0, 0, 0⟩
      BitVec.ofNat 64 (f.id * 2 ^ 52 + f.track * 2 ^ 49 + f.k * 2 ^ 39 + f.slot0 * 2 ^ 30 + g.flag0 * 2 ^ 24 + g.nflg * 2 ^ 17 + 1)

def execCvinf (v : WordX) (s : State) : Out :=
  runX (.cvinf v) v (fun w x s => .done (s.setS w v.d.toNat (flowWord s w x (readSrc w x v.a 0)))) s

def execCvtim (v : WordX) (s : State) : Out :=
  runX (.cvtim v) v (fun w _ s =>
    let n := if bitAt v.low 48 then (s.rst + 512 - 4 * dieStation (dieOf w.c.cid) % 512) % 512 else s.rst
    .done (s.setS w v.d.toNat (BitVec.ofNat 64 n))) s

end Sys2Proof.Machine
end

