-- ==== Sys2Proof/Machine/Mailbox.lean ====
section
/-! DEFINITION. Step mailboxes (R312 to R324): the mailbox unit of a Sett core, the policy's instructions, and the device
steps that open, close and stop an episode. -/

namespace Sys2Proof.Machine

def State.settCore (s : State) (d k : Nat) : Sett := (aget s.sett (d, k)).getD {}
def State.modSett (s : State) (d k : Nat) (f : Sett → Sett) : State :=
  { s with sett := aset s.sett (d, k) (f (s.settCore d k)) }

def Sett.slot (t : Sett) (e : Nat) : EpSlot := t.slots[e]?.getD {}
def Sett.setSlot (t : Sett) (e : Nat) (v : EpSlot) : Sett := { t with slots := t.slots.setIfInBounds e v }
/-- EPI (R312). -/
def epiOf (d k e : Nat) : Nat := 128 * d + 16 * k + e

/-! ## The mailbox unit -/

/-- The code of a state (R313). -/
def SlotState.code : SlotState → Nat
  | .closed => 0
  | .run => 1
  | .ended => 2
  | .stopped => 3

/-- Version `v` is newer than VCUR (R315). -/
def EpSlot.newer (p : EpSlot) (v : W16) : Bool :=
  let d := (v - p.vcur).toNat
  !p.vnone && decide (1 ≤ d) && decide (d < 2 ^ 15)

/-- Appends an action: VCUR takes its version; VCH is noted for its answer (R314, R315). -/
def EpSlot.append (p : EpSlot) (v : W16) (stat : Nat) (payload : List Byte) : EpSlot :=
  { p with acts := p.acts ++ [⟨v, stat, !p.vnone && v != p.vcur, payload⟩], vcur := v, vnone := false }

/-- The held action is appended once an episode has ended and the box has room (R315). -/
def EpSlot.release (p : EpSlot) : EpSlot :=
  match p.held with
  | some h => if p.vnone ∧ p.acts.length < 8 then { p.append h.ver h.stat h.payload with held := none } else p
  | none => p

/-- What an MBSND finds (R320): a status, with the slot after it, or a wait for room. -/
inductive Sent where
  | done (status : Nat) (pop : Bool) (p : EpSlot)
  | wait
  deriving DecidableEq, Repr

/-- An action is sent (R313, R315, R320). -/
def EpSlot.send (p : EpSlot) (v : W16) (payload : List Byte) : Sent :=
  if p.state = .closed ∨ p.state = .stopped then .done 3 false p
  else if p.rule = 2 ∧ p.newer v then
    if p.held.isSome then .done 2 false p else .done 1 true { p with held := some ⟨v, 0, false, payload⟩ }
  else if 8 ≤ p.acts.length then .wait
  else .done 0 true (p.append v (if p.rule = 1 ∧ p.newer v then 4 else 0) payload)

/-- An observation header (R314). -/
def obsHeader (step : W32) (epi : Nat) (rew : W32) (ver : W16) (pend : Nat) (vch : Bool) (stat : Nat) : BitVec 128 :=
  BitVec.ofNat 128 (step.toNat * 2 ^ 96 + epi * 2 ^ 83 + rew.toNat * 2 ^ 32 + ver.toNat * 2 ^ 16 + pend * 2 ^ 12 + bit1 vch 7 + stat)

/-- VER and VCH of the answered action. -/
def EpSlot.answered (p : EpSlot) : W16 × Bool := p.ans.getD (0, false)

/-- The episode stops: the terminal entry is written (R317). -/
def EpSlot.stop (p : EpSlot) (epi stat : Nat) (rew : W32) (payload : List Byte) : EpSlot :=
  let a := p.answered
  { p with
    state := .stopped, counting := false, posted := []
    term := some ⟨obsHeader p.step epi rew a.1 (p.acts.length + bit1 p.held.isSome 0) a.2 stat, payload⟩ }

/-- Stops slot `e` of a Sett core unless it is CLOSED or STOPPED; the monitor is interrupted (R311, R316, R317). -/
def State.stopSlot (s : State) (d k e stat : Nat) (rew : W32) (payload : List Byte) : State :=
  let p := (s.settCore d k).slot e
  if p.state = .closed ∨ p.state = .stopped then s
  else s.modSett d k (fun t => { t.setSlot e (p.stop (epiOf d k e) stat rew payload) with stopIrq := true })

/-- A kill (R311, R454). -/
def State.killSlot (s : State) (d k e : Nat) : State := s.stopSlot d k e 3 0 (List.replicate 256 0)

/-- The slot of an ENDED episode that posts or receives (R319). -/
def EpSlot.enter (p : EpSlot) : EpSlot := if p.state = .ended then { p with state := .run, step := 0 } else p

/-- Posts an ordinary observation (R319): STAT 4 where it answers a RESET action (R314). -/
def EpSlot.post (p : EpSlot) (epi : Nat) (stat : Nat) (rew : W32) (payload : List Byte) : EpSlot :=
  let a := p.answered
  { p with
    obs := p.obs ++ [⟨obsHeader p.step epi rew a.1 0 a.2 (if stat = 0 ∧ p.ansReset then 4 else stat), payload⟩]
    ansReset := false, counting := false, wdog := 0 }

/-- The end of an episode by mb.done, after its post (R315, R319). -/
def EpSlot.done_ (p : EpSlot) : EpSlot :=
  ({ p with state := .ended, vnone := true, ans := none, ansReset := false }).release

/-- The action at the head of the box is delivered (R315, R319). -/
def EpSlot.receive (p : EpSlot) : Option (ActEnt × EpSlot) :=
  match p.acts with
  | [] => none
  | a :: r =>
    some (a, ({ p with
      acts := r, step := if a.stat = 4 then 1 else p.step + 1, ans := some (a.ver, a.vch), ansReset := a.stat == 4
      lastVer := a.ver, counting := true, wdog := 0 }).release)

/-- The action word (R318). -/
def actionWord (a : ActEnt) (step : W32) : W64 :=
  BitVec.ofNat 64 (step.toNat * 2 ^ 32 + a.ver.toNat * 2 ^ 16 + a.stat)

/-- The status word (R322). -/
def EpSlot.word (p : EpSlot) (epi : Nat) : W64 :=
  BitVec.ofNat 64 (p.vcur.toNat * 2 ^ 48 + bit1 p.vnone 47 + epi * 2 ^ 31 + p.state.code * 2 ^ 24 + p.rule * 2 ^ 22 +
    bit1 p.held.isSome 21 + bit1 p.term.isSome 20 + (8 - p.acts.length) * 2 ^ 16 + p.obs.length * 2 ^ 12)

/-! ## The policy's instructions (R320 to R323) -/

/-- The episode of a handle: die, core, slot; none is the mailbox-access fault. -/
def handleOf (s : State) (x : Ctx) (h : W64) : Option (Nat × Nat × Nat) :=
  if x.harvest then none
  else match s.kernel x.kernel with
    | some k => (k.episodes[h.toNat]?).map (fun e => (e / 128, e / 16 % 8, e % 16))
    | none => none

/-- The waits of MBSND and MBRCV count under the wait-timeout rule only, and stand still with the Sett core's die (R323). -/
def Eff.waitAs (e : Eff) (k : Wait) : Eff :=
  match e with
  | .wait _ => .wait k
  | e => e

def execMbsnd (v : WordX) (s : State) : Out :=
  runTryX (.mbsnd v) v (fun w x s =>
    match handleOf s x (readSrc w x v.b 0) with
    | none => .fault cMailbox (readSrc w x v.b 0)
    | some (d, k, e) =>
      Eff.waitAs (withQ x (qOf v.a) none (fun y l =>
        if !released s w.c x w.r x.nextId 3 then .wait .fence
        else match ((s.settCore d k).slot e).send x.ver (laneBytes l) with
          | .wait => .wait .fence
          | .done st pop p =>
            let s1 := if pop then s.setCtx w.c y else s
            .done ((s1.modSett d k (fun t => t.setSlot e p)).setS w v.d.toNat (BitVec.ofNat 64 st)))) (.mailbox (epiOf d k e))) s

/-- What an MBRCV receives: every ordinary entry before the terminal one. -/
def EpSlot.take (p : EpSlot) : Option (ObsEnt × EpSlot) :=
  match p.obs, p.term with
  | o :: r, _ => some (o, { p with obs := r })
  | [], some o => some (o, { p with term := none })
  | [], none => none

/-- The entry of the q-register is reserved at issue; what waits keeps it (R321). -/
def effMbrcv (v : WordX) : Effect := fun w x s =>
  match handleOf s x (readSrc w x v.a 0) with
  | none => .fault cMailbox (readSrc w x v.a 0)
  | some (d, k, e) =>
    let wait : Wait := .mailbox (epiOf d k e)
    match (if x.rcvd.isSome then none else Taken.stop { x := x } (some (qOf v.d))) with
    | some f => f.waitAs wait
    | none => match ((s.settCore d k).slot e).take with
      | none =>
        if x.rcvd.isSome ∨ bitAt v.low 50 then .wait wait
        else .waitIn wait (s.setCtx w.c { x.qReserve (qOf v.d) with rcvd := some (qOf v.d, x.nextId) })
      | some (o, p) =>
        let y := match x.rcvd with
          | some (q, id) => { x.qFill q id (bytesLanes o.payload) with rcvd := none }
          | none => x.qPush (qOf v.d) (bytesLanes o.payload)
        let s1 := (s.setCtx w.c y).modSett d k (fun t => t.setSlot e { p with ostep := field o.hdr 96 32 })
        .done ((s1.acquire w.c.cid 3).setS w (field v.low 51 6).toNat (field o.hdr 0 64))

/-- MBRCV has TRY at [50] and TP at [49:47]. -/
def execMbrcv (v : WordX) (s : State) : Out :=
  runWord (.mbrcv v) { role := v.role, tok := v.tok, guard := v.guard, codes := [v.d, v.a, v.b, field v.low 51 6],
                       try_ := if bitAt v.low 50 then some (field v.low 47 3).toNat else none } (effMbrcv v) s

def execMbsta (v : WordX) (s : State) : Out :=
  runX (.mbsta v) v (fun w x s =>
    let h := readSrc w x v.a 0
    match handleOf s x h with
    | none => .fault cMailbox h
    | some (d, k, e) =>
      let p := (s.settCore d k).slot e
      let r := if bitAt v.low 47 then p.ostep.setWidth 64 <<< 32 ||| p.step.setWidth 64
        else p.word (epiOf d k e)
      .done (s.setS w v.d.toNat r)) s

/-! ## Episode windows (R310) -/

/-- Where an access of a Sett core lands. -/
inductive SettPlace where
  | sram (a : Nat)
  | g (va : Nat)
  | none
  deriving DecidableEq, Repr

/-- The place of `size` bytes at a Sett address in U mode under the window of a slot; none is a window violation. -/
def EpSlot.window (p : EpSlot) (a size : Nat) (fetch : Bool) : SettPlace :=
  if a < 2 ^ 18 then (if p.sbase ≤ a ∧ a + size ≤ p.sbase + p.slen then .sram a else .none)
  else if 2 ^ 40 ≤ a ∧ a + size ≤ 2 ^ 40 + p.glen ∧ !fetch then .g (p.gbase + (a - 2 ^ 40))
  else .none

/-- WINDOW_VIOLATION: an access of `no` bytes (`flag`: a fetch) at `addr` by the episode that core `e` of the die runs breaks
the window of its slot: the episode is killed with FAULT (R311). -/
def execWindowViolation (s : State) : Out :=
  let t := s.settCore s.inp.die s.inp.e
  if t.mode = .u ∧ (t.slot t.kjepi).window s.inp.addr s.inp.no s.inp.flag = .none then
    .next (s.killSlot s.inp.die s.inp.e t.kjepi)
  else .next s

/-! ## CSRs of an episode slot (R309, R313) -/

/-- OPEN is set: both boxes and the held action are emptied, the counts are cleared, and the slot runs (R313). -/
def EpSlot.open (p : EpSlot) : EpSlot :=
  { p with
    open_ := true, state := .run, step := 0, vcur := 0, vnone := true, held := none, acts := [], obs := [], term := none
    ans := none, ansReset := false, lastVer := 0, wdog := 0, counting := true, posted := [], ostep := 0 }

/-- OPEN is cleared: every entry is discarded (R313). -/
def EpSlot.close (p : EpSlot) : EpSlot :=
  { p with
    open_ := false, state := .closed, held := none, acts := [], obs := [], term := none, counting := false, posted := [] }

/-- A write of a bank CSR 0x7C0 to 0x7C7; one that breaks a limit leaves it unchanged (R309). -/
def EpSlot.writeCsr (p : EpSlot) (no : Nat) (v : W64) : EpSlot :=
  let n := v.toNat
  match no with
  | 0x7C0 => let n := n % 2 ^ 18; if n % 64 = 0 ∧ n + p.slen ≤ 2 ^ 18 then { p with sbase := n } else p
  | 0x7C1 => let n := n % 2 ^ 19; if n % 64 = 0 ∧ p.sbase + n ≤ 2 ^ 18 then { p with slen := n } else p
  | 0x7C2 => let n := n % 2 ^ 48; if n % 65536 = 0 then { p with gbase := n } else p
  | 0x7C3 => let n := n % 2 ^ 41; if n % 65536 = 0 ∧ n ≤ 2 ^ 40 then { p with glen := n } else p
  | 0x7C4 => { p with key := v.setWidth 16 }
  | 0x7C5 =>
    let p := if n % 4 = 3 then p else { p with rule := n % 4 }
    if bitAt v 2 ∧ !p.open_ then p.open else if !bitAt v 2 ∧ p.open_ then p.close else p
  | 0x7C6 => { p with steplim := v.setWidth 32 }
  | 0x7C7 => { p with eplim := v.setWidth 32 }
  | _ => p

/-- The value of a bank CSR. -/
def EpSlot.readCsr (p : EpSlot) (no : Nat) : W64 :=
  match no with
  | 0x7C0 => BitVec.ofNat 64 p.sbase
  | 0x7C1 => BitVec.ofNat 64 p.slen
  | 0x7C2 => BitVec.ofNat 64 p.gbase
  | 0x7C3 => BitVec.ofNat 64 p.glen
  | 0x7C4 => p.key.setWidth 64
  | 0x7C5 => BitVec.ofNat 64 (p.rule + bit1 p.open_ 2)
  | 0x7C6 => p.steplim.setWidth 64
  | 0x7C7 => p.eplim.setWidth 64
  | _ => 0

/-- Writes a bank CSR of the slot that kjepi selects. -/
def State.writeBank (s : State) (d k no : Nat) (v : W64) : State :=
  s.modSett d k (fun t => { t.setSlot t.kjepi ((t.slot t.kjepi).writeCsr no v) with at_ := s.cycles })

/-- SETT_CSR_WRITE: core `e` of the die writes `v` to bank CSR `no` (R309). -/
def execSettCsrWrite (s : State) : Out := .next (s.writeBank s.inp.die s.inp.e s.inp.no s.inp.v)

/-- OPEN_SET: kjepcfg of the selected slot is written with OPEN set (R313). -/
def execOpenSet (s : State) : Out :=
  .next (s.modSett s.inp.die s.inp.e (fun t =>
    let p := t.slot t.kjepi
    if p.open_ then t else { t.setSlot t.kjepi p.open with at_ := s.cycles }))

/-- OPEN_CLEAR (R313). -/
def execOpenClear (s : State) : Out :=
  .next (s.modSett s.inp.die s.inp.e (fun t => let p := t.slot t.kjepi; if p.open_ then t.setSlot t.kjepi p.close else t))

/-- KJKILL: core `e` of the die writes `v` to kjkill (R309, R454). -/
def State.kjkill (s : State) (d k : Nat) (v : W64) : State :=
  if bitAt v 0 then s.killSlot d k (s.settCore d k).kjepi else s

def execKjkill (s : State) : Out := .next (s.kjkill s.inp.die s.inp.e s.inp.v)

/-- STEP_WATCHDOG_EXPIRY: the count of slot `id` exceeds kjsteplim (R316). -/
def State.watchdog (s : State) (d k e : Nat) : State :=
  let p := (s.settCore d k).slot e
  if p.steplim ≠ 0 ∧ p.counting ∧ p.steplim.toNat < p.wdog then s.stopSlot d k e 2 0 (List.replicate 256 0) else s

/-- The core cycles since a Sett core's latest move go by: the step watchdog of the slot that kjepi selects counts them in Sett
cycles, 3 for 4 core cycles (R308), while the core executes in U or S mode: not in M mode, in WFI, or as it waits in mb.recv or
mb.step (R316). -/
def State.countWatch (s : State) (d k : Nat) : State :=
  let t := s.settCore d k
  let p := t.slot t.kjepi
  let n := s.cycles * 3 / 4 - t.at_ * 3 / 4
  if t.mode = .m ∨ t.wfi ∨ t.boxWait ∨ !p.counting ∨ n = 0 then s.modSett d k (fun t => { t with at_ := s.cycles })
  else (s.modSett d k (fun t => { t.setSlot t.kjepi { p with wdog := p.wdog + n } with at_ := s.cycles })).watchdog d k t.kjepi

def execStepWatchdogExpiry (s : State) : Out :=
  .next ((s.countWatch s.inp.die s.inp.e).watchdog s.inp.die s.inp.e s.inp.id)

end Sys2Proof.Machine
end

