-- ==== Sys2Proof/Machine/Privileged.lean ====
section
/-! DEFINITION. The privileged instructions (R348 to R366) but CKPT, and the operations they share with the die schedulers
and the management controller: revocation, retirement, pass-through, invalidation, the restoring of images. -/

namespace Sys2Proof.Machine

/-! ## Targets (R348, R349) -/

def idOf (v : W64) : CtxId := ⟨(field v 2 13).toNat, (field v 0 2).toNat⟩

/-- A die or stack index lies in the partition that a privileged context serves (R348). -/
def State.inScope (s : State) (x : Ctx) (d : Nat) : Bool :=
  x.servPart == 31 || bitAt (s.part x.servPart).pgmask (groupOf d)

/-- The faults of a ctxid: reserved bits and, where a context is named, NUM 3 (R349, log 23); a die outside the issuer's
partition (R348). -/
def idFault (s : State) (x : Ctx) (v : W64) (num : Bool) : Option Eff :=
  faults [(field v 15 49 != 0 || (num && field v 0 2 == 3#2), cRange, v), (!s.inScope x (dieOf (idOf v).cid), cPrivilege, v)]

/-- A context that a ctxid names, when it exists (R349). -/
def onCtx (s : State) (x : Ctx) (v : W64) (f : CtxId → Ctx → Eff) : Eff :=
  match idFault s x v true with
  | some e => e
  | none => match s.ctx (idOf v) with
    | none => .fault cTarget v
    | some y => f (idOf v) y

/-- The core or die that a ctxid names: NUM is ignored (R349). -/
def onCore (s : State) (x : Ctx) (v : W64) (f : Nat → Eff) : Eff :=
  match idFault s x v false with
  | some e => e
  | none => f (idOf v).cid

/-- The dies of a partition. -/
def State.diesOf (s : State) (p : Nat) : List Nat := (List.range 64).filter (fun d => bitAt (s.part p).pgmask (groupOf d))
/-- The cores of a die. -/
def coresOf (d : Nat) : List Nat := (List.range 128).map (128 * d + ·)

/-! ## Pass-through (R284, R352, R411) -/

/-- A station holds an entry of a running flow. -/
def State.runsFlow (s : State) (stn : Nat) : Bool :=
  s.ring.table.any (fun e => e.stn == stn && entOp e.e != 0 && (s.flowOf (entFlow e.e)).isSome)

/-- Sets the pass-through bits; each station that is newly set and holds an entry of a running flow posts SUB 8. -/
def State.setPass (s : State) (v : BitVec 128) : State :=
  ((List.range 128).filter (fun n => bitAt v n && !s.passing n && s.runsFlow n)).foldl
    (fun s n => s.post (stationUnit n) 8 n 0) { s with passThrough := v }

/-- The device sets a station's bit for good (R352, R408, R410). -/
def State.forcePass (s : State) (stn : Nat) : State :=
  let t := if !s.passing stn ∧ s.runsFlow stn then s.post (stationUnit stn) 8 stn 0 else s
  { t with passForced := t.passForced ||| (1#128 <<< stn) }

/-- A write of PTLO (`hi` false) or PTHI; bits that the device has set stay (R352). -/
def State.writePass (s : State) (hi : Bool) (v : W64) : State :=
  let keep := s.passThrough &&& (if hi then 0xFFFFFFFFFFFFFFFF#128 else 0xFFFFFFFFFFFFFFFF#128 <<< 64)
  s.setPass (keep ||| (if hi then v.setWidth 128 <<< 64 else v.setWidth 128))

/-- PTLO or PTHI as read. -/
def State.readPass (s : State) (hi : Bool) : W64 := field (s.passThrough ||| s.passForced) (if hi then 64 else 0) 64

/-! ## SRD and SWR (R351 to R353) -/

/-- TSTAT (R351). -/
def tstat (s : State) (c : CtxId) (x : Ctx) : W64 :=
  let st := match x.state with
    | .run => 0
    | .trapped => 1
    | .saved => 2
    | .parked => 3
    | .ended => 4
  let pend := (s.trapQ (dieOf c.cid) x.part).waiting.any (fun t => t.ctx == c && t.cause != cEvent)
  BitVec.ofNat 64 (bit1 x.rl.dbgHalt 8 + bit1 x.rc.dbgHalt 9 + bit1 x.rs.dbgHalt 10 + bit1 pend 3 + st)

/-- A special that belongs to a context (R111, R351); the others belong to a core, a slot, a die or the package. -/
def ctxSpecial (no : Nat) : Bool :=
  no == 0x40 || no == 0x47 || no == 0x48 || (no ≤ 0x11 && !([0x00, 0x01, 0x08, 0x09, 0x10].contains no))

/-- The value of a special of core `c.cid`, its die (partition `p`) or the package (R351). A core is excused while it is retired,
whatever the supervisor has set, and its CID is as the supervisor last set it once a spare serves it (R359, R361, R447). -/
def coreSpecial (s : State) (c : CtxId) (p no : Nat) : W64 :=
  let k := s.core c.cid
  let d := dieOf c.cid
  let q := s.trapQ d p
  match no with
  | 0x00 => BitVec.ofNat 64 c.cid
  | 0x01 => BitVec.ofNat 64 d
  | 0x08 => s.time d
  | 0x09 => s.cyc c.cid
  | 0x10 => BitVec.ofNat 64 (k.fmin * 256 + s.cad c.cid)
  | 0x41 => BitVec.ofNat 64 k.holdlim
  | 0x42 => BitVec.ofNat 64 (k.wlimmax[c.num]?.getD 0)
  | 0x43 => BitVec.ofNat 64 q.tqb
  | 0x44 => q.tqh.setWidth 64
  | 0x45 => q.tqt.setWidth 64
  | 0x46 => if k.excuse || k.retired then 1 else 0
  | 0x49 => if k.frozen.isSome then 1 else 0
  | 0x4A => BitVec.ofNat 64 (s.die d).ivlb
  | 0x4B => BitVec.ofNat 64 (s.die d).ivlt
  | 0x4C => BitVec.ofNat 64 k.ivla
  | 0x4D => BitVec.ofNat 64 ((s.die d).spares + (s.die d).sparesFailed * 16)
  | 0x4E => s.readPass false
  | 0x4F => s.readPass true
  | _ => 0

/-- The value of a special of a context; `r` is TROLE. -/
def contextSpecial (s : State) (c : CtxId) (x : Ctx) (r : Role) (no : Nat) : W64 :=
  match no with
  | 0x40 => BitVec.ofNat 64 (bit1 x.priv 8 + x.servPart)
  | 0x47 => tstat s c x
  | 0x48 => if x.dbgen then 1 else 0
  | _ => userSpecial s c x r no

/-- NO, TROLE and the partition of a die-partition special (R353). -/
def spcNo (v : WordX) : Nat := (field v.low 48 9).toNat
def spcRole (v : WordX) : Role := roleOf (field v.low 45 2).toNat
def spcPart (x : Ctx) (v : WordX) : Nat := if x.servPart = 31 then (field v.low 41 4).toNat else x.servPart

/-- The target of SRD and SWR: the issuer itself under SELF. For a special that belongs to no context only the core of the
ctxid counts; WLIMMAX belongs to a slot; of PTLO and PTHI the ctxid names any core of the package (R352). -/
def spcTarget (s : State) (w : Who) (x : Ctx) (v : WordX) (t : W64) (f : CtxId → Option Ctx → Eff) : Eff :=
  if bitAt v.low 47 then f w.c (some x)
  else if ctxSpecial (spcNo v) then onCtx s x t (fun c y => f c (some y))
  else if 0x4E ≤ spcNo v then if field t 15 49 ≠ 0 then .fault cRange t else f (idOf t) none
  else match idFault s x t (spcNo v == 0x42) with
    | some e => e
    | none => f (idOf t) none

def execSrd (v : WordX) (s : State) : Out :=
  runP (.srd v) v (fun w x s =>
    spcTarget s w x v (readSrc w x v.a 0) (fun c y =>
      .done (s.setS w v.d.toNat (match ctxSpecial (spcNo v), y with
        | true, some y => contextSpecial s c y (spcRole v) (spcNo v)
        | _, _ => coreSpecial s c (spcPart x v) (spcNo v))))) s

/-- A write of a special that belongs to no context; none where the value lies outside its limits (R351). -/
def writeCoreSpecial (s : State) (c : CtxId) (p no : Nat) (v : W64) : Option State :=
  let n := v.toNat
  let d := dieOf c.cid
  let when := fun (b : Bool) (t : State) => if b then some t else none
  match no with
  | 0x41 => when (decide (1024 ≤ n) && decide (n < 2 ^ 20)) (s.modCore c.cid (fun k => { k with holdlim := n }))
  | 0x42 => when (decide (1 ≤ n) && decide (n < 2 ^ 32))
      ((s.modCore c.cid (fun k => { k with wlimmax := k.wlimmax.setIfInBounds c.num n })).modCtx c
        (fun y => { y with wlim := Nat.min y.wlim n }))
  | 0x43 => when (n % 16384 == 0 && decide (n < 2 ^ 48)) (s.modTrapQ d p (fun q => { q with tqb := n }))
  | 0x44 => when (decide (n < 2 ^ 32)) (s.modTrapQ d p (fun q => { q with tqh := v.setWidth 32 }))
  | 0x46 => when (decide (n < 2)) (s.modCore c.cid (fun k => { k with excuse := bitAt v 0 }))
  | 0x49 => when (decide (n < 2)) (if bitAt v 0 then s.unfreeze c.cid else s)
  | 0x4A => when (n % 4096 == 0 && decide (n < 2 ^ 48)) (s.modDie d (fun k => { k with ivlb := n }))
  | 0x4E => some (s.writePass false v)
  | 0x4F => some (s.writePass true v)
  | _ => none

/-- A write of a special of a context; none where the value is refused. -/
def writeContextSpecial (s : State) (c : CtxId) (x : Ctx) (r : Role) (no : Nat) (v : W64) : Option State :=
  if no = 0x48 then if v.toNat < 2 then some (s.setCtx c { x with dbgen := bitAt v 0 }) else none
  else (setUserSpecial s c x r no v).map (s.setCtx c)

/-- What a write of a special gives, for a role, the debug mailbox and the SPECIAL_REGISTER_WRITE row. -/
def writeSpecial (s : State) (c : CtxId) (y : Option Ctx) (p : Nat) (r : Role) (no : Nat) (v : W64) : Option State :=
  match ctxSpecial no, y with
  | true, some y => writeContextSpecial s c y r no v
  | _, _ => writeCoreSpecial s c p no v

/-- A role stands at an instruction boundary: it has begun nothing that has not retired, or it is no live role; one under a debug halt
begins a word in which it waits anew (R102, R353). -/
def RoleSt.atBoundary (r : RoleSt) : Bool :=
  !r.live || (r.rest.isNone && (r.dbgHalt || (r.wait.isNone && r.arrived.isNone && r.mark.isNone && r.yieldLeft.isNone && !r.popped)))

/-- The roles of a context that have still to come to an instruction boundary, but for the one that issues. -/
def Ctx.offBoundary (x : Ctx) (own : Option Role) : List Role := Role.all.filter (fun r => some r != own && !(x.role r).atBoundary)

/-- The debug mailbox, where it stands for a role: the name of no context (R442). -/
def mailWho : Who := ⟨⟨0, 3⟩, .l⟩

/-- The SWR that a request stands for still waits. -/
def State.swrWaits (s : State) (q : SwrReq) : Bool :=
  if q.by_ = mailWho.c then bitAt s.host.dsts 0 else match s.ctx q.by_ with
  | some z => z.state == .run && (z.role q.role).wait == some .target
  | none => false

/-- SWR of a special of a context in RUN: it takes the value once each of its roles has come to an instruction boundary, and SWR waits
for that. An SWR that meets another one of the same target waits for it (R353, log 23). -/
def swrRunning (s : State) (w : Who) (c : CtxId) (y : Ctx) (no : Nat) (r : Role) (v : W64) : Eff :=
  let own := if c = w.c then some w.r else none
  let write := match writeContextSpecial s c { y with swr := none } r no v with
    | some t => .done t
    | none => .fault cRange v
  let ask := fun (left : List Role) => if left.isEmpty then write
    else .waitIn .target (s.setCtx c { y with swr := some ⟨w.c, w.r, no, r, v, left⟩ })
  match y.swr with
  | some q =>
    if q.by_ = w.c ∧ q.role = w.r ∧ q.no = no ∧ q.trole = r ∧ q.v = v then ask (q.left.filter (y.offBoundary own).contains)
    else if s.swrWaits q then .wait .target
    else ask (y.offBoundary own)
  | none => ask (y.offBoundary own)

/-- SWR of a special of a context: the value is checked before the target (R368). -/
def swrContext (s : State) (w : Who) (c : CtxId) (t : W64) (no : Nat) (r : Role) (v : W64) : Eff :=
  if (writeContextSpecial s c ((s.ctx c).getD {}) r no v).isNone then .fault cRange v
  else match s.ctx c with
    | none => .fault cTarget t
    | some y =>
      if y.state = .run then swrRunning s w c y no r v
      else match writeContextSpecial s c { y with swr := none } r no v with
        | some u => .done u
        | none => .fault cRange v

def execSwr (v : WordX) (s : State) : Out :=
  runP (.swr v) v (fun w x s =>
    let t := readSrc w x v.b 0
    let n := readSrc w x v.a 0
    if 0x4E ≤ spcNo v ∧ x.servPart ≠ 31 then .fault cPrivilege t
    else if ctxSpecial (spcNo v) then
      if bitAt v.low 47 then swrContext s w w.c t (spcNo v) (spcRole v) n
      else match idFault s x t true with
        | some e => e
        | none => swrContext s w (idOf t) t (spcNo v) (spcRole v) n
    else spcTarget s w x v t (fun c _ =>
      match writeCoreSpecial s c (spcPart x v) (spcNo v) n with
      | some u => .done u
      | none => .fault cRange n)) s

/-! ## ERET (R354) -/

/-- MODE. -/
def eretMode (v : WordX) : Nat := (field v.low 48 2).toNat

/-- The effect on a TRAPPED context. -/
def resumeCtx (s : State) (c : CtxId) (y : Ctx) (mode role cause : Nat) : State :=
  if mode = 2 then s.endDomain y.kernel cause
  else if cause = cCopyFault then
    (s.endFault c (role == 2)).modCtx c (fun z => if z.state = .trapped then z.resume [] false else z)
  else
    let s1 := s.setCtx c (y.resume (s.textOf y) (mode == 1 && role < 3))
    match y.late with
    | some f => if mode = 0 then s1.sendFlight c (s.part y.part).jkey f else s1
    | none => s1

def execEret (v : WordX) (s : State) : Out :=
  runP (.eret v) v (fun w x s =>
    let t := readSrc w x v.a 0
    onCtx s x t (fun c y =>
      match y.state, y.trap with
      | .trapped, some (role, cause, _, _) =>
        if (eretMode v = 1 ∧ role = 3) ∨ (eretMode v = 0 ∧ cause = cCopyFault) then .fault cRange t
        else if !released s w.c x w.r x.nextId 2 then .wait .fence
        else .done (resumeCtx s c y (eretMode v) role cause)
      | _, _ => .fault cTarget t)) s

/-! ## Invalidation (R362, R363, R394) -/

/-- The 16 bytes of a log record (R394). -/
def InvRec.bytes (r : InvRec) : List Byte :=
  bytesN r.va 8 ++ bytesN ((if r.all then 0 else if r.size = 65536 then 0 else if r.size = 2097152 then 1 else 2) + bit1 r.all 2) 4 ++
    bytesN r.idx 4

/-- Appends a record to the log of a die, copies it to IVLB, and marks the cores that have not applied the record it
overwrites (R394). -/
def State.appendLog (s : State) (p : Nat) (r : InvRec) (d : Nat) : State :=
  let s := s.modDie d (fun k => { k with
    log := (k.log.filter (fun e => e.idx % 256 != r.idx % 256)) ++ [r], ivlt := (r.idx + 1) % 2 ^ 32 })
  let s := (coresOf d).foldl (fun (s : State) cid =>
    if 256 < (r.idx + 1 + 2 ^ 32 - (s.core cid).ivla) % 2 ^ 32 then s.modCore cid (fun k => { k with flush := true }) else s) s
  if (s.die d).ivlb = 0 then s else s.tryWrite p ((s.die d).ivlb + 16 * (r.idx % 256)) r.bytes

/-- INVL on a partition: it takes the next index, and its record goes to the store buffer, which publishes it on every die under its
release at package scope: the role goes on at once, whatever the buffer holds (R362, log 23). -/
def State.invalidate (s : State) (w : Who) (x : Ctx) (all : Bool) (size va : Nat) : State :=
  let i := (s.part x.part).ivlt
  ((s.modPart x.part (fun q => { q with ivlt := (i + 1) % 2 ^ 32 })).setCtx w.c { x with nextId := x.nextId + 1 }).modCore w.c.cid
    (fun k => { k with sbuf := k.sbuf ++ [{ id := x.nextId, ctx := w.c, role := w.r, place := .log x.part ⟨i, all, size, va⟩, va := 0,
                                            data := [], more := [], rel := true, scope := 2, cache := 0 }] })

def execInvl (v : WordX) (s : State) : Out :=
  runP (.invl v) v (fun w x s =>
    let a := readSrc w x v.a 0
    let sz := (field v.low 48 2).toNat
    let all := bitAt v.low 50
    let size := if sz = 0 then 65536 else if sz = 1 then 2097152 else 1073741824
    if sz = 3 ∨ a.toNat % size ≠ 0 ∨ 2 ^ 48 ≤ a.toNat ∨ (all ∧ a ≠ 0) then .fault cRange a
    else .done ((s.invalidate w x all size a.toNat).setS w v.d.toNat (BitVec.ofNat 64 (s.part x.part).ivlt))) s

/-- The cores of a partition that apply entries: a retired one is skipped. -/
def State.liveCores (s : State) (p : Nat) : List Nat :=
  ((s.diesOf p).flatMap coresOf).filter (fun cid => !(s.core cid).retired)

/-- A core's IVLA has reached index `i`. -/
def reachedIdx (ivla i : Nat) : Bool := decide ((ivla + 2 ^ 32 - i % 2 ^ 32) % 2 ^ 32 < 2 ^ 31)

/-- The index that IVLA has to reach: past the operand's, or the IVLT noted at issue. -/
def invaTarget (v : WordX) (w : Who) (x : Ctx) (s : State) : Nat :=
  match (x.role w.r).mark with
  | some m => m.toNat
  | none => if bitAt v.low 48 then (s.part x.part).ivlt else (readSrc w x v.a 0).toNat % 2 ^ 32 + 1

/-- Every core applies the entries; INVA waits until each IVLA has reached the index. -/
def effInva (v : WordX) : Effect := fun w x s =>
  let target := invaTarget v w x s
  let s1 := (s.liveCores x.part).foldl (fun (s : State) cid => s.applyLog cid) s
  if (s1.liveCores x.part).all (fun cid => reachedIdx (s1.core cid).ivla target) then .done s1
  else .waitIn .target (s1.modRole w (fun r => { r with mark := some (BitVec.ofNat 64 target) }))

def execInva (v : WordX) (s : State) : Out := runP (.inva v) v (effInva v) s

/-- INVALIDATION_APPLY: core `cid` applies its log; IVLA advances once the accesses it affects are performed (R395). -/
def execInvalidationApply (s : State) : Out := .next (s.applyLog s.inp.cid)

/-! ## The standing table (R364) -/

/-- STN, TRACK and SLOT of a location. -/
def stLoc (v : W64) : Nat × Nat × Nat := ((field v 0 7).toNat, (field v 7 3).toNat, (field v 10 9).toNat)

/-- The faults of a location. -/
def locFault (s : State) (x : Ctx) (v : W64) : Option Eff :=
  faults [(field v 19 45 != 0, cRange, v), (!s.inScope x (stationUnit (stLoc v).1), cPrivilege, v)]

/-- An entry that STBW refuses; at a compute station bits [31:23] of TGT are reserved (R275, log 22). -/
def entryBad (stn : Nat) (e : W64) : Bool :=
  decide (6 ≤ entOp e) || (entOp e == 5 && isDieStation stn) || ((entOp e == 3 || entOp e == 5) && entFmt e == 3#2) ||
    field e 32 4 != 0#4 || (isDieStation stn && field e 23 9 != 0#9)

def execStbw (v : WordX) (s : State) : Out :=
  runP (.stbw v) v (fun w x s =>
    let l := readSrc w x v.b 0
    let e := readSrc w x v.a 0
    match locFault s x l with
    | some f => f
    | none =>
      let (stn, trk, slot) := stLoc l
      if entryBad stn e then .fault cRange e else .done { s with ring := s.ring.setEntry stn trk slot e }) s

def execStbr (v : WordX) (s : State) : Out :=
  runP (.stbr v) v (fun w x s =>
    let l := readSrc w x v.b 0
    match locFault s x l with
    | some f => f
    | none =>
      let (stn, trk, slot) := stLoc l
      .done (s.setS w v.d.toNat (s.ring.entry stn trk slot))) s

/-! ## Revocation and parking (R35, R358, R387) -/

def execPark (v : WordX) (s : State) : Out :=
  runP (.park v) v (fun w x s =>
    let t := readSrc w x v.a 0
    onCtx s x t (fun c y =>
      if c.num = 0 ∨ (y.state ≠ .run ∧ y.state ≠ .trapped) then .fault cTarget t
      else .done ((s.revoke c 0).setS w v.d.toNat (BitVec.ofNat 64 (c.num - 1))))) s

/-- The F loads of a context that resumes leave again (R176). -/
def State.reissue (s : State) (c : CtxId) : State :=
  match s.ctx c with
  | none => s
  | some x => x.flights.foldl (fun (s : State) f =>
    if f.atom.isNone ∧ f.data.isNone ∧ !s.fab.pkts.any (fun p => p.ctx == c && p.kind == .load f.id) then
      s.sendFlight c (s.part x.part).jkey f
    else s) s

/-- A parked context goes on: RUN, or TRAPPED where it was parked so (log 23); its core applies its log (R394). -/
def State.unpark (s : State) (c : CtxId) : State :=
  ((s.modCtx c (fun y => { y with state := y.savedAs, parkedFor := 0 })).reissue c).applyLog c.cid

def execUnpark (v : WordX) (s : State) : Out :=
  runP (.unpark v) v (fun w x s =>
    let t := readSrc w x v.a 0
    onCtx s x t (fun c y =>
      if c.num = 0 ∨ y.state ≠ .parked then .fault cTarget t
      else if !released s w.c x w.r x.nextId 2 then .wait .fence
      else .done (s.unpark c))) s

/-! ## Saving and loading (R355 to R357) -/

/-- What CTXSV asks of its target; none where the target is in none of the states of R355. -/
def State.beginSave (s : State) (w : Who) (c : CtxId) (y : Ctx) (addr : Nat) : Option State :=
  if c.num = 0 then
    match y.state with
    | .trapped => some (s.saveFor c w.c w.r addr 3)
    | .run => some (s.setCtx c { y with async := y.async ++ [⟨.save w.c w.r addr, 0⟩] })
    | _ => none
  else match y.state with
    | .parked => some (s.saveFor c w.c w.r addr 2)
    | _ => none

/-- The role waits; the save notes its code at the role, or −1 where the image could not be written (log 17). A harvest context is
revoked first; what a save must not leave behind is waited for. -/
def effCtxsv (v : WordX) : Effect := fun w x s =>
  let t := readSrc w x v.a 0
  let b := readSrc w x v.b 0
  match (x.role w.r).wait, (x.role w.r).mark with
  | some .target, some m => if m = -1 then .fault cTranslation b else .done (s.setS w v.d.toNat m)
  | some .target, none => .wait .target
  | _, _ =>
    onCtx s x t (fun c y =>
      if b.toNat % 4096 ≠ 0 then .fault cAlign b
      else if c.num ≠ 0 ∧ y.state = .run then .waitIn .fence (s.revoke c 0)
      else if y.state ≠ .run ∧ y.state ≠ .ended ∧ y.state ≠ .saved ∧ !s.saveReady c y then .wait .fence
      else match (s.waitOn w .target).beginSave w c (match (s.waitOn w .target).ctx c with
          | some z => z
          | none => y) b.toNat with
        | some s1 => .waitIn .target s1
        | none => .fault cTarget t)

def execCtxsv (v : WordX) (s : State) : Out := runP (.ctxsv v) v (effCtxsv v) s

/-- The sum of the budgets on a core: its contexts that hold storage (A, W, Z). -/
def State.budgets (s : State) (cid : Nat) : Nat × Nat × Nat :=
  (s.ctxs.filter (fun (c, y) => c.cid == cid && y.state != .ended && !y.stored)).foldl
    (fun t (_, y) => (t.1 + y.abud, t.2.1 + y.wbud, t.2.2 + y.zbud)) (0, 0, 0)

/-- A budget fits beside those on a core (R33, R386). -/
def State.fits (s : State) (cid a w z : Nat) : Bool :=
  let t := s.budgets cid
  decide (t.1 + a ≤ 49152) && decide (t.2.1 + w ≤ 24576) && decide (t.2.2 + z ≤ 24576)

/-- Nothing of the context that stood in a slot is left in the core or in the fabric. -/
def State.slotClean (s : State) (c : CtxId) : Bool :=
  s.slotFree c && !(s.core c.cid).sbuf.any (fun e => e.ctx == c) && !s.fab.pkts.any (fun p => p.ctx == c) &&
    !s.fab.stos.any (fun o => o.ctx == c)

/-- The context of a slot that has an image with the kernel's RCB address: in the slot, or saved away from it. -/
def State.savedOf (s : State) (c : CtxId) (rcb : Nat) : Option Ctx :=
  let ok : Ctx → Bool := fun y => y.stored && s.rcbOf y == rcb
  match (s.ctx c).filter ok with
  | some y => some y
  | none => (s.away.find? (fun e => e.1 == c && ok e.2)).map (·.2)

/-- Puts a context into its slot; a saved one that stands there is kept away. -/
def State.place (s : State) (c : CtxId) (x : Ctx) : State :=
  let old := match s.ctx c with
    | some y => if y.state = .saved ∧ y.kernel ≠ x.kernel then [(c, y)] else []
    | none => []
  State.setCtx { s with away := s.away.filter (fun e => !(e.1 == c && e.2.kernel == x.kernel)) ++ old } c x

/-- A saved context goes on in its slot, in the state its image records (R356); its core applies its log (R394). -/
def State.restore (s : State) (c : CtxId) (y : Ctx) : State :=
  ((s.place c { y with state := y.savedAs, image := none, claimed := false,
                       badText := if y.image.isSome then [] else y.badText }).reissue c).applyLog c.cid

/-- The body of an image stands at an address (R357). -/
def isImage (body : List Byte) (no : Nat) : Bool :=
  body == (List.range 131008).map (fun i => (Config.freeWord (no + i)).setWidth 8)

/-- The context that an image holds: the live one, unless the image is an earlier one of it (log 10). -/
def State.imageOf (s : State) (y : Ctx) (body : List Byte) : Ctx :=
  if isImage body y.imageNo then y
  else match s.images.find? (fun e => e.2.kernel == y.kernel && e.2.gidx == y.gidx && isImage body e.1) with
    | some (_, z) => { z with state := .saved, savedAs := if z.isTrapped then .trapped else .run, async := [] }
    | none => y

/-- Reads runs of an image through a core's translations; or the cause, and the address at which it fails (R392, R393, R405). -/
def State.loadRuns (s : State) (cid part : Nat) : List (Nat × Nat) → Except (Nat × Nat) (List Byte)
  | [] => .ok []
  | (va, n) :: r =>
    match s.look cid part va false with
    | .error c => .error (c, va)
    | .ok pa =>
      if s.badG pa n then .error (cMemory, va)
      else (State.loadRuns s cid part r).map (s.readG pa n ++ ·)

/-- The runs of an image: each lies in one page. -/
def imageRuns (va : Nat) : List (Nat × Nat) := (List.range 32).flatMap (fun i => pageParts (va + 4096 * i) 4096)

/-- The header is checked first, then the target, and the body is read last: one that cannot be read raises the fault of its first
unreadable part, and nothing is restored (R356; log 23). -/
def effCtxld (v : WordX) : Effect := fun w x s =>
  let t := readSrc w x v.a 0
  let b := readSrc w x v.b 0
  match idFault s x t true, s.loadRuns w.c.cid x.part (pageParts b.toNat 64) with
  | some e, _ => e
  | none, .error e => .fault e.1 (BitVec.ofNat 64 e.2)
  | none, .ok h =>
    let c := idOf t
    if numAt h 0 4 ≠ 0x4B435831 ∨ numAt h 4 2 ≠ c.cid ∨ numAt h 6 1 ≠ c.num ∨
        numAt h 8 4 ≠ Config.implCode.toNat then .fault cRange b
    else match s.savedOf c (numAt h 0x10 8) with
      | none => .fault cTarget t
      | some y =>
        if !s.slotClean c ∨ (s.core c.cid).retired ∨ !s.fits c.cid y.abud y.wbud y.zbud then .fault cTarget t
        else if !released s w.c x w.r x.nextId 2 then .wait .fence
        else match s.loadRuns w.c.cid x.part (imageRuns b.toNat) with
          | .error e => .fault e.1 (BitVec.ofNat 64 e.2)
          | .ok l => .done (((s.release w.c 2).keepLeaves w.c.cid x.part (imageRuns b.toNat)).restore c (s.imageOf y (l.drop 64)))

def execCtxld (v : WordX) (s : State) : Out := runP (.ctxld v) v (effCtxld v) s

/-! ## Retirement and spares (R218, R359 to R361, R409) -/

/-- Every arrival of a context is withdrawn; one on channel 0, whose releases report no status, shows on every channel
(R218, R409). -/
def State.withdraw (s : State) (c : CtxId) (x : Ctx) : State :=
  (s.modKernel x.kernel (fun k => { k with chans := Vector.ofFn (fun i : Fin 16 =>
      if (x.chan i).pending ∨ x.phaseArrived then { k.chans[i] with withdrawn := true } else k.chans[i]) })).setCtx c
    { x with chans := x.chans.map (fun e => { e with pending := false }), phaseArrived := false }

/-- A context of a retired core ends with the retired trap recorded, and its kernel's leaf decides the rest (R409). -/
def State.retireCtx (s : State) (c : CtxId) : State :=
  match s.ctx c with
  | none => s
  | some x =>
    let s := (s.withdraw c x).modKernel x.kernel (fun k => { k with lost := c :: k.lost })
    let d := dieOf c.cid
    let t : TrapRec := ⟨c, 3, cRetired, false, 0, s.rcbOf x, [x.rl.pc, x.rc.pc, x.rs.pc], 0, s.time d, s.cyc c.cid⟩
    let s := ((s.appendRec d x.part t).getD s).finishCtx c
    match s.kernel x.kernel with
    | none => s
    | some k =>
      let s := s.modNode k.node (fun n => { n with retc := n.retc + 1 })
      match s.node k.node with
      | some n => if n.fdom then s.endDomain k.id cRetired else s
      | none => s

/-- Retires a core: its contexts that are not saved away end, and its freeze, its lease and its array end with it. -/
def State.retireCore (s : State) (cid : Nat) : State :=
  if (s.core cid).retired then s
  else
    let d := dieOf cid
    let sp := (s.core cid).spare
    let s := s.modCore cid (fun k => { k with retired := true, spare := false, frozen := none, lease := none, arrayOf := none })
    let s := if sp then s.modDie d (fun k => { k with spares := k.spares - 1, sparesFailed := k.sparesFailed + 1 }) else s
    let l := (s.ctxs.filter (fun (c, y) => c.cid == cid && y.state != .ended && !y.stored)).map (·.1)
    l.foldl State.retireCtx s

def execRetire (v : WordX) (s : State) : Out :=
  runP (.retire v) v (fun w x s =>
    let t := readSrc w x v.a 0
    if field t 0 2 ≠ 0 then .fault cRange t else onCore s x t (fun cid => .done (s.retireCore cid))) s

/-- Spare physical cores of a die that are left: four are built (R11). -/
def Die.left (d : Die) : Nat := 4 - d.spares - d.sparesFailed

/-- A spare takes the place of a retired core: empty buffers and no context; EXCUSE stays. -/
def State.bringSpare (s : State) (cid : Nat) : State :=
  let k := s.core cid
  let d := s.die (dieOf cid)
  { s with
    ctxs := s.ctxs.filter (fun (c, y) => !(c.cid == cid && y.state == .ended))
    cores := aset s.cores cid { lost := k.lost, excuse := k.excuse, spare := true, ivla := d.ivlt }
    dies := aset s.dies (dieOf cid) { d with spares := d.spares + 1 } }

def execSpare (v : WordX) (s : State) : Out :=
  runP (.spare v) v (fun w x s =>
    let t := readSrc w x v.a 0
    onCore s x t (fun cid =>
      if !(s.core cid).retired then .fault cTarget t
      else if (s.die (dieOf cid)).left = 0 then .done (s.setS w v.d.toNat 1)
      else .done ((s.bringSpare cid).setS w v.d.toNat 0))) s

/-! ## DBGH and IDLE (R365, R366) -/

/-- Sets or clears the debug halt of the roles in a mask. -/
def Ctx.haltRoles (x : Ctx) (rm : BitVec 3) (h : Bool) : Ctx :=
  Role.all.foldl (fun x r => if bitAt rm (Role.code r) then x.setRole r { x.role r with dbgHalt := h } else x) x

/-- What DBGH does: OP, role mask, core or context. -/
def State.debug (s : State) (op : Nat) (rm : BitVec 3) (c : CtxId) : State :=
  match op with
  | 0 => s.modCtx c (fun x => x.haltRoles rm true)
  | 1 => s.modCtx c (fun x => x.haltRoles rm false)
  | 2 => s.modDie (dieOf c.cid) (fun d => { d with dbgHold := true })
  | _ => s.modDie (dieOf c.cid) (fun d => { d with dbgHold := false })

def execDbgh (v : WordX) (s : State) : Out :=
  runP (.dbgh v) v (fun w x s =>
    let t := readSrc w x v.a 0
    let op := (field v.low 48 2).toNat
    let rm := field v.low 50 3
    if (rm = 0) ↔ (op < 2) then .fault cRange t
    else if op < 2 then onCtx s x t (fun c _ => .done (s.debug op rm c))
    else onCore s x t (fun cid => .done (s.debug op rm ⟨cid, 0⟩))) s

def effIdle (v : WordX) : Effect := fun w x s =>
  let a := readSrc w x v.a 0
  let q := s.trapQ (dieOf w.c.cid) x.part
  let try_ := bitAt v.low 56
  let exceeds : Bool := match (x.role w.r).mark with
    | some m => a != 0 && decide (a ≤ s.cyc w.c.cid - m)
    | none => false
  if q.tqt ≠ q.tqh ∨ (exceeds ∧ !try_) then .done ((s.acquire w.c.cid 2).setS w v.d.toNat (q.tqt.setWidth 64))
  else if try_ ∨ (x.role w.r).mark.isSome then .wait .idle
  else .waitIn .idle (s.modRole w (fun r => { r with mark := some (s.cyc w.c.cid) }))

def execIdle (v : WordX) (s : State) : Out :=
  runWord (.idle v) { role := v.role, tok := v.tok, guard := v.guard, codes := [v.d, v.a, v.b], priv := true,
                      try_ := if bitAt v.low 56 then some (field v.low 53 3).toNat else none } (effIdle v) s

/-- IDLE_CYCLE_LIMIT: the cycles that an IDLE of role `r` of `c` still waits for go by, and it ends (R366). -/
def execIdleCycleLimit (s : State) : Out :=
  let w : Who := ⟨s.inp.c, s.inp.r⟩
  match s.ctx w.c with
  | none => .next s
  | some x =>
    match decode (fetchBytes (s.textOf x) (x.role w.r).pc), (x.role w.r).mark with
    | .ok (.idle v, _), some m =>
      let a := readSrc w x v.a 0
      let n := (a - (s.cyc w.c.cid - m)).toNat
      if (x.role w.r).wait = some .idle ∧ a ≠ 0 ∧ s.canIssue w ∧ (x.role w.r).waited + n < x.wlim then
        .next (s.lapse n (fun s => match execIdle v { s with turn := .role w.c w.r } with
          | .next t => { t with turn := s.turn }
          | _ => s))
      else .next s
    | _, _ => .next s

/-- TRAP_RECORD_PENDING_APPEND: the oldest record that waits at the queue of a die and partition is appended once room
exists (R369). -/
def execTrapRecordPendingAppend (s : State) : Out :=
  let d := s.inp.die
  let p := s.inp.part
  let q := s.trapQ d p
  match q.waiting with
  | [] => .next s
  | t :: _ =>
    if q.full ∨ s.devBusy p (q.tqb + 64 * (q.tqt.toNat % 256)) then .next s
    else
      let s1 := s.modTrapQ d p (fun q => { q with waiting := q.waiting.tail })
      match s1.storeRec d p t with
      | some s2 => .next s2
      | none => .next (if t.cause = cEvent then s1 else match s1.ctx t.ctx with
        | some x => if x.state = .ended then s1 else s1.endDomain x.kernel t.cause
        | none => s1)

/-! ## Rows of special-register writes -/

/-- The target of a write by the device or a debugger: context `c`, when it exists. -/
def State.put (s : State) (no : Nat) (v : W64) : State :=
  (writeSpecial s s.inp.c (s.ctx s.inp.c) s.inp.part s.inp.r no v).getD s

/-- SEED_WRITE: SEED of context `c` takes `v`, and every lane LFSR is seeded from it (R61). -/
def execSeedWrite (s : State) : Out := .next (s.put 0x0E s.inp.v)
/-- WIN_WRITE: WIN of context `c` takes `v`; it governs from the C role's next A-tagged instruction on (R40). -/
def execWinWrite (s : State) : Out := .next (s.put 0x0C s.inp.v)
/-- WLIMMAX_WRITE: WLIMMAX of the slot of `c` takes `v`; a larger WLIM falls to it (R351). -/
def execWlimmaxWrite (s : State) : Out := .next (s.put 0x42 s.inp.v)
/-- PASS_THROUGH_WRITE: PTLO, or PTHI under `flag`, takes `v` (R352). -/
def execPassThroughWrite (s : State) : Out := .next (s.writePass s.inp.flag s.inp.v)
end Sys2Proof.Machine
end

