-- ==== Sys2Proof/Machine/Barrier.lean ====
section
/-! DEFINITION. Device steps that release roles or end their waits: barriers and PHASE (R215 to R221), self-deadlock and
wait-timeout (R222, R223), the hold-off overrun (R46), detection waves (R270), the ends of WAITC and YLD. -/

namespace Sys2Proof.Machine

/-! ## Barriers -/

/-- A context of a kernel: in its slot, or saved away from it. -/
def State.member (s : State) (k : Kernel) (c : CtxId) : Option Ctx :=
  match (s.ctx c).filter (fun x => x.kernel == k.id) with
  | some x => some x
  | none => (s.away.find? (fun e => e.1 == c && e.2.kernel == k.id)).map (·.2)

/-- Changes a context of a kernel. -/
def State.modMember (s : State) (k : Kernel) (c : CtxId) (f : Ctx → Ctx) : State :=
  if s.ofKernel c k.id then s.modCtx c f
  else { s with away := s.away.map (fun e => if e.1 = c ∧ e.2.kernel = k.id then (e.1, f e.2) else e) }

/-- A participant is excused: by the supervisor, or by its retirement (R215, R218). -/
def State.excused (s : State) (k : Kernel) (c : CtxId) : Bool :=
  (s.core c.cid).excuse || (s.core c.cid).retired || k.lost.contains c

/-- Every participant has arrived or is excused, and one has arrived. -/
def State.allArrived (s : State) (k : Kernel) (arrived : Ctx → Bool) : Bool :=
  let a := fun c => match s.member k c with
    | some x => arrived x
    | none => false
  k.grant.all (fun c => a c || s.excused k c) && k.grant.any a

/-- The status of a release (R218). -/
def releaseStatus (rels : Nat) (exc retired : Bool) : W64 := BitVec.ofNat 64 (rels % 2 ^ 16 * 2 ^ 16 + bit1 exc 1 + bit1 retired 0)

/-- Channel `e` of a kernel releases: every member's latest arrival is released, with its status latched (R218, R220). -/
def State.releaseChan (s : State) (k : Kernel) (e : Nat) : State :=
  let ch := k.chans[e]?.getD {}
  let st := releaseStatus (ch.rels + 1) (k.grant.any (s.excused k)) ch.withdrawn
  k.grant.foldl (fun (s : State) c => s.modMember k c (fun x =>
      x.setChan e { x.chan e with pending := false, status := st }))
    (s.modKernel k.id (fun k => { k with chans := k.chans.setIfInBounds e ⟨ch.rels + 1, false⟩ }))

/-- BARRIER_RELEASE: logical channel `e` of kernel `k` releases (R218). -/
def execBarrierRelease (s : State) : Out :=
  match s.kernel s.inp.k with
  | none => .next s
  | some k =>
    if k.state = .running ∧ 1 ≤ s.inp.e ∧ s.inp.e < k.g ∧ s.allArrived k (fun x => (x.chan s.inp.e).pending) then
      .next (s.releaseChan k s.inp.e)
    else .next s

/-- A multiply whose first plane has entered the array still has planes to inject (R427). -/
def ACmd.injecting (a : ACmd) : Bool :=
  match a.kind with
  | .mma _ _ nr t _ _ _ _ => a.begun && !a.done && !(a.next + 1 == nr && a.inj == blockWidth t)
  | _ => false

/-- A step start of a kernel at reference TIME `ts`: a core whose array injects no command defers its first plane (R427). -/
def State.stepStart (s : State) (k : Kernel) (ts : Nat) : State :=
  k.grant.foldl (fun (s : State) c =>
    let busy := s.ctxs.any (fun (d, x) => d.cid == c.cid && (x.state == .run || x.state == .trapped) && x.acmds.any ACmd.injecting)
    let g := groupOf (dieOf c.cid)
    let off := if s.power.thawEn then s.power.thawStep * (s.power.ord.getD g 0 + 16 * s.power.thawPod) else 0
    if busy then s else s.modCore c.cid (fun j => { j with thaw := some (ts + 64 + off) })) s

/-- A checkpoint of a kernel waits for its freeze at the next PHASE release (R414, R417). -/
def State.freezeDue (s : State) (k : Nat) : Bool :=
  s.ck.reqs.any (fun r => r.kernel == k && r.state == .waiting) && !s.ck.reqs.any (fun r => r.kernel == k && (r.state == .copying || r.state == .failed))

/-- Channel 0 of a kernel can release: every participant has arrived. -/
def State.phaseFull (s : State) (k : Kernel) : Bool := k.state == .running && s.allArrived k (·.phaseArrived)

/-- The release of channel 0: PHN advances, and the contexts go on; one that does not run, or whose core or die is held, keeps the release (R220, R221, R225, R419). -/
def State.releasePhase (s : State) (k : Kernel) : State :=
  let ch := k.chans[0]
  let s := s.modKernel k.id (fun k => { k with phn := k.phn + 1, chans := k.chans.set 0 ⟨ch.rels + 1, false⟩ })
  (k.grant.foldl (fun (s : State) c => match s.member k c with
    | some x =>
      if !x.phaseArrived then s
      else if x.state = .run ∧ s.ofKernel c k.id ∧ (s.core c.cid).frozen.isNone ∧ !(s.die (dieOf c.cid)).dbgHold ∧
          !s.logUsers c.cid then s.phasePass c
      else s.modMember k c (fun x => { x with phaseArrived := false, phaseDone := true })
    | none => s) s).stepStart k s.refTime

/-- PHASE_BARRIER_RELEASE: channel 0 of kernel `k` releases; a checkpoint's freeze comes first (R221, R414). -/
def execPhaseBarrierRelease (s : State) : Out :=
  match s.kernel s.inp.k with
  | none => .next s
  | some k => if s.phaseFull k ∧ !s.freezeDue k.id then .next (s.releasePhase k) else .next s

/-! ## Waits that do not end -/

/-- Every live role of a context is blocked on its own queues, and nothing of it is in flight (R222, R224, R231). -/
def Ctx.deadlocked (x : Ctx) : Bool :=
  x.state == .run && Role.all.any (fun r => (x.role r).live) &&
  Role.all.all (fun r => let v := x.role r
    !v.live || (!v.dbgHalt && v.seen == x.shared && match v.wait with
      | some k => k.deadlock
      | none => false)) &&
  x.flights.isEmpty && x.loadQ.isEmpty && x.storeQ.isEmpty && x.acmds.isEmpty &&
  x.qs.toList.all (fun q => match q.bind with
    | some b => b.cmd.isNone
    | none => true)

/-- SELF_DEADLOCK of context `c` (R222). -/
def execSelfDeadlock (s : State) : Out :=
  match s.ctx s.inp.c with
  | some x =>
    if x.deadlocked ∧ (s.core s.inp.c.cid).frozen.isNone then .next (s.deliver s.inp.c 3 cDeadlock 0 0 false) else .next s
  | none => .next s

/-- The count of a role's wait has reached WLIM (R223). -/
def State.timeOut (s : State) (w : Who) : State :=
  match s.ctx w.c with
  | some x =>
    let v := x.role w.r
    let due : Bool := match v.wait with
      | some k => k.counts && decide (x.wlim ≤ v.waited) && (!k.deadlock || v.seen == x.shared)
      | none => false
    if due ∧ s.canIssue w then s.raise w cTimeout 0 else s
  | none => s

/-- WAIT_TIMEOUT of role `r` of context `c`: its count has reached WLIM (R223), in the very cycle perhaps in which another role's fault
stops the context (R371). -/
def execWaitTimeout (s : State) : Out :=
  let w : Who := ⟨s.inp.c, s.inp.r⟩
  .next (if s.canIssue w then s.timeOut w else s.furtherFault w (fun t => t.timeOut w))

/-- Engine commands of a context are in transfer. -/
def Ctx.inTransfer (x : Ctx) : Bool :=
  x.loadQ.any (fun k => k.begun && !k.finished && !k.ended) || x.storeQ.any (fun k => k.begun && !k.finished && !k.ended)

/-- HOLD_OFF_OVERRUN of context `c`: an event has been held off for HOLDLIM cycles, and the trap is delivered; once the
commands in transfer are complete or the core has frozen, the context is saved (R46, R355). A context that has trapped for
another cause is saved so too (R355, R385). -/
def execHoldOffOverrun (s : State) : Out :=
  let c := s.inp.c
  match s.ctx c with
  | none => .next s
  | some x =>
    if x.async.isEmpty then .next s
    else match x.state, x.trap with
      | .run, _ =>
        if (s.core c.cid).holdlim ≤ x.heldOff then .next (s.deliver c 3 cHoldOff 0 0 false) else .next s
      | .trapped, some (_, cause, _, _) =>
        if cause = cHoldOff ∧ x.inTransfer ∧ (s.core c.cid).frozen.isNone then .next s
        else if x.async.any (·.isSave) ∧ !s.saveReady c x then .next s
        else .next (s.takeAsync c (if cause = cHoldOff then 1 else 3))
      | _, _ => .next s

/-! ## Detection waves (R270) -/

/-- A context counts as idle: its mark, or its halted roles, with its accesses performed (R269). -/
def State.ctxIdle (s : State) (k : Kernel) (c : CtxId) : Bool :=
  match s.member k c with
  | none => true
  | some x =>
    x.state == .ended || ((x.idle || Role.all.all (fun r => !(x.role r).live)) && x.kstores.isEmpty &&
      x.flights.all (·.data.isSome) && !(s.core c.cid).sbuf.any (fun e => e.ctx == c) &&
      !s.fab.pkts.any (fun p => p.ctx == c && p.pkg == s.fab.pkgid && p.served.isNone && p.kind.isStore))

/-- DETECTION_WAVE over kernel `k`: two consecutive waves that find it quiet with the same total set the latch. -/
def execDetectionWave (s : State) : Out :=
  match s.kernel s.inp.k with
  | none => .next s
  | some k => match k.wl with
    | none => .next s
    | some l =>
      let quiet := l.lists.all (·.isEmpty) && l.appended == l.taken && k.grant.all (s.ctxIdle k)
      let latch := l.latch || (quiet && l.wave == some (true, l.appended))
      .next (s.modKernel k.id (fun k => { k with wl := some { l with wave := some (quiet, l.appended), latch := latch } }))

/-! ## Clocks -/

/-- Cycles until the clock of a WAITC has reached a value; none where it never does. -/
def cyclesUntil (s : State) (c : CtxId) (v : WordS) (a : W64) : Option Nat :=
  if bitAt v.mod 0 then
    if s.info.cal then some (2 * a.toNat - (s.regionTime (dieOf c.cid)).toNat) else none
  else some (a.toNat - (s.cyc c.cid).toNat)

/-- WAITC_CLOCK_REACHED: the clock that role `r` of `c` waits for reaches its value, and the WAITC completes (R121). -/
def execWaitcClockReached (s : State) : Out :=
  let w : Who := ⟨s.inp.c, s.inp.r⟩
  match s.ctx w.c with
  | none => .next s
  | some x =>
    match decode (fetchBytes (s.textOf x) (x.role w.r).pc) with
    | .ok (.waitc v, _) =>
      match cyclesUntil s w.c v (readSrc w x v.a (imm64 v)) with
      | none => .next s
      | some n =>
        if (x.role w.r).wait = some .clock ∧ s.canIssue w ∧ (x.role w.r).waited + n < x.wlim then
          .next (s.lapse n (fun s => match execWaitc v { s with turn := .role w.c w.r } with
            | .next t => { t with turn := s.turn }
            | _ => s))
        else .next s
    | _ => .next s

/-- YIELD_END: the cycles that are left of a YLD of role `r` of `c` go by, and the role issues again (R122). -/
def execYieldEnd (s : State) : Out :=
  match s.ctx s.inp.c with
  | none => .next s
  | some x =>
    .next (s.lapse ((x.role s.inp.r).yieldLeft.getD 0) (fun s => s.modRole ⟨s.inp.c, s.inp.r⟩
      (fun r => { r with yieldLeft := r.yieldLeft.map (fun _ => 0) })))

end Sys2Proof.Machine
end

