-- ==== Sys2Proof/Machine/Checkpoint.lean ====
section
/-! DEFINITION. Incremental checkpoints (R367, R412 to R417): CKPT, the freeze at a PHASE release, the copy of the snapshot
set with its side buffer, the progress record. -/

namespace Sys2Proof.Machine

/-! ## The destination -/

/-- Writes runs of a partition in order; none where one does not translate. -/
def State.storeRuns (s : State) (part : Nat) : List (Nat × Nat) → List Byte → Option State
  | [], _ => some s
  | (va, n) :: r, l =>
    match s.writeRun part va (l.take n) with
    | some t => State.storeRuns t part r (l.drop n)
    | none => none

/-- Writes bytes at an offset of the destination's space: a host window, or F space; none is a destination error, which a lost link or
switch is too (log 35). What goes to another package leaves as a packet of the partition's job, of no context (R293, R413). -/
def State.ckWrite (s : State) (r : Ckpt) (off : Nat) (l : List Byte) : Option State :=
  if r.dkind < 2 then
    if s.linkUp r.dkind ∧ off + l.length ≤ (s.window r.part r.dkind).len then
      some { s with fab := { s.fab with posted := s.fab.posted ++ [(r.dkind, (s.window r.part r.dkind).base + off, l)] } }
    else none
  else if !s.fabOn then none
  else if r.pkg = s.fab.pkgid then
    match s.endpointPart (s.part r.part).jkey with
    | some p => s.storeRuns p (pageParts off l.length) l
    | none => none
  else some { s with fab := { s.fab with
    pkts := s.fab.pkts ++ [{ ix := s.fab.nextIx, pkg := r.pkg, va := off, key := (s.part r.part).jkey, ctx := ⟨r.cid, 3⟩, role := .s
                             kind := .ckpt r.kernel r.no l }]
    nextIx := s.fab.nextIx + 1 } }

/-- LEN (R415). -/
def ckLen (pages : Nat) : Nat := 64 + 65552 * pages
/-- The stream offset after a checkpoint. -/
def Ckpt.after (r : Ckpt) : Nat := (r.onext + ckLen r.pages + 4095) / 4096 * 4096

/-- The progress record (R416): STATE, FAIL and TDONE. -/
def Ckpt.progress (r : Ckpt) (state fail tdone : Nat) : List Byte :=
  let done := state == 3
  bytesN (fail * 16 + state) 4 ++ bytesN 0 24 ++ bytesN r.no 4 ++ bytesN r.pages 4 ++ bytesN r.pdone 4 ++
    bytesN (if done then ckLen r.pages else 0) 8 ++ bytesN (if done then r.after else r.onext) 8 ++ bytesN tdone 8

/-- Rewrites the progress record; a destination that takes no write shows in the stream (R416). -/
def State.ckProgress (s : State) (r : Ckpt) (state fail tdone : Nat) : State :=
  (s.ckWrite r r.prog (r.progress state fail tdone)).getD s

/-- What the engines keep for a kernel; the first checkpoint is full. -/
def State.ckOf (s : State) (kernel : Nat) : CkKernel :=
  (s.ck.kernels.find? (fun k => k.kernel == kernel)).getD ⟨kernel, 0, 0, 0, true⟩
def State.setCk (s : State) (k : CkKernel) : State :=
  { s with ck := { s.ck with kernels := k :: s.ck.kernels.filter (fun e => e.kernel != k.kernel) } }

/-- A request of a kernel, by its number. -/
def State.modReq (s : State) (r : Ckpt) (f : Ckpt → Ckpt) : State :=
  { s with ck := { s.ck with reqs := s.ck.reqs.map (fun e => if e.kernel = r.kernel ∧ e.no = r.no then f e else e) } }
def State.dropReq (s : State) (r : Ckpt) : State :=
  { s with ck := { s.ck with reqs := s.ck.reqs.filter (fun e => !(e.kernel == r.kernel && e.no == r.no)) } }

/-- The first request of a kernel in a state. -/
def State.reqOf (s : State) (kernel : Nat) (st : CkState) : Option Ckpt :=
  s.ck.reqs.find? (fun r => r.kernel == kernel && r.state == st)

/-! ## CKPT (R367, R413) -/

/-- A descriptor keeps the table of R413. -/
def descOk (d : List Byte) : Bool :=
  let n := numAt d 0x20 2
  numAt d 0 4 == 0x4B434B44 && decide (numAt d 4 1 ≤ 2) && numAt d 5 1 == 0 && decide (numAt d 6 2 < 2048) &&
    numAt d 8 8 % 4096 == 0 && decide (1 ≤ n) && decide (n ≤ 16) && numAt d 0x22 30 == 0 &&
    (List.range 16).all (fun i =>
      let va := numAt d (0x40 + 16 * i) 8
      let len := numAt d (0x48 + 16 * i) 8
      if i < n then va % 65536 == 0 && len % 65536 == 0 else va == 0 && len == 0)

/-- The request that a descriptor makes. -/
def requestOf (k : Kernel) (c : CkKernel) (d : List Byte) : Ckpt where
  kernel := k.id
  part := k.part
  cid := (k.grant.headD ⟨0, 0⟩).cid
  no := c.count + 1
  base := c.base
  full := c.nextFull
  state := .waiting
  dkind := numAt d 4 1
  pkg := numAt d 6 2
  dadr := numAt d 8 8
  dlen := numAt d 0x10 8
  prog := numAt d 0x18 8
  wins := (List.range (numAt d 0x20 2)).map (fun i => (numAt d (0x40 + 16 * i) 8, numAt d (0x48 + 16 * i) 8))
  onext := c.onext

/-- The running kernel of a checkpoint-enabled leaf RCB of a partition (R412). -/
def State.ckLeaf (s : State) (part rcb : Nat) : Option Kernel :=
  match s.nodes.find? (fun n => n.rcb == rcb && n.part == part && n.leaf && n.ckpt && n.state == 1) with
  | some n => s.kernels.find? (fun k => k.node == n.id && k.state != .ended)
  | none => none

/-- A checkpoint request is held off in the running owner contexts of its kernel until their next quiet point (R46). -/
def State.holdCkpt (s : State) (k : Kernel) : State :=
  k.grant.foldl (fun (s : State) c => s.modMember k c (fun x =>
    if x.state = .run ∧ !x.harvest ∧ !x.async.any HeldEv.isCkpt then { x with async := x.async ++ [⟨.ckpt, 0⟩] } else x)) s
/-- The freeze takes the request: nothing of it is held off any more (log 35). -/
def State.takeCkpt (s : State) (k : Kernel) : State :=
  k.grant.foldl (fun (s : State) c => s.modMember k c (fun x =>
    { x with async := x.async.filter (fun e => !e.isCkpt) })) s

def effCkpt (v : WordX) : Effect := fun w x s =>
  let a := readSrc w x v.a 0
  let b := readSrc w x v.b 0
  match s.xlate x.part b.toNat false, s.readV x.part b.toNat 320 with
  | .error c, _ => .fault c b
  | .ok _, none => .fault cTranslation b
  | .ok _, some d =>
    if !descOk d then .fault cRange b
    else match s.ckLeaf x.part a.toNat with
      | none => .fault cTarget a
      | some k =>
        let c := s.ckOf k.id
        let r := requestOf k c d
        let s1 := (s.setCk { c with count := r.no }).ckProgress r 1 0 0
        .done (({ s1 with ck := { s1.ck with reqs := s1.ck.reqs ++ [r] } }.holdCkpt k).setS w v.d.toNat (BitVec.ofNat 64 r.no))

def execCkpt (v : WordX) (s : State) : Out := runP (.ckpt v) v (effCkpt v) s

/-! ## The freeze (R414) -/

/-- The window pages of a request that translate, in ascending virtual order: virtual and physical address. -/
def State.ckPages (s : State) (r : Ckpt) : List (Nat × Nat) :=
  (r.wins.flatMap (fun w => (List.range (w.2 / 65536)).filterMap (fun i =>
    match s.xlate r.part (w.1 + 65536 * i) false with
    | .ok pa => some (w.1 + 65536 * i, pa)
    | .error _ => none))).mergeSort (fun a b => a.1 ≤ b.1)

/-- BITMAP_FREEZE: before the PHASE release of kernel `k`, the dirty bits of its window pages become the snapshot set and are
cleared, and the set is protected. -/
def execBitmapFreeze (s : State) : Out :=
  match s.kernel s.inp.k, s.reqOf s.inp.k .waiting with
  | some k, some r =>
    if !s.phaseFull k ∨ !s.freezeDue k.id then .next s
    else
      let c := s.ckOf k.id
      let pages : List (Nat × Nat) := s.ckPages r
      let snap : List (Nat × Nat) := if c.nextFull then pages else pages.filter (fun p => s.ck.dirty.contains p.2)
      let r1 := { r with state := .copying, full := c.nextFull, base := if c.nextFull then r.no else c.base, onext := c.onext
                         tfreeze := s.refTime, phn := k.phn + 1, todo := snap, pages := snap.length }
      let s1 := (s.modReq r (fun _ => r1)).setCk { c with base := r1.base, nextFull := false }
      let s2 := { s1 with ck := { s1.ck with
        dirty := s1.ck.dirty.filter (fun d => !pages.any (fun p => p.2 == d)), prot := s1.ck.prot ++ snap.map Prod.snd } }
      .next ((s2.takeCkpt k).ckProgress r1 2 0 0)
  | _, _ => .next s

/-! ## Copy, completion, failure (R414 to R417) -/

/-- Ends the protection of pages; writes that have waited for that are performed (R414). -/
def State.unprotect (s : State) (l : List Nat) : State :=
  let t := { s with ck := { s.ck with prot := s.ck.prot.filter (fun p => !l.contains p)
                                      side := s.ck.side.filter (fun e => !l.contains e.1) } }
  t.flushDev t.ck.held

/-- A write of a checkpoint has no answer yet (R297). -/
def State.ckPending (s : State) (r : Ckpt) : Bool := s.fab.pkts.any (fun p => match p.kind with
  | .ckpt k n _ => k == r.kernel && n == r.no
  | _ => false)

/-- The record of a failed checkpoint is written once the writes before it have been answered (R416). -/
def State.ckFailed (s : State) (r : Ckpt) : State :=
  if s.ckPending r then s else (s.dropReq r).ckProgress r 4 r.failNo s.refTime

/-- A checkpoint fails with FAIL: protection ends, the dirty bits of the uncopied pages are set again, SUB 14 is posted for
a destination error or an overrun (R417). -/
def State.failCk (s : State) (r : Ckpt) (fail : Nat) : State :=
  let l := r.todo.map (·.2)
  let r1 := { r with state := .failed, failNo := fail, todo := [] }
  let s := (s.modReq r (fun _ => r1)).unprotect l
  let s := { s with ck := { s.ck with dirty := s.ck.dirty ++ l.filter (fun p => !s.ck.dirty.contains p) } }
  let s := if fail = 3 then s.setCk { s.ckOf r.kernel with nextFull := true } else s.post (dieOf r.cid) 14 (dieOf r.cid) 0
  s.ckFailed r1

/-- The bytes of a snapshot page: from the side buffer where a write has overtaken the copy. -/
def State.snapshot (s : State) (pa : Nat) : List Byte :=
  match aget s.ck.side pa with
  | some m => m.read pa 65536
  | none => s.readG pa 65536

/-- CHECKPOINT_PAGE_COPY: the engine copies the next page of the set of kernel `k` to the stream; with `flag` the destination
has answered with an error. -/
def execCheckpointPageCopy (s : State) : Out :=
  match s.reqOf s.inp.k .copying with
  | none => .next s
  | some r => match r.todo with
    | [] => .next s
    | (va, pa) :: rest =>
      let o := r.onext + ckLen r.pdone
      let data := s.snapshot pa
      if r.dlen < o + 65552 then .next (s.failCk r 1)
      else if s.inp.flag then .next (s.failCk r 2)
      else match s.ckWrite r (r.dadr + o) (bytesN va 8 ++ bytesOf (crc32c data) 4 ++ bytesN 0 4) with
        | none => .next (s.failCk r 2)
        | some s1 => match s1.ckWrite r (r.dadr + o + 16) data with
          | none => .next (s.failCk r 2)
          | some s2 => .next ((s2.modReq r (fun e => { e with todo := rest, pdone := e.pdone + 1 })).unprotect [pa])

/-- COPY_ON_WRITE: the old contents of the protected page of `addr` go to the side buffer (R414). -/
def execCopyOnWrite (s : State) : Out := .next (s.saveSide (pageOf s.inp.addr))

/-- The 64-byte header of a checkpoint (R415). -/
def Ckpt.header (r : Ckpt) : List Byte :=
  bytesN 0x4B434B31 4 ++ bytesN r.no 4 ++ bytesN r.base 4 ++ bytesN r.pages 4 ++ bytesN r.tfreeze 8 ++ bytesOf r.phn 4 ++
    bytesN 0 4 ++ bytesN (ckLen r.pages) 8 ++ bytesN 0 24

/-- A checkpoint is done, once the writes of its stream have been answered (R416). -/
def State.ckDone (s : State) (r : Ckpt) : State :=
  if s.ckPending r then s
  else ((s.dropReq r).setCk { s.ckOf r.kernel with onext := r.after }).ckProgress r 3 0 s.refTime

/-- The answer to a write of a checkpoint: a reject is a destination error (R297, R417). -/
def State.ckAnswer (s : State) (p : Packet) (kernel no : Nat) (rejected : Bool) : State :=
  let t := s.dropPkt p.ix
  match rejected, t.ck.reqs.find? (fun r => r.kernel == kernel && r.no == no && r.state == .copying) with
  | true, some r => t.failCk r 2
  | _, _ => t

/-- CHECKPOINT_COMPLETE: every page of the set of kernel `k` has been copied; the header, and then the progress record with
STATE 3, which its release lets follow the answers to the writes before it, are written (R415, R416). -/
def execCheckpointComplete (s : State) : Out :=
  match s.reqOf s.inp.k .copying with
  | none => .next s
  | some r =>
    if !r.todo.isEmpty ∨ s.ckPending r then .next s
    else if r.dlen < r.onext + 64 then .next (s.failCk r 1)
    else if !r.headed then match s.ckWrite r (r.dadr + r.onext) r.header with
      | none => .next (s.failCk r 2)
      | some s1 => .next ((s1.modReq r (fun e => { e with headed := true })).ckDone { r with headed := true })
    else .next (s.ckDone r)

/-- CHECKPOINT_FAILURE: kernel `k` has ended before the freeze of a checkpoint (FAIL 3), or with `flag` the destination of
the one in its copy has failed (FAIL 2); the record of one that has failed is written when the answers before it are there. -/
def execCheckpointFailure (s : State) : Out :=
  let ended : Bool := match s.kernel s.inp.k with
    | some k => k.state == .ended
    | none => true
  match s.reqOf s.inp.k .failed, s.reqOf s.inp.k .copying, s.reqOf s.inp.k .waiting with
  | some r, _, _ => .next (s.ckFailed r)
  | none, some r, _ => .next (if s.inp.flag then s.failCk r 2 else s)
  | none, none, some r => .next (if ended then s.failCk r 3 else s)
  | none, none, none => .next s

end Sys2Proof.Machine
end

