-- ==== Sys2Proof/Machine/Transport.lean ====
section
/-! DEFINITION. How accesses are performed after their issue (R164 to R169, R174 to R176, R211, R297, R393, R407): the store
buffer, loads, atomics, cluster messages, fabric and host completions, translation walks. -/

namespace Sys2Proof.Machine

/-! ## Flights -/

def Ctx.flight (x : Ctx) (id : Nat) : Option Flight := x.flights.find? (fun f => f.id == id)
def Ctx.dropFlight (x : Ctx) (id : Nat) : Ctx := { x with flights := x.flights.filter (fun f => f.id != id) }
def Ctx.setData (x : Ctx) (id : Nat) (l : List Byte) : Ctx :=
  { x with flights := x.flights.map (fun f => if f.id = id then { f with data := some l } else f) }

/-- A fault found after issue: raised precisely at the load or atomic, which writes nothing; what its role has executed since
stands, and ERET issues the access again or gives it up (R175, log 15). -/
def State.lateFault (s : State) (c : CtxId) (f : Flight) (cause : Nat) (val : W64) : State :=
  (s.modCtx c (fun x => { x.dropFlight f.id with late := some { f with failed := none } })).deliverAt c (Role.code f.role) cause 0 val
    false (some f.at_)

/-- A load or atomic ends in a fault: at once where its context runs, else kept until it does (R175, log 17). -/
def State.failAccess (s : State) (c : CtxId) (x : Ctx) (f : Flight) (cause : Nat) (val : W64) : State :=
  if x.state = .run then s.lateFault c f cause val
  else s.modCtx c (fun y => { y with flights := y.flights.map (fun g => if g.id = f.id then { g with failed := some (cause, val) } else g) })

/-- The access is performed: its data is known, and what its orders do has been done (R178). -/
def State.gotData (s : State) (c : CtxId) (f : Flight) (l : List Byte) : State :=
  let s := s.modCtx c (fun x => if f.dest = .none then x.dropFlight f.id else x.setData f.id l)
  let s := if f.rel ∧ f.atom.isSome then s.release c f.scope else s
  if f.acq then s.acquireNow c.cid f.scope else s

/-- A load is performed while its context runs, or is TRAPPED; that of a parked or saved context has been abandoned, an atomic is
performed all the same (R176). -/
def Ctx.performs (x : Ctx) (f : Flight) : Bool := f.atom.isSome || x.state == .run || x.state == .trapped

/-- What a core's cached leaves or a walk say of an address (R393). -/
def State.find (s : State) (cid part : Nat) (write : Bool) (va n : Nat) : Found :=
  match s.look cid part va write n with
  | .ok pa => .ok pa
  | .error c => .fault c

/-- The place of an access as it is performed: one that is issued again is translated anew, and takes the host window as it stands
(R176, R395, R439). -/
def State.placeOf (s : State) (c : CtxId) (x : Ctx) (f : Flight) : Placed :=
  match f.again, f.place with
  | true, .g _ _ | true, .gw _ _ => placeBy (s.find c.cid x.part f.atom.isSome) s x f.va f.size f.atom.isSome f.atom.isSome
  | true, .h port off _ =>
    let h := s.window x.part port
    if h.len < off + f.size then .fault cAddrForm f.va else .ok (.h port off (h.base + off))
  | _, p => .ok p

/-- The leaves that an access issued again has used are cached (R393). -/
def State.keepPages (s : State) (c : CtxId) (x : Ctx) (f : Flight) : State :=
  if f.again ∧ f.place.translated then s.keepLeaves c.cid x.part (pageParts f.va.toNat f.size) else s

/-- Earlier accesses of the role that the access must follow (R174, R178, R181, R188): overlapping ones, all of them under
release order, and those to the same peer or port for an atomic that travels as a message or an H access; an acquire at package scope
also follows the accesses of its core that used a translation which the log removes (R395). -/
def State.mustWait (s : State) (c : CtxId) (x : Ctx) (f : Flight) : Bool :=
  let before := (s.core c.cid).sbuf.filter (fun e => e.ctx == c && e.role == f.role && decide (e.id < f.id))
  let sameLine := fun (k : Bool) (p : Place) => match p, f.place with
    | .a a _, .a b _ => a == b && k && f.k && f.atom.isSome
    | .h a _ _, .h b _ _ => a == b
    | _, _ => false
  (f.acqPkg && s.logUsers c.cid) || before.any (fun e => e.overlaps f.place f.size || sameLine e.k e.place) ||
    x.kstores.any (fun e => e.role == f.role && decide (e.id < f.id) && (e.overlaps f.place f.size || sameLine e.k e.place)) ||
    x.flights.any (fun g => g.role == f.role && decide (g.id < f.id) && g.data.isNone &&
      (g.overlaps f.place f.size || (g.atom.isSome && sameLine g.k g.place))) ||
    (f.rel && !released s c x f.role f.id f.scope f.ownAck) ||
    s.fab.stos.any (fun o => o.ctx == c && o.role == f.role && !o.marked &&
      (Place.o o.gid o.off).overlaps o.data.length f.place f.size)

/-- The bytes of a G access, read at memory. -/
def State.readParts (s : State) (l : List (Nat × Nat)) : List Byte := l.flatMap (fun p => s.readG p.1 p.2)

/-- The lines that a G access touches. -/
def linesOf (l : List (Nat × Nat)) : List Nat :=
  l.flatMap (fun p => (List.range ((p.1 + p.2 - 1) / 64 + 1 - p.1 / 64)).map (fun i => (p.1 / 64 + i) * 64))

/-- A G load that reads its location at memory: an acquire at cluster scope or wider (R178). -/
def Flight.atPerformer (f : Flight) : Bool := f.acq && decide (1 ≤ f.scope)

/-- Applies a read to each part, with the picks of its words. -/
def partsWith (g : List Byte → Nat → Nat → List Byte) : List Byte → List (Nat × Nat) → List Byte
  | _, [] => []
  | pick, (pa, n) :: r => g pick pa n ++ partsWith g (pick.drop ((pa + n + 3) / 4 - pa / 4)) r

/-- A G load: an acquire at cluster scope or wider reads memory as it stands; a bypass load reads memory, and any other the cache,
which a miss fills, both as R184 lets a racing read: `pick` names what it returns (R166, R178, R184). -/
def State.loadG (s : State) (c : CtxId) (f : Flight) (pick : List Byte) (l : List (Nat × Nat)) : List Byte × State :=
  let d : Reader := ⟨some c.cid, c.cid, (s.core c.cid).floor, ((s.ctx c).map (·.floor)).getD 0⟩
  if f.atPerformer then (s.readParts l, s)
  else if f.cache = 2 then (partsWith (s.readPlain d) pick l, s)
  else (partsWith (s.readCached c.cid d) pick l,
    (linesOf l).foldl (fun s a => if s.badG a 64 then s else s.fillLine c.cid a (f.cache == 1)) s)

/-- A load reads memory where it meets no cached line, and finds an uncorrectable error in what it reads (R175, R405). -/
def State.loadBad (s : State) (cid : Nat) (f : Flight) (l : List (Nat × Nat)) : Bool :=
  l.any (fun p => (linesOf [p]).any (fun a =>
    let lo := Nat.max a p.1
    let hi := Nat.min (a + 64) (p.1 + p.2)
    match (s.core cid).line a with
    | some e => if f.cache = 2 ∨ f.atPerformer then s.badG lo (hi - lo) else e.bad.any (fun q => decide (q < hi) && decide (lo < q + 8))
    | none => s.badG lo (hi - lo)))

/-- The physical places of bytes of a replica window. -/
def Group.parts (g : Group) (off n : Nat) : List (Nat × Nat) :=
  (pageParts (g.va + off) n).filterMap (fun (va, n) =>
    match g.pages.find? (fun p => decide (p.va ≤ va) && decide (va < p.va + p.len)) with
    | some p => some (p.pa + (va - p.va), n)
    | none => none)

/-- Performs a load whose data is not yet known; none while it must wait for something. An L load is here when it is issued again
after its context was stopped (R176), or has release order (R178). -/
def State.performLoad (s : State) (c : CtxId) (x : Ctx) (f : Flight) : Option State :=
  let bad := some (s.failAccess c x f cMemory f.va)
  match f.place with
  | .g pa pb =>
    let l := gParts pa pb f.size
    if s.loadBad c.cid f l then bad
    else let r := s.loadG c f s.inp.data l; some (r.2.gotData c f r.1)
  | .gw pa n =>
    if s.loadBad c.cid f [(pa, n)] then bad
    else
      let r := s.loadG c f s.inp.data [(pa, n)]
      some (r.2.gotData c f (r.1 ++ s.readWindow 0 (f.size - n)))
  | .a d off =>
    let m := s.ownA ⟨c, f.role⟩ x
    if f.k then none
    else if f.lanes.isEmpty then
      if s.badS d 0 off f.size then bad else some (s.gotData c f (m.read off f.size))
    else if f.lanes.any (fun o => s.badS d 0 o f.lsize) then bad
    else some (s.gotData c f (gatherA m f.lsize f.lanes))
  | .window off => some (s.gotData c f (s.readWindow off f.size))
  | .o gid off =>
    match s.fab.groups.find? (fun g => g.gid == gid) with
    | some g =>
      let l := g.parts off f.size
      if l.any (fun p => s.badG p.1 p.2) then bad else some (s.gotData c f (s.readParts l))
    | none => some (s.failAccess c x f cAddrForm f.va)
  | _ => none

/-- Performs an access at its place; `perform` says how. -/
def State.performAt (s : State) (c : CtxId) (x : Ctx) (f : Flight) (perform : State → Flight → Option State) : Option State :=
  match s.placeOf c x f with
  | .ok p =>
    let g := { f with place := p }
    if s.mustWait c x g then none else perform (s.keepPages c x g) g
  | .fault cause val => some (s.failAccess c x f cause val)
  | .hold _ | .down _ _ => none

/-- Writes returned data to its destination (R164); a load of a context that does not run waits for its resumption, an
atomic's result goes into the parked image (R176). -/
def State.writeBack (s : State) (c : CtxId) (f : Flight) (l : List Byte) : State :=
  s.modCtx c (fun x =>
    if f.atom.isNone ∧ x.state ≠ .run ∧ x.state ≠ .trapped then x
    else match f.dest with
      | .none => x.dropFlight f.id
      | .scalar n => (x.setRole f.role ((x.role f.role).setS n (BitVec.ofNat 64 (natOfBytes l)))).dropFlight f.id
      | .qent q id => (x.qFill q id (bytesLanes l)).dropFlight f.id)

/-- An LDH ends with the host-access fault and a bit of PESTS (R169, R439). A TRAPPED context takes the fault once it runs; a load
of a context that has been stopped is issued again instead (R176). -/
def State.hostFault (s : State) (c : CtxId) (x : Ctx) (f : Flight) (bit : BitVec 5) : State :=
  match f.place with
  | .h port _ _ =>
    if x.performs f then
      (s.modWindow x.part port (fun h => { h with pests := h.pests ||| bit })).failAccess c x f cHost f.va
    else s
  | _ => s

/-- An LDH whose port's link is down (R169). -/
def State.ldhDown (s : State) (f : Flight) : Bool :=
  match f.place with
  | .h port _ _ => f.data.isNone && !s.linkUp port
  | _ => false

/-- LOAD_DATA_WRITE: the data of access `id` of context `c` is written to its destination; a load whose data is not yet known
is performed first; an access that has ended in a fault raises it once its context runs. -/
def execLoadDataWrite (s : State) : Out :=
  let c := s.inp.c
  match s.ctx c with
  | none => .next s
  | some x => match x.flight s.inp.id with
    | none => .next s
    | some f => match f.data with
      | some l => .next (s.writeBack c f l)
      | none => match f.failed with
        | some (cause, val) => .next (if x.state = .run then s.lateFault c f cause val else s)
        | none =>
          if s.ldhDown f then .next (s.hostFault c x f 0b10000)
          else if f.atom.isSome ∨ !x.performs f then .next s
          else match s.performAt c x f (fun t g => t.performLoad c x g) with
            | none => .next s
            | some s1 => match (s1.ctx c).bind (fun y => y.flight f.id) with
              | some g => .next (if g.failed.isSome then s1 else s1.writeBack c g (g.data.getD []))
              | none => .next s1

/-! ## Atomics (R173, R174) -/

/-- An atomic at a bank of a context's A buffer: the old bytes and the state. -/
def State.atomA (s : State) (d : CtxId) (off : Nat) (o : AtomOp) : Option (List Byte × State) :=
  match s.ctx d with
  | none => none
  | some y =>
    let old := y.abuf.read off o.size
    some (old, s.putA d off (o.apply old))

/-- An atomic at memory; a copy in the core's own cache goes. -/
def State.atomG (s : State) (cid : Nat) (r : Role) (pa : Nat) (o : AtomOp) : List Byte × State :=
  let old := s.readG pa o.size
  (old, (s.writeG pa (o.apply old) (if r = .l then some cid else none)).modCore cid (fun k => { k with cache := k.cache.filterMap (updateLine pa old true) }))

/-- Performs an atomic of the context's own A buffer or of G; none while it must wait. -/
def State.performAtomic (s : State) (c : CtxId) (x : Ctx) (f : Flight) (o : AtomOp) : Option State :=
  let bad := some (s.failAccess c x f cMemory f.va)
  match f.place with
  | .a d off =>
    if f.k then none
    else if s.badS d 0 off o.size then bad
    else (s.atomA d off o).map (fun r => r.2.gotData c f r.1)
  | .g pa _ =>
    if s.badG pa o.size then bad
    else if s.sideFull (pageOf pa) then none
    else let r := s.atomG c.cid f.role pa o; some (r.2.gotData c f r.1)
  | .window off =>
    let r := s.claimIndex ((off - 0x10000) / 64) (o.v.setWidth 32)
    some (r.2.gotData c f (bytesOf r.1 4))
  | _ => none

/-- ATOMIC_PERFORM: atomic `id` of context `c` is performed at its bank or at memory. -/
def execAtomicPerform (s : State) : Out :=
  let c := s.inp.c
  match s.ctx c with
  | none => .next s
  | some x => match x.flight s.inp.id with
    | none => .next s
    | some f => match f.atom, f.data with
      | some o, none =>
        if f.failed.isSome then .next s
        else .next ((s.performAt c x f (fun t g => t.performAtomic c x g o)).getD s)
      | _, _ => .next s

/-! ## The store buffer (R165) -/

/-- An entry may leave the buffer: nothing of its role that it must follow stands before it. STOs leave in issue order, and are given
their tags so (R300); in which order their sequencer numbers them is settled there (R187). -/
def State.mayDrain (s : State) (k : Core) (i : Nat) (e : StoreEnt) (x : Ctx) : Bool :=
  let same := fun (j : Bool) (p : Place) => match p, e.place with
    | .a a _, .a b _ => a == b && j && e.k
    | .h a _ _, .h b _ _ => a == b
    | .o _ _, .o _ _ => true
    | _, _ => false
  let mine := (k.sbuf.take i).filter (fun d => d.ctx == e.ctx && d.role == e.role)
  let hits := fun (p : Place) (n : Nat) => e.overlaps p n
  !mine.any (fun d => same d.k d.place || hits d.place d.data.length || d.more.any (fun m => match d.place with
      | .a c _ => hits (.a c m.1) m.2.length
      | _ => false)) &&
    !x.flights.any (fun f => f.role == e.role && decide (f.id < e.id) && f.data.isNone &&
      (f.overlaps e.place e.data.length || (f.atom.isSome && same f.k f.place))) &&
    (!e.rel || released s e.ctx x e.role e.id e.scope)

/-- Rejects an STO at its issuer (R297, R298). -/
def State.rejectSto (s : State) (c : CtxId) : State := s.modCtx c (fun x => { x with orj := true, orjc := x.orjc + 1 })

/-- An STO leaves for its sequencer; while the group re-forms it is rejected at once (R300, R302). -/
def State.sendSto (s : State) (e : StoreEnt) (gid off : Nat) : State :=
  if s.fab.groups.any (fun g => g.gid == gid && g.ref) then s.rejectSto e.ctx
  else { s with fab := { s.fab with
    nextTag := (s.fab.nextTag + 1) % 2 ^ 32
    stos := s.fab.stos ++ [{ gid := gid, tag := s.fab.nextTag, ctx := e.ctx, role := e.role, cid := e.ctx.cid, off := off,
                             data := e.data, marked := false, numbered := false }] } }

/-- The performance of a G store at its parts, and what it does to the core's lines. -/
def State.storeParts (s : State) (cid : Nat) (e : StoreEnt) : List (Nat × Nat) → List Byte → State
  | [], _ => s
  | (pa, n) :: r, l =>
    State.storeParts ((s.performG pa e.va (l.take n)).modCore cid (fun k =>
      { k with cache := k.cache.filterMap (updateLine pa (l.take n) (e.cache == 2)) })) cid e r (l.drop n)

/-- No record of the partition with an earlier index has still to be published (R362). -/
def State.logFirst (s : State) (part : Nat) (r : InvRec) : Bool :=
  let age := fun (i : Nat) => ((s.part part).ivlt + 2 ^ 32 - i) % 2 ^ 32
  !s.cores.any (fun (_, k) => k.sbuf.any (fun e => match e.place with
    | .log p q => p == part && decide (age r.idx < age q.idx)
    | _ => false))

/-- A record is published: every die of the partition appends it (R362, R394). -/
def State.publishLog (s : State) (part : Nat) (r : InvRec) : State :=
  (s.diesOf part).foldl (fun (s : State) d => s.appendLog part r d) s

/-- What an entry does when it leaves the buffer; none while it must wait. -/
def State.performStore (s : State) (e : StoreEnt) (x : Ctx) : Option State :=
  match e.place with
  | .a c off =>
    if !e.k then some (e.more.foldl (fun s m => s.putA c m.1 m.2) (s.putA c off e.data))
    else some (s.modCtx e.ctx (fun y => { y with kstores := y.kstores ++ [e] }))
  | .g pa pb =>
    let l := gParts pa pb e.data.length
    if l.any (fun p => s.sideFull (pageOf p.1)) then none else some (s.storeParts e.ctx.cid e l e.data)
  | .window off => some (s.writeWindow x off e.data)
  | .gw _ _ => some s
  | .f pkg va =>
    some (State.modCtx { s with fab := { s.fab with
        pkts := s.fab.pkts ++ [{ ix := s.fab.nextIx, acc := e.id, pkg := pkg, va := va, key := (s.part x.part).jkey, ctx := e.ctx,
                                 role := e.role, kind := .store e.data }]
        nextIx := s.fab.nextIx + 1 } } e.ctx (fun y => { y with ackc := y.ackc + 1 }))
  | .o gid off => if s.fabOn then some (s.sendSto e gid off) else none
  | .h port _ addr =>
    if s.linkUp port then some { s with fab := { s.fab with posted := s.fab.posted ++ [(port, addr, e.data)] } }
    else some (s.modWindow x.part port (fun h => { h with pests := h.pests ||| 0b10000#5 }))
  | .log part r => if s.logFirst part r then some (s.publishLog part r) else none

/-- STORE_BUFFER_DRAIN: the entry at position `id` of the buffer of core `cid` is performed. -/
def execStoreBufferDrain (s : State) : Out :=
  let k := s.core s.inp.cid
  match k.sbuf[s.inp.id]? with
  | none => .next s
  | some e => match s.ctx e.ctx with
    | none => .next s
    | some x =>
      if !s.mayDrain k s.inp.id e x then .next s
      else
        let s1 := s.modCore s.inp.cid (fun k => { k with sbuf := k.sbuf.eraseIdx s.inp.id })
        match s1.performStore e x with
        | some s2 => .next (if e.rel then s2.release e.ctx e.scope else s2)
        | none => .next s

/-! ## Cluster messages (R174, R175, R211) -/

/-- The peer's A buffer can be reached: its core is in service and its context is not saved away. -/
def State.peerUp (s : State) (x : Ctx) (d : CtxId) : Bool := s.ofKernel d x.kernel && !s.savedAway d x.kernel
/-- The peer's core no longer serves its context. -/
def State.peerGone (s : State) (x : Ctx) (d : CtxId) : Bool :=
  (s.core d.cid).retired || !(s.ofKernel d x.kernel || s.inAway d x.kernel)

/-- A K store is performed at the peer's bank unit. -/
def State.kStore (s : State) (c : CtxId) (x : Ctx) (e : StoreEnt) : State :=
  let dropped := s.modCtx c (fun y => { y with kstores := y.kstores.filter (fun d => d.id != e.id) })
  match e.place with
  | .a d off =>
    let first := !(x.kstores.takeWhile (fun f => f.id != e.id)).any (fun f => f.role == e.role && f.place.own d)
    let atoms := x.flights.any (fun f =>
      f.role == e.role && decide (f.id < e.id) && f.k && f.place.own d && f.atom.isSome && f.data.isNone)
    if s.peerGone x d then dropped
    else if first ∧ !atoms ∧ s.peerUp x d then dropped.putA d off e.data
    else s
  | _ => dropped

/-- A K load or atomic is performed at the peer's bank unit. -/
def State.kAccess (s : State) (c : CtxId) (x : Ctx) (f : Flight) : State :=
  match f.place with
  | .a d off =>
    if !f.k ∨ f.data.isSome ∨ f.failed.isSome ∨ !x.performs f ∨ s.mustWait c x f then s
    else if s.peerGone x d then s.failAccess c x f cPeer f.va
    else if !s.peerUp x d then s
    else if s.badS d 0 off f.size then s.failAccess c x f cMemory f.va
    else match f.atom, s.ctx d with
      | some o, some _ => match s.atomA d off o with
        | some r => r.2.gotData c f r.1
        | none => s
      | none, some y => s.gotData c f (y.abuf.read off f.size)
      | _, none => s
  | _ => s

/-- A bank-unit operation of a role on a peer's object: its message arrives, and the instruction is performed (R209, R211). -/
def State.kObject (s : State) (w : Who) (x : Ctx) : State :=
  let t : State := { s.modRole w (fun r => { r with mark := some 0 }) with turn := .role w.c w.r }
  let back := fun (o : Out) => match o with
    | .next u => { u with turn := s.turn }
    | _ => s
  if (x.role w.r).wait ≠ some .order ∨ !s.canIssue w then s
  else match decode (fetchBytes (s.textOf x) (x.role w.r).pc) with
    | .ok (.cbini v, _) => back (execCbini v t)
    | .ok (.cbclm v, _) => back (execCbclm v t)
    | .ok (.cbpub v, _) => back (execCbpub v t)
    | .ok (.cbtak v, _) => back (execCbtak v t)
    | .ok (.cbrel v, _) => back (execCbrel v t)
    | .ok (.dqini v, _) => back (execDqini v t)
    | .ok (.dqpsh v, _) => back (execDqpsh v t)
    | .ok (.dqpop v, _) => back (execDqpop v t)
    | .ok (.dqstl v, _) => back (execDqstl v t)
    | _ => s

/-- CLUSTER_MESSAGE_PERFORM: with `flag` the bank-unit operation of role `r` of context `c`, else its K access `id`. -/
def execClusterMessagePerform (s : State) : Out :=
  let c := s.inp.c
  match s.ctx c with
  | none => .next s
  | some x =>
    if s.inp.flag then .next (s.kObject ⟨c, s.inp.r⟩ x)
    else match x.kstores.find? (fun e => e.id == s.inp.id), x.flight s.inp.id with
      | some e, _ => .next (s.kStore c x e)
      | none, some f => .next (s.kAccess c x f)
      | none, none => .next s

/-! ## F accesses (R167, R297, R400, R407) -/

def State.pkt (s : State) (ix : Nat) : Option Packet := s.fab.pkts.find? (fun p => p.ix == ix)

/-- An access at the endpoint of a package: what it returns. -/
inductive Served where
  | ok (l : List Byte) (s : State)
  | reject
  | bad
  | wait
  deriving DecidableEq, Repr

/-- Serves a read, a store or an atomic in the tables of the partition that the key names. -/
def State.serve (s : State) (key : W16) (va : Nat) (op : InboundOp) : Served :=
  match s.endpointPart key with
  | none => .reject
  | some p =>
    match op with
    | .load n => match readPages s p (pageParts va n) with
      | .ok l => .ok l s
      | .error 3 => .bad
      | .error _ => .reject
    | .store l => match storePages none p (pageParts va l.length) s l with
      | .ok s1 => .ok [] s1
      | .error 0 => .wait
      | .error _ => .reject
    | .atomic op dw v cmp =>
      let o : AtomOp := ⟨op, dw, v, cmp⟩
      match s.xlate p va true o.size with
      | .error _ => .reject
      | .ok pa =>
        if s.badG pa o.size then .bad
        else if s.sideFull (pageOf pa) then .wait
        else
          let old := s.readG pa o.size
          .ok old (s.writeG pa (o.apply old))

/-- A counted acknowledgement has arrived (R167, R296). -/
def State.acked (s : State) (c : CtxId) (rejected : Bool) : State :=
  s.modCtx c (fun x => { x with ackc := x.ackc - 1, rrj := x.rrj || rejected })

/-- The end of an F load or atomic: its data, or a fault (none: the packet is gone with its context). It has been performed only
after what its order puts first (R178, R186); the answer to a load whose context has been stopped is abandoned, and the packet
stands for the load as it is issued again (R176). -/
def State.endF (s : State) (p : Packet) (id : Nat) (r : Except Nat (List Byte)) : State :=
  match s.ctx p.ctx with
  | none => s.dropPkt p.ix
  | some x => match x.flight id with
    | none => s.dropPkt p.ix
    | some f =>
      let counted := f.dest = .none
      match r with
      | .ok l =>
        let t := (s.dropPkt p.ix).gotData p.ctx f (l.take f.size)
        if s.mustWait p.ctx x f ∨ !x.performs f then s
        else if counted then t.modCtx p.ctx (fun y => { y with ackc := y.ackc - 1 }) else t
      | .error cause => if x.performs f then (s.dropPkt p.ix).failAccess p.ctx x f cause f.va else s

/-- What a flight asks of the endpoint. -/
def Flight.asked (f : Flight) : InboundOp :=
  match f.atom with
  | some o => .atomic o.op o.dword o.v o.v2
  | none => .load f.size

/-- An access of this package to itself is served (R160). -/
def State.loopback (s : State) (p : Packet) : State :=
  match p.kind with
  | .store l =>
    let mark := fun (s : State) (b : Bool) =>
      { s with fab := { s.fab with pkts := s.fab.pkts.map (fun q => if q.ix = p.ix then { q with served := some b } else q) } }
    if p.served.isSome then s
    else match s.serve p.key p.va (.store l) with
      | .ok _ s1 => mark s1 true
      | .wait => s
      | _ => mark s false
  | .load id =>
    match (s.ctx p.ctx).bind (fun x => (x.flight id).map (fun f => (x, f))) with
    | none => s.dropPkt p.ix
    | some (x, f) =>
      if s.mustWait p.ctx x f ∨ !x.performs f then s
      else match s.serve p.key p.va f.asked with
        | .ok l s1 => s1.endF p id (.ok l)
        | .reject => s.endF p id (.error cRemote)
        | .bad => s.endF p id (.error cMemory)
        | .wait => s
  | .engine .. | .ckpt .. => s

/-- What enters by the conveyor's bridge, not by the fabric switch. -/
def fromGoltik : FArrival → Bool
  | .goltik .. => true
  | .loopback _ | .reply .. | .inbound .. => false

/-- F_ACCESS_ARRIVAL: `arr` reaches its end of the fabric: nothing does while the switch is lost (R408). An access of another
package enters the switch at `port`, whose table must hold its key (R297); so must the endpoint's, with its implicit entries (R400,
log 39). `goltik`: a slot of the Goltik ring enters the conveyor (R286, log 33). -/
def execFAccessArrival (s : State) : Out :=
  if !s.fabOn ∧ !fromGoltik s.inp.arr then .next s
  else match s.inp.arr with
  | .loopback ix => match s.pkt ix with
    | some p => .next (if p.pkg = s.fab.pkgid then s.loopback p else s)
    | none => .next s
  | .reply ix ok data => match s.pkt ix with
    | some p => match p.kind with
      | .load id =>
        if p.pkg = s.fab.pkgid then .next s
        else .next (s.endF p id (if ok then .ok data else .error cRemote))
      | .store _ | .engine .. | .ckpt .. => .next s
    | none => .next s
  | .inbound key va op =>
    if !s.fab.keys.any (fun e => e.1.1 == s.inp.port && decide (e.1.1 ≤ 32) && e.2.1 == key) then .next s
    else match s.serve key va op with
      | .ok _ s1 => .next s1
      | _ => .next s
  | .goltik g no h l => .next (s.goltikIn g no h l)

/-- The answer to a write of a copy command: a reject is a copy fault with FCODE 4, and the write is kept until the command goes on or
has ended (R261, R263, R297). -/
def State.engineAnswer (s : State) (p : Packet) (store : Bool) (acc : Nat) (rejected : Bool) : State :=
  let t := s.dropPkt p.ix
  match (s.ctx p.ctx).bind (fun x => (x.engQ store).find? (fun k => k.acc == acc)) with
  | none => t
  | some k =>
    if p.served.isSome then s
    else if !rejected then t
    else if k.ended then t.modCtx p.ctx (fun x => x.modCmd store acc (fun k => { k with done := Nat.min k.done p.first }))
    else State.modCtx { s with fab := { s.fab with pkts := s.fab.pkts.map (fun q => if q.ix = p.ix then { q with served := some false } else q) } }
      p.ctx (fun x => x.modCmd store acc (fun k => if k.fcode = 0 then { k with fcode := 4 } else k))

/-- STF_ACKNOWLEDGEMENT: the acknowledgement of store packet `id` arrives; from another package `flag` says that it is a
reject, which a write of a copy command or of a checkpoint can meet too. -/
def execStfAcknowledgement (s : State) : Out :=
  match (if s.fabOn then s.pkt s.inp.id else none) with
  | none => .next s
  | some p => match p.kind with
    | .load _ => .next s
    | .engine store acc _ _ => .next (s.engineAnswer p store acc s.inp.flag)
    | .ckpt k no _ => .next (s.ckAnswer p k no s.inp.flag)
    | .store _ =>
      if p.pkg = s.fab.pkgid then match p.served with
        | some ok => .next ((s.dropPkt p.ix).acked p.ctx !ok)
        | none => .next s
      else .next ((s.dropPkt p.ix).acked p.ctx s.inp.flag)

/-- The own STO of a tag has its outcome. -/
def State.dropSto (s : State) (tag : Nat) : State :=
  { s with fab := { s.fab with stos := s.fab.stos.filter (fun o => o.tag != tag) } }

/-- An STO fails its end-to-end CRC at its sequencer; the fourth time the sequencer handles it as a reject (R407). -/
def State.stoCrc (s : State) (tag : Nat) : State :=
  match s.fab.stos.find? (fun o => o.tag == tag && !o.numbered) with
  | none => s
  | some o =>
    if o.tries < 3 then
      { s with fab := { s.fab with stos := s.fab.stos.map (fun e => if e.tag = tag then { e with tries := e.tries + 1 } else e) } }
    else (s.dropSto tag).rejectSto o.ctx

/-- PACKET_CRC_FAILURE: packet `id`, or with `flag` the STO of tag `id`, fails its end-to-end CRC at its endpoint and is sent again;
after the fourth failure it ends as R407 states (`die` and `port` name the reporting die and the port). -/
def execPacketCrcFailure (s : State) : Out :=
  if s.inp.flag then .next (s.stoCrc s.inp.id)
  else match s.pkt s.inp.id with
  | none => .next s
  | some p =>
    if p.tries < 3 then
      .next { s with fab := { s.fab with pkts := s.fab.pkts.map (fun q => if q.ix = p.ix then { q with tries := q.tries + 1 } else q) } }
    else match p.kind with
      | .load id => .next (s.endF p id (.error cMemory))
      | .engine .. | .ckpt .. => .next ((s.dropPkt p.ix).post s.inp.die 10 s.inp.port 0)
      | .store _ => .next (((s.dropPkt p.ix).acked p.ctx false).post s.inp.die 10 s.inp.port 0)

/-- LINK_CRC_RETRY: the link resends the flit; nothing else is seen of it (R407). -/
def execLinkCrcRetry (s : State) : Out := .next s

/-! ## H accesses (R169, R188, R439) -/

/-- The bit of PESTS that a completion sets (R439). -/
def hostBit : HostStatus → BitVec 5
  | .success => 0
  | .unsupported => 0b00001
  | .abort => 0b00010
  | .poisoned => 0b01000

/-- An LDH of context `c` that still waits for its completion. -/
def State.ldh (s : State) (c : CtxId) (id : Nat) : Option (Ctx × Flight) :=
  match s.ctx c with
  | none => none
  | some x => match x.flight id with
    | some f => match f.place, f.data with
      | .h _ _ _, none => if f.failed.isSome then none else some (x, f)
      | _, _ => none
    | none => none

/-- LDH_COMPLETION: the completion of LDH `id` of context `c` arrives, with `host` and `data`. -/
def execLdhCompletion (s : State) : Out :=
  match s.ldh s.inp.c s.inp.id with
  | none => .next s
  | some (x, f) =>
    if s.mustWait s.inp.c x f then .next s
    else if s.inp.host = .success then
      .next (if x.performs f then s.gotData s.inp.c f (s.inp.data.take f.size) else s)
    else .next (s.hostFault s.inp.c x f (hostBit s.inp.host))

/-- COMPLETION_TIMEOUT: LDH `id` of context `c` has received no completion (R436). -/
def execCompletionTimeout (s : State) : Out :=
  match s.ldh s.inp.c s.inp.id with
  | none => .next s
  | some (x, f) => .next (s.hostFault s.inp.c x f 0b00100)

/-! ## Translation walks (R393) -/

/-- The first role of a core that waits for the walk of an address. -/
def State.walker (s : State) (cid va : Nat) : Option (Who × Ctx) :=
  (s.ctxs.filter (fun e => e.1.cid == cid)).findSome? (fun (c, x) =>
    (Role.all.find? (fun r => (x.role r).wait == some (.walk va) && s.canIssue ⟨c, r⟩)).map (fun r => (⟨c, r⟩, x)))

/-- TRANSLATION_WALK: the walk of `addr` for core `cid` completes: the leaf is cached, or the fault is raised at the role that
waits. -/
def execTranslationWalk (s : State) : Out :=
  match s.walker s.inp.cid s.inp.addr with
  | none => .next s
  | some (w, x) => match s.walk x.part s.inp.addr with
    | .ok l => .next (s.modCore s.inp.cid (fun k => k.addLeaf l))
    | .fault c => .next (s.raise w c (BitVec.ofNat 64 s.inp.addr))

end Sys2Proof.Machine
end

