-- ==== Sys2Proof/Machine/Fabric.lean ====
section
/-! DEFINITION. Ordered multicast and the configuration of the fabric (R291, R295, R299 to R302, R400). -/

namespace Sys2Proof.Machine

/-! ## The fabric request block (R295) -/

/-- The block after a request of the operation `fop`: FSTS has the error in bits [7:1], and BUSY clear. -/
def State.fsts (s : State) (fop : Byte) (err : Nat) : State :=
  { s with fab := { s.fab with fop := fop, fsts := BitVec.ofNat 8 (2 * err), args := s.inp.fab } }

/-- A request that is done, or refused with the error of the first check that fails. -/
def State.request (s : State) (fop : Byte) (checks : List (Bool × Nat)) (f : Fabric → Fabric) : State :=
  match checks.find? (·.1) with
  | some (_, err) => s.fsts fop err
  | none => State.fsts { s with fab := f s.fab } fop 0

/-- A package id, or a switch id. -/
def pkgIdOk (n : Nat) : Bool := decide (n ≤ 1056)
def State.arg (s : State) (i : Nat) : W64 :=
  let a := s.inp.fab
  [a.a0, a.a1, a.a2, a.a3, a.a4, a.a5].getD i 0

/-- SETID; with `flag`, the FOP `e` of those that name no operation: error 1. -/
def execSetid (s : State) : Out :=
  let id := (field (s.arg 0) 0 11).toNat
  let other : Byte := if 7 ≤ s.inp.e ∧ s.inp.e < 256 then BitVec.ofNat 8 s.inp.e else 0
  .next (s.request (if s.inp.flag then other else 1) [(s.inp.flag, 1), (!pkgIdOk id, 2), (!s.fab.groups.isEmpty, 3)] (fun f => { f with pkgid := id }))

/-- The non-minimal paths of a ROUTE that are VALID: 32 bits each, two per argument. -/
def altPaths (s : State) : List W64 :=
  ((List.range 8).map (fun i => field (s.arg (2 + i / 2)) (32 * (i % 2)) 32)).filterMap (fun p =>
    if bitAt p 11 then some (p.setWidth 64) else none)

/-- ROUTE. -/
def execRoute (s : State) : Out :=
  let a := s.arg 0
  let p := s.arg 1
  let dst := (field a 0 11).toNat
  let mid := (field p 6 11).toNat
  .next (s.request 2 [(!pkgIdOk dst || decide (32 < (field p 0 6).toNat) || !(mid == 0x7FF || pkgIdOk mid) ||
      decide (32 < (field p 17 6).toNat) ||
      (altPaths s).any (fun q => !pkgIdOk (field q 0 11).toNat), 2)]
    (fun f =>
      let l := f.routes.filter (fun r => r.dst != dst)
      { f with routes := if bitAt a 16 then l ++ [⟨dst, bitAt a 17, p, altPaths s⟩] else l }))

/-- The pinned physical pages of a range, 64 KiB at a time; none where a page is not mapped with PIN, as no page of the system window
and none beyond it is (R379, R389, R395). -/
def State.pinned (s : State) (part va n : Nat) : Option (List PinnedPage) :=
  if 0xFFFFFF000000 < va + n then none
  else ((List.range ((va + n + 65535) / 65536 - va / 65536)).map (fun i => (va / 65536 + i) * 65536)).mapM (fun a =>
    match s.walk part a with
    | .ok l =>
      if l.pin ∧ l.pa + (a - l.va) + 65536 ≤ s.pbytes then some ⟨a, l.pa + (a - l.va), 65536, l.w⟩ else none
    | .fault _ => none)

/-- Bytes of a page of package memory become zero; behind a full side buffer that waits (R414). -/
def State.clearG (s : State) (pa n : Nat) : State :=
  if s.sideFull (pageOf pa) ∨ !s.ck.held.isEmpty then { s with ck := { s.ck with held := s.ck.held ++ [(pa, List.replicate n 0)] } } else
  let s := s.saveSide (pageOf pa)
  { s with
    hbm := s.hbm.filter (fun c => !(decide (pa ≤ c.1) && decide (c.1 < pa + n)))
    poison := clearPoison s.poison pa n
    ck := { s.ck with dirty := if s.ck.dirty.contains (pageOf pa) then s.ck.dirty else pageOf pa :: s.ck.dirty } }

/-- GINST: the window's bytes become zero, and APPLIED starts at 0 (R299). -/
def execGinst (s : State) : Out :=
  let a := s.arg 0
  let gid := (field a 0 12).toNat
  let wlog := (field a 12 5).toNat
  let memb := (field a 21 11).toNat
  let part := (field a 32 4).toNat
  let va := (s.arg 1).toNat
  let pages := s.pinned part va (2 ^ wlog)
  let bad := wlog < 12 || 30 < wlog || memb == 0 || 1057 < memb || va % 2 ^ wlog != 0 || decide (0xFFFFFF000000 < va + 2 ^ wlog) ||
    !pkgIdOk (field (s.arg 2) 0 11).toNat || !(s.part part).valid
  let t := s.request 3 [(bad, 2), (s.fab.groups.any (fun g => g.gid == gid), 3), (pages.isNone, 4)] (fun f =>
    { f with groups := f.groups ++ [{ gid := gid, wlog := wlog, memb := memb, part := part, va := va, pages := pages.getD [],
                                      seqSwitch := (field (s.arg 2) 0 11).toNat }] })
  if t.fab.groups.length = s.fab.groups.length then .next t
  else
    let g := t.fab.groups.getLast?
    .next ((match g with
      | some g => g.pages.flatMap (fun p : PinnedPage =>
          [(p.pa + (Nat.max va p.va - p.va), Nat.min (va + 2 ^ wlog) (p.va + p.len) - Nat.max va p.va)])
      | none => []).foldl (fun (s : State) (p : Nat × Nat) => s.clearG p.1 p.2) t)

/-- An STO of a group is outstanding at this package: without an outcome, or still in the store buffer of a core (R165, R295). -/
def State.stoOut (s : State) (gid : Nat) : Bool :=
  s.fab.stos.any (fun o => o.gid == gid) || s.cores.any (fun k => k.2.sbuf.any (fun e => match e.place with
    | .o g _ => g == gid
    | _ => false))

/-- GREM. -/
def execGrem (s : State) : Out :=
  let gid := (field (s.arg 0) 0 12).toNat
  .next (s.request 4 [(s.stoOut gid || !s.fab.groups.any (fun g => g.gid == gid), 3)]
    (fun f => { f with groups := f.groups.filter (fun g => g.gid != gid) }))

/-- The member list of a SEQ, which `data` brings from the host. -/
def seqMembers (s : State) : List Nat :=
  (List.range (field (s.arg 0) 21 11).toNat).map (fun i => numAt s.inp.data (2 * i) 2)

/-- SEQ: the switch becomes the sequencer of a group, or ends that role. -/
def execSeq (s : State) : Out :=
  let a := s.arg 0
  let gid := (field a 0 12).toNat
  let members := seqMembers s
  let n := members.length
  let first := match s.fab.groups.find? (fun g => g.gid == gid) with
    | some g => g.applied + 1
    | none => 1
  .next (s.request 5 [(bitAt a 12 && (n == 0 || decide (1057 < n) || members.any (fun m => !pkgIdOk m)), 2)]
    (fun f =>
      let l := f.seqs.filter (fun q => q.gid != gid)
      { f with seqs := if bitAt a 12 then l ++ [⟨gid, members, first, []⟩] else l }))

/-- KEY; an entry of the endpoint that would pair the key of a valid partition with another one is refused (R400). -/
def execKey (s : State) : Out :=
  let a := s.arg 0
  let port := (field a 0 6).toNat
  let ent := (field a 6 6).toNat
  let key := field a 12 16
  let part := (field a 28 4).toNat
  let clash := bitAt a 32 && port == 33 && s.parts.any (fun p => p.2.valid && p.2.jkey == key && p.1 != part)
  .next (s.request 6 [(decide (33 < port), 2), (clash, 3)] (fun f =>
    let l := f.keys.filter (fun e => e.1 != (port, ent))
    { f with keys := if bitAt a 32 then l ++ [((port, ent), (key, part))] else l }))

/-! ## Stamping and applying (R300, R301) -/

def State.modGroup (s : State) (gid : Nat) (f : Group → Group) : State :=
  { s with fab := { s.fab with groups := s.fab.groups.map (fun g => if g.gid = gid then f g else g) } }
def State.modSeq (s : State) (gid : Nat) (f : Sequencer → Sequencer) : State :=
  { s with fab := { s.fab with seqs := s.fab.seqs.map (fun q => if q.gid = gid then f q else q) } }
def State.modSto (s : State) (tag : Nat) (f : StoOut → StoOut) : State :=
  { s with fab := { s.fab with stos := s.fab.stos.map (fun o => if o.tag = tag then f o else o) } }

/-- The sequencer stamps a store and sends it to every member. -/
def State.stamp (s : State) (q : Sequencer) (pkg cid tag off : Nat) (l : List Byte) : State :=
  (s.modSeq q.gid (fun q => { q with next := q.next + 1, unstable := q.unstable ++ [(q.next, pkg, tag)] })).modGroup q.gid
    (fun g => { g with pending := g.pending ++ [⟨q.next, pkg, cid, tag, off, l⟩] })

/-- The partition's key passes the endpoint (R297, R400). -/
def State.keyPasses (s : State) (c : CtxId) : Bool :=
  match s.ctx c with
  | some x => (s.endpointPart (s.part x.part).jkey).isSome
  | none => false

/-- The own STO of a group with a tag, when its sequencer may stamp it now: those of a package may arrive in any order, but for
overlapping ones of one role, which keep program order (R181, R187, R300; log 31). -/
def State.ownSto (s : State) (gid tag : Nat) : Option StoOut :=
  match s.fab.stos.find? (fun o => o.gid == gid && o.tag == tag && !o.numbered) with
  | none => none
  | some o =>
    if (s.fab.stos.takeWhile (fun e => e.tag != tag)).any (fun e => e.gid == gid && e.ctx == o.ctx && e.role == o.role && !e.numbered &&
      (Place.o gid e.off).overlaps e.data.length (.o gid o.off) o.data.length) then none else some o

/-- A group re-forms: no STO is stamped until its numbering goes on at P + 1 (R302). -/
def State.reforming (s : State) (gid : Nat) : Bool := s.fab.groups.any (fun g => g.gid == gid && g.ref)

/-- STO_STAMP: this package's switch, sequencer of `gid`, stamps the store `sto`: one of this package's own by its tag, or
a member's, which enters at `port`, 0 to 32, with the key `v`. A key that is absent, or the number 2^48 − 1, rejects it (R297, R300). -/
def execStoStamp (s : State) : Out :=
  match s.fab.seqs.find? (fun q => q.gid == s.inp.gid) with
  | none => .next s
  | some q =>
    if 1024 ≤ q.unstable.length ∨ !s.fabOn ∨ s.reforming q.gid then .next s
    else match s.inp.sto with
      | .own tag =>
        match s.ownSto q.gid tag with
        | none => .next s
        | some o =>
          if !s.keyPasses o.ctx ∨ q.next = 2 ^ 48 - 1 then .next ((s.dropSto tag).rejectSto o.ctx)
          else .next ((s.stamp q s.fab.pkgid o.cid tag o.off o.data).modSto tag (fun o => { o with numbered := true }))
      | .member pkg cid tag off l =>
        if !s.fab.keys.any (fun e => e.1.1 == s.inp.port && decide (e.1.1 ≤ 32) && e.2.1 == field s.inp.v 0 16) ∨
            !q.members.contains pkg ∨ pkg = s.fab.pkgid ∨
            q.next = 2 ^ 48 - 1 then .next s
        else .next (s.stamp q pkg cid tag off l)

/-- The next store of a group is applied whole, and its tag is marked where it is this package's own (R301, R302). -/
def State.applyStore (s : State) (gid : Nat) (pkg tag off : Nat) (l : List Byte) : State :=
  match s.fab.groups.find? (fun g => g.gid == gid) with
  | none => s
  | some g =>
  let parts := g.parts off l.length
  let s1 := (parts.foldl (fun (r : State × List Byte) p => (r.1.performDev p.1 (g.va + off) (r.2.take p.2), r.2.drop p.2)) (s, l)).1
  let s2 := s1.modGroup g.gid (fun g => { g with
    applied := g.applied + 1, kept := ((g.applied + 1, off, l) :: g.kept).take 1024
    pending := g.pending.filter (fun e => e.n != g.applied + 1) })
  if pkg = s.fab.pkgid then s2.modSto tag (fun o => { o with marked := true }) else s2

/-- Stamped store `n` arrives from another package's sequencer. One of this package's own is one that it has sent to the group, and
that may be stamped by then (R181, R300). -/
def State.stampedIn (s : State) (gid n : Nat) (e : Stamped) : State :=
  let own := e.pkg = s.fab.pkgid
  let good := !own || match s.ownSto gid e.tag with
    | some o => o.cid == e.cid && o.off == e.off && o.data == e.data
    | none => false
  match s.fab.groups.find? (fun g => g.gid == gid) with
  | none => s
  | some g =>
    if n ≤ g.applied ∨ g.pending.any (fun p => p.n == n) ∨ 2 ^ g.wlog < e.off + e.data.length ∨ !good ∨
        s.fab.seqs.any (fun q => q.gid == gid) then s
    else
      let t := s.modGroup gid (fun g => { g with pending := g.pending ++ [e] })
      if own then t.modSto e.tag (fun o => { o with numbered := true }) else t

/-- STAMPED_STORE_APPLY: the store that follows APPLIED of `gid` is applied; with `flag` store `id` arrives from another
package's sequencer first (`sto`). -/
def execStampedStoreApply (s : State) : Out :=
  let s1 := match s.inp.flag && s.fabOn, s.inp.sto with
    | true, .member pkg cid tag off l => s.stampedIn s.inp.gid s.inp.id ⟨s.inp.id, pkg, cid, tag, off, l⟩
    | _, _ => s
  if !s.fabOn then .next s else match s1.fab.groups.find? (fun g => g.gid == s.inp.gid) with
  | none => .next s1
  | some g => match g.pending.find? (fun e => e.n == g.applied + 1) with
    | none => .next s1
    | some e =>
      if (g.parts e.off e.data.length).any (fun p => s1.sideFull (pageOf p.1)) then .next s1
      else .next (s1.applyStore g.gid e.pkg e.tag e.off e.data)

/-- STAMP_ACKNOWLEDGEMENT: every live member has applied the store with tag `id` of package `no` in `gid`: the sequencer lets
it go, and its issuer's STO has its outcome (R300). With `flag`, another package's sequencer rejects this package's STO of tag
`id` instead, which it has not stamped (R297, R300). -/
def execStampAcknowledgement (s : State) : Out :=
  if !s.fabOn then .next s
  else if s.inp.flag then
    match s.fab.stos.find? (fun o => o.tag == s.inp.id && o.gid == s.inp.gid && !o.numbered) with
    | some o => if s.fab.seqs.any (fun q => q.gid == s.inp.gid) then .next s else .next ((s.dropSto o.tag).rejectSto o.ctx)
    | none => .next s
  else
  let own := s.inp.no = s.fab.pkgid
  let here := fun (q : Sequencer) => q.unstable.any (fun e => e.2 == (s.inp.no, s.inp.id) &&
    s.fab.groups.all (fun g => g.gid != q.gid || decide (e.1 ≤ g.applied)))
  let drop := fun (s : State) => s.modSeq s.inp.gid (fun q =>
    { q with unstable := q.unstable.filter (fun e => e.2 != (s.inp.no, s.inp.id)) })
  match s.fab.seqs.find? (fun q => q.gid == s.inp.gid) with
  | some q => if here q then .next (if own then (drop s).dropSto s.inp.id else drop s) else .next s
  | none =>
    if own ∧ s.fab.stos.any (fun o => o.tag == s.inp.id && o.gid == s.inp.gid && o.marked) then .next (s.dropSto s.inp.id)
    else .next s

/-! ## Re-formation (R302) -/

/-- Every own tag of a group without an outcome is settled: a marked one is acknowledged, another one rejected. -/
def State.settle (s : State) (gid : Nat) : State :=
  (s.fab.stos.filter (fun o => o.gid == gid)).foldl (fun (s : State) o =>
    if o.marked then s.dropSto o.tag else (s.dropSto o.tag).rejectSto o.ctx) s

/-- GROUP_RE_FORMATION of `gid`: it begins, and REF is set; or it ends with the outcome `reform`. -/
def execGroupReFormation (s : State) : Out :=
  match s.inp.reform with
  | none => .next (s.modGroup s.inp.gid (fun g => { g with ref := true }))
  | some r =>
    let s1 := s.modSeq s.inp.gid (fun q => { q with next := r.p + 1, unstable := [] })
    match s.fab.groups.find? (fun g => g.gid == s.inp.gid) with
    | none => .next s1
    | some g =>
      if !g.ref ∨ g.applied + r.redelivered.length ≠ r.p ∨ !s.fabOn then .next s
      else
        let s2 := r.redelivered.foldl (fun (s : State) e => s.applyStore g.gid e.1 e.2.1 e.2.2.1 e.2.2.2) s1
        .next ((s2.settle s.inp.gid).modGroup s.inp.gid (fun g => { g with ref := false, epoch := g.epoch + 1, pending := [] }))

end Sys2Proof.Machine
end

