-- ==== Sys2Proof/Machine/Loader.lean ====
section
/-! DEFINITION. The loader: the checks of a text and its kernel descriptor before any core is touched (R38, R47, R91 to R94,
R100, R126, R200), with the reason codes of R379. -/

namespace Sys2Proof.Machine

/-! ## Headers (R91, R92) -/

/-- A wait field (R91): none where it is malformed. -/
def waitField (r : Role) (v : Nat) : Option (List (Role × Nat)) :=
  if v = 0 then some []
  else if v / 256 = 8 then some [(r, v % 256)]
  else none

/-- One section header and its body; none where R92 rejects them. -/
def sectionAt (b : List Byte) : Option Section :=
  let h := numAt b 0 8
  let kind := h / 2 ^ 60
  let len := h / 2 ^ 44 % 2 ^ 16
  match waitField .l (h / 2 ^ 24 % 4096), waitField .c (h / 2 ^ 12 % 4096), waitField .s (h % 4096) with
  | some wl, some wc, some ws =>
    let waits := wl ++ wc ++ ws
    if b.length < 8 + 4 * len ∨ kind < 1 ∨ 3 < kind ∨ (kind = 1 ∧ (len = 0 ∨ len % 3 ≠ 0)) ∨ (kind ≠ 1 ∧ waits ≠ []) then none
    else some ⟨kind, h / 2 ^ 36 % 256, waits, (b.drop 8).take (4 * len)⟩
  | _, _, _ => none

/-- The sections of a text; `fuel` bounds their number. -/
def sectionsFrom : Nat → List Byte → Option (List Section)
  | 0, b => if b.isEmpty then some [] else none
  | fuel + 1, b =>
    if b.isEmpty then some []
    else if b.length < 8 then none
    else match sectionAt b with
      | none => none
      | some x => (sectionsFrom fuel (b.drop (8 + x.body.length))).map (x :: ·)

/-- Two sections share a number. -/
def dupSections : List Section → Bool
  | [] => false
  | x :: r => r.any (fun y => y.sec == x.sec) || dupSections r

/-- The sections of a text whose numbers and wait fields are as R92 wants them. -/
def parseText (b : List Byte) : Option (List Section) :=
  match sectionsFrom 257 b with
  | none => none
  | some t => if dupSections t ∨ !t.all (fun x => x.waits.all (fun e => isCode t e.2)) then none else some t

/-! ## The words of a text -/

/-- A word of the text in order: its place, its bits, its A-interval (R38). -/
structure TWord where
  at_ : Pos
  w : Word96
  itv : Nat
  deriving DecidableEq, Repr

/-- The words with their A-intervals. -/
def numberWords : Nat → List (Pos × Word96) → List TWord
  | _, [] => []
  | n, (p, w) :: r => ⟨p, w, n⟩ :: numberWords (if isATag w then n + 1 else n) r

def textWords (t : List Section) : List TWord := numberWords 0 (codeWords t)

/-- What a word is to the loader; a word that fails its decode checks is no instruction to it: it faults where it is
executed (R89). -/
def TWord.instr (x : TWord) : Option Instr :=
  let i := decodeWord x.w
  if (violation i).isSome then none else some i

/-- The index of a word in the text. -/
def wordIx (l : List TWord) (p : Pos) : Option Nat := l.findIdx? (fun x => x.at_ == p)

/-- The fields of format B, of a word that has them. -/
def transferOf : Instr → Option WordB
  | .br v | .brp v | .call v | .loop v | .next v => some v
  | _ => none

def target (v : WordB) : Pos := ⟨v.tsec.toNat, v.tword.toNat⟩

/-- A target that R92 rejects; a LOOP's may lie anywhere in a pool or parameter section. -/
def badTarget (t : List Section) (v : WordB) (loop : Bool) : Bool :=
  match sectionOf t v.tsec.toNat with
  | none => true
  | some x => if x.kind = 1 then decide (x.words ≤ v.tword.toNat) else !loop && decide (x.body.length ≤ 12 * v.tword.toNat)

/-- Reason 0x0C of a word: its target (R92), or the section of an LDP (R126). A NEXT with a bad target is rejected as a branch with it
is: DESIGN CHOICE, log 28, as R92 names a branch, CALL and LOOP only. -/
def wordRejected (t : List Section) (i : Instr) : Bool :=
  match i with
  | .ldp v => match sectionOf t (field v.imm 40 8).toNat with
    | some x => x.kind == 1
    | none => true
  | .loop v => badTarget t v true
  | .br v | .brp v | .call v | .next v => badTarget t v false
  | _ => false

/-! ## Q-registers (R200) -/

/-- The q-register operands of an instruction: those it writes, those it reads, those it only names. -/
structure QUse where
  writes : List (BitVec 6) := []
  reads : List (BitVec 6) := []
  names : List (BitVec 6) := []
  deriving DecidableEq, Repr

/-- By opcode; codes that name no q-register are left out afterwards. -/
def qUse (w : Word96) : QUse :=
  let o := opcOf w
  let m := getM w
  let x := getX w
  if 0x100 ≤ o ∧ o < 0x200 then
    let v := getV w
    { writes := [v.d], reads := [v.a, v.b, v.c] }
  else if [0x200, 0x204, 0x206, 0x209, 0x20B, 0x20F, 0x22A].contains o then { writes := [m.data] }
  else if o = 0x202 then { writes := [m.data], reads := [m.index] }
  else if [0x201, 0x205, 0x207, 0x20A, 0x20C, 0x210].contains o then { reads := [m.data] }
  else if o = 0x203 ∨ o = 0x229 then { reads := [m.data, m.index] }
  else if o = 0x226 then { reads := [m.base] }
  else if o = 0x225 then { names := [m.base] }
  else if o = 0x227 then { names := [m.data] }
  else if [0x308, 0x30A, 0x321].contains o then { writes := [x.d] }
  else if o = 0x30B ∨ o = 0x320 then { reads := [x.a] }
  else {}

/-- The use breaks QMAP or the harvest profile (R34, R200). -/
def qBad (qmap : W64) (harvest : Bool) (w : Word96) : Bool :=
  let u := qUse w
  let tag := (field w 94 2).toNat
  let prod := fun c : BitVec 6 => (field qmap (4 * (c.toNat - 32) + 2) 2).toNat
  let cons := fun c : BitVec 6 => (field qmap (4 * (c.toNat - 32)) 2).toNat
  u.writes.any (fun c => isQ c && prod c != tag) || u.reads.any (fun c => isQ c && cons c != tag) ||
    u.names.any (fun c => isQ c && prod c == 3) ||
    (harvest && (u.writes ++ u.reads ++ u.names).any (fun c => isQ c && decide (40 ≤ c.toNat)))

/-! ## A-intervals (R38) -/

/-- Where control of role `r` may go from a word: by fall-through, or to a target. -/
def succs (t : List Section) (l : List TWord) (x : TWord) (r : BitVec 2) : List Nat :=
  let next := ((fallThrough t x.at_).bind (wordIx l)).toList
  if field x.w 94 2 ≠ 3 ∧ field x.w 94 2 ≠ r then next
  else match x.instr with
    | some (.br v) => (wordIx l (target v)).toList ++ (if v.guard = 0 then [] else next)
    | some (.brp v) | some (.loop v) | some (.next v) => (wordIx l (target v)).toList ++ next
    | some (.ret v) | some (.halt v) => if v.guard = 0 then [] else next
    | _ => next

/-- The words reached from a list of words; `fuel` bounds the rounds. -/
def reach (t : List Section) (l : List TWord) (r : BitVec 2) : Nat → List Nat → List Nat
  | 0, s => s
  | fuel + 1, s =>
    let n := (s.flatMap (fun g => match l[g]? with
      | some x => succs t l x r
      | none => [])).filter (fun g => !s.contains g)
    if n.isEmpty then s else reach t l r fuel (s ++ n.eraseDups)

/-- A transfer of a single role that leaves its A-interval, or calls a body that holds an A-tagged word. A target outside code is no
breach here (log 28). -/
def leavesInterval (t : List Section) (l : List TWord) (x : TWord) : Bool :=
  let r := field x.w 94 2
  match x.instr with
  | none => false
  | some i =>
    match transferOf i with
    | none => false
    | some v =>
      match wordIx l (target v) with
      | none => false
      | some g =>
        r != 3#2 && match i with
          | .call _ => (reach t l r l.length [g]).any (fun h => match l[h]? with
              | some y => isATag y.w
              | none => false) || (l[g]?.map (·.itv) != some x.itv)
          | _ => l[g]?.map (·.itv) != some x.itv

/-! ## The distance between quiet points (R47, R100) -/

/-- An A-tagged QPT. -/
def TWord.quiet (x : TWord) : Bool :=
  match x.instr with
  | some (.qpt _) => isATag x.w
  | _ => false

/-- The NEXT that closes the LOOP at position `g`: the first one after it with its counter and its tag. -/
def closing (l : List TWord) (g : Nat) (v : WordB) : Option Nat :=
  ((List.range l.length).drop (g + 1)).find? (fun h => match l[h]? with
    | some y => match y.instr with
      | some (.next u) => u.mod == v.mod && u.role == v.role
      | _ => false
    | none => false)

/-- The body of a loop holds a quiet point. -/
def quietBody (l : List TWord) (lo hi : Nat) : Bool := ((l.take (hi + 1)).drop lo).any (·.quiet)

/-- A LOOP whose count R100 rejects: an immediate 0, or a register count without a bound whose body holds no quiet point. -/
def badLoop (l : List TWord) (g : Nat) (v : WordB) : Bool :=
  v.count == 0 && (v.cond == 62 || match closing l g v with
    | some h => !quietBody l (g + 1) h
    | none => true)

/-- A stretch of text whose longest path is measured: the whole text, or one trip of a loop body. -/
structure Region where
  lo : Nat
  hi : Nat
  /-- the NEXT that ends a trip -/
  stop : Option Nat
  /-- where that NEXT begins the next trip -/
  back : Nat
  /-- the trip bound -/
  trips : Nat
  deriving DecidableEq, Repr

/-- The whole text, and the body of each loop without a quiet point whose NEXT branches back into that body; any other LOOP and NEXT are
measured as branches. -/
def regionsOf (l : List TWord) : List Region :=
  ⟨0, l.length, none, 0, 0⟩ :: (List.range l.length).filterMap (fun g => match l[g]? with
    | some x => match x.instr with
      | some (.loop v) => (closing l g v).bind (fun h => match (l[h]?).bind (fun y => y.instr.bind transferOf) with
        | some u => match wordIx l (target u) with
          | some b => if quietBody l (g + 1) h ∨ b ≤ g ∨ h < b then none else some ⟨g + 1, h + 1, some h, b, v.count.toNat⟩
          | none => none
        | none => none)
      | _ => none
    | none => none)

/-- 4,096 instruction words, and what counts as more. -/
def overBound : Nat := 4097

/-- The table of lengths so far: per region, per word. -/
abbrev Lengths := List (List Nat)

/-- The length from a word within a region; 0 outside it, where the path has left the region. -/
def Lengths.get (m : Lengths) (k : Nat) (r : Region) (g : Option Nat) : Nat :=
  match g with
  | some g => if r.lo ≤ g ∧ g < r.hi then (m.getD k []).getD g 0 else 0
  | none => 0

/-- Where role `r` may go from a loop body to outside it: the targets of its branches, of its inner LOOPs and NEXTs, and the word after
each. -/
def exitsOf (t : List Section) (l : List TWord) (r : BitVec 2) (lo hi : Nat) : List Nat :=
  ((l.take hi).drop lo).flatMap (fun x => (succs t l x r).filter (fun g => !(decide (lo ≤ g) && decide (g < hi))))

/-- The trips of a loop region, each the longest path from where it begins. -/
def Lengths.trips (m : Lengths) (j : Nat) (p : Region) : Nat :=
  p.trips * Nat.max (m.get j p (some p.lo)) (m.get j p (some p.back))

/-- One round: the length of the longest path of role `r` from a word of region `k`, words of all tags counted: a word of another role
is passed over. A loop without a quiet point counts as its body length times its bound, also where a path enters it past its LOOP, a CALL
with its callee's longest path. -/
def roundAt (t : List Section) (l : List TWord) (rs : List Region) (r : BitVec 2) (m : Lengths) (k : Nat) (q : Region) (g : Nat)
    (x : TWord) : Nat :=
  let next := (fallThrough t x.at_).bind (wordIx l)
  let from_ := fun g => m.get k q g
  let whole := fun g => m.get 0 ⟨0, l.length, none, 0, 0⟩ g
  let orNext := fun (guard : BitVec 5) (n : Nat) => if guard = 0 then n else Nat.max n (from_ next)
  let n := match x.instr with
    | none => from_ next
    | some i =>
      if field x.w 94 2 ≠ 3 ∧ field x.w 94 2 ≠ r then from_ next
      else match i with
      | .qpt _ => if isATag x.w then 0 else from_ next
      | .halt v => orNext v.guard 0
      | .ret v => orNext v.guard 0
      | .br v => orNext v.guard (from_ (wordIx l (target v)))
      | .brp v => Nat.max (from_ (wordIx l (target v))) (from_ next)
      | .call v => whole (wordIx l (target v)) + from_ next
      | .next v => if q.stop = some g then 0 else
          match rs.findIdx? (fun p => p.stop == some g) with
          | some j => m.trips j (rs.getD j q) + from_ next
          | none => Nat.max (from_ (wordIx l (target v))) (from_ next)
      | .loop v =>
        match rs.findIdx? (fun p => p.lo == g + 1 && p.stop.isSome) with
        | some j =>
          let p := rs.getD j q
          let out := (exitsOf t l r p.lo p.hi ++ (wordIx l (target v)).toList).map (fun g => from_ (some g))
          m.trips j p + out.foldl Nat.max 0
        | none => Nat.max (from_ (wordIx l (target v))) (from_ next)
      | _ => from_ next
  Nat.min overBound (1 + n)

def roundOf (t : List Section) (l : List TWord) (rs : List Region) (r : BitVec 2) (m : Lengths) : Lengths :=
  rs.zipIdx.map (fun e => l.zipIdx.map (fun x =>
    if e.1.lo ≤ x.2 ∧ x.2 < e.1.hi then roundAt t l rs r m e.2 e.1 x.2 x.1 else 0))

/-- Rounds until nothing changes; after 4,097 of them every path of at most 4,096 words has been measured. -/
def settle (t : List Section) (l : List TWord) (rs : List Region) (r : BitVec 2) : Nat → Lengths → Lengths
  | 0, m => m
  | fuel + 1, m =>
    let m' := roundOf t l rs r m
    if m' = m then m else settle t l rs r fuel m'

/-- The tags of the three roles. -/
def roleTags : List (BitVec 2) := [0, 1, 2]

/-- Words that a role reaches from a list of words without an A-tagged QPT and without going round a loop. -/
def reachOpen (t : List Section) (l : List TWord) (r : BitVec 2) : Nat → List Nat → List Nat
  | 0, s => s
  | fuel + 1, s =>
    let n := (s.flatMap (fun g => match l[g]? with
      | some x => if x.quiet then [] else match x.instr with
        | some (.next _) => ((fallThrough t x.at_).bind (wordIx l)).toList
        | _ => succs t l x r
      | none => [])).filter (fun g => !s.contains g)
    if n.isEmpty then s else reachOpen t l r fuel (s ++ n.eraseDups)

/-- A backward BR or BRP at position `g` closes a cycle without an A-tagged QPT, wherever in the text it stands (R100). -/
def badCycle (t : List Section) (l : List TWord) (g : Nat) (x : TWord) : Bool :=
  match x.instr with
  | some (.br v) | some (.brp v) => match wordIx l (target v) with
    | some h => decide (h ≤ g) && roleTags.any (fun r =>
        (field x.w 94 2 == 3 || field x.w 94 2 == r) && (reachOpen t l r l.length [h]).contains g)
    | none => false
  | _ => false

/-- R47 and R100: no path of a role from the entry or from a quiet point executes more than 4,096 words. -/
def farQuiet (t : List Section) (l : List TWord) (entry : Nat) : Bool :=
  let rs := regionsOf l
  let far := fun r =>
    let m := settle t l rs r overBound (rs.map (fun _ => l.map (fun _ => 0)))
    let past := fun g => decide (overBound ≤ m.get 0 ⟨0, l.length, none, 0, 0⟩ g)
    past (wordIx l ⟨entry, 0⟩) || l.any (fun x => x.quiet && past ((fallThrough t x.at_).bind (wordIx l)))
  l.zipIdx.any (fun x => match x.1.instr with
      | some (.loop v) => badLoop l x.2 v
      | _ => false) || l.zipIdx.any (fun x => badCycle t l x.2 x.1) || roleTags.any far

/-! ## The kernel descriptor (R94) -/

/-- A descriptor that passes (R94). -/
structure Desc where
  entry : Nat
  win0 : Nat
  roles : BitVec 3
  qmap : W64
  deriving DecidableEq, Repr

/-- A nibble of QMAP names active roles, or is 0xF. -/
def nibbleOk (roles : Nat) (n : Nat) : Bool :=
  n == 15 || (n / 4 != 3 && n % 4 != 3 && roles.testBit (n / 4) && roles.testBit (n % 4))

/-- The descriptor in parameter section `psec`; none where the loader rejects it. A harvest region maps no q8 to q15. -/
def descOf (t : List Section) (psec : Nat) (harvest : Bool) : Option Desc :=
  match sectionOf t psec with
  | none => none
  | some x =>
    let b := x.body
    let entry := numAt b 3 1
    let win0 := numAt b 4 1
    let roles := numAt b 5 1
    let prof := numAt b 6 1
    let qmap := numAt b 8 8
    if x.kind ≠ 3 ∨ b.length < 32 ∨ numAt b 0 2 ≠ 0x4B44 ∨ numAt b 2 1 ≠ 1 ∨ !isCode t entry ∨ win0 < 1 ∨ 64 < win0 ∨ roles = 0 ∨
        7 < roles ∨ 1 < prof ∨ numAt b 7 1 ≠ 0 ∨ numAt b 16 16 ≠ 0 ∨
        !(List.range 16).all (fun i => nibbleOk roles (qmap / 16 ^ i % 16)) ∨ ((prof = 1 ∨ harvest) ∧ qmap / 2 ^ 32 ≠ 2 ^ 32 - 1)
    then none
    else some ⟨entry, win0, BitVec.ofNat 3 roles, BitVec.ofNat 64 qmap⟩

/-- ARGS in the parameter section: the bytes from offset 32 on are replaced (R377); none where they pass its LEN. -/
def withArgs (t : List Section) (psec : Nat) (args : List Byte) : Option (List Section) :=
  if args.isEmpty then some t
  else match sectionOf t psec with
    | none => none
    | some x => if x.body.length < 32 + args.length then none
      else some (t.map (fun y =>
        if y.sec = psec then { y with body := y.body.take 32 ++ args ++ y.body.drop (32 + args.length) } else y))

/-- A text as the loader accepts it, or the reason of R379. -/
def load (bytes : List Byte) (psec : Nat) (harvest : Bool) (args : List Byte) : Except Nat (List Section × Desc) :=
  match parseText bytes with
  | none => .error 0x0C
  | some t =>
    let l := textWords t
    if l.any (fun x => match x.instr with
        | some i => wordRejected t i
        | none => false) then .error 0x0C
    else match descOf t psec harvest with
      | none => .error 0x0D
      | some d =>
        if l.any (fun x => x.instr.isSome && qBad d.qmap harvest x.w) then .error 0x0D
        else if farQuiet t l d.entry then .error 0x0E
        else if l.any (leavesInterval t l) then .error 0x0F
        else match withArgs t psec args with
          | none => .error 0x14
          | some t => .ok (t, d)

end Sys2Proof.Machine
end

