-- ==== Sys2Proof/Machine/Admission.lean ====
section
/-! DEFINITION. Admission of a tree of region control blocks (R25 to R27, R376, R377, R379): the snapshot, the checks, the
grants (R280, R281, R312), and the rejection. -/

namespace Sys2Proof.Machine

/-! ## The snapshot -/

/-- A node as the leader read it: address, level, the place of its parent in the list, its 256 bytes, and whether its
child list or a child of it could not be read. -/
structure RNode where
  addr : Nat
  level : Nat
  parent : Option Nat
  raw : List Byte
  broken : Bool
  deriving DecidableEq, Repr

def RNode.f (r : RNode) (off n : Nat) : Nat := numAt r.raw off n
def RNode.flag (r : RNode) (i : Nat) : Bool := (r.f 6 2).testBit i

/-- The bytes of an RCB. -/
def State.rcbAt (s : State) (part a : Nat) : Option (List Byte) := if a % 256 = 0 then s.readRun part a 256 else none

/-- The child addresses of an RCB; none where its list cannot be read. -/
def State.childAddrs (s : State) (part : Nat) (raw : List Byte) : Option (List Nat) :=
  let n := numAt raw 0xE 2
  if (numAt raw 6 2).testBit 0 ∨ 4096 < n then some []
  else (s.readV part (numAt raw 0x18 8) (8 * n)).map (fun b => (List.range n).map (fun i => numAt b (8 * i) 8))

/-- The tree below an address, in pre-order; nodes below level 7 are not read (R25). -/
def readTree (s : State) (part : Nat) : Nat → Nat → Option Nat → Nat → Nat → List RNode
  | 0, _, _, _, _ => []
  | fuel + 1, level, parent, ix, a =>
    match s.rcbAt part a with
    | none => []
    | some raw =>
      let ks := if level < 7 then s.childAddrs part raw else some []
      let l := ks.getD []
      l.foldl (fun acc b => acc ++ readTree s part fuel (level + 1) (some ix) (ix + acc.length) b)
        [⟨a, level, parent, raw, ks.isNone || l.any (fun b => (s.rcbAt part b).isNone)⟩]

/-- A field that a clear INH bit takes from the parent (R26). -/
def inherit {α : Type} (b : Bool) (p : Option Node) (f : Node → α) (own : α) : α := if b then (p.map f).getD own else own

/-- A node with its inherited fields; a root inherits nothing (R377), but the harvest flag covers a subtree. -/
def nodeOf (q : LQueue) (id : Nat) (r : RNode) (p : Option Node) (up : Option Nat) : Node :=
  let inh := fun i => r.parent.isSome && !(r.f 8 4).testBit i
  { id := id, rcb := r.addr, parent := up, level := r.level, leaf := r.flag 0
    fdom := inherit (inh 6) p (·.fdom) (r.flag 1), priv := r.flag 2, pkgw := r.flag 8
    hvreg := r.flag 3 || (p.map (·.hvreg)).getD false, ckpt := r.flag 4, retain := r.flag 5, icm := r.flag 7
    part := q.part, queue := q.q, prio := inherit (inh 0) p (·.prio) (r.f 0xC 1)
    ncore := inherit (inh 1) p (·.ncore) (r.f 0x30 4), abud := inherit (inh 1) p (·.abud) (r.f 0x34 2)
    wbud := inherit (inh 1) p (·.wbud) (r.f 0x36 2), zbud := inherit (inh 1) p (·.zbud) (r.f 0x38 2)
    hallow := inherit (inh 2) p (·.hallow) (r.f 0x3A 1), nbar := inherit (inh 3) p (·.nbar) (r.f 0x3B 1)
    pgmask := inherit (inh 4) p (·.pgmask) (BitVec.ofNat 16 (r.f 0x3C 2))
    diemask := inherit (inh 5) p (·.diemask) (BitVec.ofNat 64 (r.f 0x40 8))
    crec := r.f 0x20 8, state := 1, cause := 0, tstart := 0, retc := 0, children := [] }

/-- The nodes of a snapshot, numbered from `base`; `leaf` is the appending kernel's leaf. -/
def nodesOf (q : LQueue) (base : Nat) (leaf : Option Node) (l : List RNode) : List Node :=
  let ns := l.foldl (fun (acc : List Node) r =>
    acc ++ [match r.parent with
      | some i => nodeOf q (base + acc.length) r acc[i]? (some (base + i))
      | none => nodeOf q (base + acc.length) r leaf (leaf.map (·.id))]) []
  ns.map (fun n => { n with children := (ns.filter (fun k => k.parent == some n.id)).map (·.id) })

/-! ## The text, the staging entries and the flow requests of a leaf (R377) -/

/-- The text, its descriptor and ARGS, or the reason of R379. -/
def State.loadLeaf (s : State) (r : RNode) (n : Node) : Except Nat (List Section × Desc) :=
  if r.f 0x48 8 % 4 ≠ 0 then .error 0x0C
  else match s.readV n.part (r.f 0x48 8) (r.f 0x50 4) with
    | none => .error 0x0C
    | some b =>
      if r.f 0x68 4 % 4 ≠ 0 then .error 0x14
      else match (if r.f 0x68 4 = 0 then some [] else s.readV n.part (r.f 0x60 8) (r.f 0x68 4)) with
        | none => .error 0x14
        | some a => load b (r.f 0x54 1) n.hvreg a

/-- The command of core `n` from a staging entry: SADR advances by PSTR for each grid index. -/
def stagingCmd (b : List Byte) (n : Nat) : List Byte :=
  b.take 0x10 ++ bytesN (numAt b 0x10 8 + n * numAt b 0x78 8) 8 ++ (b.drop 0x18).take 0x60 ++ List.replicate 8 0

/-- A staging command: COPY into a buffer, no token, no status word. -/
def stagingOk (b : List Byte) : Bool :=
  let m := Cmd.of b
  m.ok false [0] && m.tps == 0 && m.stw == 0xFFFF && m.dsp != 6

/-- The staging transfers of a leaf, core by core; none where an entry is invalid (reason 0x14). -/
def State.stagingOf (s : State) (r : RNode) (n : Node) : Option (List Staging) :=
  let k := r.f 0x5E 1
  if 8 < k then none
  else match s.readV n.part (r.f 0x78 8) (128 * k) with
    | none => none
    | some b =>
      let l := (List.range n.ncore).flatMap (fun g => (List.range k).map (fun i =>
        (⟨g, stagingCmd ((b.drop (128 * i)).take 128) g, false⟩ : Staging)))
      if l.all (fun e => stagingOk e.bytes) then some l else none

/-- A flow request. -/
structure FlowReq where
  track : Nat
  k : Nat
  slot0 : Nat
  any : Bool
  fmt : BitVec 2
  nflg : Nat
  window : Option (Nat × Nat)
  /-- station, slot offset, entry -/
  temps : List (Nat × Nat × W64)
  deriving DecidableEq, Repr

/-- A template of 16 bytes. -/
def templateOf (b : List Byte) : Nat × Nat × W64 :=
  (numAt b 0 2 % 128, numAt b 0 2 / 128, BitVec.ofNat 64 (numAt b 8 8))

/-- The flow requests from an address on; none where one breaks R377 or cannot be read. -/
def State.readFlows (s : State) (part : Nat) : Nat → Nat → Option (List FlowReq)
  | 0, _ => some []
  | n + 1, a =>
    match s.readV part a 8 with
    | none => none
    | some hb =>
      let h := numAt hb 0 8
      let memw := h.testBit 39
      let a1 := a + 8 + (if memw then 16 else 0)
      let ne := h / 2 ^ 24 % 256
      match s.readV part (a + 8) (if memw then 16 else 0), s.readV part a1 (16 * ne), State.readFlows s part n (a1 + 16 * ne) with
      | some w, some t, some r =>
        let wva := numAt w 0 8
        let wlen := numAt w 8 8
        if h / 2 ^ 40 ≠ 0 ∨ 64 < h / 2 ^ 32 % 128 ∨ h / 8 % 512 = 0 ∨
            (memw ∧ (wva % 256 ≠ 0 ∨ wlen % 256 ≠ 0 ∨ wlen < 256 ∨ 2 ^ 40 < wlen)) then none
        else some (⟨h % 8, h / 8 % 512, h / 2 ^ 12 % 512, h.testBit 21, BitVec.ofNat 2 (h / 2 ^ 22), h / 2 ^ 32 % 128,
          if memw then some (wva, wlen) else none, (List.range ne).map (fun i => templateOf ((t.drop (16 * i)).take 16))⟩ :: r)
      | _, _, _ => none

/-! ## The checks of one node (R379) -/

/-- The live cores of a node's placement in its partition (R30, R399). -/
def State.placement (s : State) (n : Node) : List Nat :=
  (s.liveCores n.part).filter (fun cid => (s.die (dieOf cid)).live && bitAt n.pgmask (groupOf (dieOf cid)) &&
    bitAt n.diemask (dieOf cid))

/-- What an appending kernel and the children that it has appended leave of its leaf's cores (R27, R376). -/
def State.coresLeft (s : State) (leaf : Node) (kernel : Nat) : Nat :=
  let held := match s.kernel kernel with
    | some k => if k.state = .ended then 0 else k.grant.countP (fun c => (s.member k c).any (fun x => x.state != .ended))
    | none => 0
  leaf.ncore - (held + ((s.nodes.filter (fun n => n.parent == some leaf.id && decide (n.state ≤ 1))).map (·.ncore)).sum)

/-- A field of reason 0x01: magic, version, level, reserved fields, and values outside their ranges. A root's INH is ignored (R377). -/
def badFields (r : RNode) (n : Node) : Bool :=
  r.f 0 4 != 0x52434231 || r.f 4 1 != 1 || r.f 5 1 != r.level || decide (512 ≤ r.f 6 2) || (r.parent.isSome && decide (128 ≤ r.f 8 4)) ||
    decide (4096 < r.f 0xE 2) || (n.leaf && r.f 0xE 2 != 0) || r.f 0x3E 2 != 0 || r.f 0x5F 1 != 0 || r.f 0x6C 4 != 0 ||
    numAt r.raw 0x90 112 != 0 || (!n.leaf && numAt r.raw 0x48 64 != 0) || n.crec % 64 != 0 || decide (31 < n.prio) ||
    decide (2 < n.hallow) || r.broken

/-- A per-core budget that no core holds (reason 0x06). -/
def badBudget (n : Node) : Bool :=
  decide (49152 < n.abud) || decide (24576 < n.wbud) || decide (24576 < n.zbud) || n.abud % 256 != 0 || n.wbud % 256 != 0 ||
    n.zbud % 512 != 0

/-- A child's per-core budget or harvest allowance passes its parent's. -/
def budgetOver (p n : Node) : Bool :=
  decide (p.abud < n.abud) || decide (p.wbud < n.wbud) || decide (p.zbud < n.zbud) || decide (p.hallow < n.hallow)

/-- The first failing check of a node in the order of the codes. `noCkpt`: no checkpoint engine is granted. -/
def State.nodeReason (s : State) (q : LQueue) (who : Option Appender) (noCkpt : Bool) (ns : List Node) (r : RNode) (n : Node) :
    Option Nat :=
  let leaf := who.bind (fun a => s.node a.node)
  let inTree := r.parent.bind (fun i => ns[i]?)
  let up := if r.parent.isSome then inTree else leaf
  let kids := ns.filter (fun k => k.parent == some n.id)
  let rootFlag := q.pf
  let privOk := if r.parent.isSome then (inTree.map (·.priv)).getD false else match who with
    | some a => a.priv
    | none => rootFlag
  let pkgwOk := if r.parent.isSome then (inTree.map (·.pkgw)).getD false else rootFlag || (who.map (·.whole)).getD false
  let appended := r.parent.isNone && match who, leaf with
    | some a, some p => decide (s.coresLeft p a.kernel < n.ncore) || budgetOver p n
    | _, _ => false
  let gw := r.f 0x56 2
  let gh := r.f 0x58 2
  let static : List (Bool × Nat) := [
    (badFields r n, 0x01),
    (decide (7 < r.level) || (r.level == 7 && !n.leaf && r.f 0xE 2 != 0), 0x02),
    ((up.map (fun p => decide (p.prio < n.prio))).getD false, 0x03),
    ((up.map (fun p => n.pgmask &&& ~~~p.pgmask != 0 || n.diemask &&& ~~~p.diemask != 0)).getD false, 0x04),
    (decide (n.ncore < (kids.map (·.ncore)).sum && !n.leaf) || kids.any (budgetOver n) || appended, 0x05),
    (badBudget n, 0x06),
    (n.leaf && !n.hvreg && decide ((s.placement n).length < n.ncore), 0x07),
    ((n.priv && !privOk) || (n.pkgw && (!n.priv || !pkgwOk)), 0x09),
    (r.f 0xD 1 != q.part, 0x0A),
    (n.leaf && (decide (gw < 1) || decide (8192 < gw) || decide (gh < 1) || decide (8192 < gh) || decide (8192 < gw * gh) ||
      n.ncore != gw * gh), 0x0B)]
  match static.find? (·.1) with
  | some (_, c) => some c
  | none =>
    let text := if n.leaf then match s.loadLeaf r n with
      | .error c => some c
      | .ok _ => none else none
    let rest : List (Bool × Nat) := [
      ((text.map (fun c => decide (c ≤ 0x0F))).getD false, text.getD 0),
      (n.leaf && (decide (16 < r.f 0x55 1) || (n.hvreg && r.f 0x55 1 != 0)), 0x10),
      (decide (n.nbar < 1) || decide (16 < n.nbar), 0x11),
      (n.leaf && decide (4096 < r.f 0x5C 2), 0x12),
      (n.leaf && (decide (8192 < r.f 0x5A 2) || (n.hvreg && r.f 0x5A 2 != 0)), 0x13),
      (text.isSome || (n.leaf && (s.stagingOf r n).isNone), 0x14),
      (match r.parent, inTree with
        | some _, some p => r.f 0x10 8 != p.rcb
        | _, _ => r.f 0x10 8 != (leaf.map (·.rcb)).getD 0, 0x15),
      (n.ckpt && noCkpt, 0x16)]
    (rest.find? (·.1)).map (·.2)

/-! ## Grants -/

/-- One of the elements of a list, none of which the spec prefers (log 3). -/
def State.pick {α : Type} (s : State) (l : List α) : Option (α × State) :=
  match l with
  | [] => none
  | [a] => some (a, s)
  | _ => (l[s.free.1.toNat % l.length]?).map (fun a => (a, s.free.2))

/-- The core has no owner and is granted to no kernel that waits. -/
def State.unclaimed (s : State) (cid : Nat) : Bool :=
  (match s.ctx ⟨cid, 0⟩ with
    | some x => x.state == .ended
    | none => true) &&
  !s.kernels.any (fun k => (k.state == .waiting || k.state == .staging) && k.grant.contains ⟨cid, 0⟩)

/-- The candidates in the order of choice: those that the scheduler prefers, the unclaimed ones, the rest (log 11). -/
def chooseOrder (cands : List Nat) (pref : List Nat) (free : Nat → Bool) : List Nat :=
  let p := (pref.filter cands.contains).eraseDups
  let rest := cands.filter (fun c => !p.contains c)
  p ++ rest.filter free ++ rest.filter (fun c => !free c)

/-- The first `n` of a choice in ascending CID order (R30). -/
def ascending (l : List Nat) (n : Nat) : List Nat := (List.range 8192).filter (l.take n).contains

/-- The owner contexts granted to a kernel. -/
def State.grantFor (s : State) (n : Node) (pref : List Nat) : List CtxId :=
  (ascending (chooseOrder (s.placement n) pref s.unclaimed) n.ncore).map (fun cid => ⟨cid, 0⟩)

/-- The harvest kernels that have been placed on a core and do not run yet, each with its context number there. -/
def State.harvestComing (s : State) (cid : Nat) : List (Nat × Kernel) :=
  (s.kernels.filter (fun k => k.pending && k.harvest)).flatMap (fun k =>
    (k.grant.filter (fun c => c.cid == cid)).map (fun c => (c.num, k)))

/-- The harvest context number that a kernel may take on a core; none where the core is no host core of it. Kernels that have been placed
and do not run yet count as harvest contexts on the core (R386). -/
def State.hostNum (s : State) (cid a w z : Nat) : Option Nat :=
  match s.ctx ⟨cid, 0⟩ with
  | none => none
  | some o =>
    let hallow := match s.kernel o.kernel with
      | some k => k.hallow
      | none => 0
    let l := s.harvestComing cid
    if o.state = .ended ∨ hallow ≤ (s.harvestOn cid).length + l.length ∨
        !s.fits cid (a + (l.map (·.2.abud)).sum) (w + (l.map (·.2.wbud)).sum) (z + (l.map (·.2.zbud)).sum) then none
    else [1, 2].find? (fun n => s.slotFree ⟨cid, n⟩ && !l.any (fun e => e.1 == n))

/-- The host cores of a harvest region. -/
def State.hosts (s : State) (n : Node) : List Nat :=
  (s.placement n).filter (fun cid => (s.hostNum cid n.abud n.wbud n.zbud).isSome)

/-! ## The scoreboards (R383) -/

/-- The entries that a kernel has on a die: its part, and its staging transfers that are not done. -/
def Kernel.entriesOn (k : Kernel) (d : Nat) : Nat :=
  if !k.pending then 0
  else (if k.grant.any (fun c => dieOf c.cid == d) then 1 else 0) +
    k.staging.countP (fun t => !t.done && ((k.grant[t.gidx]?).map (fun c => dieOf c.cid)) == some d)

/-- The entries for a die's scoreboard. It holds the first 64 of them, in order of admission; what an admitted tree brings beyond these
waits with the leader and enters as others leave (DESIGN CHOICE, log 11: R383 lets the leader admit a tree while the board is not full). -/
def State.board (s : State) (d : Nat) : Nat := (s.kernels.map (fun k => k.entriesOn d)).sum

/-- The entries of a die's scoreboard that stand before a kernel's. -/
def State.ahead (s : State) (k : Kernel) (d : Nat) : Nat :=
  ((s.kernels.filter (fun j => decide (j.id < k.id))).map (fun j : Kernel => j.entriesOn d)).sum

/-- The kernel's part stands on the scoreboard of every die of its grid. -/
def State.boarded (s : State) (k : Kernel) : Bool := k.grant.all (fun c => decide (s.ahead k (dieOf c.cid) < 64))

/-- The host cores of a harvest region on dies whose scoreboards have room. -/
def State.openHosts (s : State) (n : Node) : List Nat := (s.hosts n).filter (fun cid => decide (s.board (dieOf cid) < 64))

/-! ## Flows (R275, R280, R281) -/

/-- The flag sets of a kernel's requests: NFLG at each compute station is the largest of those with entries there; FLAG0 is
the allocator's choice among the free ranges. -/
def State.grantFlags (s : State) (reqs : List FlowReq) : Option (List FlagSet × State) :=
  let stns := ((reqs.flatMap (·.temps)).map (·.1)).eraseDups.filter isDieStation
  stns.foldl (fun acc stn => match acc with
    | none => none
    | some (l, s) =>
      let n := ((reqs.filter (fun r => r.temps.any (fun t => t.1 == stn))).map (·.nflg)).foldl Nat.max 0
      if n = 0 then some (l ++ [⟨stn, 0, 0⟩], s) else
      let used := (s.kernels.filter (fun k => k.state != .ended)).flatMap (fun k => k.flagSets.filter (fun g => g.stn == stn))
      let free := (List.range (65 - n)).filter (fun f => used.all (fun g => decide (f + n ≤ g.flag0) || decide (g.flag0 + g.nflg ≤ f)))
      match s.pick free with
      | some (f, s) => some (l ++ [⟨stn, f, n⟩], s)
      | none => none) (some ([], s))

/-- A flow holds a slot number of a track. -/
def Flow.has (f : Flow) (trk no : Nat) : Bool := f.track == trk && decide ((no + 512 - f.slot0) % 512 < f.k)
/-- The flows of admitted kernels, with those of a kernel that is being admitted. -/
def State.flowsNow (s : State) (mine : List Flow) : List Flow :=
  (s.kernels.filter (fun k => k.state != .ended)).flatMap (fun k => k.flows) ++ mine

/-- Slot numbers on a track that are allotted, those of the Goltik ring among them (R280, R286). -/
def State.heldSlots (s : State) (mine : List Flow) (trk : Nat) : Nat :=
  let l := (s.flowsNow mine).filter (fun f => f.track == trk)
  if trk < 6 ∨ s.ring.goltik.flows.isEmpty then (l.map (·.k)).sum
  else (List.range 512).countP (fun no => s.ring.goltik.holds (trk - 6) no || l.any (fun f => f.has trk no))

/-- A slot number may be granted to a flow of the package or, with `gol`, of the Goltik ring: no other such flow holds it, the
Goltik ring does not hold it unless the flow's stations, and the way between them, all lie between 15 and 121 (`off`), no
occupancy stands in it, and a rotation has passed since a flow that held it ended (R280, R286). -/
def State.slotGrantable (s : State) (mine : List Flow) (gol off : Bool) (trk no : Nat) : Bool :=
  !(s.flowsNow mine).any (fun f => f.has trk no && f.gol == gol) &&
    (gol || off || !(decide (6 ≤ trk) && s.ring.goltik.holds (trk - 6) no)) &&
    !s.ring.slots.any (fun t => t.trk == (if gol then trk + 2 else trk) && t.no == no && t.cls == 1) &&
    !s.ring.gone.any (fun g => g.1 == trk && decide ((no + 512 - g.2.1) % 512 < g.2.2.1) && decide (s.rst < g.2.2.2 + 512))

/-- Where a template's entry stands, and the entry with the flow id, the absolute flag and the local index. -/
def entryOf (grant : List CtxId) (sets : List FlagSet) (id slot0 : Nat) (t : Nat × Nat × W64) : Nat × Nat × W64 :=
  let (stn, off, e) := t
  let d := stationUnit stn
  let cores := grant.filter (fun c => dieOf c.cid == d)
  let flag0 := ((sets.find? (fun g => g.stn == stn)).map (·.flag0)).getD 0
  let e := e &&& ~~~(0xFFF#64 <<< 49) ||| BitVec.ofNat 64 (id * 2 ^ 49)
  let e' := if isDieStation stn then
      (e &&& ~~~(0x3F#64 <<< 40) &&& ~~~(0x7F#64 <<< 16)) |||
        BitVec.ofNat 64 ((entFlag e + flag0) % 64 * 2 ^ 40 + ((cores[entTgt e / 65536 % 128]?).map (fun c => c.cid % 128)).getD 0 * 2 ^ 16)
    else e
  (stn, (slot0 + off) % 512, e')

/-- A template obeys R275 and R280. -/
def State.templateOk (s : State) (k : Kernel) (sets : List FlagSet) (r : FlowReq) (f : Flow) (t : Nat × Nat × W64) : Bool :=
  let (stn, off, e) := t
  decide (off < r.k) && decide (1 ≤ entOp e) && !entryBad stn e && entFmt e == r.fmt && !s.passing stn &&
  if isDieStation stn then
    let n := k.grant.countP (fun c => dieOf c.cid == stationUnit stn)
    let nflg := ((sets.find? (fun g => g.stn == stn)).map (·.nflg)).getD 0
    decide (entTgt e / 65536 % 128 < n) && entTgt e % 16 == 0 &&
      decide (entTgt e % 65536 + (if entWh e then 272 else 256) ≤ k.abud) &&
      decide (entFlag e < nflg)
  else r.window.isSome && entFinc e == 0 && decide (entTgt e < (s.units f (stationUnit stn)).length)

/-- The entries of one slot number, as stations with operations: one LOAD, then in ring order ADDs and COPYs, then an EMPTY or
EMPTY-ADD (R280). -/
def orderOk (l : List (Nat × Nat)) : Bool :=
  match l.filter (fun t => t.2 == 1) with
  | [a] =>
    let rest := ((List.range 128).flatMap (fun i => l.filter (fun t => (t.1 + 128 - a.1) % 128 == i))).tail
    match rest.getLast? with
      | some z => decide (4 ≤ z.2) && rest.dropLast.all (fun t => t.2 == 2 || t.2 == 3)
      | none => false
  | _ => false

/-- A station's place on the arc (R286). -/
def arcPos (stn : Nat) : Nat := (stn + 7) % 128

/-- This package's entries of one slot number of a Goltik flow, on the arc: the order of R280 as far as they show it. In a ring of one
package they are the whole flow (R286). -/
def arcOk (members : Nat) (l : List (Nat × Nat)) : Bool :=
  if members ≤ 1 then orderOk l
  else
    let mid := (l.filter (fun t => t.2 == 2 || t.2 == 3)).map (fun t => arcPos t.1)
    match (l.filter (fun t => t.2 == 1)).map (fun t => arcPos t.1), (l.filter (fun t => decide (4 ≤ t.2))).map (fun t => arcPos t.1) with
    | [], [] => true
    | [a], [] => mid.all (fun p => decide (a < p))
    | [], [b] => mid.all (fun p => decide (p < b))
    | [a], [b] => mid.all (fun p => if a < b then decide (a < p) && decide (p < b) else decide (a < p) || decide (p < b))
    | _, _ => false

/-- The Goltik flow that a request on track 6 or 7 names: its slots are those of the flow, and its stations stand on the arc. -/
def State.goltikOf (s : State) (r : FlowReq) : Option GFlow :=
  if r.any ∨ r.track < 6 ∨ s.ring.goltik.members = 0 ∨ !r.temps.all (fun t => onArc t.1) then none
  else s.ring.goltik.flows.find? (fun f => f.g + 6 == r.track && f.slot0 == r.slot0 && f.k == r.k)

/-- A request's stations all lie between 15 and 121, and no occupancy of it crosses the arc (R286). -/
def FlowReq.offArc (r : FlowReq) : Bool :=
  r.temps.all (fun t => !onArc t.1 && (entOp t.2.2 == 1 || r.temps.all (fun a =>
    entOp a.2.2 != 1 || a.2.1 != t.2.1 || decide (a.1 < t.1))))

/-- At a compute station that a request names, the entries of one slot number on the eight tracks name different cores, or are NONE
(R280). -/
def coresDiffer (table : List TabEnt) (stn no : Nat) : Bool :=
  let l := (table.filter (fun a => a.stn == stn && a.slot == no && entOp a.e != 0)).map (fun a => entTgt a.e / 65536)
  !isDieStation stn || decide (l.eraseDups.length = l.length)

/-- A flow at a track and first slot, with the table that it makes; none where R280 forbids it. -/
def State.tryFlow (s : State) (k : Kernel) (mine : List Flow) (sets : List FlagSet) (pages : List PinnedPage) (id : Nat)
    (r : FlowReq) (trk slot0 : Nat) : Option (Flow × Ring) :=
  let gol := (s.goltikOf r).isSome
  let f : Flow := { id := id, gol := gol, track := trk, k := r.k, slot0 := slot0, fmt := r.fmt, nflg := r.nflg
                    window := r.window.map (fun w => (w.1, w.2, pages)), stns := (r.temps.map (·.1)).eraseDups }
  let ents := r.temps.map (entryOf k.grant sets id slot0)
  let ring := ents.foldl (fun (g : Ring) e => g.setEntry e.1 trk e.2.1 e.2.2) s.ring
  if (List.range r.k).all (fun i => s.slotGrantable mine gol r.offArc trk ((slot0 + i) % 512) &&
        (let l := ring.laid gol trk ((slot0 + i) % 512)
         if gol then arcOk s.ring.goltik.members l else orderOk l)) ∧
      s.heldSlots (if gol then mine else f :: mine) trk ≤ 496 ∧ r.temps.all (s.templateOk k sets r f) ∧
      ents.all (fun e => coresDiffer ring.table e.1 e.2.1)
  then some (f, ring.reclaim trk (fun no => f.has trk no)) else none

/-- The places that a request leaves to the allocator. -/
def FlowReq.places (r : FlowReq) : List (Nat × Nat) :=
  if r.any then (List.range 8).flatMap (fun t => (List.range 512).map (fun n => (t, n))) else [(r.track, r.slot0)]

/-- Grants one request: its pages are pinned, its flow id and its place chosen. -/
def State.grantFlow (s : State) (k : Kernel) (mine : List Flow) (sets : List FlagSet) (r : FlowReq) : Option (Flow × State) :=
  let pages := match r.window with
    | some w => s.pinned k.part w.1 w.2
    | none => some []
  let used := (s.flowsNow mine).map (fun f : Flow => f.id) ++ s.ring.slots.map (·.flow) ++ s.ring.goltik.flows.map (·.id)
  let ids := match s.goltikOf r with
    | some g => [g.id]
    | none => (List.range 4096).filter (fun i => !used.contains i)
  match pages, s.pick ids with
  | some pg, some (id, s) =>
    match s.pick (r.places.filter (fun p => (s.tryFlow k mine sets pg id r p.1 p.2).isSome)) with
    | some (p, s) => (s.tryFlow k mine sets pg id r p.1 p.2).map (fun e => (e.1, { s with ring := e.2 }))
    | none => none
  | _, _ => none

/-- Grants the flows of a leaf, and clears its flag counters (R281). -/
def State.grantFlows (s : State) (k : Kernel) (reqs : List FlowReq) : Option (Kernel × State) :=
  match s.grantFlags reqs with
  | none => none
  | some (sets, s) =>
    let go := reqs.foldl (fun (acc : Option (List Flow × State)) r => match acc with
      | none => none
      | some (l, s) => (s.grantFlow k l sets r).map (fun e => (l ++ [e.1], e.2))) (some ([], s))
    go.map (fun e => ({ k with flows := e.1, flagSets := sets },
      { e.2 with ring := sets.foldl (fun (g : Ring) t =>
          (List.range t.nflg).foldl (fun (g : Ring) i => g.setFlag t.stn (t.flag0 + i) 0) g) e.2.ring }))

/-! ## A kernel (R31, R215, R266, R312) -/

/-- A role before its kernel's start (R31, R95). -/
def startRole (entry : Nat) (active : Bool) : RoleSt := { pc := ⟨entry, 0⟩, active := active, halted := !active }

/-- A context before its issue (R31, R40, R61, R216, R242). -/
def startCtx (k : Kernel) (g : Nat) : Ctx :=
  { kernel := k.id, gidx := g, priv := k.priv, servPart := if k.priv ∧ k.pkgw then 31 else k.part, part := k.part
    harvest := k.harvest, win := k.win0, winGov := k.win0, lfsr := (List.range 64).map (lfsrSeed 0), qmap := k.qmap
    rl := startRole k.entry (bitAt k.roles 0), rc := startRole k.entry (bitAt k.roles 1), rs := startRole k.entry (bitAt k.roles 2)
    abud := k.abud, wbud := k.wbud, zbud := k.zbud }

/-- The kernel of a leaf, before its grants. -/
def kernelOf (s : State) (r : RNode) (n : Node) (t : List Section) (d : Desc) (staging : List Staging) (grant : List CtxId) : Kernel :=
  { id := s.nextKernel, node := n.id, queue := n.queue, part := n.part, text := t, psec := r.f 0x54 1, entry := d.entry
    win0 := d.win0, roles := d.roles, harvest := n.hvreg, qmap := d.qmap, gw := r.f 0x56 2, gh := r.f 0x58 2, g := n.nbar
    prio := n.prio, abud := n.abud, wbud := n.wbud, zbud := n.zbud, hallow := n.hallow, priv := n.priv, pkgw := n.pkgw
    pgmask := n.pgmask, diemask := n.diemask, grant := grant, lost := [], state := .waiting, admitted := s.cycles, aged := false
    started := 0, phn := 0, chans := Vector.replicate 16 {}, flows := [], flagSets := [], episodes := []
    wl := if r.f 0x5C 2 = 0 then none
      else some { cap := r.f 0x5C 2, lists := List.replicate n.ncore [], appended := 0, taken := 0, wave := none, latch := false }
    staging := staging, prep := [], sfc := 0, ckpt := n.ckpt, ckpd := r.f 0x88 8 }

/-- The episodes of EPIL, when each is free and its kjkey is the partition's (R312). -/
def State.episodesOf (s : State) (r : RNode) (n : Node) : Option (List Nat) :=
  let k := r.f 0x5A 2
  match s.readV n.part (r.f 0x80 8) (2 * k) with
  | none => none
  | some b =>
    let l := (List.range k).map (fun i => numAt b (2 * i) 2)
    let free := fun e => decide (e < 8192) && ((s.settCore (e / 128) (e / 16 % 8)).slot (e % 16)).key == (s.part n.part).jkey &&
      !s.kernels.any (fun k => k.state != .ended && k.episodes.contains e)
    if l.all free ∧ l.eraseDups.length = l.length then some l else none

/-- Places one leaf: reason 0x08 and 0x10 to 0x13 are found here. `pref`: the cores that the scheduler prefers. -/
def State.placeLeaf (s : State) (r : RNode) (n : Node) (pref : List Nat) : Except Nat State :=
  match s.loadLeaf r n, s.stagingOf r n with
  | .ok (t, d), some st =>
    if n.hvreg ∧ (s.hosts n).length < n.ncore then .error 0x08
    else
      let k := kernelOf s r n t d st (if n.hvreg then [] else s.grantFor n pref)
      let k := { k with prep := (List.range n.ncore).map (fun g => { startCtx k g with floor := s.hist.length }) }
      match (s.readFlows n.part (r.f 0x55 1) (r.f 0x70 8)).bind (s.grantFlows k) with
      | none => .error 0x10
      | some (k, s) =>
        if 16 < ((s.kernels.filter (fun j => j.state != .ended)).map (fun j : Kernel => j.g)).sum + n.nbar then .error 0x11
        else match s.episodesOf r n with
          | none => .error 0x13
          | some es => .ok { s with kernels := s.kernels ++ [{ k with episodes := es }], nextKernel := s.nextKernel + 1 }
  | .error c, _ => .error c
  | _, none => .error 0x14

/-- Places every leaf in order; or the index of the leaf that fails and its reason. -/
def State.placeAll (s : State) (pref : List Nat) : Nat → List (RNode × Node) → Except (Nat × Nat) State
  | _, [] => .ok s
  | i, (r, n) :: l =>
    if !n.leaf then State.placeAll s pref (i + 1) l
    else match s.placeLeaf r n pref with
      | .error c => .error (i, c)
      | .ok s => State.placeAll s pref (i + 1) l

/-! ## Rejection and admission -/

/-- A pre-order list in post-order; `st` holds the nodes whose subtrees are open, innermost first. -/
def postOrder : List (RNode × Node) → List (RNode × Node) → List (RNode × Node)
  | [], st => st
  | e :: l, st => st.takeWhile (fun x => decide (e.1.level ≤ x.1.level)) ++
      postOrder l (e :: st.dropWhile (fun x => decide (e.1.level ≤ x.1.level)))

/-- ADMISSION_REJECTION: the statuses, the completion records in post-order, and the vector under IRJ (R379). -/
def State.rejectTree (s : State) (q : LQueue) (l : List (RNode × Node)) (bad code : Nat) : State :=
  let level := ((l[bad]?).map (fun e => e.1.level)).getD 0
  let st := fun (n : Node) => if (l[bad]?).map (·.2.id) = some n.id then code * 2 ^ 24 + Nat.min level 7 * 2 ^ 16 + 3 else 5
  let order := (l[bad]?).toList ++ l.eraseIdx bad
  let s := order.foldl (fun (s : State) e => s.tryWrite q.part (e.1.addr + 0x28) (bytesN (st e.2) 8)) s
  let s := (postOrder l []).foldl (fun (s : State) e => s.tryWrite q.part e.2.crec (recordBytes (st e.2) 0 s.refTime 0 0 0)) s
  if (l.head?.map (fun e => e.1.flag 6)).getD false then
    { s with host := { s.host with msix := (q.part, q.msix) :: s.host.msix } }
  else s

/-- A placed tree: its nodes are known, and their status is 1. An interior node without children has no kernel to wait for: its subtree
has ended (R380; DEDUCED, log 11). -/
def State.acceptTree (s : State) (q : LQueue) (ns : List Node) (leaf : Option Node) : State :=
  let s := { s with nodes := s.nodes ++ ns, nextNode := s.nextNode + ns.length }
  let s := match leaf, ns with
    | some p, r :: _ => s.modNode p.id (fun m => { m with children := m.children ++ [r.id] })
    | _, _ => s
  let s := ns.foldl (fun (s : State) n => s.tryWrite q.part (n.rcb + 0x28) (bytesN n.status 8)) s
  (ns.filter (fun n => !n.leaf && n.children.isEmpty)).foldl (fun (s : State) n => s.endNode 9 n.id 0 0) s

/-- A new kernel finds room: the scoreboards of its dies are not full; a harvest kernel, which has no dies yet, finds its grid on host
cores whose dies have room (R383, R386). -/
def State.hasRoom (s : State) (k : Kernel) : Bool :=
  if k.harvest then match s.node k.node with
    | some n => decide (k.gw * k.gh ≤ (s.openHosts n).length)
    | none => false
  else k.grant.all (fun c => decide (s.board (dieOf c.cid) < 64))

/-- The tree that an entry names: placed whole, or rejected; none where it must wait for room on a scoreboard. -/
def State.admitTree (s : State) (q : LQueue) (a : Nat) (who : Option Appender) (noCkpt : Bool) (pref : List Nat) : Option State :=
  let leaf := who.bind (fun w => s.node w.node)
  let rs := readTree s q.part 8 ((leaf.map (fun n => n.level + 1)).getD 0) none 0 a
  let ns := nodesOf q s.nextNode leaf rs
  let l := rs.zip ns
  match (l.map (fun e => s.nodeReason q who noCkpt ns e.1 e.2)).findIdx? (·.isSome) with
  | some i => some (s.rejectTree q l i (((l[i]?).bind (fun e => s.nodeReason q who noCkpt ns e.1 e.2)).getD 0))
  | none =>
    match s.placeAll pref 0 l with
    | .error (i, c) => some (s.rejectTree q l i c)
    | .ok t =>
      let s := { s with nodes := s.nodes ++ ns }
      if (t.kernels.drop s.kernels.length).all s.hasRoom then some (t.acceptTree q ns leaf) else none

/-- HEAD passes an entry; a draining queue closes with the last one (R374). -/
def State.passEntry (s : State) (q : LQueue) : State :=
  let head := q.head + 1
  (s.tryWrite q.part (q.daddr + 0x10) (bytesOf head 4)).modQueue q.q (fun k =>
    { k with head := head, appenders := k.appenders.filter (fun a => a.idx != q.head.toNat)
             sts := if k.sts = 3 ∧ head = k.tail then 0 else k.sts })

/-- What the Goltik ring's allocator has granted before an admission stands (log 33). -/
def State.withGoltik (s : State) : State :=
  match s.inp.gflows with
  | some l => s.setGoltik l
  | none => s

/-- ADMISSION: the leader of queue `q` admits the entry at HEAD. `data` holds the cores that the scheduler prefers, two bytes
each; `flag`: no checkpoint engine is granted. An entry that cannot be read names no tree and is passed over (log 11). -/
def execAdmission (s0 : State) : Out :=
  let s := s0.withGoltik
  let q := s.queue s.inp.q
  let ready : Bool := match q.leader with
    | some d => s.qualifies q d
    | none => false
  if !ready ∨ !(q.sts == 1 || q.sts == 3) ∨ q.head = q.tail ∨ s.queuesOff then .next s
  else match s.readV q.part (q.base + 8 * (q.head.toNat % q.size)) 8 with
    | none => .next (s.passEntry q)
    | some b =>
      let pref := (List.range (s.inp.data.length / 2)).map (fun i => numAt s.inp.data (2 * i) 2)
      match s.admitTree q (natOfBytes b) (q.appenders.find? (fun a => a.idx == q.head.toNat)) s.inp.flag pref with
      | none => .next s
      | some t => .next (t.passEntry q)

end Sys2Proof.Machine
end

