-- ==== Sys2Proof/Machine/Reliability.lean ====
section
/-! DEFINITION. Errors, checks and lost units (R15, R21, R401 to R411): residue mismatches, memory errors and their scrubbing,
the die schedulers, the management controllers, lost clocks, failed stacks, the slewing of TIME and the offset table. The
operands of each row stand in `State.inp`; a row whose occasion does not exist leaves the state. -/

namespace Sys2Proof.Machine

/-! ## Residue checks (R404) -/

/-- RESIDUE_MISMATCH on core `cid`: with `e` = 1 in the array row that the head command of context `c` has begun, otherwise in
the instruction a role is about to commit, which is issued again. `flag`: the recomputation mismatches again. -/
def execResidueMismatch (s : State) : Out :=
  let cid := s.inp.cid
  let d := dieOf cid
  if s.host.nores ∨ (s.core cid).retired ∨ !(s.die d).live then .next s
  else
    let s := if s.inp.e = 1 then s.modCtx ⟨cid, s.inp.c.num⟩ (fun x => { x with acmds := abandonRows x.acmds }) else s
    if s.inp.flag then .next ((s.post d 3 (cid % 128) 0).retireCore cid)
    else .next (s.post d 2 (cid % 128) 0)

/-! ## Memory errors (R405, R406) -/

/-- An element joins a list unless it stands there. -/
def insertNew {α : Type} [BEq α] (a : α) (l : List α) : List α := if l.contains a then l else a :: l

/-- The word of a site becomes, or is, uncorrectable. -/
def State.poisonAt (s : State) : MemSite → State
  | .hbm pa => { s with poison := insertNew (pa / 8 * 8) s.poison }
  | .abuf c o => { s with poisonS := insertNew (c, 0, o / 8 * 8) s.poisonS }
  | .wbuf c o => { s with poisonS := insertNew (c, 1, o / 8 * 8) s.poisonS }
  | .zbuf c o => { s with poisonS := insertNew (c, 2, o / 8 * 8) s.poisonS }
  | .line cid pa => s.modCore cid (fun k => { k with
      cache := k.cache.map (fun e => if e.pa = lineOf pa then { e with bad := insertNew (pa / 8 * 8) e.bad } else e) })
  | .qent c q i => s.modCtx c (fun x => x.setQ q { x.q q with ents := (x.q q).ents.modify i (fun e => { e with bad := e.lanes.isSome }) })
  | .bank c => s.modCtx c (fun x => { x with badBank := x.state == .parked })
  | .table stn trk slot => { s with ring := { s.ring with
      table := s.ring.table.map (fun e => if e.stn = stn ∧ e.trk = trk ∧ e.slot = slot then { e with bad := true } else e) } }
  | .sett d k o => s.modSett d k (fun t => { t with badRam := insertNew (o / 8 * 8) t.badRam })
  | .text c n o => s.modCtx c (fun x =>
      if (sectionOf (s.textOf x) n).any (fun y => decide (o < y.body.length)) then
        { x with badText := insertNew (n, o / 8 * 8) x.badText }
      else x)

/-- The word of a site holds an uncorrectable error. -/
def State.isBad (s : State) : MemSite → Bool
  | .hbm pa => s.badG (pa / 8 * 8) 8
  | .abuf c o => s.poisonS.contains (c, 0, o / 8 * 8)
  | .wbuf c o => s.poisonS.contains (c, 1, o / 8 * 8)
  | .zbuf c o => s.poisonS.contains (c, 2, o / 8 * 8)
  | .line cid pa => ((s.core cid).line pa).any (fun e => e.bad.contains (pa / 8 * 8))
  | .qent c q i => match s.ctx c with
    | some x => ((x.q q).ents[i]?).any (·.bad)
    | none => false
  | .bank c => (s.ctx c).any (fun x => x.badBank && x.state == .parked)
  | .table stn trk slot => s.ring.table.any (fun e => e.stn == stn && e.trk == trk && e.slot == slot && e.bad)
  | .sett d k o => (s.settCore d k).badRam.contains (o / 8 * 8)
  | .text c n o => (s.ctx c).any (fun x => x.badText.contains (n, o / 8 * 8))

/-- UNCORRECTABLE_MEMORY_ERROR at `site`; with `flag`, in the word that role `r` of context `c` would fetch next: the
memory-error fault, precise, at that instruction. -/
def execUncorrectableMemoryError (s : State) : Out :=
  let w : Who := ⟨s.inp.c, s.inp.r⟩
  if s.inp.flag then
    match s.ctx w.c with
    | some x => if s.canIssue w ∧ (x.role w.r).rest.isNone then .next (s.raise w cMemory 0) else .next s
    | none => .next s
  else .next (s.poisonAt s.inp.site)

/-- What the scrubber posts for a bad word: SUB 6 with the stack, or SUB 5 with the local core, 0xFF for a die's or a stack's own SRAM
(R403). -/
def State.scrubAt (s : State) : MemSite → State
  | .hbm pa => s.post (s.stackOf pa) 6 (s.stackOf pa) (pa / 8 * 8)
  | .abuf c _ | .wbuf c _ | .zbuf c _ | .qent c _ _ | .bank c | .text c _ _ => s.post (dieOf c.cid) 5 (c.cid % 128) 0
  | .line cid _ => s.post (dieOf cid) 5 (cid % 128) 0
  | .table stn _ _ => s.post (stationUnit stn) 5 0xFF 0
  | .sett d _ _ => s.post d 5 0xFF 0

/-- SCRUB of the word at `site`: a corrected error changes nothing that is seen, and a bad word keeps its poison (R405, R406). -/
def execScrub (s : State) : Out := .next (if !s.host.noscrb ∧ s.isBad s.inp.site then s.scrubAt s.inp.site else s)

/-! ## Schedulers and controllers (R408, R434) -/

/-- SCHEDULER_DIVERGENCE on die `die`: the die is drained. -/
def execSchedulerDivergence (s : State) : Out :=
  let d := s.inp.die
  if (s.die d).live ∧ !(s.die d).drained then .next ((s.modDie d (fun k => { k with drained := true })).post d 11 d 0)
  else .next s

/-- SCHEDULER_RELOAD: die `die` returns to service. -/
def execSchedulerReload (s : State) : Out := .next (s.modDie s.inp.die (fun k => { k with drained := false }))

/-- CONTROLLER_HAND_OVER: the controller that stood by takes control from its mirrored tables; UNIT names the one that failed
(log 24). -/
def execControllerHandOver (s : State) : Out :=
  .next (State.post { s with eastControl := !s.eastControl } 0 13 (bit1 s.eastControl 0) 0)

/-! ## Stacks, links and clocks (R408, R410) -/

/-- A stack fails. -/
def State.failStack (s : State) (m : Nat) : State :=
  if !s.liveStacks.contains m ∨ s.failedStacks.contains m then s
  else
    let s := ({ s with failedStacks := s.failedStacks ++ [m] } : State).forcePass (stackStation m)
    let s := { s with info := { s.info with
      livem := s.info.livem &&& ~~~(1#64 <<< m), offs := s.info.offs.filter (fun o => o.region != 64 + m) } }
    (s.post m 9 m 0).publish

/-- STACK_FAILURE of stack `region`. -/
def execStackFailure (s : State) : Out := .next (s.failStack s.inp.region)

/-- A port's link is lost: each LDH that waits for its completion there ends with the host-access fault, and sets LDN
(R169). -/
def State.loseLink (s : State) (port : Nat) : State :=
  let s := { s with host := { s.host with
    link0 := s.host.link0 && port != 0, link1 := s.host.link1 && port == 0 } }
  let l := s.ctxs.flatMap (fun (c, x) => x.flights.filterMap (fun f => match f.place, f.data with
    | .h p _ _, none => if p = port then some (c, f.id) else none
    | _, _ => none))
  l.foldl (fun (s : State) (e : CtxId × Nat) => match s.ldh e.1 e.2 with
    | some (x, f) => s.hostFault e.1 x f 0b10000
    | none => s) s

/-- The region that carries the package reference (R21). -/
def State.refRegion (s : State) : Nat := if s.info.refe then 129 else 128

/-- A clock region is live. -/
def State.regionLive (s : State) (r : Nat) : Bool :=
  if r < 64 then (s.die r).live
  else if r < 128 then s.liveStacks.contains (r - 64) && !s.failedStacks.contains (r - 64)
  else if r = 128 then !s.host.lost0 else r == 129 && !s.host.lost1

/-- The error of a region's OFS is within its UNC, were its offset `o` in half nanoseconds (R21, R24). -/
def offsetHolds (e : OffsetEntry) (o : Int) : Bool := decide ((4 * o - e.ofs).natAbs ≤ e.unc.toNat)

/-- A measured entry that R21 and R16 admit: OFS within ±48, its error within UNC, a live region, not the reference. -/
def State.offsetOk (s : State) (o : OffsetEntry) : Bool :=
  decide (o.ofs.natAbs ≤ 48) && s.regionLive o.region && o.region != s.refRegion && offsetHolds o (s.region o.region).ofs

/-- The offset table from a measurement: the reference's own entry reads OFS 0, UNC 0 (R21). -/
def State.setOffsets (s : State) (l : List OffsetEntry) : State :=
  { s with info := { s.info with offs := ⟨s.refRegion, 0, 0⟩ :: l.filter s.offsetOk, calt := BitVec.ofNat 64 s.refTime } }

/-- The clock of a compute die is lost. -/
def State.loseDie (s : State) (d : Nat) : State :=
  if !(s.die d).live then s
  else
    let s := s.post d 12 d 0
    let s := (coresOf d).foldl State.retireCore s
    let s := (s.modDie d (fun k => { k with live := false })).forcePass (dieStation d)
    { s with info := { s.info with
      livec := s.info.livec &&& ~~~(1#64 <<< d), offs := s.info.offs.filter (fun o => o.region != d) } }.publish

/-- The east I/O die's standby reference becomes the package reference. It moves without a step, and R24 holds for TIME read on either
side of the move: the standby reference has kept in step with the west one, so that its TIME is reference TIME before and after (R21,
R408; DEDUCED, log 38). -/
def State.moveReference (s : State) : State := { s with info := { s.info with refe := true } }

/-- CLOCK_LOSS of clock region `region` (R21 numbering); `offs`: the offsets then measured against the east I/O die. Where the west I/O
die's clock is lost after the east one's, no die is left to carry the reference: REFE stays 0, and entry 128 goes on reading OFS 0 and
VAL 1 (DESIGN CHOICE, log 38: R21 moves the reference to the east I/O die only). -/
def execClockLoss (s : State) : Out :=
  let r := s.inp.region
  if r < 64 then .next (s.loseDie r)
  else if r < 128 then
    if s.liveStacks.contains (r - 64) ∧ !s.failedStacks.contains (r - 64) then .next ((s.post (r - 64) 12 r 0).failStack (r - 64))
    else .next s
  else if r = 128 then
    if s.host.lost0 then .next s
    else
      let t := (s.post 0 12 r 0).loseLink 0
      let t := { t with host := { t.host with lost0 := true } }
      .next (((if s.host.lost1 then t else t.moveReference).setOffsets s.inp.offs).publish)
  else if r = 129 then
    if s.host.lost1 then .next s else
    let t := (s.post 0 12 r 0).loseLink 1
    let t := { t with host := { t.host with lost1 := true } }
    .next (State.publish { t with info := { t.info with
      offs := if t.info.refe then t.info.offs else t.info.offs.filter (fun o => o.region != 129) } })
  else .next s

/-! ## TIME and the offset table (R15, R16, R21) -/

/-- The offset `o` of a region keeps R16 and R21: within ±6 ns of the reference, and within the published bound of its OFS. -/
def State.slewOk (s : State) (r : Nat) (o : Int) : Bool :=
  decide (o.natAbs ≤ 12) && s.info.offs.all (fun e => e.region != r || offsetHolds e o)

/-- TIME_SLEW of clock region `region` by half a nanosecond, withheld under `flag`: at most one per 512 ns, never so that a read would
decrease, and never of an I/O die, which carries the reference or keeps in step with it (log 38). -/
def execTimeSlew (s : State) : Out :=
  let r := s.inp.region
  let d := s.region r
  let o : Int := if s.inp.flag then d.ofs - 1 else d.ofs + 1
  if s.info.cal ∧ r < 128 ∧ s.regionLive r ∧ s.slewOk r o ∧ d.slewAt + 1024 ≤ s.time2 ∧
      (s.inp.flag → s.regionTime r % 2 = 1) then
    .next { s with regions := aset s.regions r ⟨o, s.time2⟩ }
  else .next s

/-- OFFSET_PUBLICATION of the measured entries `offs`. -/
def execOffsetPublication (s : State) : Out :=
  .next (if s.info.cal then (s.setOffsets s.inp.offs).publish else s)

end Sys2Proof.Machine
end

