-- ==== Sys2Proof/Machine/Host.lean ====
section
/-! DEFINITION. Host attachment and bring-up (R399, R414, R420, R436 to R442): partition descriptors, standby, debug mode and
the debug mailbox, resets and bring-up, the links, boundary scan, host writes. The operands of each row stand in
`State.inp`. -/

namespace Sys2Proof.Machine

/-! ## Partition descriptors (R399) -/

/-- The descriptors of valid partitions stay disjoint in power groups and in physical range. -/
def Partition.disjoint (a b : Partition) : Bool :=
  a.pgmask &&& b.pgmask == 0 && (decide (a.pbase + a.plen ≤ b.pbase) || decide (b.pbase + b.plen ≤ a.pbase))

/-- ROOT lies in the range. -/
def Partition.rootOk (p : Partition) : Bool := decide (p.pbase ≤ p.root) && decide (p.root + 4096 ≤ p.pbase + p.plen)

/-- The descriptor with one field written; none where the field's own value is out of range or alignment. -/
def Partition.withField (p : Partition) (f : PartField) (v : W64) : Option Partition :=
  let n := v.toNat
  let gib := 1073741824
  match f with
  | .pfl => if n < 2 then some { p with valid := bitAt v 0 } else none
  | .pgmask => if n < 65536 then some { p with pgmask := v.setWidth 16 } else none
  | .jkey => if n < 65536 then some { p with jkey := v.setWidth 16 } else none
  | .rcls => if n < 3 then some { p with rcls := n } else none
  | .root => if n % 4096 = 0 ∧ Partition.rootOk { p with root := n } then some { p with root := n } else none
  | .pbase => if n % gib = 0 then some { p with pbase := n } else none
  | .plen => if n % gib = 0 then some { p with plen := n } else none

/-- The write keeps what valid partitions must keep. -/
def State.partOk (s : State) (i : Nat) (p : Partition) : Bool :=
  !p.valid || (p.rootOk && s.parts.all (fun (j, q) => j == i || !q.valid || p.disjoint q))

/-- Dies join a partition: their logs begin at its index, and their cores hold no translation (R394). -/
def State.joinPart (s : State) (i : Nat) (ds : List Nat) : State :=
  let n := (s.part i).ivlt
  ds.foldl (fun (s : State) d =>
    let s := s.modDie d (fun k => { k with ivlt := n, log := [] })
    { s with cores := s.cores.map (fun (cid, k) =>
      (cid, if dieOf cid = d then { k with ivla := n, flush := false, tcache := [] } else k)) }) s

/-- A partition becomes valid: its indices start at 0 (R394). -/
def State.openPart (s : State) (i : Nat) : State := (s.modPart i (fun p => { p with ivlt := 0 })).joinPart i (s.diesOf i)

/-- PARTITION_DESCRIPTOR_WRITE: field `pf` of partition `part` is written with `v`; a refused one keeps its value. -/
def execPartitionDescriptorWrite (s : State) : Out :=
  let i := s.inp.part
  let old := s.part i
  if !s.info.published ∨ 16 ≤ i then .next s
  else .next (match old.withField s.inp.pf s.inp.v with
    | some p =>
      if s.partOk i p then
        let t := s.modPart i (fun _ => p)
        (if !p.valid then t else if !old.valid then t.openPart i
          else t.joinPart i ((t.diesOf i).filter (fun d => !(s.diesOf i).contains d))).publish
      else s.publish
    | none => s.publish)

/-! ## Bring-up (R441) -/

/-- Dies that pass their tests: a die with more than four failed cores is fenced. -/
def testedDies (b : BootResult) : List Nat :=
  (List.range 64).filter (fun d => b.liveDies.contains d && decide ((coresOf d).countP b.failedCores.contains ≤ 4))
def testedStacks (b : BootResult) : List Nat := (List.range 64).filter b.liveStacks.contains

/-- One bit per listed index. -/
def liveMask (l : List Nat) : W64 := l.foldl (fun m i => m ||| (1#64 <<< i)) 0

/-- Bring-up fails (R438). -/
def State.bootFail (s : State) (code : Nat) : State := { s with host := { s.host with step := 15, fail := code } }

/-- Step 2: live dies with empty cores, failed ones replaced by spares. -/
def State.bootDies (s : State) (b : BootResult) : State :=
  { s with
    dies := (testedDies b).map (fun d => (d, { live := true, spares := (coresOf d).countP b.failedCores.contains }))
    cores := s.cores.map (fun (c, k) => (c, { wlimmax := k.wlimmax, fmin := k.fmin, spare := b.failedCores.contains c })) ++
      (((testedDies b).flatMap coresOf).filter (fun c => b.failedCores.contains c && (aget s.cores c).isNone)).map
        (fun c => (c, { spare := true }))
    coreStart := s.cycles }

/-- The M-mode firmware that the management controllers load into the SRAM of every Sett core at bring-up: software, which comes with the
row; a core begins at its first byte (R454; DESIGN CHOICE, log 14: the spec names no load address and no entry). -/
def State.loadFirmware (s : State) (b : BootResult) (at_ : Nat) (l : List Byte) : State :=
  if l.isEmpty ∨ 2 ^ 18 < at_ + l.length then s
  else { s with sett := (testedDies b).flatMap (fun d => (List.range 8).map (fun k =>
    ((d, k), { pc := BitVec.ofNat 64 at_, sram := Mem.write [] at_ l, at_ := s.cycles }))) }

/-- Steps 4 and 5: pass-through at fenced sites, RST starts, TIME is calibrated, the window is published. -/
def State.bootPublish (s : State) (b : BootResult) : State :=
  let live := s.liveStacks.filter (fun m => !s.failedStacks.contains m)
  let forced := (List.range 64).foldl (fun (v : BitVec 128) i =>
    let v := if (testedDies b).contains i then v else v ||| (1#128 <<< dieStation i)
    if live.contains i then v else v ||| (1#128 <<< stackStation i)) 0
  let s := { s with
    passThrough := 0
    passForced := forced
    ringStart := s.cycles
    ring := { s.ring with goltik := if s.inp.e = 0 ∨ 16 < s.inp.e ∨ s.inp.e ≤ s.inp.no then {} else { members := s.inp.e, number := s.inp.no } }
    regions := []
    host := { s.host with lost0 := !b.west || s.host.lost0, lost1 := !b.east || s.host.lost1
                          link0 := s.host.link0 && b.west, link1 := s.host.link1 && b.east }
    info := { s.info with cal := true, refe := !b.west || s.info.refe, livec := liveMask (testedDies b), livem := liveMask live,
                          degr := decide ((testedDies b).length < 64) || decide (live.length < 64), published := true } }
  State.publish { s.setOffsets s.inp.offs with host := { s.host with step := 5 } }

/-- Step 6 after a power-on: queue 0 of partition 0 is opened with the PF flag; its descriptor and the address of it come with
the firmware (log 14). -/
def State.bootQueue (s : State) (word : Nat) (d : List Byte) : State :=
  let daddr := word % 2 ^ 48 / 64 * 64
  let k : LQueue := if d.length = 64 ∧ descriptorOk d 0 then
      { q := 0, daddr := daddr, waddr := daddr, sts := 1, reg := true, pf := true, kapp := (numAt d 0xD 1).testBit 2, base := numAt d 0 8,
        size := numAt d 8 4, msix := numAt d 0xE 2, savep := numAt d 0x18 8, saven := numAt d 0x20 4 }
    else { q := 0, daddr := daddr, waddr := daddr, sts := 2, reg := true }
  { s.modQueue 0 (fun _ => k) with host := { s.host with step := 6 } }

/-- The whole package after a reset: every field as after power-on, but for the model's own ones. -/
def State.powerOn (s : State) : State :=
  { State.reset with agenda := s.agenda, turn := s.turn, rr := s.rr, inp := s.inp, freeIx := s.freeIx }

/-- POWER_ON_RESET: bring-up with the test results `boot`, the reference TIME `v1` in ns, the offsets `offs`, queue 0's directory word `v`
and, as `data`, its descriptor of 64 bytes and after it the firmware of the Sett cores, loaded at `addr`, and with `e` members the Goltik ring in which the package has the number `no` (R286);
with `flag` the package is held in reset. -/
def execPowerOnReset (s0 : State) : Out :=
  let s := s0.powerOn
  let b := s.inp.boot
  if s.inp.flag then .next s
  else
    let s := { s with host := { s.host with inReset := false } }
    let s1 := { s with liveStacks := testedStacks b }
    if !b.firmware then .next (s.bootFail 1)
    else if (testedDies b).isEmpty then .next (s1.bootFail 2)
    else if (testedStacks b).isEmpty then .next ((s1.bootDies b).bootFail 3)
    else if !b.west ∧ !b.east then .next ((s1.bootDies b).bootFail 4)
    else
      let t := (s1.bootDies b).loadFirmware b s.inp.addr (s.inp.data.drop 64)
      .next ((State.bootPublish { t with time2 := 2 * s.inp.v1.toNat } b).bootQueue s.inp.v.toNat (s.inp.data.take 64))

/-! ## Standby (R440) -/

/-- STANDBY_REQUEST: accepted only while no kernel is admitted or running. -/
def execStandbyRequest (s : State) : Out :=
  if s.kernels.any (fun k => k.state != .ended) ∨ s.host.stby ∨ s.host.step ≠ 6 then .next s
  else .next { s with
    queues := s.queues.map (fun q => { q with sts := 0, reg := false, leader := none, published := [], appenders := [] })
    ctxs := [], away := [], images := [], kernels := [], nodes := [], sett := [], dies := [], poisonS := [], ring := {}, ck := {}
    cores := s.cores.map (fun (c, k) => (c, { wlimmax := k.wlimmax, fmin := k.fmin }))
    fab := { s.fab with groups := [], seqs := [], pkts := [], stos := [] }
    host := { s.host with stby := true, stbya := true } }

/-- STANDBY_EXIT: steps 2, 4, 5 and 6 with the test results `boot`, and with the firmware `data` of the Sett cores, whose SRAM did not
keep it, loaded at `addr`; a stack that was live and now fails its test fails (R410), one that was excluded stays so. -/
def execStandbyExit (s : State) : Out :=
  let b := s.inp.boot
  if !s.host.stbya then .next s
  else
    let bad := s.liveStacks.filter (fun m => !b.liveStacks.contains m && !s.failedStacks.contains m)
    let s := { s with host := { s.host with stby := false }, failedStacks := s.failedStacks ++ bad }
    if (testedDies b).isEmpty then .next (s.bootFail 2)
    else if s.liveStacks.all s.failedStacks.contains then .next ((s.bootDies b).bootFail 3)
    else if !b.west ∧ !b.east then .next ((s.bootDies b).bootFail 4)
    else
      let t := (s.bootDies b).loadFirmware b s.inp.addr s.inp.data
      let s := bad.foldl (fun (s : State) m => s.post m 9 m 0) (t.bootPublish b)
      let s := { s with host := { s.host with step := 6, stbya := false }
                        parts := s.parts.map (fun (e : Nat × Partition) => (e.1, { e.2 with ivlt := 0 })) }
      .next (s.writeDirectory 0 ((s.queue 0).word / 2 * 2 + 1) true)

/-! ## Debug mode and the debug mailbox (R440, R442) -/

/-- DEBUG_MODE_ENTER: HCTL is written with DBGM 1 and the bits of `v`; NORES and NOSCRB take their bits where DBGM was 1
already (log 25). -/
def execDebugModeEnter (s : State) : Out :=
  if s.host.dbgm then
    .next (State.publish { s with host := { s.host with nores := bitAt s.inp.v 9, noscrb := bitAt s.inp.v 10 } })
  else .next (State.post { s with host := { s.host with dbgm := true } } 0 15 0 0)

/-- DEBUG_MODE_EXIT: DBGM is written with 0. -/
def execDebugModeExit (s : State) : Out :=
  .next (State.publish { s with host := { s.host with dbgm := false, nores := false, noscrb := false } })

/-- The result of a mailbox operation: DSTS with a cause, 0 for none. -/
def State.mailDone (s : State) (cause : Nat) : State := { s with host := { s.host with dsts := BitVec.ofNat 64 (256 * cause) } }

/-- A ctxid within its limits (R349); `num`: a context is named. -/
def mailId (v : W64) (num : Bool) : Bool := field v 15 49 == 0 && !(num && field v 0 2 == 3#2)

/-- SWR of a context's special by the debug mailbox: BUSY is set while a role of a target in RUN has still to come to an instruction
boundary (R353). -/
def State.mailSwr (s : State) (c : CtxId) (id : W64) (n : Nat) (r : Role) (v : W64) : State :=
  let busy := fun (t : State) => { t with host := { t.host with dsts := 1 } }
  match swrContext s mailWho c id n r v with
  | .done t => t.mailDone 0
  | .fault cause _ => s.mailDone cause
  | .waitIn _ t => busy t
  | _ => busy s

/-- SRD, SWR and DBGH as a PART 31 context performs them: the special NO of role TROLE, PSEL 0. -/
def State.mailbox (s : State) (op : Nat) (cmd id val : W64) : State :=
  let no := field cmd 2 9
  let t := (field cmd 11 2).toNat
  let dop := (field cmd 13 2).toNat
  let rm := field cmd 15 3
  let n := no.toNat
  let c := idOf id
  let roleScoped := no == 0x06#9 || no == 0x0B#9
  if field cmd 18 46 ≠ 0 ∨ 2 < op then s.mailDone cIllegal
  else if op = 2 then
    if ((rm = 0) ↔ (dop < 2)) ∨ !mailId id (decide (dop < 2)) then s.mailDone cRange
    else if dop < 2 ∧ (s.ctx c).isNone then s.mailDone cTarget
    else (s.debug dop rm c).mailDone 0
  else if !(isUserSpecial no || isPrivSpecial no) ∨ (op = 1 ∧ !swrWritable no) ∨ (if roleScoped then t = 3 else t ≠ 0) then
    s.mailDone cIllegal
  else if !mailId id (ctxSpecial n || n == 0x42) then s.mailDone cRange
  else if op = 1 ∧ ctxSpecial n then s.mailSwr c id n (roleOf t) val
  else if ctxSpecial n ∧ (s.ctx c).isNone then s.mailDone cTarget
  else if op = 0 then
    let v := match ctxSpecial n, s.ctx c with
      | true, some y => contextSpecial s c y (roleOf t) n
      | _, _ => coreSpecial s c 0 n
    State.mailDone { s with host := { s.host with dval := v } } 0
  else match writeCoreSpecial s c 0 n val with
    | some u => u.mailDone 0
    | none => s.mailDone cRange

/-- An SWR that the mailbox has left asked for nothing any more: a new command begins. -/
def State.dropMail (s : State) (c : CtxId) : State :=
  s.modCtx c (fun y => if y.swr.any (fun q => q.by_ == mailWho.c) then { y with swr := none } else y)

/-- A write of DCMD with `v`, whose OP is `op` or the reserved 3, with DCTX `v1` and DVAL `v2`; dropped while BUSY is set. With `flag` the
SWR in progress goes on. -/
def State.mail (s : State) (op : Nat) : State :=
  if bitAt s.host.dsts 0 then (if s.inp.flag ∧ op = 1 then s.mailbox 1 s.host.dcmd s.host.dctx s.host.dval else s)
  else
    let o := if field s.inp.v 0 2 = 3#2 then 3 else op
    let cmd : W64 := s.inp.v &&& ~~~3#64 ||| BitVec.ofNat 64 o
    State.mailbox (State.dropMail { s with host := { s.host with dcmd := cmd, dctx := s.inp.v1, dval := s.inp.v2 } } (idOf s.inp.v1))
      o cmd s.inp.v1 s.inp.v2

def execDebugMailboxSrd (s : State) : Out := .next (s.mail 0)
def execDebugMailboxSwr (s : State) : Out := .next (s.mail 1)
def execDebugMailboxDbgh (s : State) : Out := .next (s.mail 2)

/-! ## Links, function-level resets, boundary scan, host writes -/

/-- LINK_DOWN of port `port`. -/
def execLinkDown (s : State) : Out := .next (s.loseLink s.inp.port)
/-- PORT_RESET of port `port`: its link goes down with its functions, and kernels run on. -/
def execPortReset (s : State) : Out := .next (s.loseLink s.inp.port)
/-- LINK_UP of port `port`: never of an I/O die that has lost its clock (R408). -/
def execLinkUp (s : State) : Out :=
  .next { s with host := { s.host with link0 := s.host.link0 || (s.inp.port == 0 && !s.host.lost0),
                                       link1 := s.host.link1 || (s.inp.port == 1 && !s.host.lost1) } }

/-- VF_FLR of partition `part` on port `port` (R441). -/
def execVfFlr (s : State) : Out :=
  let p := s.inp.part
  let s1 := s.kernels.foldl (fun (s : State) (k : Kernel) => if k.part = p ∧ k.state ≠ .ended then s.endDomain k.id 0 else s) s
  let s2 := s1.queues.foldl (fun (s : State) (q : LQueue) =>
    if q.part = p ∧ q.sts ≠ 0 then s.writeDirectory q.q (q.word / 2 * 2) true else s) s1
  .next (s2.modWindow p s.inp.port (fun _ => {}))

/-- PF_FLR: a debug mailbox operation in progress ends; the package runs on. -/
def execPfFlr (s : State) : Out := .next { s with host := { s.host with dsts := s.host.dsts &&& ~~~1#64 } }

/-- The identification register (R420). -/
def idcode : W32 := Config.revision ++ 0x8192#16 ++ 0xD77#12

/-- BOUNDARY_SCAN: the TAP instruction `tap`, usable while the package is held in reset; the pins carry `v`. -/
def execBoundaryScan (s : State) : Out :=
  .next (if s.host.inReset then
    { s with host := { s.host with tap := s.inp.tap, tapOut := match s.inp.tap with
      | .bypass => 0
      | .idcode => idcode
      | .samplePreload => s.inp.v.setWidth 32
      | .extest => s.inp.v.setWidth 32 } }
    else s)

/-- A host-window block with the 8 bytes `v` written at an offset under a byte mask (R439): HWBASE is a multiple of 4 KiB; a HWLEN
outside its range keeps its value; PESTS is cleared by writing 1. -/
def HostWin.write (h : HostWin) (off : Nat) (v m : W64) : HostWin :=
  let n := ((BitVec.ofNat 64 h.len &&& ~~~m) ||| (v &&& m)).toNat
  if off = 0 then { h with base := ((BitVec.ofNat 64 h.base &&& ~~~m) ||| (v &&& m)).toNat / 4096 * 4096 }
  else if off = 8 then if n % 4096 = 0 ∧ n ≤ 2 ^ 48 then { h with len := n } else h
  else if off = 16 then { h with pests := h.pests &&& ~~~(v &&& m).setWidth 5 }
  else h

/-- A write of 4 or 8 aligned bytes to the host-window blocks in BAR0 of the PF, at offset `o` from the first (R437, R439). -/
def State.writeWin (s : State) (o : Nat) (l : List Byte) : State :=
  let sh := 8 * (o % 8)
  let v : W64 := BitVec.ofNat 64 (natOfBytes l) <<< sh
  let m : W64 := BitVec.ofNat 64 (2 ^ (8 * l.length) - 1) <<< sh
  if o < 2048 ∧ (l.length = 8 ∨ l.length = 4) ∧ o % l.length = 0 then
    s.modWindow (o / 128) (o / 64 % 2) (fun h => h.write (o % 64 / 8 * 8) v m)
  else s

/-- BSTS (R438): the live compute dies and stacks are counted as they stand. -/
def State.bsts (s : State) : Nat :=
  s.host.fail * 2 ^ 24 + (s.dies.countP (fun e => e.2.live)) * 2 ^ 16 +
    (s.liveStacks.filter (fun m => !s.failedStacks.contains m)).length * 2 ^ 8 + s.host.step
/-- HCTL (R440). -/
def State.hctl (s : State) : Nat :=
  bit1 s.host.stby 0 + bit1 s.host.stbya 1 + bit1 s.host.dbgm 8 + bit1 s.host.nores 9 + bit1 s.host.noscrb 10
/-- The 8-byte word at an offset of a host-window block (R439). -/
def HostWin.word (h : HostWin) (off : Nat) : Nat :=
  if off = 0 then h.base else if off = 8 then h.len else if off = 16 then h.pests.toNat else 0
/-- The 8-byte word at an offset of the fabric request block (R295). -/
def State.fabWordAt (s : State) (off : Nat) : Nat :=
  let a := s.fab.args
  if off = 0 then s.fab.fop.toNat + 256 * s.fab.fsts.toNat
  else (([a.a0, a.a1, a.a2, a.a3, a.a4, a.a5] : List W64)[off / 8 - 1]?.getD 0).toNat

/-- The aligned 8-byte word that a function reads in BAR0 (R437): the PF's layout; of a VF its partition's queues and a copy of the
information window's first 4 KiB. Any other offset reads zero. -/
def State.barWord (s : State) (fn o : Nat) : Nat :=
  let queue := if 0x1000 ≤ o ∧ o < 0x2000 ∧ s.reaches fn ((o - 0x1000) / 64) then (s.queue ((o - 0x1000) / 64)).register (o % 64) else 0
  let info := fun (a : Nat) => natOfBytes ((List.range 8).map (fun i => s.infoByte (a + i)))
  if fn ≠ 0 then (if 0x8000 ≤ o ∧ o < 0x9000 then info (o - 0x8000) else queue)
  else if o = 0 then s.bsts
  else if o = 8 then s.hctl
  else if 0x100 ≤ o ∧ o < 0x300 then (s.queue ((o - 0x100) / 8)).word
  else if o < 0x20000 then queue
  else if o < 0x30000 then info (o - 0x20000)
  else if 0x40000 ≤ o ∧ o < 0x40800 then (s.window ((o - 0x40000) / 128) (o / 64 % 2)).word (o % 64)
  else if 0x50000 ≤ o ∧ o < 0x50020 then
    (([s.host.dcmd, s.host.dctx, s.host.dval, s.host.dsts] : List W64)[(o - 0x50000) / 8]?.getD 0).toNat
  else if 0x60000 ≤ o ∧ o < 0x60040 then s.fabWordAt (o - 0x60000)
  else 0

/-- Bytes of BAR0 of a function: 1 MiB of the PF, 64 KiB of a VF. -/
def barSize (fn : Nat) : Nat := if fn = 0 then 2 ^ 20 else 2 ^ 16

/-- An access of BAR0 is one that the device takes: 4 or 8 aligned bytes, of an enabled function. Any other completes with Unsupported
Request (R437). -/
def State.barOk (s : State) (fn o n : Nat) : Bool := (n == 4 || n == 8) && o % n == 0 && decide (o + n ≤ barSize fn) && s.fnOn fn

/-- What a host reads in BAR0 of a function: none, Unsupported Request, for an access that the device does not take. A read has no
effect on the device (R437). -/
def State.barRead (s : State) (fn o n : Nat) : Option (List Byte) :=
  if s.barOk fn o n then some (((bytesN (s.barWord fn (o / 8 * 8)) 8).drop (o % 8)).take n) else none

/-- A host's write of `l` to BAR0 of a function at offset `o` (R437): the queue registers, of which the low word counts, and the PF's
host-window blocks. The directory, the partition descriptors, the power table, HCTL, the debug mailbox and the fabric request block have
rows of their own; elsewhere nothing is written. -/
def State.barWrite (s : State) (fn o : Nat) (l : List Byte) : State :=
  let q := (o - 0x1000) / 64
  if !s.barOk fn o l.length then s
  else if 0x1000 ≤ o ∧ o < 0x2000 then
    if s.reaches fn q then s.writeQueueReg q (o % 64) (BitVec.ofNat 32 (natOfBytes l)) none else s
  else if fn = 0 ∧ 0x40000 ≤ o ∧ o < 0x40800 then s.writeWin (o - 0x40000) l
  else s

/-- SPECIAL_REGISTER_WRITE: special `no` of context `c`, role `r`, partition `part`, takes `v`; a read-only one and a
refused value leave it (R111, R351). With `flag` a host's write of `data` to BAR0 of its function `e` at offset `addr` (R437, R439;
log 24). -/
def execSpecialRegisterWrite (s : State) : Out :=
  .next (if s.inp.flag then s.barWrite s.inp.e s.inp.addr s.inp.data
    else if swrWritable (BitVec.ofNat 9 s.inp.no) ∧ s.inp.no < 512 then s.put s.inp.no s.inp.v else s)

/-- HOST_WRITE of `data` at virtual address `addr` of partition `part`: a store by another party (R414). -/
def execHostWrite (s : State) : Out :=
  let l := s.inp.data.take 4096
  match storePages none s.inp.part (pageParts s.inp.addr l.length) s l with
  | .ok t => .next t
  | .error _ => .next s

end Sys2Proof.Machine
end

