-- ==== Sys2Proof/Machine/Launch.lean ====
section
/-! DEFINITION. Device steps of the die schedulers: staging, issue, aging, pre-emption and lazy save, harvest placement and
revocation, and the end of a kernel (R31, R383 to R387). -/

namespace Sys2Proof.Machine

/-! ## Choice among waiting kernels (R384) -/

/-- How far a queue's turn lies ahead. -/
def turnOf (last q : Nat) : Nat := (q + 63 - last) % 64

/-- The queue served last by the scheduler of a die on which both kernels wait for a core (R384). -/
def State.lastServed (s : State) (a b : Kernel) : Nat :=
  ((a.grant.find? b.grant.contains).map (fun c => (s.die (dieOf c.cid)).lastQueue)).getD 63

/-- `a` ranks above `b`: aged kernels first, oldest first; then by PRIO; then by the queues' turns, starting after the queue
last served; then in the order of admission. -/
def State.outranks (s : State) (a b : Kernel) : Bool :=
  if a.aged ∧ b.aged then decide (a.admitted < b.admitted) || (a.admitted == b.admitted && decide (a.id < b.id))
  else if a.aged ∨ b.aged then a.aged
  else if a.prio ≠ b.prio then decide (b.prio < a.prio)
  else if a.queue ≠ b.queue then decide (turnOf (s.lastServed a b) a.queue < turnOf (s.lastServed a b) b.queue)
  else decide (a.id < b.id)

/-- The die of a granted context takes kernel issues and staging transfers (R408, R419). -/
def State.dieServes (s : State) (c : CtxId) : Bool :=
  let d := s.die (dieOf c.cid)
  d.live && !d.drained && !(s.core c.cid).retired

/-- A granted core is ready for the start (R383): its slot is free or claimed, and the budget fits beside the other contexts
that hold storage. -/
def State.coreReady (s : State) (k : Kernel) (c : CtxId) : Bool :=
  s.dieServes c && s.slotClean c && s.fits c.cid k.abud k.wbud k.zbud &&
    (c.num != 0 || decide ((s.harvestOn c.cid).countP (fun e => e.2.state == .run || e.2.state == .trapped) ≤ k.hallow))

/-- Every granted core of a kernel is ready, and its staging transfers are done; its part stands on every scoreboard. -/
def State.issuable (s : State) (k : Kernel) : Bool :=
  k.pending && !k.grant.isEmpty && s.boarded k && k.staging.all (·.done) && k.grant.all (s.coreReady k)

/-- Kernel `j` needs a core of the grant of `k`: the same context or, where it is aged, the same core; a harvest kernel delays no
owner (R384, R386). -/
def Kernel.needs (j k : Kernel) : Bool :=
  j.grant.any k.grant.contains ||
    (j.aged && (!j.harvest || k.harvest) && j.grant.any (fun c => k.grant.any (fun d => d.cid == c.cid)))

/-- No kernel on the scoreboards that ranks above `k` and could be issued, or is aged, needs a core of its grant. -/
def State.chosen (s : State) (k : Kernel) : Bool :=
  s.kernels.all (fun j => j.id == k.id || !j.pending || !j.needs k || s.outranks k j || !s.boarded j ||
    !(j.aged || s.issuable j))

/-! ## Staging (R383) -/

/-- Storage that kernels in staging have reserved on a core. -/
def State.stagedOn (s : State) (k : Kernel) (cid : Nat) : Nat × Nat × Nat :=
  (s.kernels.filter (fun j => j.id != k.id && j.state == .staging && j.grant.any (fun c => c.cid == cid))).foldl
    (fun (t : Nat × Nat × Nat) j => (t.1 + j.abud, t.2.1 + j.wbud, t.2.2 + j.zbud)) (0, 0, 0)

/-- Storage for a granted context can be reserved. -/
def State.canReserve (s : State) (k : Kernel) (cid : Nat) : Bool :=
  let t := s.stagedOn k cid
  s.fits cid (k.abud + t.1) (k.wbud + t.2.1) (k.zbud + t.2.2)

/-- Runs the staging command of a context that does not stand in its slot yet, on its core's load engine. A K source reads the storage
reserved for the kernel on the core that it names (DESIGN CHOICE, log 11: R377 allows it before any context stands). -/
def State.stage (s : State) (k : Kernel) (c : CtxId) (x : Ctx) (far : Nat) (data : List Byte) : Ctx × State :=
  match x.loadQ with
  | [] => (x, s)
  | e :: _ =>
    let m := Cmd.of e.bytes
    let t := (k.grant.zip k.prep).foldl (fun (s : State) g => s.setCtx g.1 g.2) s
    let r := runUnits c false e.acc (farCode s m far) m.count (t.setCtx c x) data
    ((r.ctx c).getD x, { r with ctxs := s.ctxs, poisonS := s.poisonS })

/-- The scoreboard entries of its die that stand before staging entry `id` of kernel `k`, for the core of `c` (R383). -/
def State.stagingPlace (s : State) (k : Kernel) (id : Nat) (c : CtxId) : Nat :=
  s.ahead k (dieOf c.cid) + 1 +
    (k.staging.take id).countP (fun e => !e.done && ((k.grant[e.gidx]?).map (fun c => dieOf c.cid)) == some (dieOf c.cid))

/-- STAGING_TRANSFER: entry `id` of the staging list of kernel `k` is transferred; `data` and `no` are what another package
or a host returns. One that meets a condition of R261 ends the kernel under R28. -/
def execStagingTransfer (s : State) : Out :=
  match s.kernel s.inp.k with
  | none => .next s
  | some k =>
    match k.staging[s.inp.id]? with
    | none => .next s
    | some t =>
      match k.grant[t.gidx]?, k.prep[t.gidx]? with
      | some c, some x =>
        let before := (k.staging.take s.inp.id).filter (fun e => e.gidx == t.gidx)
        if !k.pending ∨ 64 ≤ s.stagingPlace k s.inp.id c ∨ t.done ∨ !before.all (·.done) ∨ !s.dieServes c ∨ !s.canReserve k c.cid ∨ !s.chosen k then .next s
        else
          let x := if x.loadQ.isEmpty then { x with loadQ := [{ acc := s.inp.id, off := 0, bytes := t.bytes, begun := true }] } else x
          let (y, r) := s.stage k c x s.inp.no s.inp.data
          match y.loadQ with
          | [] => .next s
          | e :: _ =>
            if e.fcode ≠ 0 then
              .next ((r.modKernel k.id (fun j => { j with sfc := e.fcode })).endDomain k.id cCopyFault)
            else
              .next (r.modKernel k.id (fun j => { j with
                state := .staging
                prep := j.prep.set t.gidx (if e.finished then { y with loadQ := [] } else y)
                staging := if e.finished then j.staging.set s.inp.id { t with done := true } else j.staging }))
      | _, _ => .next s

/-! ## Issue (R31, R41, R42, R383) -/

/-- A role at its kernel's start: it enters the entry section, once its wait fields allow. -/
def enterRole (t : List Section) (x : Ctx) (r : Role) (entry : Nat) : RoleSt :=
  let v := x.role r
  if !v.active then v
  else if sectionHeld t x r entry then
    { v with rest := some { push := 0, flight := none, dest := ⟨entry, 0⟩, enter := some entry, exit := none, aAt := none } }
  else { v with entries := [(entry, 1)] }

/-- A context at its kernel's start on a core. -/
def State.startOn (s : State) (k : Kernel) (g : Nat) (c : CtxId) : Ctx :=
  let x := k.prep.getD g (startCtx k g)
  let wmax := (s.core c.cid).wlimmax[c.num]?.getD 0x01000000
  { x with
    wlim := Nat.min 0x01000000 wmax, floor := s.hist.length, rl := enterRole k.text x .l k.entry, rc := enterRole k.text x .c k.entry
    rs := enterRole k.text x .s k.entry }

/-- The first issue in a subtree (R380). -/
def State.stampStart : Nat → State → Nat → State
  | 0, s, _ => s
  | fuel + 1, s, id =>
    match s.node id with
    | none => s
    | some n =>
      let s := s.modNode id (fun m => { m with tstart := if m.tstart = 0 then s.refTime else m.tstart })
      match n.parent with
      | some p => State.stampStart fuel s p
      | none => s

/-- A new context takes its slot: its buffers hold no word with an error that an earlier one left (R31, R405). -/
def State.placeNew (s : State) (c : CtxId) (x : Ctx) : State :=
  let t := s.place c x
  { t with poisonS := t.poisonS.filter (fun p => p.1 != c) }

/-- Every core of a kernel starts at its entry section; the start is an acquire at system scope (R184). -/
def State.issue (s : State) (k : Kernel) : State :=
  let s := k.grant.zipIdx.foldl (fun (s : State) e => (s.placeNew e.1 (s.startOn k e.2 e.1)).acquireNow e.1.cid 3) s
  let s := s.modKernel k.id (fun j => { j with state := .running, started := s.cycles, staging := [], prep := [] })
  let t := ((k.grant.map (fun c => dieOf c.cid)).eraseDups).foldl
    (fun (s : State) d => s.modDie d (fun x => { x with lastQueue := k.queue })) (State.stampStart 9 s k.node)
  State.stepStart t k s.refTime

/-- A context that pre-emption has stopped: in place, or with its image in the save pool (R385). -/
def Ctx.preempted (x : Ctx) : Bool := x.state == .saved && (x.image.isNone || x.claimed)

/-- A victim's context may go on: in place, or from its image once its slot is free (R356, R361, R385). -/
def State.mayResume (s : State) (k : Kernel) (c : CtxId) : Bool :=
  match s.member k c with
  | none => true
  | some x =>
    x.state == .ended || (x.preempted && s.dieServes c &&
      (x.image.isNone || (s.slotClean c && s.fits c.cid x.abud x.wbud x.zbud)))

/-- The context goes on. -/
def State.resumeMember (s : State) (k : Kernel) (c : CtxId) : State :=
  match s.member k c with
  | none => s
  | some x => if x.preempted then s.restore c x else s

/-- KERNEL_ISSUE: kernel `k` starts on every die together; a pre-empted kernel goes on, whole, once nothing that ranks above
it needs its cores (R383 to R385). -/
def execKernelIssue (s : State) : Out :=
  match s.kernel s.inp.k with
  | none => .next s
  | some k =>
    if s.issuable k ∧ s.chosen k then .next (s.issue k)
    else if k.state = .running ∧ k.grant.any (fun c => (s.member k c).any Ctx.preempted) ∧ k.grant.all (s.mayResume k) ∧
        s.kernels.all (fun j => !j.pending || !j.grant.any k.grant.contains || (!j.aged && decide (j.prio ≤ k.prio))) then
      .next (k.grant.foldl (fun (s : State) c => s.resumeMember k c) s)
    else .next s

/-- Core cycles in 4 ms: two to a nanosecond (R1). -/
def agingCycles : Nat := 8000000

/-- KERNEL_AGING of kernel `k` (R384). -/
def execKernelAging (s : State) : Out :=
  match s.kernel s.inp.k with
  | none => .next s
  | some k =>
    if k.pending ∧ k.admitted + agingCycles ≤ s.cycles then .next (s.modKernel k.id (fun j => { j with aged := true }))
    else .next s

/-! ## Pre-emption and lazy save (R384, R385) -/

/-- A kernel that `k` pre-empts: an owner kernel of lower PRIO on a core of its grant. -/
def State.victim (s : State) (k j : Kernel) : Bool :=
  j.state == .running && !j.harvest && decide (j.prio < k.prio) && j.grant.any (fun c => k.grant.contains c && s.ofKernel c j.id)

/-- A context of a victim is asked to stop at its quiet point; a TRAPPED one stops at once. -/
def State.preemptCtx (s : State) (j : Kernel) (c : CtxId) : State :=
  match s.ctx c with
  | none => s
  | some x =>
    if x.kernel ≠ j.id then s
    else if x.state = .trapped then s.stopVictim c
    else if x.state = .run ∧ !x.async.any (fun e => e.ev == .preempt) then
      s.setCtx c { x with async := x.async ++ [⟨.preempt, 0⟩] }
    else s

/-- Victims in order: the lowest PRIO first, the most recently started first within one. -/
def insertVictim (a : Kernel) : List Kernel → List Kernel
  | [] => [a]
  | b :: r =>
    if a.prio < b.prio ∨ (a.prio = b.prio ∧ b.started ≤ a.started) then a :: b :: r else b :: insertVictim a r

/-- PRE_EMPTION by kernel `k`: its victims are pre-empted whole, the lowest PRIO first, and the most recently started first
within one PRIO. An aged kernel pre-empts none. -/
def execPreEmption (s : State) : Out :=
  match s.kernel s.inp.k with
  | none => .next s
  | some k =>
    if !k.pending ∨ k.aged ∨ !s.chosen k then .next s
    else
      let l := (s.kernels.filter (s.victim k)).foldr insertVictim []
      .next (l.foldl (fun (s : State) j => j.grant.foldl (fun (s : State) c => s.preemptCtx j c) s) s)

/-- The PRIO of a context's kernel. -/
def State.prioOf (s : State) (x : Ctx) : Nat :=
  match s.kernel x.kernel with
  | some k => k.prio
  | none => 0

/-- A stopped context whose storage may be claimed: a victim in place, or a parked harvest context (R385). -/
def Ctx.claimable (c : CtxId) (x : Ctx) : Bool := (x.state == .saved && x.image.isNone) || (c.num != 0 && x.state == .parked)

/-- The storage of the owner that pre-emption has stopped in place on a core: an incoming owner takes it first (R385). -/
def State.stoppedOwner (s : State) (cid : Nat) : Nat × Nat × Nat :=
  match (s.ctx ⟨cid, 0⟩).filter (fun y => y.state == .saved && y.image.isNone) with
  | some y => (y.abud, y.wbud, y.zbud)
  | none => (0, 0, 0)

/-- An incoming owner kernel needs the storage of a stopped context: the owner's always, a harvest bank where its budget fits
nowhere beside it (R385). -/
def State.storageWanted (s : State) (c : CtxId) (x : Ctx) : Bool :=
  let t := s.budgets c.cid
  let o := s.stoppedOwner c.cid
  s.kernels.any (fun k => k.pending && !k.harvest && k.grant.contains ⟨c.cid, 0⟩ && k.id != x.kernel &&
    (c.num == 0 || decide (49152 + o.1 < t.1 + k.abud) || decide (24576 + o.2.1 < t.2.1 + k.wbud) ||
      decide (24576 + o.2.2 < t.2.2 + k.zbud)))

/-- Nothing of a context is in transfer (R385 step 4). -/
def State.settled (s : State) (c : CtxId) (x : Ctx) : Bool :=
  !x.inTransfer && s.saveReady c x && (s.core c.cid).frozen.isNone

/-- The images of a queue's save pool that are free, by address. -/
def State.freeImages (s : State) (q : LQueue) : List Nat :=
  ((List.range q.saven).map (fun i => q.savep + 131072 * i)).filter (fun a =>
    !(s.ctxs ++ s.away).any (fun (_, y) => y.state == .saved && y.claimed && y.image == some a && y.part == q.part))

/-- STORAGE_CLAIM of the storage of context `c`: its image is written into the save pool of its kernel's queue, and the
storage is handed over. Without a free image, no claim is made. -/
def execStorageClaim (s : State) : Out :=
  let c := s.inp.c
  match s.ctx c with
  | none => .next s
  | some x =>
    let lower := s.ctxs.any (fun (d, y) => d.cid == c.cid && d != c && y.claimable d && s.storageWanted d y &&
      decide (s.prioOf y < s.prioOf x))
    if !x.claimable c ∨ !s.storageWanted c x ∨ !s.settled c x ∨ lower then .next s
    else match s.kernel x.kernel with
      | none => .next s
      | some k =>
        let q := s.queue k.queue
        match s.freeImages q with
        | [] => .next s
        | a :: _ =>
          let y := if x.state = .saved then x else x.toSaved none 0
          match s.writeImage c x q.part a with
          | none => .next s
          | some t => .next (((t.dropLoads c x).setCtx c { y with image := some a, imageNo := s.freeIx, claimed := true }).modCore c.cid (·.dropLease c.num))

/-! ## Harvest (R386, R387) -/

/-- A harvest kernel that can be placed now. -/
def State.placeable (s : State) (k : Kernel) : Bool :=
  match s.node k.node with
  | some n => k.harvest && k.state == .waiting && k.grant.isEmpty && decide (k.gw * k.gh ≤ (s.openHosts n).length)
  | none => false

/-- HARVEST_PLACEMENT of kernel `k`: its whole grid is placed on host cores, context number 1 before 2; `data` holds the host
cores that the scheduler prefers, two bytes each. Without staging entries it starts at once. -/
def execHarvestPlacement (s : State) : Out :=
  match s.kernel s.inp.k with
  | none => .next s
  | some k =>
    match s.node k.node with
    | none => .next s
    | some n =>
      if !s.placeable k ∨ s.kernels.any (fun j => j.id != k.id && s.placeable j && s.outranks j k) then .next s
      else
        let pref := (List.range (s.inp.data.length / 2)).map (fun i => numAt s.inp.data (2 * i) 2)
        let grant := (ascending (chooseOrder (s.openHosts n) pref (fun _ => true)) (k.gw * k.gh)).map (fun cid =>
          (⟨cid, (s.hostNum cid k.abud k.wbud k.zbud).getD 1⟩ : CtxId))
        let k' := { k with grant := grant }
        let t := s.modKernel k.id (fun _ => k')
        .next (if t.issuable k' ∧ t.chosen k' then t.issue k' else t)

/-- REVOCATION of harvest context `c` on an owner demand (R387). -/
def execRevocation (s : State) : Out :=
  let c := s.inp.c
  if c.num = 0 then .next s
  else if s.leaseDemand c then .next (s.revoke c 1)
  else if s.placementDemand c then .next (s.revoke c 2)
  else .next s

/-- A parked harvest context may stand beside its core's owner again (R386). -/
def State.storageBack (s : State) (c : CtxId) : Bool :=
  !s.placementDemand c &&
  match s.ctx ⟨c.cid, 0⟩ with
  | none => true
  | some o => o.state == .ended || !(o.state == .saved && o.image.isNone) && match s.kernel o.kernel with
    | none => true
    | some k => decide ((s.harvestOn c.cid).countP (fun e => e.1 != c && (e.2.state == .run || e.2.state == .trapped)) < k.hallow)

/-- HARVEST_UNPARK of context `c`: parked on a lease demand, once the owner asks for the lease no more; parked on a storage
demand, once its storage is free; a claimed one is restored from its image (R387). -/
def execHarvestUnpark (s : State) : Out :=
  let c := s.inp.c
  match s.ctx c with
  | none => .next s
  | some x =>
    if c.num = 0 then .next s
    else if x.state = .parked ∧ x.parkedFor = 1 then
      let busy : Bool := match s.ctx ⟨c.cid, 0⟩ with
        | some o => o.state != .ended && (o.leaseAsk || (match (s.core c.cid).lease with
          | some l => l.num == 0
          | none => false))
        | none => false
      .next (if busy then s else s.unpark c)
    else if x.state = .parked ∧ x.parkedFor = 2 then .next (if s.storageBack c then s.unpark c else s)
    else if x.preempted ∧ s.storageBack c ∧ s.dieServes c ∧ s.slotClean c ∧ s.fits c.cid x.abud x.wbud x.zbud then
      .next (s.restore c x)
    else .next s

/-! ## The end of a kernel (R31) -/

/-- KERNEL_END: every core of the grid of kernel `k` has ended. -/
def execKernelEnd (s : State) : Out :=
  match s.kernel s.inp.k with
  | none => .next s
  | some k =>
    let ended := fun c => match s.member k c with
      | some x => x.state == .ended
      | none => true
    if k.state = .running ∧ k.grant.all ended then .next (s.endKernel k.id) else .next s

end Sys2Proof.Machine
end

