-- ==== Sys2Proof/Machine/Power.lean ====
section
/-! DEFINITION. Power, current and temperature (R422 to R433): the Thaw deferral, the step limiter and its ballast, droops,
over-current, thermal trips, the coarse cap, firmware's cadences, host writes of the power table. The operands of each row
stand in `State.inp`. -/

namespace Sys2Proof.Machine

/-! ## Thaw, limiter and ballast -/

/-- THAW_DEFERRAL_END: TIME of core `cid` has reached the end of its deferral (R427). -/
def execThawDeferralEnd (s : State) : Out :=
  .next (if s.thawed s.inp.cid then s.modCore s.inp.cid (fun k => { k with thaw := none }) else s)

/-- Some core of a group has needed ballast in the window that ended last (R429, R430). -/
def State.needsBallast (s : State) (g : Nat) : Bool := s.cores.any (fun (cid, k) => groupOf (dieOf cid) == g && k.ballast)

/-- What governs a group's cadence and ballast changes: the windows that have gone by are judged first (R428, R429). -/
def State.govern (s : State) (g : Nat) (f : PowerGroup → PowerGroup) : State := (s.rollAll.modGroupP g f).publish

/-- The exception of R430 ends: BAL clears, and the energy drawn above GCAP, `v` µJ, becomes debt. -/
def PowerGroup.endBal (p : PowerGroup) (v : W64) : PowerGroup := { p with bal := false, debt := p.debt + v }

/-- LIMITER_WINDOW: the windows of the cores that have gone by end, that of core `cid` among them (R428, R429). BAL of its group is set
where the latest ones needed ballast above the cap, and clears with the energy `v` µJ where they no longer do (R430). -/
def execLimiterWindow (s0 : State) : Out :=
  let s := s0.rollAll
  let g := groupOf (dieOf s.inp.cid)
  let p := s.group g
  let need := s.needsBallast g && decide (p.gcap < p.pavg.toNat)
  .next (if need ∧ !p.bal then (s.modGroupP g (fun p => { p with bal := true, balFrom := s.cycles })).publish
    else if p.bal ∧ !need then (s.modGroupP g (fun p => p.endBal s.inp.v)).publish
    else s)

/-- BALLAST_LIMIT_EXPIRY: 20 µs of ballast above the cap in group `g` have gone by, with `v` µJ above it; where no row brings it, it
comes by itself, and the energy that the meter has counted is a free value (`flag`). -/
def execBallastLimitExpiry (s : State) : Out :=
  let p := s.group s.inp.g
  let f := s.free
  if !p.bal ∨ s.cycles < p.balFrom + ballastCycles then .next s
  else if s.inp.flag then .next (f.2.govern s.inp.g (fun p => { p.endBal f.1 with balStopped := true }))
  else .next (s.govern s.inp.g (fun p => { p.endBal s.inp.v with balStopped := true }))

/-! ## Droop (R431) -/

/-- DROOP_ALARM in group `g`. -/
def execDroopAlarm (s : State) : Out :=
  .next (s.govern s.inp.g (fun p => { p with droop := true, droopHeld := true }))

/-- CAD has fallen to `n`; DROOP clears where the other sources give as much. -/
def PowerGroup.fall (p : PowerGroup) (n : Nat) : PowerGroup :=
  { p with droopHeld := false, droopCad := n, droop := decide (p.base false < n) }

/-- DROOP_RECOVERY in group `g`: the alarm, held, ends; after it CAD falls by 1. -/
def execDroopRecovery (s : State) : Out :=
  let p := s.group s.inp.g
  .next (if !p.droop then s
    else s.govern s.inp.g (fun p => p.fall (if p.droopHeld then Nat.max p.drpcad (p.base false) else p.droopCad - 1)))

/-! ## Limits (R432) -/

/-- OVER_CURRENT in group `g`, and its end. -/
def execOverCurrent (s : State) : Out := .next (s.govern s.inp.g (fun p => { p with oc := true }))
def execOverCurrentClear (s : State) : Out := .next (s.govern s.inp.g (fun p => { p with oc := false }))

/-- THERMAL_TRIP of die `die`, and its end. -/
def execThermalTrip (s : State) : Out :=
  let d := s.inp.die
  .next (s.govern (groupOf d) (fun p => { p with trips := if p.trips.contains d then p.trips else d :: p.trips }))
def execThermalTripClear (s : State) : Out :=
  let d := s.inp.die
  .next (s.govern (groupOf d) (fun p => { p with trips := p.trips.filter (· != d) }))

/-- COARSE_CAP_WINDOW: a millisecond of group `g` ends, in which it drew `v` µJ. PAVG is its average; at or below GCAP ballast
is in force again (log 24). -/
def execCoarseCapWindow (s : State) : Out :=
  let e := s.inp.v.toNat
  .next (s.govern s.inp.g (fun p => { p with
    coarse := decide (1050 * p.gcap < e), pavg := BitVec.ofNat 32 (e / 1000)
    balStopped := p.balStopped && decide (p.gcap < e / 1000) }))

/-- CADREQ_UPDATE: firmware gives group `g` the cadence `v`, between FMIN and 63, publishes the prediction `v1`, and takes off
the debt the energy `v2` µJ that has been repaid (R430, R432). -/
def execCadreqUpdate (s : State) : Out :=
  let n := s.inp.v.toNat
  let ok := decide (1 ≤ n) && decide (n ≤ 63) && s.cores.all (fun (cid, k) => groupOf (dieOf cid) != s.inp.g || decide (k.fmin ≤ n))
  .next (s.govern s.inp.g (fun p => { p with
    cadreq := if ok then n else p.cadreq
    tjp := s.inp.v1.setWidth 16
    debt := if p.debt.toNat ≤ s.inp.v2.toNat then 0 else p.debt - s.inp.v2 }))

/-! ## Host writes of the power table (R424) -/

/-- A field of the window as a write of `data` at `addr` leaves it. -/
def State.merged (s : State) (addr : Nat) (data : List Byte) (off n : Nat) : Nat :=
  natOfBytes ((List.range n).map (fun i =>
    if addr ≤ off + i ∧ off + i < addr + data.length then data.getD (off + i - addr) 0 else s.infoByte (off + i)))

/-- Each of the sixteen ranks is used once. -/
def isOrder (l : List Nat) : Bool := (List.range 16).all (fun r => l.contains r)

/-- A value within its range, or the old one. -/
def within (lo hi new old : Nat) : Nat := if lo ≤ new ∧ new ≤ hi then new else old

/-- Every field of the table as the write leaves it: one whose value would leave its range keeps its old value (R424); reserved bits
are ignored (R4). -/
def State.writePower (s : State) (addr : Nat) (data : List Byte) : Power :=
  let p := s.power
  let m := s.merged addr data
  let ord := (List.range 16).map (fun g => m (0x2008 + g) 1)
  { p with
    thawEn := (m 0x2000 1).testBit 0
    thawStep := within 0 1000 (m 0x2002 2) p.thawStep
    thawPod := m 0x2004 1 % 16
    ord := if isOrder ord then ord else p.ord
    maclimEn := (m 0x2018 1).testBit 0
    floor := within 1 64 (m 0x2019 1) p.floor
    step := within 1 64 (m 0x201A 1) p.step
    dstep := within 1 64 (m 0x201B 1 % 128) p.dstep
    pcap := within 0 28000 (m 0x2020 4) p.pcap
    groups := Vector.ofFn (fun g : Fin 16 => { p.groups[g] with
      gcap := within 100 1750 (m (0x2100 + 32 * g.val) 2) p.groups[g].gcap
      drpcad := within 2 63 (m (0x2103 + 32 * g.val) 1) p.groups[g].drpcad }) }

/-- POWER_TABLE_WRITE: the physical function writes the 4 or 8 aligned bytes `data` at offset `addr` of the window; any other
access writes nothing (R437). -/
def execPowerTableWrite (s : State) : Out :=
  let n := s.inp.data.length
  if s.info.published ∧ (n = 4 ∨ n = 8) ∧ s.inp.addr % n = 0 then
    .next (State.publish { s.rollAll with power := s.writePower s.inp.addr s.inp.data })
  else .next s

end Sys2Proof.Machine
end

