-- ==== Sys2Proof/Machine/SettOps.lean ====
section
/-! DEFINITION. The Sett cores beneath their instructions: control and status registers, traps, memory accesses through the
windows and PMP, and floating point under IEEE 754 as RISC-V orders it. The spec gives the profile (R308 to R311, R454); what
it takes from the RISC-V manuals is PRESUMED (log 12). -/

namespace Sys2Proof.Machine

/-! ## Registers -/

/-- x0 reads 0. -/
def Sett.xr (t : Sett) (n : Nat) : W64 := if n = 0 then 0 else t.x[n]?.getD 0
def Sett.setX (t : Sett) (n : Nat) (v : W64) : Sett := if n = 0 then t else { t with x := t.x.setIfInBounds n v }
def Sett.fr (t : Sett) (n : Nat) : W64 := t.f[n]?.getD 0
def Sett.csr (t : Sett) (n : Nat) : W64 := (aget t.csrs n).getD 0
def Sett.setCsr (t : Sett) (n : Nat) (v : W64) : Sett := { t with csrs := aset t.csrs n v }

def PMode.code : PMode → Nat
  | .u => 0
  | .s => 1
  | .m => 3
def PMode.of (n : Nat) : PMode := if n = 3 then .m else if n = 1 then .s else .u

def cMstatus : Nat := 0x300
/-- The writable bits of mstatus and sstatus. -/
def mstatusMask : W64 := 0x7E79AA#64
def sstatusMask : W64 := 0xC6122#64
/-- FS of mstatus. -/
def Sett.fs (t : Sett) : Nat := (field (t.csr cMstatus) 13 2).toNat
/-- mstatus as read: UXL and SXL are 2, SD shows a dirty FS. -/
def Sett.mstatus (t : Sett) : W64 :=
  t.csr cMstatus ||| 0xA00000000#64 ||| (if t.fs = 3 then 0x8000000000000000#64 else 0)
def Sett.mbit (t : Sett) (i : Nat) : Bool := bitAt (t.csr cMstatus) i
/-- Sets a bit or a field of mstatus. -/
def putBits (v : W64) (lo n x : Nat) : W64 :=
  let m : W64 := BitVec.ofNat 64 ((2 ^ n - 1) * 2 ^ lo)
  (v &&& ~~~m) ||| BitVec.ofNat 64 (x % 2 ^ n * 2 ^ lo)
def Sett.setM (t : Sett) (lo n x : Nat) : Sett := t.setCsr cMstatus (putBits (t.csr cMstatus) lo n x)
/-- A floating-point register is written: FS is dirty. -/
def Sett.setF (t : Sett) (n : Nat) (v : W64) : Sett := { t with f := t.f.setIfInBounds n v }.setM 13 2 3

/-- mip: the stop interrupt stands as the supervisor external one. -/
def Sett.mip (t : Sett) : W64 := t.csr 0x344 ||| (if t.stopIrq then 0x200#64 else 0)

/-- Counters: 3 Sett cycles pass for 4 core cycles (R308). -/
def State.settCycle (s : State) (t : Sett) : W64 := BitVec.ofNat 64 (s.cycles * 3 / 4) + t.cycle

/-- A counter may be read in the mode. -/
def Sett.counterOk (t : Sett) (i : Nat) : Bool :=
  match t.mode with
  | .m => true
  | .s => bitAt (t.csr 0x306) i
  | .u => bitAt (t.csr 0x306) i && bitAt (t.csr 0x106) i

/-- The value of a CSR; none where it does not exist or may not be accessed. -/
def State.readCsr (s : State) (d k : Nat) (t : Sett) (n : Nat) : Option W64 :=
  if t.mode.code < n / 256 % 4 then none
  else if n ≤ 3 then
    if t.fs = 0 ∨ n = 0 then none
    else some (if n = 1 then (t.fcsr.setWidth 64 &&& 31#64) else if n = 2 then (t.fcsr >>> 5).setWidth 64 else t.fcsr.setWidth 64)
  else if n = 0xC00 then if t.counterOk 0 then some (s.settCycle t) else none
  else if n = 0xC01 then if t.counterOk 1 then some (s.time d) else none
  else if n = 0xC02 then if t.counterOk 2 then some t.instret else none
  else if 0xC03 ≤ n ∧ n ≤ 0xC1F then if t.counterOk (n - 0xC00) then some 0 else none
  else if n = 0xB00 then some (s.settCycle t)
  else if n = 0xB02 then some t.instret
  else if (0xB03 ≤ n ∧ n ≤ 0xB1F) ∨ (0x323 ≤ n ∧ n ≤ 0x33F) ∨ n = 0x320 then some 0
  else if n = 0x100 then some (t.mstatus &&& (sstatusMask ||| 0x8000000200000000#64))
  else if n = 0x104 then some (t.csr 0x304 &&& t.csr 0x303)
  else if n = 0x144 then some (t.mip &&& t.csr 0x303)
  else if n = 0x180 then if t.mode = .s ∧ t.mbit 20 then none else some 0
  else if n = cMstatus then some t.mstatus
  else if n = 0x301 then some 0x800000000014112D#64
  else if n = 0x344 then some t.mip
  else if n = 0xF14 then some (BitVec.ofNat 64 (8 * d + k))
  else if n = 0xF11 ∨ n = 0xF12 ∨ n = 0xF13 ∨ n = 0xF15 then some 0
  else if n = 0x5C0 then some (BitVec.ofNat 64 t.kjepi)
  else if n = 0x5C1 then some 0
  else if 0x7C0 ≤ n ∧ n ≤ 0x7C7 then some ((t.slot t.kjepi).readCsr n)
  else if [0x105, 0x106, 0x10A, 0x140, 0x141, 0x142, 0x143, 0x302, 0x303, 0x304, 0x305, 0x306, 0x30A, 0x340, 0x341, 0x342, 0x343,
      0x3A0, 0x3A2].contains n ∨ (0x3B0 ≤ n ∧ n ≤ 0x3BF) then some (t.csr n)
  else none

/-- pmpcfg after a write: a locked entry keeps its byte; W without R is not taken. -/
def pmpCfgWrite (old v : W64) : W64 :=
  (List.range 8).foldl (fun (a : W64) i =>
    let o := (field old (8 * i) 8).toNat
    let b := (field v (8 * i) 8).toNat % 32 + (field v (8 * i + 7) 1).toNat * 128
    let b := if 128 ≤ o then o else if b % 4 = 2 then b - 2 else b
    a ||| BitVec.ofNat 64 (b * 2 ^ (8 * i))) 0

/-- The configuration byte of PMP entry `i`. -/
def Sett.pmpCfg (t : Sett) (i : Nat) : Nat := (field (t.csr (if i < 8 then 0x3A0 else 0x3A2)) (8 * (i % 8)) 8).toNat

/-- A write of a CSR that exists and may be accessed. -/
def State.writeCsr (s : State) (d k n : Nat) (v : W64) : State :=
  let set := fun f => s.modSett d k f
  if n = 1 then set (fun t => { t with fcsr := (t.fcsr &&& 0xE0#8) ||| (v.setWidth 8 &&& 31#8) }.setM 13 2 3)
  else if n = 2 then set (fun t => { t with fcsr := (t.fcsr &&& 31#8) ||| ((v.setWidth 8 &&& 7#8) <<< 5) }.setM 13 2 3)
  else if n = 3 then set (fun t => { t with fcsr := v.setWidth 8 }.setM 13 2 3)
  else if n = 0xB00 then set (fun t => { t with cycle := v - BitVec.ofNat 64 (s.cycles * 3 / 4) })
  else if n = 0xB02 then set (fun t => { t with instret := v })
  else if n = 0x100 then set (fun t => t.setCsr cMstatus ((t.csr cMstatus &&& ~~~sstatusMask) ||| (v &&& sstatusMask)))
  else if n = cMstatus then
    set (fun t =>
      let w := v &&& mstatusMask
      let w := if (field w 11 2).toNat = 2 then putBits w 11 2 (field (t.csr cMstatus) 11 2).toNat else w
      t.setCsr cMstatus w)
  else if n = 0x104 then
    set (fun t => t.setCsr 0x304 ((t.csr 0x304 &&& ~~~t.csr 0x303) ||| (v &&& t.csr 0x303 &&& 0x222#64)))
  else if n = 0x304 then set (fun t => t.setCsr 0x304 (v &&& 0xAAA#64))
  else if n = 0x144 then
    set (fun t => t.setCsr 0x344 ((t.csr 0x344 &&& ~~~(t.csr 0x303 &&& 0x2#64)) ||| (v &&& t.csr 0x303 &&& 0x2#64)))
  else if n = 0x344 then set (fun t => t.setCsr 0x344 (v &&& 0x222#64))
  else if n = 0x302 then set (fun t => t.setCsr n (v &&& 0xB3FF#64))
  else if n = 0x303 then set (fun t => t.setCsr n (v &&& 0x222#64))
  else if n = 0x105 ∨ n = 0x305 then
    set (fun t => t.setCsr n ((v &&& ~~~3#64) ||| (if (field v 0 2).toNat ≤ 1 then v &&& 3#64 else t.csr n &&& 3#64)))
  else if n = 0x141 ∨ n = 0x341 then set (fun t => t.setCsr n (v &&& ~~~1#64))
  else if n = 0x10A ∨ n = 0x30A then s
  else if n = 0x106 ∨ n = 0x306 then set (fun t => t.setCsr n (v &&& 0xFFFFFFFF#64))
  else if n = 0x3A0 ∨ n = 0x3A2 then set (fun t => t.setCsr n (pmpCfgWrite (t.csr n) v))
  else if 0x3B0 ≤ n ∧ n ≤ 0x3BF then
    set (fun t =>
      let i := n - 0x3B0
      let locked := 128 ≤ t.pmpCfg i || (decide (i < 15) && 128 ≤ t.pmpCfg (i + 1) && t.pmpCfg (i + 1) / 8 % 4 == 1)
      if locked then t else t.setCsr n (v &&& 0x3FFFFFFFFFFFFF#64))
  else if n = 0x5C0 then set (fun t => { t with kjepi := v.toNat % 16 })
  else if n = 0x5C1 then s.kjkill d k v
  else if 0x7C0 ≤ n ∧ n ≤ 0x7C7 then s.writeBank d k n v
  else if [0x140, 0x142, 0x143, 0x340, 0x342, 0x343].contains n then set (fun t => t.setCsr n v)
  else s

/-! ## Traps -/

/-- The trap vector's address. -/
def trapPc (tvec : W64) (cause : Nat) (irq : Bool) : W64 :=
  (tvec &&& ~~~3#64) + (if irq ∧ field tvec 0 2 = 1#2 then BitVec.ofNat 64 (4 * cause) else 0)

/-- Takes an exception or an interrupt at the pc, under medeleg and mideleg. -/
def Sett.trap (t : Sett) (cause : Nat) (irq : Bool) (tval : W64) : Sett :=
  let c : W64 := BitVec.ofNat 64 (cause + bit1 irq 63)
  let t := { t with wfi := false }
  if t.mode ≠ .m ∧ bitAt (t.csr (if irq then 0x303 else 0x302)) cause then
    let u := (((t.setCsr 0x142 c).setCsr 0x141 t.pc).setCsr 0x143 tval).setM 8 1 (if t.mode = .s then 1 else 0)
    let u := (u.setM 5 1 (bit1 (t.mbit 1) 0)).setM 1 1 0
    { u with mode := .s, pc := trapPc (t.csr 0x105) cause irq }
  else
    let u := (((t.setCsr 0x342 c).setCsr 0x341 t.pc).setCsr 0x343 tval).setM 11 2 t.mode.code
    let u := (u.setM 7 1 (bit1 (t.mbit 3) 0)).setM 3 1 0
    { u with mode := .m, pc := trapPc (t.csr 0x305) cause irq }

/-- The interrupt to take now: machine ones before delegated ones, external before software before timer. -/
def Sett.interrupt (t : Sett) : Option Nat :=
  let p := t.mip &&& t.csr 0x304
  let m := p &&& ~~~t.csr 0x303
  let sv := p &&& t.csr 0x303
  let mOn := t.mode != .m || t.mbit 3
  let sOn := t.mode == .u || (t.mode == .s && t.mbit 1)
  let order := [11, 3, 7, 9, 1, 5]
  match if mOn then order.find? (fun i => bitAt m i) else none with
  | some i => some i
  | none => if sOn then order.find? (fun i => bitAt sv i) else none

/-- Takes an interrupt; the stop interrupt is delivered once. -/
def Sett.takeIrq (t : Sett) (i : Nat) : Sett :=
  let u := t.trap i true 0
  if i = 9 then { u with stopIrq := false } else u

/-! ## Memory -/

inductive Kind where
  | fetch | load | store
  deriving DecidableEq, Repr

/-- Cause codes of the access faults. -/
def Kind.accessFault : Kind → Nat
  | .fetch => 1
  | .load => 5
  | .store => 7

/-- The byte range of a PMP entry. -/
def Sett.pmpRange (t : Sett) (i : Nat) : Option (Nat × Nat) :=
  let a := (t.csr (0x3B0 + i)).toNat
  match t.pmpCfg i / 8 % 4 with
  | 1 => some (if i = 0 then 0 else 4 * (t.csr (0x3B0 + i - 1)).toNat, 4 * a)
  | 2 => some (4 * a, 4 * a + 4)
  | 3 =>
    let g := ((List.range 54).takeWhile (fun j => a.testBit j)).length
    some (4 * (a / 2 ^ (g + 1) * 2 ^ (g + 1)), 4 * (a / 2 ^ (g + 1) * 2 ^ (g + 1)) + 2 ^ (g + 3))
  | _ => none

/-- PMP permits an access in a mode. -/
def Sett.pmpOk (t : Sett) (md : PMode) (a n : Nat) (kd : Kind) : Bool :=
  let hit := (List.range 16).find? (fun i => match t.pmpRange i with
    | some (lo, hi) => decide (lo < a + n) && decide (a < hi)
    | none => false)
  match hit with
  | none => md == .m
  | some i =>
    let c := t.pmpCfg i
    match t.pmpRange i with
    | some (lo, hi) =>
      decide (lo ≤ a) && decide (a + n ≤ hi) && ((md == .m && c < 128) || (match kd with
        | .fetch => c.testBit 2
        | .load => c.testBit 0
        | .store => c.testBit 1))
    | none => false

/-- The mode whose permissions a data access has (MPRV). -/
def Sett.dataMode (t : Sett) (kd : Kind) : PMode :=
  if kd ≠ .fetch ∧ t.mode = .m ∧ t.mbit 17 then PMode.of (field (t.csr cMstatus) 11 2).toNat else t.mode

/-- What stops a Sett instruction. -/
inductive Stop where
  | exc (cause : Nat) (tval : W64)
  | violation
  | stall
  deriving DecidableEq, Repr

/-- The place of an access: a window violation in U mode, else an access fault, where there is none (R310). -/
def Sett.place (t : Sett) (a : W64) (n : Nat) (kd : Kind) : Except Stop SettPlace :=
  let p := t.slot t.kjepi
  let w := if t.mode = .u then p.window a.toNat n (kd == .fetch)
    else if a.toNat + n ≤ 2 ^ 18 then .sram a.toNat
    else if 2 ^ 40 ≤ a.toNat ∧ a.toNat + n ≤ 2 ^ 40 + p.glen ∧ kd ≠ .fetch then .g (p.gbase + (a.toNat - 2 ^ 40))
    else .none
  match w with
  | .none => .error (if t.mode = .u then .violation else .exc kd.accessFault a)
  | w => if t.pmpOk (t.dataMode kd) a.toNat n kd then .ok w else .error (.exc kd.accessFault a)

/-- The partition that kjkey names (R310). -/
def State.keyPart (s : State) (key : W16) : Option Nat := (s.parts.find? (fun p => p.2.valid && p.2.jkey == key)).map (·.1)

/-- The physical address of `n` bytes of G within a page. -/
def State.settG (s : State) (t : Sett) (va n : Nat) (a : W64) (kd : Kind) : Except Stop Nat :=
  match s.keyPart (t.slot t.kjepi).key with
  | none => .error (.exc kd.accessFault a)
  | some p => match s.xlate p va (kd == .store) n with
    | .ok pa => .ok pa
    | .error _ => .error (.exc kd.accessFault a)

/-- The physical parts of a G range: one, or two across a page. -/
def State.settParts (s : State) (t : Sett) (va n : Nat) (a : W64) (kd : Kind) : Except Stop (List (Nat × Nat)) :=
  match pageParts va n with
  | [(v, n)] => (s.settG t v n a kd).map (fun pa => [(pa, n)])
  | (v, n) :: (v2, n2) :: _ =>
    match s.settG t v n a kd, s.settG t v2 n2 a kd with
    | .ok p, .ok q => .ok [(p, n), (q, n2)]
    | .error e, _ => .error e
    | _, .error e => .error e
  | [] => .ok []

/-- Reads bytes; an uncorrectable error raises the access fault (DESIGN CHOICE, log 38: R405 names no outcome for a Sett core). -/
def State.settRead (s : State) (t : Sett) (a : W64) (n : Nat) (kd : Kind) : Except Stop (List Byte) :=
  match t.place a n kd with
  | .error e => .error e
  | .ok (.sram o) =>
    if t.badRam.any (fun q => decide (q < o + n) && decide (o < q + 8)) then .error (.exc kd.accessFault a) else .ok (t.sram.read o n)
  | .ok (.g va) => match s.settParts t va n a kd with
    | .error e => .error e
    | .ok l => if l.any (fun p => s.badG p.1 p.2) then .error (.exc kd.accessFault a) else .ok (l.flatMap (fun p => s.readG p.1 p.2))
  | .ok .none => .error .violation

/-- Writes bytes. -/
def State.settWrite (s : State) (d k : Nat) (a : W64) (l : List Byte) : Except Stop State :=
  let t := s.settCore d k
  match t.place a l.length .store with
  | .error e => .error e
  | .ok (.sram o) => .ok (s.modSett d k (fun t => { t with sram := t.sram.write o l, badRam := clearPoison t.badRam o l.length }.breakResv true o l.length))
  | .ok (.g va) => match s.settParts t va l.length a .store with
    | .error e => .error e
    | .ok ps =>
      if ps.any (fun p => s.sideFull (pageOf p.1)) then .error .stall
      else .ok ((ps.foldl (fun (q : State × List Byte) p => (q.1.performG p.1 va (q.2.take p.2), q.2.drop p.2)) (s, l)).1)
  | .ok .none => .error .violation

/-! ## Floating point -/

/-- fflags of a result. -/
def fflagsOf (f : Flags) : Byte :=
  BitVec.ofNat 8 (bit1 (bitAt f 0) 4 + bit1 (bitAt f 1) 2 + bit1 (bitAt f 2) 1 + bit1 (bitAt f 3) 0)

/-- The rounding mode of an rm field; none is illegal. -/
def Sett.rm (t : Sett) (f : Nat) : Option RMode :=
  match if f = 7 then (t.fcsr >>> 5).toNat else f with
  | 0 => some .rne
  | 1 => some .rtz
  | 2 => some .rdn
  | 3 => some .rup
  | 4 => some .rmm
  | _ => none

/-- A format with the same precision whose exponent has no bound: it tells whether a result is tiny after rounding. -/
def Fmt.wide (f : Fmt) : Fmt := ⟨20, f.fbits, 2 ^ 19 - 1, 2 ^ 19 - 1, 2 ^ (f.fbits + 1) - 1, true, 0⟩

/-- A rounded result with underflow found after rounding. -/
def rvRound (f : Fmt) (g : Fmt → Res) : Res :=
  let r := g f
  let w := f.wide.unpack (g f.wide).bits
  let tiny := match w with
    | .fin _ m e => decide ((m.log2 : Int) + e < f.emin)
    | _ => false
  ⟨r.bits, (r.flags &&& ~~~fUF) ||| flagIf (tiny && (r.flags &&& fNX) != 0) fUF⟩

/-- The bits of an operand of a format: an f32 that is not NaN-boxed is the canonical NaN. -/
def fpBits (dbl : Bool) (v : W64) : Nat :=
  if dbl then v.toNat else if field v 32 32 = (-1 : BitVec 32) then v.toNat % 2 ^ 32 else 0x7FC00000
def fpFmt (dbl : Bool) : Fmt := if dbl then fmtF64 else fmtF32
def fpVal (dbl : Bool) (v : W64) : FVal := (fpFmt dbl).unpack (fpBits dbl v)
/-- A result boxed into a register. -/
def fpBox (dbl : Bool) (n : Nat) : W64 := if dbl then BitVec.ofNat 64 n else BitVec.ofNat 64 (n % 2 ^ 32 + 0xFFFFFFFF00000000)

/-- FCLASS. -/
def fpClass (f : Fmt) (n : Nat) : Nat :=
  match f.unpack n with
  | .inf s => if s then 1 else 128
  | .zero s => if s then 8 else 16
  | .nan s => if s then 256 else 512
  | .fin s m e => if (m.log2 : Int) + e < f.emin then (if s then 4 else 32) else (if s then 2 else 64)

/-- FMIN and FMAX. -/
def fpPick (f : Fmt) (max : Bool) (a b : Nat) : Res :=
  let x := f.unpack a
  let y := f.unpack b
  let nv := flagIf (x.isSnan || y.isSnan) fNV
  if x.isNan ∧ y.isNan then ⟨f.qnan, nv⟩
  else if x.isNan then ⟨b, nv⟩
  else if y.isNan then ⟨a, nv⟩
  else ⟨if x.lt y != max then a else b, nv⟩

/-- FCVT to an integer: a NaN is the largest value. -/
def fpToInt (m : RMode) (lo hi : Int) (a : FVal) : Int × Flags :=
  if a.isNan then (hi, fNV) else fToInt m lo hi a 0

end Sys2Proof.Machine
end

