-- ==== Sys2Proof/Machine/Sett.lean ====
section
/-! DEFINITION. What a Sett core executes (R308 to R319): RV64GC with its privilege modes (log 12), the fetch of an
instruction, and the six instructions of Xknajan. -/

namespace Sys2Proof.Machine

/-! ## Compressed instructions -/

def rType (op f3 f7 rd rs1 rs2 : Nat) : W32 := BitVec.ofNat 32 (op + rd * 2 ^ 7 + f3 * 2 ^ 12 + rs1 * 2 ^ 15 + rs2 * 2 ^ 20 + f7 * 2 ^ 25)
def iType (op f3 rd rs1 : Nat) (imm : Int) : W32 :=
  BitVec.ofNat 32 (op + rd * 2 ^ 7 + f3 * 2 ^ 12 + rs1 * 2 ^ 15 + lowBits 12 imm * 2 ^ 20)
def sType (op f3 rs1 rs2 : Nat) (imm : Int) : W32 :=
  let i := lowBits 12 imm
  BitVec.ofNat 32 (op + i % 32 * 2 ^ 7 + f3 * 2 ^ 12 + rs1 * 2 ^ 15 + rs2 * 2 ^ 20 + i / 32 * 2 ^ 25)
def bType (f3 rs1 rs2 : Nat) (imm : Int) : W32 :=
  let i := lowBits 13 imm
  BitVec.ofNat 32 (0x63 + i / 2 ^ 11 % 2 * 2 ^ 7 + i / 2 % 16 * 2 ^ 8 + f3 * 2 ^ 12 + rs1 * 2 ^ 15 + rs2 * 2 ^ 20 +
    i / 32 % 64 * 2 ^ 25 + i / 2 ^ 12 * 2 ^ 31)
def jType (rd : Nat) (imm : Int) : W32 :=
  let i := lowBits 21 imm
  BitVec.ofNat 32 (0x6F + rd * 2 ^ 7 + i / 2 ^ 12 % 256 * 2 ^ 12 + i / 2 ^ 11 % 2 * 2 ^ 20 + i / 2 % 1024 * 2 ^ 21 + i / 2 ^ 20 * 2 ^ 31)

/-- Bits of a compressed word put at places of an immediate: (from, to) pairs. -/
def gather (w : Nat) (l : List (Nat × Nat)) : Nat := l.foldl (fun a p => a + bit1 (w.testBit p.1) p.2) 0

/-- The 32-bit instruction that a compressed one of RV64GC stands for; none is illegal. -/
def expandC (c : BitVec 16) : Option W32 :=
  let w := c.toNat
  let rd := w / 128 % 32
  let rs2 := w / 4 % 32
  let rdc := 8 + w / 4 % 8
  let rsc := 8 + w / 128 % 8
  let imm6 : Int := signed 6 (gather w [(2, 0), (3, 1), (4, 2), (5, 3), (6, 4), (12, 5)])
  let sh : Nat := gather w [(2, 0), (3, 1), (4, 2), (5, 3), (6, 4), (12, 5)]
  let offW : Nat := gather w [(6, 2), (10, 3), (11, 4), (12, 5), (5, 6)]
  let offD : Nat := gather w [(10, 3), (11, 4), (12, 5), (5, 6), (6, 7)]
  let spW : Nat := gather w [(4, 2), (5, 3), (6, 4), (12, 5), (2, 6), (3, 7)]
  let spD : Nat := gather w [(5, 3), (6, 4), (12, 5), (2, 6), (3, 7), (4, 8)]
  let spSW : Nat := gather w [(9, 2), (10, 3), (11, 4), (12, 5), (7, 6), (8, 7)]
  let spSD : Nat := gather w [(10, 3), (11, 4), (12, 5), (7, 6), (8, 7), (9, 8)]
  let offB : Int := signed 9 (gather w [(3, 1), (4, 2), (10, 3), (11, 4), (2, 5), (5, 6), (6, 7), (12, 8)])
  let offJ : Int := signed 12 (gather w [(3, 1), (4, 2), (5, 3), (11, 4), (2, 5), (7, 6), (6, 7), (9, 8), (10, 9), (8, 10), (12, 11)])
  match w % 4, w / 2 ^ 13 with
  | 0, 0 =>
    let n : Nat := gather w [(6, 2), (5, 3), (11, 4), (12, 5), (7, 6), (8, 7), (9, 8), (10, 9)]
    if n = 0 then none else some (iType 0x13 0 rdc 2 n)
  | 0, 1 => some (iType 0x07 3 rdc rsc offD)
  | 0, 2 => some (iType 0x03 2 rdc rsc offW)
  | 0, 3 => some (iType 0x03 3 rdc rsc offD)
  | 0, 5 => some (sType 0x27 3 rsc rdc offD)
  | 0, 6 => some (sType 0x23 2 rsc rdc offW)
  | 0, 7 => some (sType 0x23 3 rsc rdc offD)
  | 1, 0 => some (iType 0x13 0 rd rd imm6)
  | 1, 1 => if rd = 0 then none else some (iType 0x1B 0 rd rd imm6)
  | 1, 2 => some (iType 0x13 0 rd 0 imm6)
  | 1, 3 =>
    if rd = 2 then
      let n : Int := signed 10 (gather w [(6, 4), (2, 5), (5, 6), (3, 7), (4, 8), (12, 9)])
      if n = 0 then none else some (iType 0x13 0 2 2 n)
    else if imm6 = 0 then none
    else some (BitVec.ofNat 32 (0x37 + rd * 128 + lowBits 20 imm6 * 4096))
  | 1, 4 =>
    match w / 1024 % 4 with
    | 0 => some (iType 0x13 5 rsc rsc sh)
    | 1 => some (iType 0x13 5 rsc rsc (sh + 1024))
    | 2 => some (iType 0x13 7 rsc rsc imm6)
    | _ =>
      match w / 4096 % 2, w / 32 % 4 with
      | 0, 0 => some (rType 0x33 0 0x20 rsc rsc rdc)
      | 0, 1 => some (rType 0x33 4 0 rsc rsc rdc)
      | 0, 2 => some (rType 0x33 6 0 rsc rsc rdc)
      | 0, 3 => some (rType 0x33 7 0 rsc rsc rdc)
      | 1, 0 => some (rType 0x3B 0 0x20 rsc rsc rdc)
      | 1, 1 => some (rType 0x3B 0 0 rsc rsc rdc)
      | _, _ => none
  | 1, 5 => some (jType 0 offJ)
  | 1, 6 => some (bType 0 rsc 0 offB)
  | 1, 7 => some (bType 1 rsc 0 offB)
  | 2, 0 => some (iType 0x13 1 rd rd sh)
  | 2, 1 => some (iType 0x07 3 rd 2 spD)
  | 2, 2 => if rd = 0 then none else some (iType 0x03 2 rd 2 spW)
  | 2, 3 => if rd = 0 then none else some (iType 0x03 3 rd 2 spD)
  | 2, 4 =>
    match w / 4096 % 2, rd, rs2 with
    | 0, 0, 0 => none
    | 0, r, 0 => some (iType 0x67 0 0 r 0)
    | 0, r, q => some (rType 0x33 0 0 r 0 q)
    | _, 0, 0 => some 0x00100073#32
    | _, r, 0 => some (iType 0x67 0 1 r 0)
    | _, r, q => some (rType 0x33 0 0 r r q)
  | 2, 5 => some (sType 0x27 3 2 rs2 spSD)
  | 2, 6 => some (sType 0x23 2 2 rs2 spSW)
  | 2, 7 => some (sType 0x23 3 2 rs2 spSD)
  | _, _ => none

/-! ## Integer instructions -/

/-- Sign-extends the low 32 bits. -/
def sx32 (v : W64) : W64 := (v.setWidth 32).signExtend 64

/-- OP and OP-IMM: ADD, SLL, SLT, SLTU, XOR, SRL, OR, AND; `alt`: SUB and SRA. -/
def aluOp (f3 : Nat) (alt : Bool) (a b : W64) : W64 :=
  let n := b.toNat % 64
  match f3 with
  | 0 => if alt then a - b else a + b
  | 1 => a <<< n
  | 2 => if a.toInt < b.toInt then 1 else 0
  | 3 => if a.toNat < b.toNat then 1 else 0
  | 4 => a ^^^ b
  | 5 => if alt then a.sshiftRight n else a >>> n
  | 6 => a ||| b
  | _ => a &&& b

/-- The word forms: ADDW, SUBW, SLLW, SRLW, SRAW. -/
def aluOpW (f3 : Nat) (alt : Bool) (a b : W64) : Option W64 :=
  let n := b.toNat % 32
  let x : W32 := a.setWidth 32
  match f3 with
  | 0 => some (sx32 (if alt then a - b else a + b))
  | 1 => some ((x <<< n).signExtend 64)
  | 5 => some ((if alt then x.sshiftRight n else x >>> n).signExtend 64)
  | _ => none

/-- Division and remainder of signed numbers as M defines their corners. -/
def divS (a b : Int) : Int := if b = 0 then -1 else a.tdiv b
def remS (a b : Int) : Int := if b = 0 then a else a.tmod b

/-- M. -/
def mulOp (f3 : Nat) (a b : W64) : W64 :=
  let hi := fun (x : Int) => BitVec.ofInt 64 (x / 2 ^ 64)
  match f3 with
  | 0 => a * b
  | 1 => hi (a.toInt * b.toInt)
  | 2 => hi (a.toInt * b.toNat)
  | 3 => hi (a.toNat * b.toNat)
  | 4 => BitVec.ofInt 64 (divS a.toInt b.toInt)
  | 5 => if b = 0 then -1 else BitVec.ofNat 64 (a.toNat / b.toNat)
  | 6 => BitVec.ofInt 64 (remS a.toInt b.toInt)
  | _ => if b = 0 then a else BitVec.ofNat 64 (a.toNat % b.toNat)

/-- The word forms of M. -/
def mulOpW (f3 : Nat) (a b : W64) : Option W64 :=
  let x : W32 := a.setWidth 32
  let y : W32 := b.setWidth 32
  match f3 with
  | 0 => some ((x * y).signExtend 64)
  | 4 => some ((BitVec.ofInt 32 (divS x.toInt y.toInt)).signExtend 64)
  | 5 => some ((if y = 0 then (-1 : W32) else BitVec.ofNat 32 (x.toNat / y.toNat)).signExtend 64)
  | 6 => some ((BitVec.ofInt 32 (remS x.toInt y.toInt)).signExtend 64)
  | 7 => some ((if y = 0 then x else BitVec.ofNat 32 (x.toNat % y.toNat)).signExtend 64)
  | _ => none

/-- The operation of an AMO. -/
def amoOp (f5 : Nat) (n : Nat) (m v : Nat) : Option Nat :=
  match f5 with
  | 0 => some (m + v)
  | 1 => some v
  | 4 => some (m ^^^ v)
  | 8 => some (m ||| v)
  | 12 => some (m &&& v)
  | 16 => some (if signed n v < signed n m then v else m)
  | 20 => some (if signed n m < signed n v then v else m)
  | 24 => some (if v < m then v else m)
  | 28 => some (if m < v then v else m)
  | _ => none

/-- A branch is taken. -/
def branchOn (f3 : Nat) (a b : W64) : Option Bool :=
  match f3 with
  | 0 => some (a == b)
  | 1 => some (a != b)
  | 4 => some (decide (a.toInt < b.toInt))
  | 5 => some (decide (b.toInt ≤ a.toInt))
  | 6 => some (decide (a.toNat < b.toNat))
  | 7 => some (decide (b.toNat ≤ a.toNat))
  | _ => none

/-! ## Execution -/

/-- What a Sett instruction does. -/
inductive Rv where
  /-- it retires, and control falls through -/
  | next (s : State)
  /-- it retires, and control goes to an address -/
  | jump (s : State) (pc : W64)
  | stop (e : Stop)
  | illegal
  /-- part of it is done, and it waits at the instruction -/
  | hold (s : State)
  deriving DecidableEq, Repr

def Rv.ofExcept (r : Except Stop State) : Rv :=
  match r with
  | .ok s => .next s
  | .error e => .stop e

def State.putX (s : State) (d k rd : Nat) (v : W64) : State := s.modSett d k (fun t => t.setX rd v)

/-- Immediates. -/
def immI (w : W32) : W64 := (field w 20 12).signExtend 64
def immS (w : W32) : W64 := (field w 25 7 ++ field w 7 5).signExtend 64
def immB (w : W32) : W64 := (field w 31 1 ++ field w 7 1 ++ field w 25 6 ++ field w 8 4 ++ (0#1)).signExtend 64
def immU (w : W32) : W64 := (field w 12 20 ++ (0#12)).signExtend 64
def immJ (w : W32) : W64 := (field w 31 1 ++ field w 12 8 ++ field w 20 1 ++ field w 21 10 ++ (0#1)).signExtend 64

/-- Loads. -/
def rvLoad (s : State) (d k rd f3 : Nat) (a : W64) : Rv :=
  if f3 = 7 then .illegal
  else
    let n := 2 ^ (f3 % 4)
    match s.settRead (s.settCore d k) a n .load with
    | .error e => .stop e
    | .ok l =>
      let v := natOfBytes l
      .next (s.putX d k rd (if f3 < 4 then w64 (signed (8 * n) v) else BitVec.ofNat 64 v))

/-- The 64-byte block of a place, for a reservation. -/
def blockOf : SettPlace → Except Stop Nat → Option (Bool × Nat)
  | .sram a, _ => some (true, a / 64 * 64)
  | .g _, .ok pa => some (false, pa / 64 * 64)
  | _, _ => none

/-- LR, SC and the AMOs; a misaligned one raises the misaligned exception. -/
def rvAmo (s : State) (d k : Nat) (w : W32) : Rv :=
  let t := s.settCore d k
  let rd := (field w 7 5).toNat
  let a := t.xr (field w 15 5).toNat
  let v := t.xr (field w 20 5).toNat
  let f5 := (field w 27 5).toNat
  let f3 := (field w 12 3).toNat
  if f3 ≠ 2 ∧ f3 ≠ 3 then .illegal
  else
    let n := 2 ^ f3
    let kd : Kind := if f5 = 2 then .load else .store
    let ext := fun (l : List Byte) => w64 (signed (8 * n) (natOfBytes l))
    if a.toNat % n ≠ 0 then .stop (.exc (if f5 = 2 then 4 else 6) a)
    else match t.place a n kd with
      | .error e => .stop e
      | .ok p =>
        let pa := match p with
          | .g va => s.settG t va n a kd
          | _ => .ok 0
        match pa with
        | .error e => .stop e
        | .ok _ =>
          if f5 = 2 then
            if field w 20 5 ≠ 0 then .illegal
            else match s.settRead t a n .load with
              | .error e => .stop e
              | .ok l => .next ((s.putX d k rd (ext l)).modSett d k (fun t => { t with resv := blockOf p pa }))
          else if f5 = 3 then
            let held := t.resv.isSome && t.resv == blockOf p pa
            let s1 := s.modSett d k (fun t => { t with resv := none })
            if held then
              match s1.settWrite d k a (bytesOf v n) with
              | .error e => .stop e
              | .ok s2 => .next (s2.putX d k rd 0)
            else .next (s1.putX d k rd 1)
          else match s.settRead t a n .store with
            | .error e => .stop e
            | .ok l =>
              match amoOp f5 (8 * n) (natOfBytes l) (v.toNat % 2 ^ (8 * n)) with
              | none => .illegal
              | some r => match s.settWrite d k a (bytesN r n) with
                | .error e => .stop e
                | .ok s1 => .next (s1.putX d k rd (ext l))

/-- SYSTEM: ecall, ebreak, sret, mret, wfi, sfence.vma and the CSR instructions. -/
def rvSystem (s : State) (d k : Nat) (w : W32) : Rv :=
  let t := s.settCore d k
  let rd := (field w 7 5).toNat
  let rs1 := (field w 15 5).toNat
  let f3 := (field w 12 3).toNat
  let n := (field w 20 12).toNat
  if f3 = 4 then .illegal
  else if f3 = 0 then
    if field w 25 7 = 0x09#7 ∧ rd = 0 then if t.mode = .u ∨ (t.mode = .s ∧ t.mbit 20) then .illegal else .next s
    else if rd ≠ 0 ∨ rs1 ≠ 0 then .illegal
    else match n with
      | 0 => .stop (.exc (8 + t.mode.code) 0)
      | 1 => .stop (.exc 3 t.pc)
      | 0x102 =>
        if t.mode = .u ∨ (t.mode = .s ∧ t.mbit 22) then .illegal
        else
          let u := { t with mode := if t.mbit 8 then .s else .u }
          let u := ((u.setM 1 1 (bit1 (t.mbit 5) 0)).setM 5 1 1).setM 8 1 0
          .jump (s.modSett d k (fun _ => u.setM 17 1 0)) (t.csr 0x141)
      | 0x302 =>
        if t.mode ≠ .m then .illegal
        else
          let md := PMode.of (field (t.csr cMstatus) 11 2).toNat
          let u := { t with mode := md }
          let u := ((u.setM 3 1 (bit1 (t.mbit 7) 0)).setM 7 1 1).setM 11 2 0
          .jump (s.modSett d k (fun _ => if md = .m then u else u.setM 17 1 0)) (t.csr 0x341)
      | 0x105 => if t.mode = .u ∨ (t.mode = .s ∧ t.mbit 21) then .illegal else .next (s.modSett d k (fun t => { t with wfi := true }))
      | _ => .illegal
  else
    let imm := 4 ≤ f3
    let src := if imm then BitVec.ofNat 64 rs1 else t.xr rs1
    let write := f3 % 4 = 1 || rs1 != 0
    match s.readCsr d k t n with
    | none => .illegal
    | some old =>
      if write ∧ n / 1024 = 3 then .illegal
      else
        let v := if f3 % 4 = 1 then src else if f3 % 4 = 2 then old ||| src else old &&& ~~~src
        let s1 := if write then s.writeCsr d k n v else s
        .next (s1.putX d k rd old)

/-! ## Floating point -/

/-- Accrues flags. -/
def State.fpFlags (s : State) (d k : Nat) (b : Byte) : State :=
  s.modSett d k (fun t => if b = 0 then t else ({ t with fcsr := t.fcsr ||| b }).setM 13 2 3)
/-- Writes a floating-point register, with flags. -/
def State.putFp (s : State) (d k rd : Nat) (dbl : Bool) (r : Res) : Rv :=
  .next ((s.modSett d k (fun t => t.setF rd (fpBox dbl r.bits))).fpFlags d k (fflagsOf r.flags))
/-- Writes an integer register from a floating-point instruction. -/
def State.putFx (s : State) (d k rd : Nat) (v : W64) (f : Flags) : Rv := .next ((s.putX d k rd v).fpFlags d k (fflagsOf f))

/-- OP-FP. -/
def rvFp (s : State) (d k : Nat) (w : W32) : Rv :=
  let t := s.settCore d k
  let rd := (field w 7 5).toNat
  let f3 := (field w 12 3).toNat
  let r1 := (field w 15 5).toNat
  let r2 := (field w 20 5).toNat
  let f5 := (field w 27 5).toNat
  let fm := (field w 25 2).toNat
  let dbl := fm == 1
  let f := fpFmt dbl
  let va := t.fr r1
  let vb := t.fr r2
  let a := fpVal dbl va
  let b := fpVal dbl vb
  let na := fpBits dbl va
  let nb := fpBits dbl vb
  let arith := fun (g : RMode → Fmt → Res) => match t.rm f3 with
    | some m => s.putFp d k rd dbl (rvRound f (g m))
    | none => .illegal
  if t.fs = 0 ∨ 2 ≤ fm then .illegal
  else match f5 with
    | 0 => arith (fun m f => fAdd f m a b 0)
    | 1 => arith (fun m f => fAdd f m a b.negate 0)
    | 2 => arith (fun m f => fMul f m a b 0)
    | 3 =>
      if b.isZero ∧ !a.isNan ∧ !a.isInf ∧ !a.isZero then
        match t.rm f3 with
        | some _ => .next ((s.modSett d k (fun t => t.setF rd (fpBox dbl (f.inf (a.neg != b.neg))))).fpFlags d k 8)
        | none => .illegal
      else arith (fun m f => fDiv f m a b 0)
    | 11 => if r2 = 0 then arith (fun m f => fSqrt f m a 0) else .illegal
    | 4 =>
      let sb := nb.testBit (f.width - 1)
      let sa := na.testBit (f.width - 1)
      let mag := na % 2 ^ (f.width - 1)
      let put := fun (neg : Bool) => s.putFp d k rd dbl ⟨mag + f.signBit neg, 0⟩
      if f3 = 0 then put sb else if f3 = 1 then put (!sb) else if f3 = 2 then put (sa != sb) else .illegal
    | 5 => if f3 ≤ 1 then s.putFp d k rd dbl (fpPick f (f3 == 1) na nb) else .illegal
    | 8 =>
      -- FCVT.S.D and FCVT.D.S
      if (dbl ∧ r2 = 0) ∨ (!dbl ∧ r2 = 1) then
        match t.rm f3 with
        | some m => s.putFp d k rd dbl (rvRound f (fun f => fConv f m false (fpVal (!dbl) va) 0))
        | none => .illegal
      else .illegal
    | 20 =>
      let nan := a.isNan || b.isNan
      let nv := if f3 = 2 then a.isSnan || b.isSnan else nan
      let r := if f3 = 2 then a.eq b else if f3 = 1 then a.ltNum b else a.ltNum b || a.eq b
      if f3 ≤ 2 then s.putFx d k rd (if !nan ∧ r then 1 else 0) (flagIf nv fNV) else .illegal
    | 24 =>
      match t.rm f3 with
      | none => .illegal
      | some m =>
        let (lo, hi) : Int × Int := match r2 with
          | 0 => (-(2 ^ 31), 2 ^ 31 - 1)
          | 1 => (0, 2 ^ 32 - 1)
          | 2 => (-(2 ^ 63), 2 ^ 63 - 1)
          | _ => (0, 2 ^ 64 - 1)
        if 4 ≤ r2 then .illegal
        else
          let r := fpToInt m lo hi a
          let v := w64 r.1
          s.putFx d k rd (if r2 < 2 then sx32 v else v) r.2
    | 26 =>
      match t.rm f3 with
      | none => .illegal
      | some m =>
        let x := t.xr r1
        let v : Int := match r2 with
          | 0 => (x.setWidth 32).toInt
          | 1 => (x.setWidth 32).toNat
          | 2 => x.toInt
          | _ => x.toNat
        if 4 ≤ r2 then .illegal else s.putFp d k rd dbl (rvRound f (fun f => fOfInt f m false v 0))
    | 28 =>
      if r2 ≠ 0 then .illegal
      else if f3 = 0 then s.putFx d k rd (if dbl then va else sx32 va) 0
      else if f3 = 1 then s.putFx d k rd (BitVec.ofNat 64 (fpClass f na)) 0
      else .illegal
    | 30 =>
      if r2 = 0 ∧ f3 = 0 then s.putFp d k rd dbl ⟨(t.xr r1).toNat, 0⟩ else .illegal
    | _ => .illegal

/-- FMADD, FMSUB, FNMSUB, FNMADD. -/
def rvFma (s : State) (d k : Nat) (w : W32) (negP negC : Bool) : Rv :=
  let t := s.settCore d k
  let fm := (field w 25 2).toNat
  let dbl := fm == 1
  let v := fun (lo : Nat) => fpVal dbl (t.fr (field w lo 5).toNat)
  let a := v 15
  let c := v 27
  if t.fs = 0 ∨ 2 ≤ fm then .illegal
  else match t.rm (field w 12 3).toNat with
    | none => .illegal
    | some m =>
      s.putFp d k (field w 7 5).toNat dbl
        (rvRound (fpFmt dbl) (fun f => fFma f m (if negP then a.negate else a) (v 20) (if negC then c.negate else c) 0))

/-- A 32-bit instruction of `len` bytes in memory. -/
def rvExec (s : State) (d k : Nat) (w : W32) (len : Nat) : Rv :=
  let t := s.settCore d k
  let rd := (field w 7 5).toNat
  let f3 := (field w 12 3).toNat
  let f7 := (field w 25 7).toNat
  let a := t.xr (field w 15 5).toNat
  let b := t.xr (field w 20 5).toNat
  let link := t.pc + BitVec.ofNat 64 len
  match (field w 0 7).toNat with
  | 0x37 => .next (s.putX d k rd (immU w))
  | 0x17 => .next (s.putX d k rd (t.pc + immU w))
  | 0x6F => .jump (s.putX d k rd link) (t.pc + immJ w)
  | 0x67 => if f3 = 0 then .jump (s.putX d k rd link) ((a + immI w) &&& ~~~1#64) else .illegal
  | 0x63 => match branchOn f3 a b with
    | some true => .jump s (t.pc + immB w)
    | some false => .next s
    | none => .illegal
  | 0x03 => rvLoad s d k rd f3 (a + immI w)
  | 0x23 => if f3 < 4 then Rv.ofExcept (s.settWrite d k (a + immS w) (bytesOf b (2 ^ f3))) else .illegal
  | 0x13 =>
    if f3 = 1 ∧ f7 / 2 ≠ 0 ∨ f3 = 5 ∧ f7 / 2 ≠ 0 ∧ f7 / 2 ≠ 0x10 then .illegal
    else .next (s.putX d k rd (aluOp f3 (f3 == 5 && f7 / 2 == 0x10) a (immI w)))
  | 0x1B =>
    if f3 = 1 ∧ f7 ≠ 0 ∨ f3 = 5 ∧ f7 ≠ 0 ∧ f7 ≠ 0x20 then .illegal
    else match aluOpW f3 (f3 == 5 && f7 == 0x20) a (immI w) with
      | some v => .next (s.putX d k rd v)
      | none => .illegal
  | 0x33 =>
    if f7 = 1 then .next (s.putX d k rd (mulOp f3 a b))
    else if f7 = 0 ∨ (f7 = 0x20 ∧ (f3 = 0 ∨ f3 = 5)) then .next (s.putX d k rd (aluOp f3 (f7 == 0x20) a b))
    else .illegal
  | 0x3B =>
    match if f7 = 1 then mulOpW f3 a b
      else if f7 = 0 ∨ (f7 = 0x20 ∧ (f3 = 0 ∨ f3 = 5)) then aluOpW f3 (f7 == 0x20) a b else none with
    | some v => .next (s.putX d k rd v)
    | none => .illegal
  | 0x0F => if f3 ≤ 1 then .next s else .illegal
  | 0x2F => rvAmo s d k w
  | 0x73 => rvSystem s d k w
  | 0x07 =>
    if t.fs = 0 ∨ (f3 ≠ 2 ∧ f3 ≠ 3) then .illegal
    else match s.settRead t (a + immI w) (2 ^ f3) .load with
      | .error e => .stop e
      | .ok l => .next (s.modSett d k (fun t => t.setF rd (fpBox (f3 == 3) (natOfBytes l))))
  | 0x27 =>
    if t.fs = 0 ∨ (f3 ≠ 2 ∧ f3 ≠ 3) then .illegal
    else Rv.ofExcept (s.settWrite d k (a + immS w) (bytesOf (t.fr (field w 20 5).toNat) (2 ^ f3)))
  | 0x43 => rvFma s d k w false false
  | 0x47 => rvFma s d k w false true
  | 0x4B => rvFma s d k w true false
  | 0x4F => rvFma s d k w true true
  | 0x53 => rvFp s d k w
  | _ => .illegal

/-- An instruction other than a posted mb.step, in the mode of that one: the monitor has stepped past it (R319, R454). -/
def Sett.stepPast (t : Sett) : Sett :=
  let p := t.slot t.kjepi
  t.setSlot t.kjepi { p with posted := p.posted.filter (fun e => e.2 != t.mode.code || e.1 == t.pc) }

/-- Finishes a Sett instruction of `len` bytes whose bits are `w`. -/
def rvFinish (s : State) (d k : Nat) (w : W32) (len : Nat) (r : Rv) : State :=
  let t := s.settCore d k
  let retire := fun (s : State) (pc : W64) => s.modSett d k (fun t => { t with pc := pc, instret := t.instret + 1 })
  match r with
  | .next s1 => retire s1 (t.pc + BitVec.ofNat 64 len)
  | .jump s1 pc => retire s1 (pc &&& ~~~1#64)
  | .illegal => s.modSett d k (fun t => t.trap 2 false (w.setWidth 64))
  | .stop (.exc c v) => s.modSett d k (fun t => t.trap c false v)
  | .stop .violation => s.killSlot d k t.kjepi
  | .stop .stall => s
  | .hold s1 => s1

/-- A Sett instruction as a step of the core that moves now. -/
def runSett (w : W32) (len : Nat) (f : Nat → Nat → State → Rv) (s : State) : Host.Outcome State Fault Refusal :=
  match s.turn with
  | .sett d k =>
    let s := s.modSett d k Sett.stepPast
    .next (rvFinish s d k w len (f d k s))
  | _ => .fault .noActor

/-- SETT_CORE_INSTRUCTION: an ordinary RV64GC instruction (R308, R310). -/
def execSettCoreInstruction (w : W32) (s : State) : Out :=
  if field w 0 2 = 0b11#2 then runSett w 4 (fun d k s => rvExec s d k w 4) s
  else runSett w 2 (fun d k s => match expandC (w.setWidth 16) with
    | some x => rvExec s d k x 2
    | none => .illegal) s

/-! ## Fetch (R310) -/

/-- Fetches `n` bytes. -/
def State.settCode (s : State) (t : Sett) (a : W64) (n : Nat) : Except Stop (List Byte) := s.settRead t a n .fetch

/-- What a failed fetch leaves. -/
def State.fetchStop (s : State) (d k : Nat) (e : Stop) : State :=
  match e with
  | .violation => s.killSlot d k (s.settCore d k).kjepi
  | .exc c v => s.modSett d k (fun t => t.trap c false v)
  | .stall => s

/-- The bytes of the next instruction of a Sett core: two, or four where their low bits are 11. Otherwise the state after an
interrupt, a failed fetch, or a wait: a core in WFI, and an episode that has stopped, execute nothing (R310, R317). On a CLOSED
slot the core goes on, and its Xknajan instructions are illegal (R318). -/
def State.settFetch (s : State) (d k : Nat) : Except State (List Byte) :=
  let t := s.settCore d k
  match t.interrupt with
  | some i => .error (s.modSett d k (fun t => t.takeIrq i))
  | none =>
    let p := t.slot t.kjepi
    if t.wfi ∧ t.mip &&& t.csr 0x304 = 0 then .error s
    else if t.mode = .u ∧ p.state = .stopped then .error s
    else match s.settCode t t.pc 2 with
    | .error e => .error (s.fetchStop d k e)
    | .ok l =>
      if natOfBytes l % 4 ≠ 3 then .ok l
      else match s.settCode t (t.pc + 2) 2 with
        | .error e => .error (s.fetchStop d k e)
        | .ok r => .ok (l ++ r)

/-- What comes before a step of a Sett core: its step watchdog counts, and a core in WFI wakes up once an enabled interrupt is
pending. -/
def State.settBegin (s : State) (d k : Nat) : State :=
  (s.countWatch d k).modSett d k (fun t =>
    { t with boxWait := false, wfi := t.wfi && t.mip &&& t.csr 0x304 == 0 })

/-! ## Xknajan (R318, R319) -/

/-- The word of an Xknajan instruction, for mtval. -/
def mbBits (i : Instr) : W32 := (encodeSettWord i).getD 0

/-- The slot on which an Xknajan instruction acts; illegal in M mode and on a CLOSED or STOPPED slot (R317, R318). -/
def mbSlot (t : Sett) : Option EpSlot :=
  let p := t.slot t.kjepi
  if t.mode = .m ∨ p.state = .closed ∨ p.state = .stopped then none else some p

/-- The slot without a posted mb.step of a mode (R319). -/
def EpSlot.unposted (p : EpSlot) (mode : Nat) : EpSlot := { p with posted := p.posted.filter (fun e => e.2 != mode) }

/-- Changes the slot that kjepi selects. -/
def State.modSlot (s : State) (d k : Nat) (f : EpSlot → EpSlot) : State :=
  s.modSett d k (fun t => t.setSlot t.kjepi (f (t.slot t.kjepi)))

/-- The buffer can be written: its checks as a store, without the store. -/
def State.canStore (s : State) (t : Sett) (a : W64) : Option Stop :=
  match t.place a 256 .store with
  | .error e => some e
  | .ok (.g va) => match s.settParts t va 256 a .store with
    | .error e => some e
    | .ok ps => if ps.any (fun p => s.sideFull (pageOf p.1)) then some .stall else none
  | .ok _ => none

/-- The post of mb.send and mb.step (R316, R319): none where it waits; the flag says that it stopped the episode. -/
def State.mbPost (s : State) (d k : Nat) (rew : W32) (l : List Byte) : Option (State × Bool) :=
  let t := s.settCore d k
  let p := (t.slot t.kjepi).enter
  let epi := epiOf d k t.kjepi
  if p.eplim ≠ 0 ∧ p.step = p.eplim then
    some ((s.modSlot d k EpSlot.enter).stopSlot d k t.kjepi 2 rew l, true)
  else if 8 ≤ p.obs.length then none
  else some (s.modSlot d k (fun _ => p.post epi 0 rew l), false)

/-- A wait in mb.recv or mb.step, which the step watchdog does not count (R316). -/
def State.boxWaits (s : State) (d k : Nat) : State := s.modSett d k (fun t => { t with boxWait := true })

/-- The receipt of mb.recv and mb.step: it ends the mb.step of its own mode whose post is done, and no other mode's (R319). -/
def State.mbTake (s : State) (d k rd : Nat) (a : W64) : Rv :=
  let t := s.settCore d k
  match (t.slot t.kjepi).enter.receive with
  | none => .hold (s.boxWaits d k)
  | some (e, p) =>
    match (s.modSlot d k (fun _ => p.unposted t.mode.code)).settWrite d k a e.payload with
    | .error st => .stop st
    | .ok s1 => .next (s1.putX d k rd (actionWord e p.step))

/-- The checks that every Xknajan instruction with a buffer makes first: the slot, the alignment with its cause, and the
buffer as a load and as a store (R317 to R319); then its effect, given the buffer's bytes. A receipt that waits for room to write its
buffer waits in mb.recv or mb.step (R316). -/
def mbCheck (s : State) (d k : Nat) (a : W64) (cause : Nat) (load store : Bool) (f : EpSlot → List Byte → Rv) : Rv :=
  let t := s.settCore d k
  match mbSlot t with
  | none => .illegal
  | some p =>
    if a.toNat % 16 ≠ 0 then .stop (.exc cause a)
    else match (if load then s.settRead t a 256 .load else .ok []) with
      | .error e => .stop e
      | .ok l => match (if store then s.canStore t a else none) with
        | some .stall => .hold (s.boxWaits d k)
        | some e => .stop e
        | none => f p l

/-- A register operand. -/
def State.xOf (s : State) (d k : Nat) (n : BitVec 5) : W64 := (s.settCore d k).xr n.toNat

def execMbRecv (rd rs1 : BitVec 5) (s : State) : Out :=
  runSett (mbBits (.mbRecv rd rs1)) 4 (fun d k s =>
    let a := s.xOf d k rs1
    mbCheck s d k a 6 false true (fun _ _ => s.mbTake d k rd.toNat a)) s

def execMbSend (rs1 rs2 : BitVec 5) (s : State) : Out :=
  runSett (mbBits (.mbSend rs1 rs2)) 4 (fun d k s =>
    mbCheck s d k (s.xOf d k rs1) 4 true false (fun _ l =>
      match s.mbPost d k ((s.xOf d k rs2).setWidth 32) l with
      | some (s1, _) => .next s1
      | none => .stop .stall)) s

/-- mb.step: the post, then the receipt; once its post is done it is executed again as mb.recv, with that one's checks (R319). -/
def execMbStep (rd rs1 rs2 : BitVec 5) (s : State) : Out :=
  runSett (mbBits (.mbStep rd rs1 rs2)) 4 (fun d k s =>
    let a := s.xOf d k rs1
    let t := s.settCore d k
    let again := (t.slot t.kjepi).posted.contains (t.pc, t.mode.code)
    let noted := fun (s : State) => s.modSlot d k (fun p => { p with posted := (t.pc, t.mode.code) :: (p.unposted t.mode.code).posted })
    mbCheck s d k a 6 (!again) true (fun _ l =>
      let take := fun (s : State) => match s.mbTake d k rd.toNat a with
        | .hold s1 => .hold (noted s1)
        | .stop .stall => .hold (noted (s.boxWaits d k))
        | r => r
      if again then take s
      else match s.mbPost d k ((s.xOf d k rs2).setWidth 32) l with
        | none => .hold (s.boxWaits d k)
        | some (s1, true) => .next s1
        | some (s1, false) => take s1)) s

def execMbDone (rs1 rs2 : BitVec 5) (s : State) : Out :=
  runSett (mbBits (.mbDone rs1 rs2)) 4 (fun d k s =>
    mbCheck s d k (s.xOf d k rs1) 4 true false (fun p l =>
      if 8 ≤ p.obs.length then .stop .stall
      else .next (s.modSlot d k (fun p =>
        (p.post (epiOf d k (s.settCore d k).kjepi) 1 ((s.xOf d k rs2).setWidth 32) l).done_)))) s

def execMbStat (rd : BitVec 5) (s : State) : Out :=
  runSett (mbBits (.mbStat rd)) 4 (fun d k s =>
    match mbSlot (s.settCore d k) with
    | none => .illegal
    | some p => .next (s.putX d k rd.toNat (p.word (epiOf d k (s.settCore d k).kjepi)))) s

def execMbVer (rd : BitVec 5) (s : State) : Out :=
  runSett (mbBits (.mbVer rd)) 4 (fun d k s =>
    match mbSlot (s.settCore d k) with
    | none => .illegal
    | some p => .next (s.putX d k rd.toNat (p.lastVer.setWidth 64))) s

end Sys2Proof.Machine
end

