-- ==== Sys2Proof/Machine/Dispatch.lean ====
section
/-! DEFINITION. The meaning of every instruction: one arm per constructor. -/

namespace Sys2Proof.Machine

def exec (i : Instr) (s : State) : Host.Outcome State Fault Refusal :=
  match i with
  | .nop w => Sys2Proof.Machine.execNop w s
  | .halt w => Sys2Proof.Machine.execHalt w s
  | .qpt w => Sys2Proof.Machine.execQpt w s
  | .br w => Sys2Proof.Machine.execBr w s
  | .brp w => Sys2Proof.Machine.execBrp w s
  | .call w => Sys2Proof.Machine.execCall w s
  | .ret w => Sys2Proof.Machine.execRet w s
  | .loop w => Sys2Proof.Machine.execLoop w s
  | .next w => Sys2Proof.Machine.execNext w s
  | .bqs w => Sys2Proof.Machine.execBqs w s
  | .bqr w => Sys2Proof.Machine.execBqr w s
  | .waitc w => Sys2Proof.Machine.execWaitc w s
  | .yld w => Sys2Proof.Machine.execYld w s
  | .trap w => Sys2Proof.Machine.execTrap w s
  | .bkpt w => Sys2Proof.Machine.execBkpt w s
  | .hint n w => Sys2Proof.Machine.execHint n w s
  | .ldp w => Sys2Proof.Machine.execLdp w s
  | .add w => Sys2Proof.Machine.execAdd w s
  | .sub w => Sys2Proof.Machine.execSub w s
  | .mul w => Sys2Proof.Machine.execMul w s
  | .mulh w => Sys2Proof.Machine.execMulh w s
  | .mulhn w => Sys2Proof.Machine.execMulhn w s
  | .div w => Sys2Proof.Machine.execDiv w s
  | .divn w => Sys2Proof.Machine.execDivn w s
  | .rem w => Sys2Proof.Machine.execRem w s
  | .remn w => Sys2Proof.Machine.execRemn w s
  | .and w => Sys2Proof.Machine.execAnd w s
  | .or w => Sys2Proof.Machine.execOr w s
  | .xor w => Sys2Proof.Machine.execXor w s
  | .andn w => Sys2Proof.Machine.execAndn w s
  | .orn w => Sys2Proof.Machine.execOrn w s
  | .shl w => Sys2Proof.Machine.execShl w s
  | .shr w => Sys2Proof.Machine.execShr w s
  | .sra w => Sys2Proof.Machine.execSra w s
  | .rotl w => Sys2Proof.Machine.execRotl w s
  | .min w => Sys2Proof.Machine.execMin w s
  | .max w => Sys2Proof.Machine.execMax w s
  | .minn w => Sys2Proof.Machine.execMinn w s
  | .maxn w => Sys2Proof.Machine.execMaxn w s
  | .clz w => Sys2Proof.Machine.execClz w s
  | .ctz w => Sys2Proof.Machine.execCtz w s
  | .popc w => Sys2Proof.Machine.execPopc w s
  | .brev w => Sys2Proof.Machine.execBrev w s
  | .bswap w => Sys2Proof.Machine.execBswap w s
  | .sext w => Sys2Proof.Machine.execSext w s
  | .zext w => Sys2Proof.Machine.execZext w s
  | .bfx w => Sys2Proof.Machine.execBfx w s
  | .bfi w => Sys2Proof.Machine.execBfi w s
  | .sel w => Sys2Proof.Machine.execSel w s
  | .lim w => Sys2Proof.Machine.execLim w s
  | .limh w => Sys2Proof.Machine.execLimh w s
  | .lea w => Sys2Proof.Machine.execLea w s
  | .cmp w => Sys2Proof.Machine.execCmp w s
  | .plog w => Sys2Proof.Machine.execPlog w s
  | .pmov w => Sys2Proof.Machine.execPmov w s
  | .mfs w => Sys2Proof.Machine.execMfs w s
  | .mts w => Sys2Proof.Machine.execMts w s
  | .vadd w => Sys2Proof.Machine.execVadd w s
  | .vsub w => Sys2Proof.Machine.execVsub w s
  | .vmul w => Sys2Proof.Machine.execVmul w s
  | .vfma w => Sys2Proof.Machine.execVfma w s
  | .vfms w => Sys2Proof.Machine.execVfms w s
  | .vfnma w => Sys2Proof.Machine.execVfnma w s
  | .vmin w => Sys2Proof.Machine.execVmin w s
  | .vmax w => Sys2Proof.Machine.execVmax w s
  | .vabs w => Sys2Proof.Machine.execVabs w s
  | .vneg w => Sys2Proof.Machine.execVneg w s
  | .vdiv w => Sys2Proof.Machine.execVdiv w s
  | .vsqrt w => Sys2Proof.Machine.execVsqrt w s
  | .vrcp w => Sys2Proof.Machine.execVrcp w s
  | .vrsq w => Sys2Proof.Machine.execVrsq w s
  | .vexp2 w => Sys2Proof.Machine.execVexp2 w s
  | .vlog2 w => Sys2Proof.Machine.execVlog2 w s
  | .viadd w => Sys2Proof.Machine.execViadd w s
  | .visub w => Sys2Proof.Machine.execVisub w s
  | .vimul w => Sys2Proof.Machine.execVimul w s
  | .vimad w => Sys2Proof.Machine.execVimad w s
  | .vimulh w => Sys2Proof.Machine.execVimulh w s
  | .vsadd w => Sys2Proof.Machine.execVsadd w s
  | .vssub w => Sys2Proof.Machine.execVssub w s
  | .vimin w => Sys2Proof.Machine.execVimin w s
  | .vimax w => Sys2Proof.Machine.execVimax w s
  | .viabs w => Sys2Proof.Machine.execViabs w s
  | .vshl w => Sys2Proof.Machine.execVshl w s
  | .vshr w => Sys2Proof.Machine.execVshr w s
  | .vsra w => Sys2Proof.Machine.execVsra w s
  | .vand w => Sys2Proof.Machine.execVand w s
  | .vor w => Sys2Proof.Machine.execVor w s
  | .vxor w => Sys2Proof.Machine.execVxor w s
  | .vpopc w => Sys2Proof.Machine.execVpopc w s
  | .vclz w => Sys2Proof.Machine.execVclz w s
  | .vcmp w => Sys2Proof.Machine.execVcmp w s
  | .vicmp w => Sys2Proof.Machine.execVicmp w s
  | .vsel w => Sys2Proof.Machine.execVsel w s
  | .vcvt w => Sys2Proof.Machine.execVcvt w s
  | .vpack w => Sys2Proof.Machine.execVpack w s
  | .vunpk w => Sys2Proof.Machine.execVunpk w s
  | .vqbfp w => Sys2Proof.Machine.execVqbfp w s
  | .vdqbfp w => Sys2Proof.Machine.execVdqbfp w s
  | .vmov w => Sys2Proof.Machine.execVmov w s
  | .vins w => Sys2Proof.Machine.execVins w s
  | .vext w => Sys2Proof.Machine.execVext w s
  | .vperm w => Sys2Proof.Machine.execVperm w s
  | .vrot w => Sys2Proof.Machine.execVrot w s
  | .vcmpr w => Sys2Proof.Machine.execVcmpr w s
  | .vexpd w => Sys2Proof.Machine.execVexpd w s
  | .vred w => Sys2Proof.Machine.execVred w s
  | .vscan w => Sys2Proof.Machine.execVscan w s
  | .varg w => Sys2Proof.Machine.execVarg w s
  | .ldl w => Sys2Proof.Machine.execLdl w s
  | .stl w => Sys2Proof.Machine.execStl w s
  | .ldlx w => Sys2Proof.Machine.execLdlx w s
  | .stlx w => Sys2Proof.Machine.execStlx w s
  | .ldk w => Sys2Proof.Machine.execLdk w s
  | .stk w => Sys2Proof.Machine.execStk w s
  | .ldg w => Sys2Proof.Machine.execLdg w s
  | .stg w => Sys2Proof.Machine.execStg w s
  | .pfg w => Sys2Proof.Machine.execPfg w s
  | .ldf w => Sys2Proof.Machine.execLdf w s
  | .stf w => Sys2Proof.Machine.execStf w s
  | .ldo w => Sys2Proof.Machine.execLdo w s
  | .sto w => Sys2Proof.Machine.execSto w s
  | .oseq w => Sys2Proof.Machine.execOseq w s
  | .owt w => Sys2Proof.Machine.execOwt w s
  | .ldh w => Sys2Proof.Machine.execLdh w s
  | .sth w => Sys2Proof.Machine.execSth w s
  | .atl w => Sys2Proof.Machine.execAtl w s
  | .atk w => Sys2Proof.Machine.execAtk w s
  | .atg w => Sys2Proof.Machine.execAtg w s
  | .atf w => Sys2Proof.Machine.execAtf w s
  | .fence w => Sys2Proof.Machine.execFence w s
  | .phase w => Sys2Proof.Machine.execPhase w s
  | .cbini w => Sys2Proof.Machine.execCbini w s
  | .cbclm w => Sys2Proof.Machine.execCbclm w s
  | .cbpub w => Sys2Proof.Machine.execCbpub w s
  | .cbtak w => Sys2Proof.Machine.execCbtak w s
  | .cbrel w => Sys2Proof.Machine.execCbrel w s
  | .dqini w => Sys2Proof.Machine.execDqini w s
  | .dqpsh w => Sys2Proof.Machine.execDqpsh w s
  | .dqpop w => Sys2Proof.Machine.execDqpop w s
  | .dqstl w => Sys2Proof.Machine.execDqstl w s
  | .bara w => Sys2Proof.Machine.execBara w s
  | .barw w => Sys2Proof.Machine.execBarw w s
  | .bar w => Sys2Proof.Machine.execBar w s
  | .bidb w => Sys2Proof.Machine.execBidb w s
  | .bida w => Sys2Proof.Machine.execBida w s
  | .qcnt w => Sys2Proof.Machine.execQcnt w s
  | .qclr w => Sys2Proof.Machine.execQclr w s
  | .qbnd w => Sys2Proof.Machine.execQbnd w s
  | .tktry w => Sys2Proof.Machine.execTktry w s
  | .wlapp w => Sys2Proof.Machine.execWlapp w s
  | .wltak w => Sys2Proof.Machine.execWltak w s
  | .wlidl w => Sys2Proof.Machine.execWlidl w s
  | .trmw w => Sys2Proof.Machine.execTrmw w s
  | .lease w => Sys2Proof.Machine.execLease w s
  | .ulease w => Sys2Proof.Machine.execUlease w s
  | .wload w => Sys2Proof.Machine.execWload w s
  | .wswp w => Sys2Proof.Machine.execWswp w s
  | .ashp w => Sys2Proof.Machine.execAshp w s
  | .mma w => Sys2Proof.Machine.execMma w s
  | .mmaz w => Sys2Proof.Machine.execMmaz w s
  | .mmai w => Sys2Proof.Machine.execMmai w s
  | .epi w => Sys2Proof.Machine.execEpi w s
  | .epicf w => Sys2Proof.Machine.execEpicf w s
  | .zrd w => Sys2Proof.Machine.execZrd w s
  | .zwr w => Sys2Proof.Machine.execZwr w s
  | .zclr w => Sys2Proof.Machine.execZclr w s
  | .cpyi w => Sys2Proof.Machine.execCpyi w s
  | .cpyo w => Sys2Proof.Machine.execCpyo w s
  | .gthi w => Sys2Proof.Machine.execGthi w s
  | .scto w => Sys2Proof.Machine.execScto w s
  | .echk w => Sys2Proof.Machine.execEchk w s
  | .cvwt w => Sys2Proof.Machine.execCvwt w s
  | .cvts w => Sys2Proof.Machine.execCvts w s
  | .cvcl w => Sys2Proof.Machine.execCvcl w s
  | .cvinf w => Sys2Proof.Machine.execCvinf w s
  | .cvtim w => Sys2Proof.Machine.execCvtim w s
  | .mbsnd w => Sys2Proof.Machine.execMbsnd w s
  | .mbrcv w => Sys2Proof.Machine.execMbrcv w s
  | .mbsta w => Sys2Proof.Machine.execMbsta w s
  | .srd w => Sys2Proof.Machine.execSrd w s
  | .swr w => Sys2Proof.Machine.execSwr w s
  | .eret w => Sys2Proof.Machine.execEret w s
  | .invl w => Sys2Proof.Machine.execInvl w s
  | .inva w => Sys2Proof.Machine.execInva w s
  | .stbw w => Sys2Proof.Machine.execStbw w s
  | .stbr w => Sys2Proof.Machine.execStbr w s
  | .ctxsv w => Sys2Proof.Machine.execCtxsv w s
  | .ctxld w => Sys2Proof.Machine.execCtxld w s
  | .park w => Sys2Proof.Machine.execPark w s
  | .unpark w => Sys2Proof.Machine.execUnpark w s
  | .retire w => Sys2Proof.Machine.execRetire w s
  | .dbgh w => Sys2Proof.Machine.execDbgh w s
  | .idle w => Sys2Proof.Machine.execIdle w s
  | .ckpt w => Sys2Proof.Machine.execCkpt w s
  | .spare w => Sys2Proof.Machine.execSpare w s
  | .mbRecv rd rs1 => Sys2Proof.Machine.execMbRecv rd rs1 s
  | .mbSend rs1 rs2 => Sys2Proof.Machine.execMbSend rs1 rs2 s
  | .mbStep rd rs1 rs2 => Sys2Proof.Machine.execMbStep rd rs1 rs2 s
  | .mbDone rs1 rs2 => Sys2Proof.Machine.execMbDone rs1 rs2 s
  | .mbStat rd => Sys2Proof.Machine.execMbStat rd s
  | .mbVer rd => Sys2Proof.Machine.execMbVer rd s
  | .unassignedOpcode w => Sys2Proof.Machine.execUnassignedOpcode w s
  | .settCoreInstruction w => Sys2Proof.Machine.execSettCoreInstruction w s
  | .trapRecordPendingAppend => Sys2Proof.Machine.execTrapRecordPendingAppend s
  | .loadDataWrite => Sys2Proof.Machine.execLoadDataWrite s
  | .storeBufferDrain => Sys2Proof.Machine.execStoreBufferDrain s
  | .atomicPerform => Sys2Proof.Machine.execAtomicPerform s
  | .clusterMessagePerform => Sys2Proof.Machine.execClusterMessagePerform s
  | .stfAcknowledgement => Sys2Proof.Machine.execStfAcknowledgement s
  | .fAccessArrival => Sys2Proof.Machine.execFAccessArrival s
  | .ldhCompletion => Sys2Proof.Machine.execLdhCompletion s
  | .completionTimeout => Sys2Proof.Machine.execCompletionTimeout s
  | .translationWalk => Sys2Proof.Machine.execTranslationWalk s
  | .invalidationApply => Sys2Proof.Machine.execInvalidationApply s
  | .engineCommandBegin => Sys2Proof.Machine.execEngineCommandBegin s
  | .engineCommandCompletion => Sys2Proof.Machine.execEngineCommandCompletion s
  | .copyFaultFreeze => Sys2Proof.Machine.execCopyFaultFreeze s
  | .frzRelease => Sys2Proof.Machine.execFrzRelease s
  | .arrayCompletionPush => Sys2Proof.Machine.execArrayCompletionPush s
  | .wloadTileCopy => Sys2Proof.Machine.execWloadTileCopy s
  | .wswpExchange => Sys2Proof.Machine.execWswpExchange s
  | .planeInjection => Sys2Proof.Machine.execPlaneInjection s
  | .arrayRowComplete => Sys2Proof.Machine.execArrayRowComplete s
  | .epilogueRow => Sys2Proof.Machine.execEpilogueRow s
  | .zDirectExecute => Sys2Proof.Machine.execZDirectExecute s
  | .bandPowerUp => Sys2Proof.Machine.execBandPowerUp s
  | .leaseHandover => Sys2Proof.Machine.execLeaseHandover s
  | .barrierRelease => Sys2Proof.Machine.execBarrierRelease s
  | .phaseBarrierRelease => Sys2Proof.Machine.execPhaseBarrierRelease s
  | .selfDeadlock => Sys2Proof.Machine.execSelfDeadlock s
  | .waitTimeout => Sys2Proof.Machine.execWaitTimeout s
  | .holdOffOverrun => Sys2Proof.Machine.execHoldOffOverrun s
  | .detectionWave => Sys2Proof.Machine.execDetectionWave s
  | .slotLoad => Sys2Proof.Machine.execSlotLoad s
  | .slotAdd => Sys2Proof.Machine.execSlotAdd s
  | .slotCopy => Sys2Proof.Machine.execSlotCopy s
  | .slotEmpty => Sys2Proof.Machine.execSlotEmpty s
  | .slotEmptyAdd => Sys2Proof.Machine.execSlotEmptyAdd s
  | .slotPassThrough => Sys2Proof.Machine.execSlotPassThrough s
  | .endedFlowEmpty => Sys2Proof.Machine.execEndedFlowEmpty s
  | .bestEffortReserve => Sys2Proof.Machine.execBestEffortReserve s
  | .bestEffortInject => Sys2Proof.Machine.execBestEffortInject s
  | .bestEffortDeliver => Sys2Proof.Machine.execBestEffortDeliver s
  | .stoStamp => Sys2Proof.Machine.execStoStamp s
  | .stampedStoreApply => Sys2Proof.Machine.execStampedStoreApply s
  | .stampAcknowledgement => Sys2Proof.Machine.execStampAcknowledgement s
  | .groupReFormation => Sys2Proof.Machine.execGroupReFormation s
  | .setid => Sys2Proof.Machine.execSetid s
  | .route => Sys2Proof.Machine.execRoute s
  | .ginst => Sys2Proof.Machine.execGinst s
  | .grem => Sys2Proof.Machine.execGrem s
  | .seq => Sys2Proof.Machine.execSeq s
  | .key => Sys2Proof.Machine.execKey s
  | .packetCrcFailure => Sys2Proof.Machine.execPacketCrcFailure s
  | .linkCrcRetry => Sys2Proof.Machine.execLinkCrcRetry s
  | .windowViolation => Sys2Proof.Machine.execWindowViolation s
  | .stepWatchdogExpiry => Sys2Proof.Machine.execStepWatchdogExpiry s
  | .kjkill => Sys2Proof.Machine.execKjkill s
  | .openSet => Sys2Proof.Machine.execOpenSet s
  | .openClear => Sys2Proof.Machine.execOpenClear s
  | .settCsrWrite => Sys2Proof.Machine.execSettCsrWrite s
  | .queueRegister => Sys2Proof.Machine.execQueueRegister s
  | .queueClose => Sys2Proof.Machine.execQueueClose s
  | .tailWrite => Sys2Proof.Machine.execTailWrite s
  | .claim => Sys2Proof.Machine.execClaim s
  | .publ => Sys2Proof.Machine.execPubl s
  | .admission => Sys2Proof.Machine.execAdmission s
  | .leaderHandOver => Sys2Proof.Machine.execLeaderHandOver s
  | .stagingTransfer => Sys2Proof.Machine.execStagingTransfer s
  | .kernelIssue => Sys2Proof.Machine.execKernelIssue s
  | .kernelAging => Sys2Proof.Machine.execKernelAging s
  | .preEmption => Sys2Proof.Machine.execPreEmption s
  | .storageClaim => Sys2Proof.Machine.execStorageClaim s
  | .harvestPlacement => Sys2Proof.Machine.execHarvestPlacement s
  | .revocation => Sys2Proof.Machine.execRevocation s
  | .harvestUnpark => Sys2Proof.Machine.execHarvestUnpark s
  | .kernelEnd => Sys2Proof.Machine.execKernelEnd s
  | .seedWrite => Sys2Proof.Machine.execSeedWrite s
  | .winWrite => Sys2Proof.Machine.execWinWrite s
  | .wlimmaxWrite => Sys2Proof.Machine.execWlimmaxWrite s
  | .passThroughWrite => Sys2Proof.Machine.execPassThroughWrite s
  | .specialRegisterWrite => Sys2Proof.Machine.execSpecialRegisterWrite s
  | .residueMismatch => Sys2Proof.Machine.execResidueMismatch s
  | .uncorrectableMemoryError => Sys2Proof.Machine.execUncorrectableMemoryError s
  | .scrub => Sys2Proof.Machine.execScrub s
  | .schedulerDivergence => Sys2Proof.Machine.execSchedulerDivergence s
  | .schedulerReload => Sys2Proof.Machine.execSchedulerReload s
  | .controllerHandOver => Sys2Proof.Machine.execControllerHandOver s
  | .clockLoss => Sys2Proof.Machine.execClockLoss s
  | .stackFailure => Sys2Proof.Machine.execStackFailure s
  | .timeSlew => Sys2Proof.Machine.execTimeSlew s
  | .offsetPublication => Sys2Proof.Machine.execOffsetPublication s
  | .bitmapFreeze => Sys2Proof.Machine.execBitmapFreeze s
  | .checkpointPageCopy => Sys2Proof.Machine.execCheckpointPageCopy s
  | .copyOnWrite => Sys2Proof.Machine.execCopyOnWrite s
  | .checkpointComplete => Sys2Proof.Machine.execCheckpointComplete s
  | .checkpointFailure => Sys2Proof.Machine.execCheckpointFailure s
  | .thawDeferralEnd => Sys2Proof.Machine.execThawDeferralEnd s
  | .limiterWindow => Sys2Proof.Machine.execLimiterWindow s
  | .ballastLimitExpiry => Sys2Proof.Machine.execBallastLimitExpiry s
  | .droopAlarm => Sys2Proof.Machine.execDroopAlarm s
  | .droopRecovery => Sys2Proof.Machine.execDroopRecovery s
  | .overCurrent => Sys2Proof.Machine.execOverCurrent s
  | .thermalTrip => Sys2Proof.Machine.execThermalTrip s
  | .coarseCapWindow => Sys2Proof.Machine.execCoarseCapWindow s
  | .cadreqUpdate => Sys2Proof.Machine.execCadreqUpdate s
  | .powerTableWrite => Sys2Proof.Machine.execPowerTableWrite s
  | .partitionDescriptorWrite => Sys2Proof.Machine.execPartitionDescriptorWrite s
  | .standbyRequest => Sys2Proof.Machine.execStandbyRequest s
  | .standbyExit => Sys2Proof.Machine.execStandbyExit s
  | .debugModeEnter => Sys2Proof.Machine.execDebugModeEnter s
  | .debugModeExit => Sys2Proof.Machine.execDebugModeExit s
  | .debugMailboxSrd => Sys2Proof.Machine.execDebugMailboxSrd s
  | .debugMailboxSwr => Sys2Proof.Machine.execDebugMailboxSwr s
  | .debugMailboxDbgh => Sys2Proof.Machine.execDebugMailboxDbgh s
  | .powerOnReset => Sys2Proof.Machine.execPowerOnReset s
  | .portReset => Sys2Proof.Machine.execPortReset s
  | .linkDown => Sys2Proof.Machine.execLinkDown s
  | .vfFlr => Sys2Proof.Machine.execVfFlr s
  | .pfFlr => Sys2Proof.Machine.execPfFlr s
  | .waitcClockReached => Sys2Proof.Machine.execWaitcClockReached s
  | .yieldEnd => Sys2Proof.Machine.execYieldEnd s
  | .idleCycleLimit => Sys2Proof.Machine.execIdleCycleLimit s
  | .overCurrentClear => Sys2Proof.Machine.execOverCurrentClear s
  | .thermalTripClear => Sys2Proof.Machine.execThermalTripClear s
  | .linkUp => Sys2Proof.Machine.execLinkUp s
  | .boundaryScan => Sys2Proof.Machine.execBoundaryScan s
  | .hostWrite => Sys2Proof.Machine.execHostWrite s

end Sys2Proof.Machine
end

