-- ==== Sys2Proof/Machine/Schedule.lean ====
section
/-! DEFINITION. Who moves next (log 1), and the fetch of an instruction's bytes (R75, R92, R310). -/

namespace Sys2Proof.Machine

/-- The role after a role in the round robin: L, C, S of each context, in the order of the list. -/
def nextRole (ids : List CtxId) (p : CtxId × Role) : CtxId × Role :=
  match p.2 with
  | .l => (p.1, .c)
  | .c => (p.1, .s)
  | .s => match (ids.dropWhile (· != p.1)).tail, ids with
    | c :: _, _ => (c, .l)
    | [], c :: _ => (c, .l)
    | [], [] => (p.1, .l)

/-! ## The order within a cycle (R211, R214, R259, R324, R371)

The moves of one cycle stand in the order of their ranks on each thing that they act on: a bank unit (0, core), a mailbox slot
(1, EPI), a context whose roles go in the order L, C, S (2, context). -/

/-- The bank unit on whose object a circular-buffer or deque instruction acts: the own core's, or with PEER a peer's, which only
its message reaches. The owner's roles rank L, C, S; messages and local steals after them, by peer index (R211, R214). -/
def objectRank (w : Who) (x : Ctx) (v : WordM) (steal msg : Bool) : Option ((Nat × Nat) × Nat) :=
  let mine := 3 + w.c.cid % 128
  if bitAt v.imm 40 then
    if msg then some ((0, 128 * dieOf w.c.cid + (field (readSrc w x v.base 0) 16 7).toNat), mine) else none
  else some ((0, w.c.cid), if steal then mine else Role.code w.r)

/-- The mailbox slot of a handle, with the rank of MBSND or MBRCV there (R324). -/
def handleRank (s : State) (x : Ctx) (h : W64) (rank : Nat) : Option ((Nat × Nat) × Nat) :=
  (handleOf s x h).map (fun (d, k, e) => ((1, epiOf d k e), rank))

/-- Where the instruction of a role acts in order. -/
def State.roleRank (s : State) (w : Who) (msg : Bool) : Option ((Nat × Nat) × Nat) :=
  match s.ctx w.c with
  | none => none
  | some x => match decode (fetchBytes (s.textOf x) (x.role w.r).pc) with
    | .ok (.cbini v, _) | .ok (.cbclm v, _) | .ok (.cbpub v, _) | .ok (.cbtak v, _) | .ok (.cbrel v, _) | .ok (.dqini v, _)
    | .ok (.dqpsh v, _) | .ok (.dqpop v, _) => objectRank w x v false msg
    | .ok (.dqstl v, _) => objectRank w x v true msg
    | .ok (.mbsnd v, _) => handleRank s x (readSrc w x v.b 0) 3
    | .ok (.mbrcv v, _) => handleRank s x (readSrc w x v.a 0) 4
    | _ => none

/-- An atomic or a message of a context at the bank unit of the buffer that it names (R174, R211). -/
def accessRank (x : Ctx) (c : CtxId) (id : Nat) : Option ((Nat × Nat) × Nat) :=
  let at_ := fun (p : Place) (k : Bool) (r : Role) => match p with
    | .a d _ => some ((0, d.cid), if k then 3 + c.cid % 128 else Role.code r)
    | _ => none
  match x.flights.find? (fun f => f.id == id), x.kstores.find? (fun e => e.id == id) with
  | some f, _ => at_ f.place f.k f.role
  | none, some e => at_ e.place e.k e.role
  | none, none => none

/-- An access to memory in a word of a Sett core: it may violate its window, which stops the slot (R311). -/
def settAccess (w : W32) : Bool :=
  let o := (field w 0 7).toNat
  o == 0x03 || o == 0x07 || o == 0x23 || o == 0x27 || o == 0x2F

/-- Where a Sett core's instruction acts in order: a post, a receipt, or what may stop the slot: a kill, an access or a fetch (R324). -/
def State.settRank (s : State) (d k : Nat) : Option ((Nat × Nat) × Nat) :=
  let key := fun (n : Nat) => some ((1, epiOf d k (s.settCore d k).kjepi), n)
  match s.settFetch d k with
  | .error t => if ((t.settCore d k).slot (s.settCore d k).kjepi).state = .stopped then key 0 else none
  | .ok l => match decodeSett l with
    | .ok (.mbSend .., _) | .ok (.mbStep .., _) | .ok (.mbDone .., _) => key 1
    | .ok (.mbRecv .., _) => key 2
    | .ok (.settCoreInstruction w, _) =>
      let w := if field w 0 2 = 0b11#2 then w else (expandC (w.setWidth 16)).getD 0
      if (field w 0 7 = 0x73#7 ∧ field w 20 12 = 0x5C1#12) ∨ settAccess w then key 0 else none
    | _ => none

/-- What a move acts on, and its rank there within a cycle. -/
def State.ranksOf (s : State) (a : Agent) : List ((Nat × Nat) × Nat) :=
  match a with
  | .role c r => ((2, 4 * c.cid + c.num), Role.code r) :: (s.roleRank ⟨c, r⟩ false).toList
  | .sett d k => (s.settRank d k).toList
  | .event i inp =>
    let stop := fun (e : Nat) => [((1, epiOf inp.die inp.e e), 0)]
    match i with
    | .clusterMessagePerform =>
      (if inp.flag then s.roleRank ⟨inp.c, inp.r⟩ true else (s.ctx inp.c).bind (fun x => accessRank x inp.c inp.id)).toList
    | .waitTimeout => [((2, 4 * inp.c.cid + inp.c.num), Role.code inp.r)]
    | .atomicPerform => ((s.ctx inp.c).bind (fun x => accessRank x inp.c inp.id)).toList
    | .stepWatchdogExpiry => stop inp.id
    | .windowViolation | .kjkill => stop (s.settCore inp.die inp.e).kjepi
    | _ => []

/-- The cycles before a move: one, where the agenda names none and a move of the same cycle has acted on the same thing at a
later rank, so that two moves of one cycle stand in the order of R211, R214, R259, R324 and R371. -/
def State.cyclesOf (s : State) (m : Move) : Nat :=
  if m.cycles = 0 ∧ !s.ranks.isEmpty then
    if (s.ranksOf m.agent).any (fun p => s.ranks.any (fun e => e.1 == p.1 && decide (p.2 < e.2))) then 1 else 0
  else m.cycles

/-- The ranks of the present cycle once the move is made; they are kept only while another move of the cycle may follow. -/
def State.ranksAfter (s : State) (m : Move) (n : Nat) (rest : List Move) : List ((Nat × Nat) × Nat) :=
  if rest.head?.any (fun e => e.cycles == 0) then
    s.ranksOf m.agent ++ (if n = 0 then s.ranks else [])
  else []

/-- The move that comes next, and the agenda that it leaves: the agenda's first; with an empty agenda a Sett core goes on, and
otherwise the roles take turns, one cycle each (log 1, log 2). -/
def State.nextMove (s : State) : Move × List Move :=
  match s.agenda with
  | m :: rest => (m, rest)
  | [] => match s.turn with
    | .sett d k => (⟨1, .sett d k⟩, [])
    | _ =>
      let n := nextRole (s.ctxs.map (·.1)) s.rr
      (⟨1, .role n.1 n.2⟩, [])

/-- The beginning of a step: the cycles of the next move go by and its operands are in place. What comes by itself in those cycles, a
passage of the ring or a timer, moves first, and the rest of them go by after it (R273, R316, R328, R430). -/
def State.begin (s : State) : State :=
  let (m, rest) := s.nextMove
  let n := s.cyclesOf m
  match s.due n with
  | some (d, i, inp) =>
    { s.elapse d with agenda := ⟨n - d, m.agent⟩ :: rest, turn := .event i inp, inp := inp,
                      ranks := if d = 0 then s.ranks else [], stops := if d = 0 then s.stops else [] }
  | none =>
    let s := { s.elapse n with agenda := rest, ranks := s.ranksAfter m n rest, stops := if n = 0 then s.stops else [] }
    match m.agent with
    | .event i inp => { s with turn := .event i inp, inp := inp }
    | .role c r => { s with turn := .role c r, rr := (c, r) }
    | .sett d k => { s with turn := .sett d k }

/-- The twelve bytes at a role's program counter (R75, R92). -/
def State.wordAt (s : State) (w : Who) : List Byte :=
  match s.ctx w.c with
  | some x => fetchBytes (s.textOf x) (x.role w.r).pc
  | none => []

/-- The word at a role's program counter holds an uncorrectable error (R405). -/
def State.fetchBad (s : State) (w : Who) : Bool :=
  match s.ctx w.c with
  | some x => x.textBad (x.role w.r).pc.sec (12 * (x.role w.r).pc.word) 12
  | none => false

/-- The role has an instruction whose effect is performed and which has not retired. -/
def State.hasRest (s : State) (w : Who) : Bool :=
  match s.ctx w.c with
  | some x => (x.role w.r).rest.isSome
  | none => false

end Sys2Proof.Machine
end

