-- ==== Sys2Proof/Machine/Step.lean ====
section
/-! DEFINITION. One step of the machine. -/

namespace Sys2Proof.Machine

/-- A role goes on with an instruction whose effect is performed, or executes the word at its program counter; an uncorrectable word is
the memory-error fault (R405). Past the end of its text it raises the pool-execution fault, whose record names the last word of the section
(R354). -/
def runRoleAt (w : Who) (s : State) : Host.Outcome State Fault Refusal :=
  if s.hasRest w then .next (s.finishRest w)
  else if s.fetchBad w then .next (s.raise w cMemory 0)
  else match decode (s.wordAt w), s.ctx w.c with
    | .ok (i, _), _ => exec i s
    | .error _, some x =>
      .next (s.deliverAt w.c (Role.code w.r) cPoolExec 0 0 false (some (fellFrom (s.textOf x) (x.role w.r).pc)))
    | .error _, none => .next s

/-- A step of a role: one that may not issue does nothing but fault with another role of its context (R371). -/
def stepRole (w : Who) (s : State) : Host.Outcome State Fault Refusal :=
  if !s.canIssue w then
    .next (s.furtherFault w (fun s0 => match runRoleAt w s0 with
      | .next t => t
      | _ => s0))
  else runRoleAt w s

/-- A step of a Sett core: the instruction at its program counter (R310), or what keeps it from one. -/
def stepSett (d k : Nat) (s : State) : Host.Outcome State Fault Refusal :=
  let s := s.settBegin d k
  match s.settFetch d k with
  | .ok l => match decodeSett l with
    | .ok (i, _) => exec i s
    | .error _ => .next s
  | .error s' => .next s'

/-- One step: the next move of the agenda (log 1). -/
def step (s : State) : Host.Outcome State Fault Refusal :=
  let s := s.begin
  match s.turn with
  | .role c r => stepRole ⟨c, r⟩ s
  | .sett d k => stepSett d k s
  | .event i _ => exec i s

/-- The role that executes a word of a tag: an A-tagged word is executed by L (R36). -/
def roleOfTag (t : BitVec 2) : Role := if t = 1 then .c else if t = 2 then .s else .l

/-- A kernel whose text is one code section that begins with the word, then zero words, on one core (log 14). -/
def fetchKernel (id : Nat) (w : Word96) : Kernel where
  id := id
  node := 0
  queue := 0
  part := 0
  text := [⟨1, 0, [], bytesOf w 12 ++ List.replicate 36 0⟩]
  psec := 1
  entry := 0
  win0 := 16
  roles := 7
  harvest := false
  qmap := 0xFFFFFFFFFFFFFFFF
  gw := 1
  gh := 1
  g := 1
  prio := 0
  abud := 0
  wbud := 0
  zbud := 0
  hallow := 0
  priv := false
  pkgw := false
  pgmask := 0
  diemask := 0
  grant := [⟨0, 0⟩]
  lost := []
  state := .running
  admitted := 0
  aged := false
  started := 0
  phn := 0
  chans := Vector.replicate 16 {}
  flows := []
  flagSets := []
  episodes := []
  wl := none
  staging := []
  prep := []
  sfc := 0
  ckpt := false
  ckpd := 0

/-- `s` with one instruction where the next step fetches it: a Sett word of at most 32 bits in the SRAM window of slot 0
of Sett core 0 of die 0, in U mode and with its memory open in PMP; any other as the first word of a kernel's text on CID 0, the role of its tag moving
next (log 14). -/
def State.withFetchWord (s : State) (nbits w : Nat) : State :=
  if nbits ≤ 32 then
    let t := s.settCore 0 0
    let slot : EpSlot := { t.slots[0] with sbase := 0, slen := 262144, open_ := true, state := .run }
    { s with
      agenda := [⟨1, .sett 0 0⟩]
      sett := aset s.sett (0, 0)
        { t with pc := 0, mode := .u, kjepi := 0, wfi := false, slots := t.slots.set 0 slot,
                 csrs := aset (aset t.csrs 0x3A0 0x1F#64) 0x3B0 0x3FFFFFFFFFFFFF#64,
                 sram := t.sram.write 0 (bytesOf (BitVec.ofNat 32 w) 4) } }
  else
    let v : Word96 := BitVec.ofNat 96 w
    let r := roleOfTag (field v 94 2)
    { s with
      agenda := [⟨1, .role ⟨0, 0⟩ r⟩]
      kernels := fetchKernel s.nextKernel v :: s.kernels
      nextKernel := s.nextKernel + 1
      cores := aset s.cores 0 {}
      dies := aset s.dies 0 {}
      ctxs := aset s.ctxs ⟨0, 0⟩ { kernel := s.nextKernel } }

end Sys2Proof.Machine
end

