-- ==== Sys2Proof/Safety.lean ====
section
/-! DEFINITION. The terms of the claims: when a role issues a word with nothing in its way (R36 to R42, R77, R80, R89, R164),
and what it is for an instruction to complete, to transfer control, or to meet a fault. -/

namespace Sys2Proof.Machine

/-! ## The frames of the formats, as their wrappers fill them in -/

def frameS (v : WordS) : Frame := { role := v.role, tok := v.tok, guard := v.guard, codes := [v.d, v.a, v.b], whole := true }
def frameTryS (v : WordS) : Frame :=
  { frameS v with try_ := if bitAt v.mod 8 then some (field v.mod 5 3).toNat else none }
def frameB (v : WordB) : Frame := { role := v.role, tok := v.tok, guard := v.guard, codes := [v.cond], whole := true }
def frameV (v : WordV) : Frame := { role := v.role, tok := v.tok, guard := v.guard, codes := [v.d, v.a, v.b, v.c, v.lm], whole := true }
def frameM (v : WordM) : Frame := { role := v.role, tok := v.tok, guard := v.guard, codes := [v.data, v.base, v.index] }
def frameTryM (v : WordM) : Frame :=
  { frameM v with try_ := if bitAt v.imm 47 then some (field v.imm 44 3).toNat else none }
/-- BIDB and BIDA commit in one step, at retirement (R216). -/
def frameWholeM (v : WordM) : Frame := { frameM v with whole := true }
def frameX (v : WordX) : Frame := { role := v.role, tok := v.tok, guard := v.guard, codes := [v.d, v.a, v.b] }
def frameTryX (v : WordX) : Frame :=
  { frameX v with try_ := if bitAt v.low 56 then some (field v.low 53 3).toNat else none }
/-- A privileged word. -/
def frameP (v : WordX) : Frame := { frameX v with priv := true }

/-- The word carries the A tag. -/
def Frame.isA (f : Frame) : Bool := f.role == 0b11#2

/-- Role `w` issues `i` with nothing in its way: it moves now, the word is its own (or A-tagged), passes the decode checks,
keeps role agreement, has its tokens, and a true guard. What follows it in the text is not asked here. -/
structure Issues (i : Instr) (f : Frame) (s : State) (w : Who) (x : Ctx) : Prop where
  turn : s.turn = .role w.c w.r
  ctx : s.ctx w.c = some x
  tag : f.role.toNat = Role.code w.r ∨ f.isA = true
  legal : decodeFault i f.priv f.codes x = none
  agree : f.isA = true → (x.role w.r).ret = [] ∧ slipHeld x w.r = false ∧ diverges x w.r = false
  pops : (x.role w.r).popped = true ∨ ∀ q ∈ tokPops w.r f.tok, x.tok q ≠ 0
  pushes : f.try_.isSome = true → pushHeld (s.core w.c.cid) x w f.tok = false
  guard : guardOn (x.role w.r) f.guard = true
  data : busy x w.r f.codes = false

/-- What stands while an instruction that commits in one step waits to retire: its pops, but nothing of a .try form (R77, R120). -/
def Frame.kept (f : Frame) (w : Who) (x : Ctx) (s : State) : State := if f.try_.isSome then s else s.popped f w x

/-- An instruction that commits in one step can retire to `e`: nothing that retirement waits for is outstanding (R77, R131, R182). -/
def canRetire (f : Frame) (s : State) (w : Who) (x : Ctx) (e : Rest) : Prop :=
  f.whole = true → retireWait ((f.kept w x s).core w.c.cid) (s.textOf x) (if f.try_.isSome then x else f.popped w x) w e = none

/-- Control falls through from the role's place to `dest`, no section count overflows, and the retirement waits for nothing (R41,
R42, R77, R93). -/
structure Falls (f : Frame) (s : State) (w : Who) (x : Ctx) (dest : Pos) : Prop where
  next : fallThrough (s.textOf x) (x.role w.r).pc = some dest
  room : canRetire f s w x (restOf f.tok none (x.role w.r).pc dest false false f.isA)
  count : countFull (x.role w.r) (restOf f.tok none (x.role w.r).pc dest false false f.isA).enter
    (restOf f.tok none (x.role w.r).pc dest false false f.isA).exit = false

/-- p(TP) of a .try form that completes reads true (R120, R207). -/
def Frame.tried (f : Frame) (w : Who) (s : State) : State :=
  match f.try_ with
  | some tp => s.setP w tp true
  | none => s

/-- The state after an effect has been performed and the role goes on from `pc` to `dest`. -/
def Frame.finish (f : Frame) (w : Who) (pc dest : Pos) (flight : Option Nat) (s : State) : State :=
  (f.tried w s).retire w (restOf f.tok flight pc dest false false f.isA)

/-- No acquire waits for accesses that use a translation which the core's log removes (R395). -/
def State.calm (s : State) (cid : Nat) : Prop := (s.core cid).applying = false

/-- Whenever it issues and `pre` holds, and the acquire that it may be has no access to wait for, the instruction performs `eff` and falls
through. Both speak of the role, of its context after the token pops, and of the state after them: each hypothesis is one on the state and
the operands alone. -/
def Completes (i : Instr) (f : Frame) (pre : Who → Ctx → State → Prop) (eff : Who → Ctx → State → State) : Prop :=
  ∀ (s : State) (w : Who) (x : Ctx) (dest : Pos), Issues i f s w x → Falls f s w x dest →
    pre w (f.popped w x) (s.popped f w x) → (eff w (f.popped w x) (s.popped f w x)).calm w.c.cid →
    exec i s = .next (f.finish w (x.role w.r).pc dest none (eff w (f.popped w x) (s.popped f w x)))

/-- The same for a load or atomic whose data comes later: its token pushes wait for flight `id`. -/
def Starts (i : Instr) (f : Frame) (pre : Who → Ctx → State → Prop) (eff : Who → Ctx → State → Nat × State) : Prop :=
  ∀ (s : State) (w : Who) (x : Ctx) (dest : Pos), Issues i f s w x → Falls f s w x dest →
    pre w (f.popped w x) (s.popped f w x) →
    exec i s = .next (f.finish w (x.role w.r).pc dest (some (eff w (f.popped w x) (s.popped f w x)).1)
      (eff w (f.popped w x) (s.popped f w x)).2)

/-- A taken transfer to `dest` is permitted, and its retirement waits for nothing (R38, R42, R77, R93). -/
structure Lands (f : Frame) (s : State) (w : Who) (x : Ctx) (dest : Pos) (call ret : Bool) : Prop where
  room : canRetire f s w x (restOf f.tok none (x.role w.r).pc dest call ret f.isA)
  interval : f.isA = false → intervalOf (s.textOf x) dest = intervalOf (s.textOf x) (x.role w.r).pc
  code : isCode (s.textOf x) dest.sec = true
  count : countFull (x.role w.r) (restOf f.tok none (x.role w.r).pc dest call ret f.isA).enter
    (restOf f.tok none (x.role w.r).pc dest call ret f.isA).exit = false

/-- Whenever it issues and `pre` holds, the instruction performs `eff` and transfers control. -/
def Jumps (i : Instr) (f : Frame) (call ret : Bool) (pre : Who → Ctx → State → Prop) (dest : Who → Ctx → State → Pos)
    (eff : Who → Ctx → State → State) : Prop :=
  ∀ (s : State) (w : Who) (x : Ctx), Issues i f s w x → pre w (f.popped w x) (s.popped f w x) →
    Lands f s w x (dest w (f.popped w x) (s.popped f w x)) call ret →
    exec i s = .next ((eff w (f.popped w x) (s.popped f w x)).retire w
      (restOf f.tok none (x.role w.r).pc (dest w (f.popped w x) (s.popped f w x)) call ret f.isA))

/-- Whenever it issues and `pre` holds, the instruction answers `eff`, from which its role goes on in its own way. -/
def Answers (i : Instr) (f : Frame) (pre : Who → Ctx → State → Prop) (eff : Who → Ctx → State → State) : Prop :=
  ∀ (s : State) (w : Who) (x : Ctx), Issues i f s w x → pre w (f.popped w x) (s.popped f w x) →
    exec i s = .next (eff w (f.popped w x) (s.popped f w x))

/-- Whenever it issues and `pre` holds, the instruction raises the fault with the given VAL, and performs nothing: its pops are
not made. -/
def Raises (i : Instr) (f : Frame) (pre : Who → Ctx → State → Prop) (cause : Nat) (val : Who → Ctx → State → W64) : Prop :=
  ∀ (s : State) (w : Who) (x : Ctx), Issues i f s w x → pre w (f.popped w x) (s.popped f w x) →
    exec i s = .next (s.raise w cause (val w (f.popped w x) (s.popped f w x)))

/-- No condition. -/
def anyCtx : Who → Ctx → State → Prop := fun _ _ _ => True

/-- d receives `g` of the two source values, and nothing else of the machine changes (R103). -/
def computed (g : WordS → W64 → W64 → W64) (v : WordS) (w : Who) (x : Ctx) (s : State) : State :=
  s.setS w v.d.toNat (g v (readSrc w x v.a (imm64 v)) (readSrc w x v.b (imm64 v)))
def Computes (mk : WordS → Instr) (g : WordS → W64 → W64 → W64) : Prop :=
  ∀ v, Completes (mk v) (frameS v) anyCtx (computed g v)

/-- The same with flags that are raised. -/
def computedF (g : WordS → W64 → W64 → W64 × Flags) (v : WordS) (w : Who) (x : Ctx) (s : State) : State :=
  (s.setS w v.d.toNat (g v (readSrc w x v.a (imm64 v)) (readSrc w x v.b (imm64 v))).1).orFlags w
    (g v (readSrc w x v.a (imm64 v)) (readSrc w x v.b (imm64 v))).2
def ComputesF (mk : WordS → Instr) (g : WordS → W64 → W64 → W64 × Flags) : Prop :=
  ∀ v, Completes (mk v) (frameS v) anyCtx (computedF g v)

/-- d, a predicate or a scalar, receives a truth value (R107). -/
def decided (g : WordS → Who → Ctx → Bool) (v : WordS) (w : Who) (x : Ctx) (s : State) : State :=
  if isPred v.d then s.setP w (v.d.toNat - 48) (g v w x) else s.setS w v.d.toNat (if g v w x then 1 else 0)
def Decides (mk : WordS → Instr) (g : WordS → Who → Ctx → Bool) : Prop :=
  ∀ v, Completes (mk v) (frameS v) anyCtx (decided g v)

/-- The sources of a vector instruction can be read and its destination written at once (R131, R201 to R203). -/
def vReady (v : WordV) (n : Nat) : Who → Ctx → State → Prop := fun w x _ => (vTake v n w x).stop (vDst v) = none

/-- A vector instruction with `n` sources leaves `g` of what it reads (R129 to R131). -/
def vComputed (n : Nat) (g : WordV → VIn → VRes) (v : WordV) (w : Who) (x : Ctx) (s : State) : State :=
  vOut v n w x (g v (vIn v n w x)) s
def VComputes (mk : WordV → Instr) (n : Nat) (g : WordV → VIn → VRes) : Prop :=
  ∀ v, Completes (mk v) (frameV v) (vReady v n) (vComputed n g v)

/-- Each enabled lane receives `g` of the source lanes, rounded once (R60, R130, R133). -/
def floatLanes (g : RMode → FVal → FVal → FVal → W32 → Res) (v : WordV) (m : VIn) : VRes :=
  perLaneR m (v.rm == 4) (fun i u => g (rmOf v) (f32 (lane m.a i)) (f32 (lane m.b i)) (f32 (lane m.c i)) u)
def VFloat (mk : WordV → Instr) (n : Nat) (g : RMode → FVal → FVal → FVal → W32 → Res) : Prop := VComputes mk n (floatLanes g)

/-- Each enabled lane receives `g` of the source lanes; a disabled one receives zero (R130). -/
def wordLanes (g : WordV → W32 → W32 → W32 → Res) (v : WordV) (m : VIn) : VRes :=
  perLane m (fun i => g v (lane m.a i) (lane m.b i) (lane m.c i))
def VLanes (mk : WordV → Instr) (n : Nat) (g : WordV → W32 → W32 → W32 → Res) : Prop := VComputes mk n (wordLanes g)

/-! ## Accesses (R160 to R175) -/

/-- A load of space `sp` can be issued at `p`: it has its place, no earlier access of the role holds it, fewer than 32 are in
flight, and fewer than 512 at its port, its bytes are sound, an L load that acquires at package scope has no access to wait for, and its
q-register destination has room. -/
def loadReady (sp : Space) (v : WordM) (p : Place) : Who → Ctx → State → Prop := fun w x s =>
  place s w x (accOf sp v w x false) = .ok p ∧ roleHold s w x p (widthBytes v.width) = none ∧ inFlight x w.r < 32 ∧
    s.portFull p = false ∧ (sp = .l → ∀ c o, p = .a c o → s.badS w.c 0 o (widthBytes v.width) = false) ∧
    (sp = .l → bitAt v.order 0 = true → 2 ≤ v.scope.toNat → s.logUsers w.c.cid = false) ∧
    (isQ v.data = true → Taken.stop { x := x } (some (qOf v.data)) = none)

/-- The address that a load or store names. -/
def memAddr (sp : Space) (v : WordM) (w : Who) (x : Ctx) (write : Bool) : W64 :=
  (accOf sp v w x write).off (accOf sp v w x write).base

/-- The flight that it leaves. -/
def loadLeft (sp : Space) (v : WordM) (p : Place) (w : Who) (x : Ctx) (s : State) : Flight :=
  loadFlight s w x v p (memAddr sp v w x false) (widthBytes v.width)
    (if isQ v.data then .qent (qOf v.data) x.nextId else .scalar v.data.toNat) (sp == .k)

/-- The state with it: a q-register entry is reserved for its data, and an L load that acquires does so at once. -/
def loadIssued (sp : Space) (v : WordM) (p : Place) (w : Who) (x : Ctx) (s : State) : Nat × State :=
  (x.nextId, (s.addFlight w (if isQ v.data then x.qReserve (qOf v.data) else { x with nextId := x.nextId + 1 })
    (loadLeft sp v p w x s)).issuedLoad w (loadLeft sp v p w x s))

def Loads (mk : WordM → Instr) (sp : Space) : Prop := ∀ v p, Starts (mk v) (frameM v) (loadReady sp v p) (loadIssued sp v p)

/-- A store can be accepted at `p`: the store buffer has room, and its q-register source an entry. -/
def storeReady (sp : Space) (v : WordM) (p : Place) : Who → Ctx → State → Prop := fun w x s =>
  place s w x (accOf sp v w x true) = .ok p ∧ roleHold s w x p (widthBytes v.width) = none ∧ storeHold s w x p = none ∧
    (isQ v.data = true → (Taken.q { x := x } (qOf v.data) false).stop none = none)

/-- The state with the store in the core's store buffer: the address and the bytes that it names. -/
def storeAccepted (sp : Space) (v : WordM) (p : Place) (w : Who) (x : Ctx) (s : State) : State :=
  if isQ v.data then
    s.addStore w (x.qPop (qOf v.data)) v p (memAddr sp v w x true).toNat (laneBytes (headLanes x (qOf v.data))) [] (sp == .k)
  else s.addStore w x v p (memAddr sp v w x true).toNat (bytesOf (readSrc w x v.data 0) (widthBytes v.width)) [] (sp == .k)

def Stores (mk : WordM → Instr) (sp : Space) : Prop := ∀ v p, Completes (mk v) (frameM v) (storeReady sp v p) (storeAccepted sp v p)

/-- An access whose place is a fault of checks 1 to 4 of R175 raises it. -/
def PlaceFaults (mk : WordM → Instr) (sp : Space) (write : Bool) : Prop :=
  ∀ v c val, Raises (mk v) (frameM v) (fun w x s => place s w x (accOf sp v w x write) = .fault c val) c (fun _ _ _ => val)

/-- What an atomic names. -/
def atomAcc (sp : Space) (v : WordM) (w : Who) (x : Ctx) : Acc :=
  { accOf sp v w x true with disp := (field v.imm 0 32).signExtend 64, atomic := true }
/-- OP and RET of an atomic (R172). -/
def atomOp (v : WordM) : BitVec 4 := field v.imm 44 4
def atomRet (v : WordM) : Bool := bitAt v.imm 43
/-- Its frame: a CAS reads the register after its data register too. -/
def frameAtom (v : WordM) : Frame :=
  { frameM v with codes := [v.data, v.base, v.index] ++ (if atomOp v = 10#4 then [v.data + 1] else []) }

/-- It can be issued at `p`. -/
def atomReady (sp : Space) (v : WordM) (p : Place) : Who → Ctx → State → Prop := fun w x s =>
  place s w x (atomAcc sp v w x) = .ok p ∧ roleHold s w x p (widthBytes v.width) = none ∧ inFlight x w.r < 32 ∧
    (sp = .f → atomRet v = false → ackLoad s w x < 1024) ∧ (p.isWindow = true → atomOp v = 0 ∧ atomRet v = true)

/-- The state with its flight: an F atomic that returns nothing counts an acknowledgement. -/
def atomIssued (sp : Space) (v : WordM) (p : Place) (w : Who) (x : Ctx) (s : State) : State :=
  s.addFlight w { x with nextId := x.nextId + 1, ackc := if sp = .f ∧ !atomRet v then x.ackc + 1 else x.ackc }
    { loadFlight s w x v p ((atomAcc sp v w x).off (atomAcc sp v w x).base) (widthBytes v.width)
        (if atomRet v then .scalar v.data.toNat else .none) (sp == .k) with
      atom := some ⟨atomOp v, v.width == 3, readSrc w x v.data 0, if atomOp v = 10 then readSrc w x (v.data + 1) 0 else 0⟩
      data := none }

/-- With RET it starts a flight whose data comes later; without, it falls through at once. -/
def Atomics (mk : WordM → Instr) (sp : Space) : Prop :=
  (∀ v p, atomRet v = true → Starts (mk v) (frameAtom v) (atomReady sp v p) (fun w x s => (x.nextId, atomIssued sp v p w x s))) ∧
  (∀ v p, atomRet v = false → Completes (mk v) (frameAtom v) (atomReady sp v p) (atomIssued sp v p))

/-! ## Circular buffers, deques and the rest of the synchronisation group (R203 to R221, R266 to R271, R304, R305) -/

/-- A circular-buffer operation finds its control block `b` in the A buffer of `y` at `o`, sound, and `n` within its size, which is
128 at most (R208, R209). -/
def cbReady (v : WordM) (c : CtxId) (y : Ctx) (o : Nat) (b : CBlock) (n : Nat) (w : Who) (x : Ctx) (s : State) : Prop :=
  object s w x v 64 = .ok c y o ∧ b = CBlock.read y.abuf o ∧ n = (objN w x v).toNat ∧ 1 ≤ n ∧ n ≤ 128 ∧ n ≤ b.n ∧ b.ok = true

/-- A deque operation finds its control block `b`, sound. -/
def dqReady (v : WordM) (c : CtxId) (y : Ctx) (o : Nat) (b : DBlock) (w : Who) (x : Ctx) (s : State) : Prop :=
  object s w x v 32 = .ok c y o ∧ b = DBlock.read y.abuf o ∧ sub32 b.bot b.top ≤ b.cap ∧ b.base + 8 * b.cap ≤ y.abud

/-- The accesses of the role have been performed as far as a release at the scope asks (R179). -/
def freed (n : Nat) (w : Who) (x : Ctx) (s : State) : Prop := released s w.c x w.r x.nextId n = true

/-- PHASE, whose word the other roles do not pass over. -/
def framePhase (v : WordM) : Frame := { role := v.role, tok := v.tok, guard := v.guard, codes := [], phase := true }

/-- The channel that a barrier word names. -/
def barE (v : WordM) (x : Ctx) : Nat := chanOf x (barJ v)

/-! ## The array (R226 to R248) -/

/-- Whenever `pre` holds, the move leads to `eff`. -/
def Performs (i : Instr) (pre : State → Prop) (eff : State → State) : Prop := ∀ s, pre s → exec i s = .next (eff s)

/-- The context with a command more in its array queue (R231). -/
def Ctx.queued (x : Ctx) (k : AKind) (cpt : Nat) : Ctx :=
  { x with acmds := x.acmds ++ [{ acc := x.nextAcc, kind := k, cpt := cpt, at_ := x.nextId }], nextAcc := x.nextAcc + 1 }

/-- A row range lies in the budget: ZR 0 to 47, NR 1 to 48 (R230). -/
def zRows (v : WordX) (x : Ctx) : Prop :=
  zrOf v ≤ 47 ∧ 1 ≤ nrOf v ∧ nrOf v ≤ 48 ∧ zrOf v + nrOf v ≤ x.zbud / 512

/-- The row stride in force: STR, or the packed row where STR is 0. -/
def strideOf (v : WordX) (row : Nat) : Nat := if strOf v = 0 then row else strOf v

/-- The word and the context pass the checks of a multiply (R237, R247). -/
def mmaReady (kind : Nat) (v : WordX) (w : Who) (x : Ctx) : Prop :=
  let row := 4 + 16 * blockWidth (typeOf v)
  zRows v x ∧ 16 ≤ (typeOf v).toNat ∧ (typeOf v).toNat ≤ 30 ∧ strideOf v row % 4 = 0 ∧ row ≤ strideOf v row ∧
    (readSrc w x v.a 0).toNat % 4 = 0 ∧ (readSrc w x v.a 0).toNat + ((nrOf v - 1) * strideOf v row + row) ≤ x.abud ∧
    x.leaseAsk = true ∧ x.actRec.valid = true ∧ (kind = 2 → blockHalf x.actRec.fmt = false) ∧ x.acmds.length < 8

/-- A multiply that passes them is queued with the ASHP in force and, for MMAZ and MMAI.z, rows that start at zero. -/
def multiplyQueued (kind : Nat) (v : WordX) (w : Who) (x : Ctx) (s : State) : State :=
  s.setCtx w.c (x.queued
    (.mma kind (zrOf v) (nrOf v) (typeOf v) (kind == 1 || (kind == 2 && bitAt v.low 39)) (readSrc w x v.a 0).toNat
      (strideOf v (4 + 16 * blockWidth (typeOf v))) x.ashp) (cptOf v))
def Multiplies (mk : WordX → Instr) (kind : Nat) : Prop :=
  ∀ v, Completes (mk v) (frameX v) (fun w x _ => mmaReady kind v w x) (multiplyQueued kind v)

/-- The array serves the head command `k` of the context that the move names. -/
def arrayAt (x : Ctx) (k : ACmd) (s : State) : Prop := s.arrayHead s.inp.c = some (x, k)

/-! ## Copy engines and the conveyor (R250 to R290) -/

/-- A copy command passes the checks of R265, its block is sound, and its queue has room; it is accepted. -/
def Copies (mk : WordX → Instr) (store : Bool) (ops : List Nat) : Prop :=
  ∀ v off b, Completes (mk v) (frameTryX v)
    (fun w x s => off = readSrc w x v.a 0 ∧ off.toNat % 128 = 0 ∧ off.toNat + 128 ≤ x.abud ∧
      b = (s.ownA w x).read off.toNat 128 ∧ cmdFault s w x store ops off (Cmd.of b) = none ∧
      ownPending s w x = false ∧ s.badS w.c 0 off.toNat 128 = false ∧ (x.engQ store).length < 16)
    (fun w x s => s.setCtx w.c (x.acceptCmd store off.toNat b (s.core w.c.cid).floor))

/-- The first fault of R265 is raised with the command's offset as VAL. -/
def CopyFaults (mk : WordX → Instr) (store : Bool) (ops : List Nat) : Prop :=
  ∀ v off c val, Raises (mk v) (frameTryX v)
    (fun w x s => off = readSrc w x v.a 0 ∧ off.toNat % 128 = 0 ∧ off.toNat + 128 ≤ x.abud ∧ ownPending s w x = false ∧
      cmdFault s w x store ops off (Cmd.of ((s.ownA w x).read off.toNat 128)) = some (.fault c val)) c (fun _ _ _ => val)

/-- A slot passes a station in service whose entry for it is `e`, with the operation `op`. -/
def slotAt (op : Nat) (e : W64) (t : Slot) (tg : Target) (s : State) : Prop :=
  s.passes = true ∧ s.passing s.inp.pass.stn = false ∧ e = s.ring.entry s.inp.pass.stn s.inp.pass.trk s.inp.pass.slot ∧
    entOp e = op ∧ t = s.slotHere ∧ tg = s.target s.inp.pass.stn e ∧ tg ≠ .none

/-- The slot holds an occupancy of the entry's flow on which it may act: not marked, not held elsewhere, its CRC and its header's own
check good. -/
def slotOurs (e : W64) (t : Slot) (tg : Target) (s : State) : Prop :=
  t.cls = 1 ∧ t.flow = entFlow e ∧ (t.hold = true → t.hst = s.inp.pass.stn) ∧ t.crce = false ∧ t.pt = false ∧
    s.passed.holdCause s.inp.pass.stn e tg = none ∧ crc32c t.payload = t.crc ∧ s.inp.flag = false

/-- The slot with its hold cleared. -/
def Slot.free (t : Slot) : Slot := { t with hold := false, dbg := false }

/-- The slot that LOAD leaves: its fragment with a fresh header (R274, R276). -/
def Slot.loaded (t : Slot) (stn : Nat) (e : W64) (fr : List Byte) (seq : W16) : Slot :=
  { t with
    payload := fr, cls := 1, flow := entFlow e, fmt := entFmt e, len := 256, orig := stn, seq := seq, crc := crc32c fr
    hold := false, dbg := false, crce := false, pt := false, nv := false, of_ := false, sat := false }

/-- The slot that best-effort injection leaves. -/
def Slot.best (trk no stn : Nat) (b : Nat × Nat × List Byte) : Slot :=
  { emptySlot trk no with
    cls := 2, orig := stn, len := b.2.2.length, fmt := 3, payload := b.2.2, crc := crc32c b.2.2, dst := b.2.1 }

/-- The ring once the payload `b` of a station has left, with its reservation on the track released. -/
def Ring.leaves (r : Ring) (trk stn : Nat) (b : Nat × Nat × List Byte) : Ring :=
  { r with
    best := r.best.erase b
    slots := (r.slots.map (fun u => if u.trk = trk ∧ u.rsvv ∧ u.rsvs = stn then
      { u with rsvv := false, rsvs := 0, cls := if u.cls = 3 then 0 else u.cls } else u)).filter
        (fun u => u != emptySlot u.trk u.no) }

/-! ## Mailboxes and the privileged instructions (R312 to R324, R348 to R366) -/

/-- MBRCV: its header destination is a fourth operand, its TRY and TP stand at bits 50 and 49:47 (R321). -/
def frameMbrcv (v : WordX) : Frame :=
  { role := v.role, tok := v.tok, guard := v.guard, codes := [v.d, v.a, v.b, field v.low 51 6]
    try_ := if bitAt v.low 50 then some (field v.low 47 3).toNat else none }
/-- IDLE: privileged, with TRY and TP (R366). -/
def frameIdle (v : WordX) : Frame := { frameTryX v with priv := true }

/-- Slot `e` of Sett core `k` of die `d`. -/
def State.epSlot (s : State) (d k e : Nat) : EpSlot := (s.settCore d k).slot e
def State.setEpSlot (s : State) (d k e : Nat) (p : EpSlot) : State := s.modSett d k (fun t => t.setSlot e p)

/-- A ctxid is well formed, names context `c` of a die that the issuer serves, and the context exists (R348, R349). -/
def named (v : W64) (c : CtxId) (y : Ctx) (x : Ctx) (s : State) : Prop :=
  field v 15 49 = 0 ∧ field v 0 2 ≠ 3 ∧ c = idOf v ∧ s.inScope x (dieOf c.cid) = true ∧ s.ctx c = some y
/-- The target of an SWR of a context special: the issuer under SELF, or a context that a ctxid names; it exists (R353). -/
def swrNames (v : WordX) (w : Who) (c : CtxId) (y : Ctx) (x : Ctx) (s : State) : Prop :=
  (bitAt v.low 47 = true ∧ c = w.c ∧ s.ctx c = some y) ∨ (bitAt v.low 47 = false ∧ named (readSrc w x v.b 0) c y x s)
/-- The roles of the context that an SWR by `w` asks for an instruction boundary: all but the issuer (R353). -/
def swrOwn (w : Who) (c : CtxId) : Option Role := if c = w.c then some w.r else none
/-- No other SWR waits at the context, and each of its roles has come to a boundary: since the SWR first asked, where it has waited
(R353). -/
def swrFree (v : WordX) (w : Who) (c : CtxId) (y : Ctx) (x : Ctx) (s : State) : Prop :=
  match y.swr with
  | some q => (q.by_ = w.c ∧ q.role = w.r ∧ q.no = spcNo v ∧ q.trole = spcRole v ∧ q.v = readSrc w x v.a 0 ∧
      q.left.filter (y.offBoundary (swrOwn w c)).contains = []) ∨
      (¬ (q.by_ = w.c ∧ q.role = w.r ∧ q.no = spcNo v ∧ q.trole = spcRole v ∧ q.v = readSrc w x v.a 0) ∧ s.swrWaits q = false ∧
        y.offBoundary (swrOwn w c) = [])
  | none => y.offBoundary (swrOwn w c) = []

/-- A ctxid names core `cid`; NUM is ignored. -/
def namedCore (v : W64) (cid : Nat) (x : Ctx) (s : State) : Prop :=
  field v 15 49 = 0 ∧ cid = (idOf v).cid ∧ s.inScope x (dieOf cid) = true
/-- The core of a special that belongs to no context: the issuer's under SELF; any of the package for PTLO and PTHI; else one that the
issuer serves, NUM counting for WLIMMAX only (R352, R353). -/
def spcCore (v : WordX) (t : W64) (c : CtxId) (w : Who) (x : Ctx) (s : State) : Prop :=
  (bitAt v.low 47 = true ∧ c = w.c) ∨ (bitAt v.low 47 = false ∧ c = idOf t ∧
    (if 0x4E ≤ spcNo v then field t 15 49 = 0 else namedCore t c.cid x s ∧ (spcNo v = 0x42 → field t 0 2 ≠ 3)))
/-- A table location is well formed and lies at a station that the issuer serves (R364). -/
def namedLoc (v : W64) (stn trk slot : Nat) (x : Ctx) (s : State) : Prop :=
  field v 19 45 = 0 ∧ stLoc v = (stn, trk, slot) ∧ s.inScope x (stationUnit stn) = true

/-- A lane result without flags. -/
def bare (x : W32) : Res := ⟨x.toNat, 0⟩

/-! ## The fabric request block (R295) -/

/-- The fields of a ROUTE are valid: package ids 0 to 1056 or 0x7FF for no intermediate, ports 0 to 32. -/
def routeOk (s : State) : Prop :=
  (field (s.arg 0) 0 11).toNat ≤ 1056 ∧ (field (s.arg 1) 0 6).toNat ≤ 32 ∧
    ((field (s.arg 1) 6 11).toNat = 0x7FF ∨ (field (s.arg 1) 6 11).toNat ≤ 1056) ∧ (field (s.arg 1) 17 6).toNat ≤ 32 ∧
    ∀ q ∈ altPaths s, (field q 0 11).toNat ≤ 1056
/-- The fields of a GINST are valid: a window of 2^12 to 2^30 bytes aligned to its size below the information window, 1 to 1057
members, a switch, a valid partition. -/
def ginstOk (s : State) : Prop :=
  12 ≤ (field (s.arg 0) 12 5).toNat ∧ (field (s.arg 0) 12 5).toNat ≤ 30 ∧ 1 ≤ (field (s.arg 0) 21 11).toNat ∧
    (field (s.arg 0) 21 11).toNat ≤ 1057 ∧ (s.arg 1).toNat % 2 ^ (field (s.arg 0) 12 5).toNat = 0 ∧
    (s.arg 1).toNat + 2 ^ (field (s.arg 0) 12 5).toNat ≤ 0xFFFFFF000000 ∧ (field (s.arg 2) 0 11).toNat ≤ 1056 ∧
    (s.part (field (s.arg 0) 32 4).toNat).valid = true

/-! ## Sett cores (R308 to R319) -/

/-- Core `k` of die `d` retires an instruction and goes on at `pc`. -/
def State.settRetired (s : State) (d k : Nat) (pc : W64) : State :=
  s.modSett d k (fun t => { t with pc := pc, instret := t.instret + 1 })

/-- The state in which a Sett instruction acts: another instruction has stepped past a posted mb.step (R319, R454). -/
def State.stepped (s : State) (d k : Nat) : State := s.modSett d k Sett.stepPast

/-- Whenever a Sett core with the registers `t` moves and `pre` holds, the instruction performs `eff` and goes on `len` bytes
later. -/
def Setts (i : Instr) (len : Nat) (pre : Nat → Nat → Sett → State → Prop) (eff : Nat → Nat → Sett → State → State) : Prop :=
  ∀ s d k u t, s.turn = .sett d k → u = s.stepped d k → t = u.settCore d k → pre d k t u →
    exec i s = .next ((eff d k t u).settRetired d k (t.pc + BitVec.ofNat 64 len))

/-- Whenever `pre` holds, the instruction performs `eff` and goes on at `pc`, whose bit 0 is dropped. -/
def SettJumps (i : Instr) (pre : Nat → Nat → Sett → State → Prop) (pc : Sett → W64)
    (eff : Nat → Nat → Sett → State → State) : Prop :=
  ∀ s d k u t, s.turn = .sett d k → u = s.stepped d k → t = u.settCore d k → pre d k t u →
    exec i s = .next ((eff d k t u).settRetired d k (pc t &&& ~~~1#64))

/-- Whenever `pre` holds, the instruction takes an exception. -/
def SettTraps (i : Instr) (pre : Nat → Nat → Sett → State → Prop) (cause : Nat) (val : Sett → W64) : Prop :=
  ∀ s d k u t, s.turn = .sett d k → u = s.stepped d k → t = u.settCore d k → pre d k t u →
    exec i s = .next (u.modSett d k (fun u => u.trap cause false (val t)))

/-- No condition, and no effect beside the program counter. -/
def anySett : Nat → Nat → Sett → State → Prop := fun _ _ _ _ => True
def noEffect : Nat → Nat → Sett → State → State := fun _ _ _ s => s

/-- A policy may use the mailbox of its slot, which is `p` (R317, R318). -/
def mbUse (p : EpSlot) (t : Sett) : Prop :=
  t.mode ≠ .m ∧ p = t.slot t.kjepi ∧ p.state ≠ .closed ∧ p.state ≠ .stopped

/-- Delivers the action that the slot of `u` has at its head, with the buffer written: `e`, the slot `q` after it, and the state
after the store (R319). -/
def delivers (d k : Nat) (a : W64) (e : ActEnt) (q : EpSlot) (u z : State) : Prop :=
  ((u.settCore d k).slot (u.settCore d k).kjepi).enter.receive = some (e, q) ∧
    (u.modSlot d k (fun _ => q.unposted (u.settCore d k).mode.code)).settWrite d k a e.payload = .ok z

/-! ## What an instruction leaves -/

/-- `y` is `x` after role `r` has executed an instruction with the destination `d` that names the operand codes `codes`:
of the role, its scalars and predicates but for `d`, its loops and return stack and its state stand, and no flag is cleared;
of the context, every q-register that is not named; the program counter, the section counts, the A-trace and the waits of
the role, the token counts, the WIN in force, what an SWR still awaits (R353) and the LFSRs may have gone on. -/
structure Leaves (y x : Ctx) (r : Role) (d : BitVec 6) (codes : List (BitVec 6)) : Prop where
  ctx : y = { x.setRole r (y.role r) with toks := y.toks, winGov := y.winGov, swr := y.swr, qs := y.qs, lfsr := y.lfsr, nextId := y.nextId }
  scalars : ∀ n < 32, n ≠ d.toNat → (y.role r).s n = (x.role r).s n
  preds : ∀ n < 8, n + 48 ≠ d.toNat → (y.role r).p n = (x.role r).p n
  loops : (y.role r).loops = (x.role r).loops
  ret : (y.role r).ret = (x.role r).ret
  flags : (x.role r).flg &&& (y.role r).flg = (x.role r).flg
  qregs : ∀ q < 16, (∀ c ∈ d :: codes, c.toNat ≠ q + 32) → y.q q = x.q q
  stands : (y.role r).halted = (x.role r).halted ∧ (y.role r).active = (x.role r).active ∧
    (y.role r).dbgHalt = (x.role r).dbgHalt

/-- Of the whole machine nothing but the role's context changes, beside what its token pops do (R77, R182), and of that context what
`Leaves` says, whenever the instruction issues, its role goes on to `dest`, and `pre` holds. -/
def Frames (i : Instr) (f : Frame) (d : BitVec 6) (codes : List (BitVec 6)) (pre : Who → Ctx → State → Prop) : Prop :=
  ∀ (s : State) (w : Who) (x : Ctx) (dest : Pos), Issues i f s w x → Falls f s w x dest →
    pre w (f.popped w x) (s.popped f w x) → s.calm w.c.cid → ∃ y, exec i s = .next ((s.popped f w x).setCtx w.c y) ∧ Leaves y x w.r d codes

/-- A scalar instruction, which touches no q-register and no LFSR either. -/
def FramesS (mk : WordS → Instr) : Prop :=
  ∀ v (s : State) (w : Who) (x : Ctx) (dest : Pos), Issues (mk v) (frameS v) s w x → Falls (frameS v) s w x dest →
    s.calm w.c.cid →
    ∃ y, exec (mk v) s = .next ((s.popped (frameS v) w x).setCtx w.c y) ∧ Leaves y x w.r v.d [] ∧ y.qs = x.qs ∧ y.lfsr = x.lfsr ∧ y.nextId = x.nextId

/-- A vector instruction with `n` sources. -/
def FramesV (mk : WordV → Instr) (n : Nat) : Prop := ∀ v, Frames (mk v) (frameV v) v.d [v.a, v.b, v.c] (vReady v n)

/-- A privileged opcode (R87, R348). -/
def privOp (i : Instr) : Bool :=
  match encodeWord i with
  | some w => decide (0x380 ≤ opcOf w) && decide (opcOf w ≤ 0x38F)
  | none => false

/-- The opcode is of class 00 or 01, or it is BIDB or BIDA: the instruction commits in one step, at retirement (R87, R102, R131,
R216). -/
def commitsWhole (i : Instr) : Bool :=
  match encodeWord i with
  | some w => decide (opcOf w < 0x200) || opcOf w == 0x223 || opcOf w == 0x224
  | none => false

/-- Role `w` moves now, and executes `i` (R36). -/
structure Executes (i : Instr) (h : Head) (s : State) (w : Who) (x : Ctx) : Prop where
  turn : s.turn = .role w.c w.r
  ctx : s.ctx w.c = some x
  head : headOf i = some h
  own : h.role.toNat = Role.code w.r ∨ h.role = 0b11#2

/-- The context as a precise fault of a role leaves it (R369). -/
def Ctx.entered (x : Ctx) (r : Role) (cause : Nat) : Ctx :=
  { x.unreserve with
    state := .trapped, rl := x.rl.stop, rc := x.rc.stop, rs := x.rs.stop,
    trap := some (Role.code r, cause, (x.role r).pc, false) }

/-- The record of a precise fault of a role (R370). -/
def State.faultRec (s : State) (w : Who) (x : Ctx) (cause : Nat) (val : W64) : TrapRec :=
  ⟨w.c, Role.code w.r, cause, false, 0, s.rcbOf x, [x.rl.pc, x.rc.pc, x.rs.pc], val, s.time (dieOf w.c.cid), s.cyc w.c.cid⟩

/-! ## What every step keeps -/

/-- The fields of a power group lie in their ranges (R424). -/
def PowerGroup.inRange (p : PowerGroup) : Bool :=
  decide (100 ≤ p.gcap) && decide (p.gcap ≤ 1750) && decide (2 ≤ p.drpcad) && decide (p.drpcad ≤ 63) &&
    decide (1 ≤ p.cadreq) && decide (p.cadreq ≤ 63)

/-- The fields of the power table lie in their ranges, and each start rank is used once (R424, R425, R428). -/
def Power.inRange (p : Power) : Bool :=
  decide (p.thawStep ≤ 1000) && decide (p.thawPod ≤ 15) && decide (1 ≤ p.dstep) && decide (p.dstep ≤ 64) && decide (1 ≤ p.step) &&
    decide (p.step ≤ 64) && decide (1 ≤ p.floor) && decide (p.floor ≤ 64) && decide (p.pcap ≤ 28000) &&
    decide (p.ord.length = 16) && (List.range 16).all (fun r => p.ord.contains r) && p.groups.toList.all PowerGroup.inRange

/-- Package memory `m` keeps its canonical form, the power table `p` its ranges, and residue checking and scrubbing are off only
in debug mode (R401, R440). -/
def Keeping (m : Mem) (p : Power) (dbgm nores noscrb : Bool) : Prop :=
  m.wf = true ∧ p.inRange = true ∧ ((nores || noscrb) = true → dbgm = true)

/-- The invariant of the machine. -/
def State.Governed (s : State) : Prop := Keeping s.hbm s.power s.host.dbgm s.host.nores s.host.noscrb

end Sys2Proof.Machine
end

