-- ==== Sys2Proof/WellFormed.lean ====
section
/-! DEFINITION. Well-formed instructions: those that pass the decode checks of R89 that read the word alone. A device row
and a Sett row are always well-formed: their checks are the row's own. -/

namespace Sys2Proof

/-- The instruction passes steps 1, 3 and 4 of R89. -/
abbrev WellFormed (i : Instr) : Prop := violation i = none

end Sys2Proof
end

