-- ==== Sys2Proof/Certificates/Slice0/Obligations.lean ====
section
/-! DEFINITION. The statements for the provers. -/

section

open Sys2Proof Sys2Proof.Machine

/-- ADD, SUB and MUL under their modifiers, MULH and MULHN, the divisions and remainders with their corners, the logical, shift,
minimum, maximum, count, reverse, extension and bit-field instructions, LIM, LIMH and LEA: for every word, whenever the role
issues it with nothing in its way, exec answers the next state in which d holds the stated function of the source values and
the role goes on at the following word. (05_scalar.md R103, 05_scalar.md R104, 05_scalar.md R106, 03_numbers.md R72) -/
def Obligations.IntegerResults : Prop :=
  ComputesF .add (fun v a b => arith (· + ·) v.mod a b) ∧ ComputesF .sub (fun v a b => arith (· - ·) v.mod a b) ∧
  ComputesF .mul (fun v a b => arith (· * ·) v.mod a b) ∧
  Computes .mulh (fun _ a b => BitVec.ofInt 64 (a.toInt * b.toInt / 2 ^ 64)) ∧
  Computes .mulhn (fun _ a b => BitVec.ofNat 64 (a.toNat * b.toNat / 2 ^ 64)) ∧
  Computes .div (fun _ a b => if b = 0 then -1 else BitVec.ofInt 64 (a.toInt.tdiv b.toInt)) ∧
  Computes .divn (fun _ a b => if b = 0 then -1 else a / b) ∧
  Computes .rem (fun _ a b => if b = 0 then a else BitVec.ofInt 64 (a.toInt.tmod b.toInt)) ∧
  Computes .remn (fun _ a b => if b = 0 then a else a % b) ∧
  Computes .and (fun _ a b => a &&& b) ∧ Computes .or (fun _ a b => a ||| b) ∧ Computes .xor (fun _ a b => a ^^^ b) ∧
  Computes .andn (fun _ a b => a &&& ~~~b) ∧ Computes .orn (fun _ a b => a ||| ~~~b) ∧
  Computes .shl (fun v a b => if bitAt v.mod 0 then ((a.setWidth 32) <<< (b.toNat % 32)).signExtend 64 else a <<< (b.toNat % 64)) ∧
  Computes .shr (fun v a b => if bitAt v.mod 0 then ((a.setWidth 32) >>> (b.toNat % 32)).signExtend 64 else a >>> (b.toNat % 64)) ∧
  Computes .sra (fun v a b =>
    if bitAt v.mod 0 then ((a.setWidth 32).sshiftRight (b.toNat % 32)).signExtend 64 else a.sshiftRight (b.toNat % 64)) ∧
  Computes .rotl (fun v a b =>
    if bitAt v.mod 0 then ((a.setWidth 32).rotateLeft (b.toNat % 32)).signExtend 64 else a.rotateLeft (b.toNat % 64)) ∧
  Computes .min (fun _ a b => if a.toInt < b.toInt then a else b) ∧ Computes .max (fun _ a b => if b.toInt < a.toInt then a else b) ∧
  Computes .minn (fun _ a b => if a.toNat < b.toNat then a else b) ∧
  Computes .maxn (fun _ a b => if b.toNat < a.toNat then a else b) ∧
  Computes .clz (fun _ a _ => BitVec.ofNat 64 (clzNat 64 a.toNat)) ∧ Computes .ctz (fun _ a _ => BitVec.ofNat 64 (ctzNat 64 a.toNat)) ∧
  Computes .popc (fun _ a _ => BitVec.ofNat 64 (popNat 64 a.toNat)) ∧ Computes .brev (fun _ a _ => a.reverse) ∧
  Computes .bswap (fun _ a _ => wordOfBytes 64 (bytesOf a 8).reverse) ∧
  Computes .sext (fun v a _ => (a.setWidth (extWidth v.mod)).signExtend 64) ∧
  Computes .zext (fun v a _ => (a.setWidth (extWidth v.mod)).setWidth 64) ∧
  Computes .bfx (fun v a _ => if bitAt v.mod 0 then (a.extractLsb' (bfPos v) (bfLen v)).signExtend 64
    else (a.extractLsb' (bfPos v) (bfLen v)).setWidth 64) ∧
  Computes .bfi (fun v a b => bfi (bfPos v) (bfLen v) a b) ∧
  Computes .lim (fun v _ _ => imm64 v) ∧ Computes .limh (fun v a _ => (field v.imm 0 16 : W16) ++ (field a 0 48 : BitVec 48)) ∧
  Computes .lea (fun v a b => a + (b <<< (field v.mod 0 3).toNat) + imm64 v)

/-- A comparison or a truth table of predicates writes a predicate or a scalar; SEL chooses by a predicate; PMOV moves
predicates and scalars; MFS reads a user special, but for an MFS of FLG by the C role while array commands that record flags
are queued; MTS writes a user special whose value is admitted. (05_scalar.md R107, 05_scalar.md R108, 05_scalar.md R109,
05_scalar.md R110, 05_scalar.md R111) -/
def Obligations.PredicatesAndSpecials : Prop :=
  Decides .cmp (fun v w x => condOf (field v.mod 0 4).toNat (readSrc w x v.a (imm64 v)) (readSrc w x v.b (imm64 v))) ∧
  Decides .plog (fun v w x =>
    bitAt (field v.mod 0 4) (2 * (readPred w x v.a).toNat + (readPred w x v.b).toNat)) ∧
  (∀ v, Completes (.sel v) (frameS v) anyCtx (fun w x s => s.setS w v.d.toNat
    (if (x.role w.r).p (field v.mod 0 3).toNat != bitAt v.mod 3 then readSrc w x v.a (imm64 v) else readSrc w x v.b (imm64 v)))) ∧
  (∀ v, Completes (.pmov v) (frameS v) anyCtx (fun w x s =>
    if bitAt v.mod 0 then
      if isScalar v.d then s.setS w v.d.toNat (((x.role w.r).preds ||| 1).setWidth 64)
      else s.modRole w (fun r => { r with preds := ((readSrc w x v.a (imm64 v)).setWidth 8) ||| 1 })
    else if isPred v.d then s.setP w (v.d.toNat - 48) (readSrc w x v.a (imm64 v) != 0)
    else s.setS w v.d.toNat (if readPred w x v.a then 1 else 0))) ∧
  (∀ v, Completes (.mfs v) (frameS v) (fun w x _ => ¬ (v.mod = 0x0B#9 ∧ w.r = .c ∧ flgBusy x = true))
    (fun w x s => s.setS w v.d.toNat (userSpecial s w.c x w.r v.mod.toNat))) ∧
  (∀ v y, Completes (.mts v) (frameS v)
    (fun w x s => setUserSpecial s w.c x w.r v.mod.toNat (readSrc w x v.a (imm64 v)) = some y) (fun w _ s => s.setCtx w.c y)) ∧
  (∀ v, Raises (.mts v) (frameS v)
    (fun w x s => setUserSpecial s w.c x w.r v.mod.toNat (readSrc w x v.a (imm64 v)) = none) cRange
    (fun w x _ => readSrc w x v.a (imm64 v)))

/-- A taken transfer to a permitted place goes to its target; a CALL puts the word after it on the return stack, a RET takes the
newest address off it; LOOP enters its body with the counter, trip 1 and the bound, or goes past it where the count is not
positive; NEXT goes back while the counter is above 1, and falls through with 0. A CALL on a full stack and a RET on an
empty one raise the return-stack fault, a NEXT past its bound the bound-overflow fault. (05_scalar.md R115, 05_scalar.md
R116, 05_scalar.md R118, 02_execution.md R41) -/
def Obligations.Transfers : Prop :=
  (∀ v, Jumps (.br v) (frameB v) false false anyCtx (fun _ _ _ => targetOf v) (fun _ _ s => s)) ∧
  (∀ v, Jumps (.brp v) (frameB v) false false (fun w x _ => readPred w x v.cond ≠ bitAt v.mod 0) (fun _ _ _ => targetOf v)
    (fun _ _ s => s)) ∧
  (∀ v, Completes (.brp v) (frameB v) (fun w x _ => readPred w x v.cond = bitAt v.mod 0) (fun _ _ s => s)) ∧
  (∀ v, Jumps (.call v) (frameB v) true false (fun w x _ => (x.role w.r).ret.length < 16)
    (fun _ _ _ => targetOf v)
    (fun w _ s => s.modRole w (fun r => { r with ret := ⟨r.pc.sec, r.pc.word + 1⟩ :: r.ret }))) ∧
  (∀ v, Raises (.call v) (frameB v) (fun w x _ => 16 ≤ (x.role w.r).ret.length) cReturn (fun _ _ _ => 0)) ∧
  (∀ v p l, Jumps (.ret v) (frameS v) false true (fun w x _ => (x.role w.r).ret = p :: l)
    (fun _ x s => landing (s.textOf x) p) (fun w _ s => s.modRole w (fun r => { r with ret := l }))) ∧
  (∀ v, Raises (.ret v) (frameS v) (fun w x _ => (x.role w.r).ret = []) cReturn (fun _ _ _ => 0)) ∧
  (∀ v n, Completes (.loop v) (frameB v)
    (fun w x _ => n = (if isImm v.cond then v.count.setWidth 64 else readSrc w x v.cond 0) ∧ 0 < n.toInt)
    (fun w _ s => s.setLoop w (field v.mod 0 2).toNat ⟨n, 1, v.count.toNat⟩)) ∧
  (∀ v, Jumps (.loop v) (frameB v) false false
    (fun w x _ => (if isImm v.cond then v.count.setWidth 64 else readSrc w x v.cond 0).toInt ≤ 0) (fun _ _ _ => targetOf v)
    (fun _ _ s => s)) ∧
  (∀ v l, Completes (.next v) (frameB v) (fun w x _ => (x.role w.r).loop (field v.mod 0 2).toNat = l ∧ l.l = 1)
    (fun w _ s => s.setLoop w (field v.mod 0 2).toNat { l with l := 0 })) ∧
  (∀ v l, Jumps (.next v) (frameB v) false false
    (fun w x _ => (x.role w.r).loop (field v.mod 0 2).toNat = l ∧ l.l ≠ 1 ∧ l.l ≠ 0 ∧ (l.bnd = 0 ∨ l.trip ≠ l.bnd))
    (fun _ _ _ => targetOf v)
    (fun w _ s => s.setLoop w (field v.mod 0 2).toNat { l with l := l.l - 1, trip := l.trip + 1 })) ∧
  (∀ v l, Raises (.next v) (frameB v)
    (fun w x _ => (x.role w.r).loop (field v.mod 0 2).toNat = l ∧ (l.l = 0 ∨ (l.l ≠ 1 ∧ l.bnd ≠ 0 ∧ l.trip = l.bnd))) cBoundOver
    (fun _ _ _ => 0))

/-- NOP and a hint do nothing; an untagged QPT does nothing and an A-tagged one, at which every live role stands with empty
queues, retires them all and takes the events held off; HALT halts its role, or ends a drained context with empty queues;
BQS and BQR push and read a broadcast predicate; WAITC completes once its clock has come; YLD yields the cycles that its
source names, at most 4,095, and completes once they have gone by; TRAP and BKPT are trapped at the word that follows, or
BKPT halts the role under DBGEN; LDP reads the pool. (05_scalar.md R119, 05_scalar.md R121, 05_scalar.md R122, 05_scalar.md
R123, 05_scalar.md R124, 05_scalar.md R125, 05_scalar.md R126, 02_execution.md R45, 04_encoding.md R89, 04_encoding.md R90) -/
def Obligations.WaitsAndStops : Prop :=
  (∀ v, Completes (.nop v) (frameS v) anyCtx (fun _ _ s => s)) ∧
  (∀ n v, Completes (.hint n v) ⟨v.role, v.tok, 0, [], false, none, false, true⟩ anyCtx (fun _ _ s => s)) ∧
  (∀ (v : Word96) (s : State) (w : Who) (x : Ctx), s.turn = .role w.c w.r → s.ctx w.c = some x →
    (field v 94 2 = 0b11#2 ∨ (field v 94 2).toNat = Role.code w.r) → exec (.unassignedOpcode v) s = .next (s.raise w cIllegal 0)) ∧
  (∀ v, v.role ≠ 0b11#2 → Completes (.qpt v) (frameS v) anyCtx (fun _ _ s => s)) ∧
  (∀ v (s : State) (w : Who) (x : Ctx) (dest : Pos), v.role = 0b11#2 → Issues (.qpt v) (frameS v) s w x → Falls (frameS v) s w x dest →
    v.tok = 0 → allAt x w.r = true → x.flights = [] → (x.async.any (·.isSave) = true → s.saveReady w.c x = true) → x.queuesEmpty = true →
    exec (.qpt v) s = .next (((retireOthers s w x).retire w (restOf 0 none (x.role w.r).pc dest false false true)).takeAsync w.c 0)) ∧
  (∀ v e, Answers (.halt v) (frameS v)
    (fun w x s => othersLive x w.r = true ∧ retireWait (s.core w.c.cid) (s.textOf x) x w e = none ∧
      e = ⟨v.tok, none, (x.role w.r).pc, none, none, if (frameS v).isA then some (x.role w.r).pc else none⟩)
    (fun w x s => (s.setCtx w.c { x.haltRole w.r with leaseAsk := x.leaseAsk && w.r != .c }).retire w e)) ∧
  (∀ v, Answers (.halt v) (frameS v)
    (fun w x s => othersLive x w.r = false ∧ x.drained s w.c = true ∧ x.queuesEmpty = true)
    (fun w x s => (s.setCtx w.c ((x.haltRole w.r).setRole w.r { (x.haltRole w.r).role w.r with wait := none })).finishCtx w.c)) ∧
  (∀ v, Raises (.halt v) (frameS v)
    (fun w x s => othersLive x w.r = false ∧ x.drained s w.c = true ∧ x.queuesEmpty = false) cQuiet
    (fun _ _ _ => 0)) ∧
  (∀ v e, Completes (.bqs v) (frameTryS v)
    (fun w x _ => x.bf.length < 8 ∧ e = ⟨readPred w x v.a != bitAt v.mod 0, w.r,
      Role.all.filter (fun y => y != w.r && (x.role y).live)⟩)
    (fun w x s => if e.readers = [] then s else s.setCtx w.c { x with bf := x.bf ++ [e] })) ∧
  (∀ v b l, Completes (.bqr v) (frameTryS v) (fun w x _ => readBf x.bf w.r = some (b, l))
    (fun w x s => (s.setCtx w.c { x with bf := l }).setP w (v.d.toNat - 48) b)) ∧
  (∀ v, Completes (.waitc v) (frameTryS v) (fun w x s => (readSrc w x v.a (imm64 v)).toNat ≤ (waitClock v s w.c).toNat)
    (fun _ _ s => s)) ∧
  (∀ v, Completes (.yld v) (frameS v) (fun w x _ => (x.role w.r).yieldLeft = some 0 ∨
      (x.role w.r).yieldLeft = none ∧ readSrc w x v.a (imm64 v) = 0) (fun _ _ s => s)) ∧
  (∀ v, Answers (.yld v) (frameS v) (fun w x _ => (x.role w.r).yieldLeft = none ∧ readSrc w x v.a (imm64 v) ≠ 0)
    (fun w x s => s.modRole w (fun r =>
      { r with yieldLeft := some (Nat.min (readSrc w x v.a (imm64 v)).toNat 4095), wait := none }))) ∧
  (∀ v (s : State) (w : Who) (x : Ctx) (dest : Pos), Issues (.trap v) (frameS v) s w x → Falls (frameS v) s w x dest → x.state = .run →
    exec (.trap v) s = .next (((frameS v).finish w (x.role w.r).pc dest none (s.popped (frameS v) w x)).deliver w.c
      (Role.code w.r) cTrap (trapCode v) 0 true)) ∧
  (∀ v (s : State) (w : Who) (x : Ctx) (dest : Pos), Issues (.bkpt v) (frameS v) s w x → Falls (frameS v) s w x dest → x.state = .run →
    x.dbgen = false → exec (.bkpt v) s = .next (((frameS v).finish w (x.role w.r).pc dest none (s.popped (frameS v) w x)).deliver w.c
      (Role.code w.r) cBkpt (trapCode v) 0 true)) ∧
  (∀ v, Answers (.bkpt v) (frameS v) (fun _ x _ => x.dbgen = true) (fun w _ s => s.modRole w (fun r => { r with dbgHalt := true }))) ∧
  (∀ v sec n a, Completes (.ldp v) (frameS v)
    (fun w x s => sectionOf (s.textOf x) (field v.imm 40 8).toNat = some sec ∧ n = 2 ^ (field v.mod 0 2).toNat ∧
      a = (field v.imm 0 32).setWidth 64 + readSrc w x v.a 0 ∧ a.toNat % n = 0 ∧ a.toNat + n ≤ sec.body.length ∧
      x.textBad (field v.imm 40 8).toNat a.toNat n = false)
    (fun w _ s => s.setS w v.d.toNat (if bitAt v.mod 2 then w64 (signed (8 * n) (numAt sec.body a.toNat n))
      else BitVec.ofNat 64 (numAt sec.body a.toNat n))))

/-- VADD, VSUB, VMUL, VFMA, VFMS, VFNMA, VDIV and VSQRT round each enabled lane once in the mode of the word; VMIN, VMAX, VABS
and VNEG pick or change a sign; VRCP, VRSQ, VEXP2 and VLOG2 run their fixed sequences. Whenever the role issues one with its
sources present and room in the destination, exec answers the next state with these lanes; a disabled lane receives zero and
raises no flag. (06_vector.md R129, 06_vector.md R130, 06_vector.md R133, 06_vector.md R134, 06_vector.md R135,
03_numbers.md R60) -/
def Obligations.VectorFloat : Prop :=
  VFloat .vadd 2 (fun m a b _ u => fAdd fmtF32 m a b u) ∧ VFloat .vsub 2 (fun m a b _ u => fAdd fmtF32 m a b.negate u) ∧
  VFloat .vmul 2 (fun m a b _ u => fMul fmtF32 m a b u) ∧ VFloat .vfma 3 (fun m a b c u => fFma fmtF32 m a b c u) ∧
  VFloat .vfms 3 (fun m a b c u => fFma fmtF32 m a b c.negate u) ∧ VFloat .vfnma 3 (fun m a b c u => fFma fmtF32 m a.negate b c u) ∧
  VFloat .vdiv 2 (fun m a b _ u => fDiv fmtF32 m a b u) ∧ VFloat .vsqrt 1 (fun m a _ _ u => fSqrt fmtF32 m a u) ∧
  VLanes .vmin 2 (fun _ a b _ => fPick false a b) ∧ VLanes .vmax 2 (fun _ a b _ => fPick true a b) ∧
  VLanes .vabs 1 (fun _ a _ _ => fSign (fun x => x &&& 0x7FFFFFFF#32) a) ∧
  VLanes .vneg 1 (fun _ a _ _ => fSign (fun x => x ^^^ 0x80000000#32) a) ∧
  VLanes .vrcp 1 (fun _ a _ _ => Machine.vrcp (f32 a)) ∧ VLanes .vrsq 1 (fun _ a _ _ => Machine.vrsq (f32 a)) ∧
  VLanes .vexp2 1 (fun _ a _ _ => Machine.vexp2 (f32 a)) ∧ VLanes .vlog2 1 (fun _ a _ _ => Machine.vlog2 (f32 a))

/-- The wrapping, high-half, saturating, minimum, maximum and absolute-value operations under the type of the word, the shifts
by the count modulo 32, the logical operations and the bit counts. (06_vector.md R130, 06_vector.md R140, 06_vector.md R141) -/
def Obligations.VectorInteger : Prop :=
  VLanes .viadd 2 (fun _ a b _ => bare (a + b)) ∧ VLanes .visub 2 (fun _ a b _ => bare (a - b)) ∧
  VLanes .vimul 2 (fun _ a b _ => bare (a * b)) ∧ VLanes .vimad 3 (fun _ a b c => bare (a * b + c)) ∧
  VLanes .vimulh 2 (fun v a b _ => bare (BitVec.ofInt 32 (iVal v a * iVal v b / 2 ^ 32))) ∧
  VLanes .vsadd 2 (fun v a b _ => iSat v (iVal v a + iVal v b)) ∧ VLanes .vssub 2 (fun v a b _ => iSat v (iVal v a - iVal v b)) ∧
  VLanes .vimin 2 (fun v a b _ => bare (if iVal v b < iVal v a then b else a)) ∧
  VLanes .vimax 2 (fun v a b _ => bare (if iVal v a < iVal v b then b else a)) ∧
  VLanes .viabs 1 (fun v a _ _ => iSat v (a.toInt.natAbs : Nat)) ∧
  VLanes .vshl 2 (fun _ a b _ => bare (a <<< (b.toNat % 32))) ∧ VLanes .vshr 2 (fun _ a b _ => bare (a >>> (b.toNat % 32))) ∧
  VLanes .vsra 2 (fun _ a b _ => bare (a.sshiftRight (b.toNat % 32))) ∧
  VLanes .vand 2 (fun _ a b _ => bare (a &&& b)) ∧ VLanes .vor 2 (fun _ a b _ => bare (a ||| b)) ∧
  VLanes .vxor 2 (fun _ a b _ => bare (a ^^^ b)) ∧ VLanes .vpopc 1 (fun _ a _ _ => bare (BitVec.ofNat 32 (popNat 32 a.toNat))) ∧
  VLanes .vclz 1 (fun _ a _ _ => bare (BitVec.ofNat 32 (clzNat 32 a.toNat)))

/-- VCVT converts each enabled lane; VPACK and VUNPK move between dense elements and lanes; VQBFP quantises 128 values into four
blocks in plane layout and VDQBFP reads them back; VMOV, VINS, VPERM, VROT, VCMPR and VEXPD move lanes, VEXT a lane into a
scalar, and VSEL chooses by a mask. (06_vector.md R144, 06_vector.md R145, 06_vector.md R146, 06_vector.md R147,
06_vector.md R148, 06_vector.md R149, 06_vector.md R150) -/
def Obligations.VectorConvertAndMove : Prop :=
  VComputes .vcvt 1 (fun v m => perLaneR m (v.rm == 4 && !neverRounds (field v.imm 0 5) v.type)
    (fun i u => convElem (field v.imm 0 5) v.type (rmOf v) (bitAt v.imm 5) (lane m.a i).toNat u)) ∧
  VComputes .vpack 2 (fun v m =>
    if codeBits v.type = 16 then fromDense m 2 (fun k => (if k < 64 then lane m.a k else lane m.b (k - 64)).toNat)
    else fromDense m 1 (fun k => if k < 128 then denseAt m.a 2 k else denseAt m.b 2 (k - 128))) ∧
  VComputes .vunpk 1 (fun v m =>
    if codeBits v.type = 16 then
      perLane m (fun i => ⟨lowBits 32 (intOfCode v.type (denseAt m.a 2 (64 * (field v.imm 0 1).toNat + i))), 0⟩)
    else fromDense m 2 (fun k => lowBits 16 (intOfCode v.type (denseAt m.a 1 (128 * (field v.imm 0 1).toNat + k))))) ∧
  VComputes .vqbfp 2 (fun v m =>
    let u1 := fun i => lfsrStep (lfsrAt m.lfsr i)
    let u2 := fun i => lfsrStep (u1 i)
    let xs := laneIx.map (fun i => (f32 (lane m.a i), u1 i)) ++ laneIx.map (fun i => (f32 (lane m.b i), u2 i))
    let bs := (blocks4 xs).map (toBlock (blockHalf v.type) (blockWidth v.type) (rmOf v))
    { lanes := bytesLanes (planeRow (blockWidth v.type) bs), fl := bs.foldl (fun f b => f ||| b.flags) 0,
      lfsr := if v.rm = 4 then laneIx.map u2 else m.lfsr }) ∧
  VComputes .vdqbfp 1 (fun v m => perLane m (fun i => fConv fmtF32 .rne false
    (planeVal (blockHalf v.type) (blockWidth v.type) (laneBytes m.a) (64 * (field v.imm 0 1).toNat + i)) 0)) ∧
  VLanes .vmov 1 (fun _ a _ _ => bare a) ∧
  VComputes .vins 3 (fun _ m => perLane m (fun i => bare (if i = (lane m.c 0).toNat % 64 then lane m.b i else lane m.a i))) ∧
  VComputes .vext 2 (fun v m =>
    { sc := if v.type = 2 then (lane m.a ((lane m.b 0).toNat % 64)).signExtend 64
    else (lane m.a ((lane m.b 0).toNat % 64)).setWidth 64, lfsr := m.lfsr }) ∧
  VComputes .vperm 2 (fun _ m => perLane m (fun i => bare (lane m.a ((lane m.b i).toNat % 64)))) ∧
  VComputes .vrot 2 (fun _ m => perLane m (fun i => bare (lane m.a ((i + 64 - (lane m.b 0).toNat % 64) % 64)))) ∧
  VComputes .vcmpr 1 (fun _ m =>
    { lanes := laneIx.map (fun i => (m.enabled[i]?.map (fun j => lane m.a j)).getD 0), lfsr := m.lfsr }) ∧
  VComputes .vexpd 1 (fun _ m => perLane m (fun i => bare (lane m.a (m.enabled.countP (· < i))))) ∧
  (∀ v, Completes (.vsel v) (frameV v) (vReady v 2) (fun w x s => vOut v 2 w x (perLane (vIn v 2 w x) (fun i =>
    bare (if bitAt ((x.role w.r).s v.c.toNat) i then lane (vIn v 2 w x).a i else lane (vIn v 2 w x).b i))) s))

/-- VCMP and VICMP give a mask of the enabled lanes that meet the condition, NV where a source is a signalling NaN; VRED
combines the lanes in the fixed tree of six levels, a disabled lane replaced by the identity; VSCAN runs in lane order,
inclusive or exclusive; VARG finds the first lane that no other outranks, or −1. (06_vector.md R142, 06_vector.md R143,
06_vector.md R151, 06_vector.md R152, 06_vector.md R153) -/
def Obligations.VectorToScalar : Prop :=
  VComputes .vcmp 2 (fun v m =>
    { sc := maskOf m (fun i => condF (field v.imm 0 4).toNat (f32 (lane m.a i)) (f32 (lane m.b i))),
      fl := flagIf (laneIx.any (fun i => m.en i && ((f32 (lane m.a i)).isSnan || (f32 (lane m.b i)).isSnan))) fNV, lfsr := m.lfsr }) ∧
  VComputes .vicmp 2 (fun v m =>
    { sc := maskOf m (fun i => condOf (field v.imm 0 4).toNat (lane m.a i) (lane m.b i)), lfsr := m.lfsr }) ∧
  VComputes .vred 1 (fun v m =>
    let op := (field v.imm 0 4).toNat
    let r := treeRed (redOp op v.type) (laneIx.map (fun i => if m.en i then lane m.a i else redId op v.type))
    { sc := if v.type = 2 then r.1.signExtend 64 else r.1.setWidth 64, fl := r.2, lfsr := m.lfsr }) ∧
  VComputes .vscan 1 (fun v m =>
    let op := (field v.imm 0 4).toNat
    let r := laneIx.foldl (scanStep m op v.type (bitAt v.imm 4)) ([], redId op v.type, 0)
    { lanes := r.1.reverse, fl := r.2.2, lfsr := m.lfsr }) ∧
  VComputes .varg 1 (fun v m =>
    { sc := ((argBest v m).map (fun i => BitVec.ofNat 64 i)).getD (-1),
      fl := flagIf (m.enabled.any (fun i => v.type == 8 && (f32 (lane m.a i)).isSnan)) fNV, lfsr := m.lfsr })

/-- For each of the six spaces, a load that has its place under checks 1 to 4 of R175, is not held by an earlier access of its
role, and finds fewer than 32 flights, leaves one flight more with its place, its width and its destination, reserves a
q-register entry where it names one, acquires at once where it is an L load in acquire order that is performed at its issue,
and falls through; its token pushes wait for the flight's data. (07_memory.md R160, 07_memory.md R163, 07_memory.md R164) -/
def Obligations.LoadsIssue : Prop :=
  Loads .ldl .l ∧ Loads .ldk .k ∧ Loads .ldg .g ∧ Loads .ldf .f ∧ Loads .ldo .o ∧ Loads .ldh .h

/-- For each of the six spaces, a store that has its place and room puts one entry at the end of its core's store buffer, with
that place, the address it names and the bytes of its register or of the entry at the head of its q-register, and falls
through. Nothing else of the machine changes. (07_memory.md R160, 07_memory.md R163, 07_memory.md R165) -/
def Obligations.StoresAccepted : Prop :=
  Stores .stl .l ∧ Stores .stk .k ∧ Stores .stg .g ∧ Stores .stf .f ∧ Stores .sto .o ∧ Stores .sth .h

/-- The fault that the place of the access gives (address form, alignment, buffer bound, cluster peer, translation, protection)
is raised at the instruction, before its token pops. An LDH on a link that is down raises the host-access fault and sets LDN
of its port. (07_memory.md R160, 07_memory.md R162, 07_memory.md R175, 22_host.md R439) -/
def Obligations.AccessFaults : Prop :=
  PlaceFaults .ldl .l false ∧ PlaceFaults .stl .l true ∧ PlaceFaults .ldk .k false ∧ PlaceFaults .stk .k true ∧
  PlaceFaults .ldg .g false ∧ PlaceFaults .stg .g true ∧ PlaceFaults .ldf .f false ∧ PlaceFaults .stf .f true ∧
  PlaceFaults .ldo .o false ∧ PlaceFaults .sto .o true ∧ PlaceFaults .ldh .h false ∧ PlaceFaults .sth .h true ∧
  (∀ v port val (s : State) (w : Who) (x : Ctx), Issues (.ldh v) (frameM v) s w x →
    place (s.popped (frameM v) w x) w ((frameM v).popped w x) (accOf .h v w ((frameM v).popped w x) false) = .down port val →
    exec (.ldh v) s = .next ((s.modWindow x.part port (fun h => { h with pests := h.pests ||| 0b10000#5 })).raise w cHost val))

/-- LDLX reads 64 offsets from its index entry and reserves its destination; STLX puts one store of 64 pieces in the store
buffer, in lane order; PFG fills the lines it names and faults on nothing; an atomic leaves a flight with its operation, its
operands and its place; a FENCE whose releases and acquires have nothing to wait for completes, a release carrying what
happens before it to its scope, an acquire applying its core's invalidations. (07_memory.md R170, 07_memory.md R171,
07_memory.md R172, 07_memory.md R173, 08_ordering.md R178, 08_ordering.md R195) -/
def Obligations.GatherScatterAtomics : Prop :=
  (∀ v os, Starts (.ldlx v) (frameM v)
    (fun w x s => ((Taken.q { x := x } (qOf v.index) false).stop none = none) ∧
      os = laneOffs v w x (headLanes x (qOf v.index)) ∧ laneFault x (widthBytes v.width) os = none ∧
      roleHold s w x (.window 0) 0 = none ∧
      x.flights.any (fun f => f.role == w.r && os.any (fun o => f.overlaps (.a w.c o.toNat) (widthBytes v.width))) = false ∧
      inFlight x w.r < 32 ∧ (Taken.q { x := x } (qOf v.index) false).stop (some (qOf v.data)) = none ∧
      os.any (fun o => s.badS w.c 0 o.toNat (widthBytes v.width)) = false)
    (fun w x s => (x.nextId, s.addFlight w ((Taken.q { x := x } (qOf v.index) false).x.qReserve (qOf v.data))
      { loadFlight s w x v (.a w.c 0) 0 0 (.qent (qOf v.data) x.nextId) with
        data := some ((os.map (·.toNat)).flatMap (fun o => bytesN ((s.ownA w x).nat o (widthBytes v.width)) 4))
        lanes := os.map (·.toNat), lsize := widthBytes v.width }))) ∧
  (∀ v os i t, Completes (.stlx v) (frameM v)
    (fun w x s => i = Taken.q { x := (Taken.q { x := x } (qOf v.data) false).x } (qOf v.index) false ∧ i.stop none = none ∧
      t = Taken.q (Taken.q { x := x } (qOf v.data) false) (qOf v.index) false ∧ t.stop none = none ∧
      os = laneOffs v w x (i.vals.headD []) ∧ laneFault x (widthBytes v.width) os = none ∧
      roleHold s w x (.window 0) 0 = none ∧ storeHold s w x (.window 0) = none ∧
      x.flights.any (fun f => f.role == w.r && os.any (fun o => f.overlaps (.a w.c o.toNat) (widthBytes v.width))) = false)
    (fun w _ s => s.addStore w t.x v (.a w.c (os.headD 0).toNat) 0 (bytesOf (lane (t.vals.headD []) 0) (widthBytes v.width))
      (((List.range 64).map (fun i => ((os.getD i 0).toNat, bytesOf (lane (t.vals.headD []) i) (widthBytes v.width)))).drop 1))) ∧
  (∀ v pa va, Completes (.pfg v) (frameM v)
    (fun w x s => va = (if v.width = 4 then memAddr .g v w x false &&& ~~~0xFF#64 else memAddr .g v w x false) ∧ v.cache ≠ 2 ∧
      field va 48 16 = 0 ∧ s.look w.c.cid x.part va.toNat false = .ok pa)
    (fun w x s => (List.range (if v.width = 4 then 4 else 1)).foldl (fun s i =>
      if s.badG (lineOf (pa + 64 * i)) 64 then s else s.fillLine w.c.cid (pa + 64 * i) (v.cache == 1))
        (s.keepLeaf w.c.cid x.part va.toNat))) ∧
  (∀ v va, Completes (.pfg v) (frameM v)
    (fun w x s => va = (if v.width = 4 then memAddr .g v w x false &&& ~~~0xFF#64 else memAddr .g v w x false) ∧
      (v.cache = 2 ∨ field va 48 16 ≠ 0 ∨ ∃ e, s.look w.c.cid x.part va.toNat false = .error e)) (fun _ _ s => s)) ∧
  Atomics .atl .l ∧ Atomics .atk .k ∧ Atomics .atg .g ∧ Atomics .atf .f ∧
  (∀ v, Completes (.fence v) (frameM v)
    (fun w x s => (bitAt v.order 1 = true → released s w.c x w.r x.nextId v.scope.toNat = true) ∧
      (bitAt v.order 0 = true → x.flights.any (fun f => f.role == w.r && f.dest != .none) = false))
    (fun w _ s => if bitAt v.order 0 then (if bitAt v.order 1 then s.release w.c v.scope.toNat else s).acquire w.c.cid v.scope.toNat
      else if bitAt v.order 1 then s.release w.c v.scope.toNat else s))

/-- QCNT returns entries present, entries free and the bound bit, the entries that have become free reserved first for the
commands that wait for them; QCLR of an unbound q-register with no reserved entry, of a load, a command or a waiting role,
discards every entry; QBND of an unbound q-register with a count of 1 to 65,535 records direction and count; TKTRY moves one
token, a pop being an acquire at core scope, and sets p, and clears p and moves none where the FIFO is empty or full.
(09_sync.md R203, 09_sync.md R204, 09_sync.md R206) -/
def Obligations.QregsAndTokens : Prop :=
  (∀ v q y, q = qOf v.base → Completes (.qcnt v) (frameM v) (fun _ x _ => y = x.settleQ q) (fun w _ s =>
    s.setS w v.data.toNat (BitVec.ofNat 64 ((y.q q).ents.countP (fun e => e.lanes.isSome) +
      (y.qFree q - (if s.reserved y q then 1 else 0)) * 256 + bit1 (y.q q).bind.isSome 16)))) ∧
  (∀ v, Completes (.qclr v) (frameM v)
    (fun _ x s => (x.q (qOf v.base)).bind = none ∧ (∀ e ∈ (x.q (qOf v.base)).ents, e.lanes.isSome = true) ∧
      x.owed (qOf v.base) = 0 ∧ s.reserved x (qOf v.base) = false)
    (fun w x s => s.setCtx w.c (x.setQ (qOf v.base) { x.q (qOf v.base) with ents := [] }))) ∧
  (∀ v n, Completes (.qbnd v) (frameM v)
    (fun w x _ => n = (field v.imm 0 16).toNat + (field (readSrc w x v.base 0) 0 16).toNat ∧ 1 ≤ n ∧ n ≤ 65535 ∧
      (x.q (qOf v.data)).bind = none)
    (fun w x s => s.setCtx w.c (x.setQ (qOf v.data) { x.q (qOf v.data) with bind := some { out := bitAt v.imm 16, left := n, cmd := none } }))) ∧
  (∀ v f, f = (field v.imm 0 2).toNat →
    Completes (.tktry v) (frameM v) (fun _ x _ => bitAt v.imm 2 = false ∧ 0 < x.tok f)
      (fun w x s => ((s.setCtx w.c (x.setTok f (x.tok f - 1))).acquire w.c.cid 0).setP w (v.data.toNat - 48) true) ∧
    Completes (.tktry v) (frameM v) (fun w x s => bitAt v.imm 2 = true ∧ x.tok f < 8 ∧ lDrained (s.core w.c.cid) x w = true)
      (fun w x s => (s.setCtx w.c (x.setTok f (x.tok f + 1))).setP w (v.data.toNat - 48) true) ∧
    Completes (.tktry v) (frameM v) (fun _ x _ => if bitAt v.imm 2 then 8 ≤ x.tok f else x.tok f = 0)
      (fun w _ s => s.setP w (v.data.toNat - 48) false))

/-- CBINI writes the header and clears the counters and bitmaps. With a sound block and 1 ≤ n ≤ N: CBCLM with room and CBTAK
with n published entries advance their counter modulo 2^32, acquire at the object's scope, and return the old counter; CBPUB
and CBREL of a value in range with no position marked mark their positions, advance past the marked run, and release at that
scope. (09_sync.md R208, 09_sync.md R209, 09_sync.md R210) -/
def Obligations.CircularBuffers : Prop :=
  (∀ v c y o cfg, Completes (.cbini v) (frameM v)
    (fun w x s => object s w x v 64 = .ok c y o ∧ cfg = readSrc w x v.data 0 ∧
      cbCfgOk cfg (field (readSrc w x v.base 0) 0 16).toNat x.abud = true)
    (fun _ _ s => s.setA c (y.abuf.write o (bytesOf (field cfg 0 40) 5 ++ List.replicate 59 0)))) ∧
  (∀ v c y o b n, Completes (.cbclm v) (frameTryM v)
    (fun w x s => cbReady v c y o b n w x s ∧ sub32 (b.clm + n) b.rel ≤ b.n)
    (fun w _ s => ((s.setA c (CBlock.write { b with clm := (b.clm + n) % 2 ^ 32 } y.abuf o)).acquire w.c.cid (objScope v)).setS w
      v.data.toNat (BitVec.ofNat 64 b.clm))) ∧
  (∀ v c y o b n, Completes (.cbtak v) (frameTryM v)
    (fun w x s => cbReady v c y o b n w x s ∧ n ≤ sub32 b.pub b.tak)
    (fun w _ s => ((s.setA c (CBlock.write { b with tak := (b.tak + n) % 2 ^ 32 } y.abuf o)).acquire w.c.cid (objScope v)).setS w
      v.data.toNat (BitVec.ofNat 64 b.tak))) ∧
  (∀ v c y o b n a, Completes (.cbpub v) (frameM v)
    (fun w x s => cbReady v c y o b n w x s ∧ freed (objScope v) w x s ∧ a = (readSrc w x v.data 0).toNat ∧
      cbMarkOk b b.pub b.clm b.fill a n = true)
    (fun w _ s => (s.setA c (CBlock.write
      { b with pub := (advance b.n b.n b.pub (markBits b.fill (b.positions a n))).1,
               fill := (advance b.n b.n b.pub (markBits b.fill (b.positions a n))).2 } y.abuf o)).release w.c (objScope v))) ∧
  (∀ v c y o b n a, Completes (.cbrel v) (frameM v)
    (fun w x s => cbReady v c y o b n w x s ∧ freed (objScope v) w x s ∧ a = (readSrc w x v.data 0).toNat ∧
      cbMarkOk b b.rel b.tak b.free a n = true)
    (fun w _ s => (s.setA c (CBlock.write
      { b with rel := (advance b.n b.n b.rel (markBits b.free (b.positions a n))).1,
               free := (advance b.n b.n b.rel (markBits b.free (b.positions a n))).2 } y.abuf o)).release w.c (objScope v)))

/-- DQINI writes the header and empties the deque; DQPSH of a deque with room writes its item at the bottom, a release at
cluster scope; DQPOP takes the last item pushed, an acquire at core scope, and DQSTL the first, one at cluster scope, with p
true; on an empty deque both clear p and change nothing else. (09_sync.md R212, 09_sync.md R213, 09_sync.md R214) -/
def Obligations.Deques : Prop :=
  (∀ v c y o cfg, Completes (.dqini v) (frameM v)
    (fun w x s => object s w x v 32 = .ok c y o ∧ cfg = readSrc w x v.data 0 ∧ field cfg 32 32 = 0 ∧
      (field cfg 0 16).toNat % 8 = 0 ∧ 1 ≤ (field cfg 16 16).toNat ∧ (field cfg 16 16).toNat ≤ 4096 ∧
      (field cfg 0 16).toNat + 8 * (field cfg 16 16).toNat ≤ x.abud)
    (fun _ _ s => s.setA c (y.abuf.write o (bytesOf (field cfg 0 32) 4 ++ List.replicate 28 0)))) ∧
  (∀ v c y o b, Completes (.dqpsh v) (frameTryM v)
    (fun w x s => dqReady v c y o b w x s ∧ sub32 b.bot b.top < b.cap ∧ freed 1 w x s)
    (fun w x s => (s.setA c (DBlock.write { b with bot := (b.bot + 1) % 2 ^ 32 }
      (y.abuf.write (b.item b.bot) (bytesOf (readSrc w x v.data 0) 8)) o)).release w.c 1)) ∧
  (∀ v c y o b, Completes (.dqpop v) (frameM v) (fun w x s => dqReady v c y o b w x s ∧ b.bot ≠ b.top)
    (fun w _ s => (((s.setA c (DBlock.write { b with bot := sub32 b.bot 1 } y.abuf o)).acquire w.c.cid 0).setS w v.data.toNat
      (BitVec.ofNat 64 (y.abuf.nat (b.item (sub32 b.bot 1)) 8))).setP w (resultPred v) true)) ∧
  (∀ v c y o b, Completes (.dqstl v) (frameM v) (fun w x s => dqReady v c y o b w x s ∧ b.bot ≠ b.top)
    (fun w _ s => (((s.setA c (DBlock.write { b with top := (b.top + 1) % 2 ^ 32 } y.abuf o)).acquire w.c.cid 1).setS w
      v.data.toNat (BitVec.ofNat 64 (y.abuf.nat (b.item b.top) 8))).setP w (resultPred v) true)) ∧
  (∀ v c y o b, Completes (.dqpop v) (frameM v) (fun w x s => dqReady v c y o b w x s ∧ b.bot = b.top)
    (fun w _ s => s.setP w (resultPred v) false)) ∧
  (∀ v c y o b, Completes (.dqstl v) (frameM v) (fun w x s => dqReady v c y o b w x s ∧ b.bot = b.top)
    (fun w _ s => s.setP w (resultPred v) false))

/-- BARA marks its channel arrived once the role's accesses are performed, a release at package scope; BARW, and BAR on the
channel on which it has arrived, acquire at package scope and return the channel's status; BIDB sets the window with i = 0
and BIDA adds 1 to i, both as they retire; a PHASE whose release has come lets every live role of the context go on.
(09_sync.md R216, 09_sync.md R217, 09_sync.md R218, 09_sync.md R221) -/
def Obligations.Barriers : Prop :=
  (∀ v, Completes (.bara v) (frameTryM v)
    (fun w x s => barRange s x v = false ∧ (x.chan (barE v x)).pending = false ∧ freed 2 w x s)
    (fun w x s => (s.setCtx w.c (x.setChan (barE v x) { x.chan (barE v x) with pending := true, ever := true })).release w.c 2)) ∧
  (∀ v, Completes (.barw v) (frameTryM v)
    (fun _ x s => barRange s x v = false ∧ (x.chan (barE v x)).ever = true ∧ (x.chan (barE v x)).pending = false)
    (fun w x s => (s.acquire w.c.cid 2).setS w v.data.toNat (x.chan (barE v x)).status)) ∧
  (∀ v, Answers (.bar v) (frameM v)
    (fun w x s => (x.role w.r).arrived = none ∧ barRange s x v = false ∧ (x.chan (barE v x)).pending = false ∧ freed 2 w x s)
    (fun w x s => ((s.setCtx w.c ((x.setChan (barE v x) { x.chan (barE v x) with pending := true, ever := true }).setRole w.r
      { x.role w.r with arrived := some (barE v x) })).release w.c 2).waitOn w .barrier)) ∧
  (∀ v e, Completes (.bar v) (frameM v) (fun w x _ => (x.role w.r).arrived = some e ∧ (x.chan e).pending = false)
    (fun w x s => (s.acquire w.c.cid 2).setS w v.data.toNat (x.chan e).status)) ∧
  (∀ v b d, b = (field v.imm 0 4).toNat → d = (field v.imm 8 4).toNat → Completes (.bidb v) (frameWholeM v)
    (fun _ x s => s.chansOf x ≠ 1 ∧ 1 ≤ b ∧ 1 ≤ d ∧ b + d ≤ s.chansOf x ∧ (∀ c ∈ x.chans.toList, c.pending = false))
    (fun w x s => s.setCtx w.c { x with barB := b, barD := d, barI := 0 })) ∧
  (∀ v, Completes (.bida v) (frameWholeM v) (fun _ x s => s.chansOf x ≠ 1)
    (fun w x s => s.setCtx w.c { x with barI := x.barI + 1 })) ∧
  (∀ v, Answers (.phase v) (framePhase v)
    (fun w x s => fallThrough (s.textOf x) (x.role w.r).pc ≠ none ∧ x.phaseDone = true ∧ s.logUsers w.c.cid = false)
    (fun w _ s => s.phasePass w.c))

/-- WLAPP appends the enabled lanes to the lists that its destinations name, counts them, clears the latch and its own idle bit,
a release at package scope; WLTAK moves up to n items of its own list to its q-register and returns how many, 0 once the
latch is set and the list empty; WLIDL sets idle; TRMW with the latch set returns the number appended. (11_engines.md R266,
11_engines.md R267, 11_engines.md R268, 11_engines.md R269, 11_engines.md R270) -/
def Obligations.WorkLists : Prop :=
  (∀ v l t ls m items, Completes (.wlapp v) (frameTryM v)
    (fun w x s => s.lists x = some l ∧ t = Taken.q (Taken.q { x := x } (qOf v.data) false) (qOf v.index) false ∧
      t.stop none = none ∧ m = (if v.base = 0 then -1 else readSrc w x v.base 0) ∧
      items = ((List.range 64).filter (fun i => bitAt m i)).map (fun i =>
        ((lane (t.vals.getD 1 []) i).toNat, lane (t.vals.headD []) i)) ∧
      (∀ p ∈ items, p.1 < s.gridSize x) ∧ freed 2 w x s ∧ appendItems l.cap items l.lists = some ls)
    (fun w x s => ((s.setCtx w.c { t.x with idle := false }).setLists x
      { l with lists := ls, appended := l.appended + items.length, latch := false, wave := none }).release w.c 2)) ∧
  (∀ v l own k, Completes (.wltak v) (frameTryM v)
    (fun _ x s => s.lists x = some l ∧ Taken.stop { x := x } (some (qOf v.data)) = none ∧ own = l.lists.getD x.gidx [] ∧
      k = Nat.min (field v.imm 0 7).toNat own.length ∧ 1 ≤ k)
    (fun w x s => (((s.setCtx w.c { x.qPush (qOf v.data) ((List.range 64).map (fun i => if i < k then own.getD i 0 else 0)) with
        idle := false }).setLists x { l with lists := l.lists.set x.gidx (own.drop k), taken := l.taken + k }).acquire
          w.c.cid 2).setS w v.base.toNat (BitVec.ofNat 64 k))) ∧
  (∀ v l, Completes (.wltak v) (frameTryM v)
    (fun _ x s => s.lists x = some l ∧ Taken.stop { x := x } (some (qOf v.data)) = none ∧ l.lists.getD x.gidx [] = [] ∧
      l.latch = true)
    (fun w x s => ((s.setCtx w.c { x.qPush (qOf v.data) (List.replicate 64 0) with idle := x.idle }).setLists x
      { l with lists := l.lists.set x.gidx [] }).setS w v.base.toNat 0)) ∧
  (∀ v, Completes (.wlidl v) (frameM v) (fun _ x s => s.lists x ≠ none) (fun w x s => s.setCtx w.c { x with idle := true })) ∧
  (∀ v l, Completes (.trmw v) (frameTryM v) (fun _ x s => s.lists x = some l ∧ l.latch = true)
    (fun w _ s => (s.acquire w.c.cid 2).setS w v.data.toNat (BitVec.ofNat 64 l.appended)))

/-- OSEQ with KIND 1 returns the fabric status word and, with CLR, clears RRJ and ORJ; with KIND 2 it returns the word of an
installed group, with KIND 0 or 3 its applied number, an acquire where ORDER asks for one. OWT of an installed group
completes once the group has applied at least the number it names. (13_fabric.md R298, 13_fabric.md R304, 13_fabric.md R305) -/
def Obligations.OrderedReads : Prop :=
  (∀ v, Completes (.oseq v) (frameM v) (fun _ _ _ => field v.imm 0 2 = 1#2)
    (fun w x s => (if bitAt v.imm 2 then s.setCtx w.c { x with rrj := false, orj := false } else s).setS w v.data.toNat
      (fabWord s x))) ∧
  (∀ v g, Completes (.oseq v) (frameM v) (fun w x s => field v.imm 0 2 = 2#2 ∧ groupBase s w x v = some g)
    (fun w _ s => s.setS w v.data.toNat g.word)) ∧
  (∀ v g, Completes (.oseq v) (frameM v)
    (fun w x s => field v.imm 0 2 ≠ 1#2 ∧ field v.imm 0 2 ≠ 2#2 ∧ groupBase s w x v = some g)
    (fun w _ s => (if v.order = 1 then s.acquire w.c.cid v.scope.toNat else s).setS w v.data.toNat (BitVec.ofNat 64 g.applied))) ∧
  (∀ v g, Completes (.owt v) (frameTryM v)
    (fun w x s => groupBase s w x v = some g ∧ (field (readSrc w x v.data 0) 0 48).toNat ≤ g.applied)
    (fun w _ s => if v.order = 1 then s.acquire w.c.cid v.scope.toNat else s))

/-- A LEASE that issues completes: without TRY where the context holds the lease, a pending give-up being cancelled, or where
nobody holds it and the context wins the arbitration, when the lease is granted to it; with TRY in these cases with p(TP)
true, and in every other with p(TP) false. Each leaves the request standing. Without TRY it otherwise waits. A ULEASE that
issues completes always: it drops the request, and a context that holds the lease, or has array-using commands queued, gives
it up once those before the ULEASE have completed. The first two clauses say of LEASE by the holder and of ULEASE that exec
answers the next state, in full, with the conditions on the state and the operands written out. (10_matrix.md R232,
10_matrix.md R234) -/
def Obligations.ArrayLease : Prop :=
  (∀ (v : WordX) (s : State) (w : Who) (x : Ctx) (dest : Pos), s.turn = .role w.c w.r → s.ctx w.c = some x → v.role.toNat = Role.code w.r →
    decodeFault (.lease v) false [v.d, v.a, v.b] x = none → (∀ q ∈ tokPops w.r v.tok, x.tok q ≠ 0) → guardOn (x.role w.r) v.guard = true →
    busy x w.r [v.d, v.a, v.b] = false → fallThrough (s.textOf x) (x.role w.r).pc = some dest →
    countFull (x.role w.r) (restOf v.tok none (x.role w.r).pc dest false false false).enter
      (restOf v.tok none (x.role w.r).pc dest false false false).exit = false →
    s.calm w.c.cid → bitAt v.low 56 = false → s.holds w.c = true →
    exec (.lease v) s = .next (((s.popped (frameX v) w x).setCtx w.c
      { (frameX v).popped w x with leaseAsk := true, leaseGive := none }).retire w
        (restOf v.tok none (x.role w.r).pc dest false false false))) ∧
  (∀ (v : WordX) (s : State) (w : Who) (x : Ctx) (dest : Pos), s.turn = .role w.c w.r → s.ctx w.c = some x → v.role.toNat = Role.code w.r →
    decodeFault (.ulease v) false [v.d, v.a, v.b] x = none → (∀ q ∈ tokPops w.r v.tok, x.tok q ≠ 0) → guardOn (x.role w.r) v.guard = true →
    busy x w.r [v.d, v.a, v.b] = false → fallThrough (s.textOf x) (x.role w.r).pc = some dest →
    countFull (x.role w.r) (restOf v.tok none (x.role w.r).pc dest false false false).enter
      (restOf v.tok none (x.role w.r).pc dest false false false).exit = false →
    s.calm w.c.cid →
    exec (.ulease v) s = .next ((((s.popped (frameX v) w x).setCtx w.c { (frameX v).popped w x with
      leaseAsk := false
      leaseGive := if (s.holds w.c || x.acmds.any (fun k => k.kind.usesArray)) = true then some x.nextAcc else none }).settleLease
        w.c).retire w (restOf v.tok none (x.role w.r).pc dest false false false))) ∧
  (∀ v, bitAt v.low 56 = false → Completes (.lease v) (frameX v) (fun w _ s => s.holds w.c = true)
    (fun w x s => s.setCtx w.c { x with leaseAsk := true, leaseGive := none })) ∧
  (∀ v, bitAt v.low 56 = false → Completes (.lease v) (frameX v) (fun w x s => s.holds w.c = false ∧ (s.core w.c.cid).lease = none ∧
      (s.setCtx w.c { x with leaseAsk := true, leaseGive := none }).winner w.c.cid none = some w.c.num)
    (fun w x s => (s.setCtx w.c { x with leaseAsk := true, leaseGive := none }).grantLease w.c)) ∧
  (∀ v, bitAt v.low 56 = true → Completes (.lease v) (frameX v) (fun w _ s => s.holds w.c = true)
    (fun w x s => (s.setCtx w.c { x with leaseAsk := true, leaseGive := none }).setP w (field v.low 53 3).toNat true)) ∧
  (∀ v, bitAt v.low 56 = true → Completes (.lease v) (frameX v) (fun w x s => s.holds w.c = false ∧ (s.core w.c.cid).lease = none ∧
      (s.setCtx w.c { x with leaseAsk := true, leaseGive := none }).winner w.c.cid none = some w.c.num)
    (fun w x s => ((s.setCtx w.c { x with leaseAsk := true, leaseGive := none }).grantLease w.c).setP w (field v.low 53 3).toNat true)) ∧
  (∀ v, bitAt v.low 56 = true → Completes (.lease v) (frameX v) (fun w x s => s.holds w.c = false ∧ ((s.core w.c.cid).lease ≠ none ∨
      (s.setCtx w.c { x with leaseAsk := true, leaseGive := none }).winner w.c.cid none ≠ some w.c.num))
    (fun w x s => (s.setCtx w.c { x with leaseAsk := true, leaseGive := none }).setP w (field v.low 53 3).toNat false)) ∧
  (∀ v, bitAt v.low 56 = false → Answers (.lease v) (frameX v) (fun w x s => s.holds w.c = false ∧ ((s.core w.c.cid).lease ≠ none ∨
      (s.setCtx w.c { x with leaseAsk := true, leaseGive := none }).winner w.c.cid none ≠ some w.c.num))
    (fun w x s => (s.setCtx w.c { x with leaseAsk := true, leaseGive := none }).waitOn w .lease)) ∧
  (∀ v, Completes (.ulease v) (frameX v) anyCtx (fun w x s =>
    (s.setCtx w.c { x with
      leaseAsk := false
      leaseGive := if (s.holds w.c || x.acmds.any (fun k => k.kind.usesArray)) = true then some x.nextAcc else none }).settleLease w.c))

/-- A command that passes its checks of range, alignment, bound, lease and array state is placed in the context's array command
queue with the operands it read at its issue; WLOAD and WSWP change the records of the planes at once. ASHP takes 1, 3, 7 or
15; EPICF takes a legal 64-byte descriptor. ZRD reserves the entry it will fill, and EPI into a q-register its entries, each
as one is free; ZWR takes the entry it will write. (10_matrix.md R229, 10_matrix.md R231, 10_matrix.md R235, 10_matrix.md
R236, 10_matrix.md R237, 10_matrix.md R242, 10_matrix.md R246, 10_matrix.md R247) -/
def Obligations.ArrayCommands : Prop :=
  (∀ v off t, Completes (.wload v) (frameX v)
    (fun w x _ => off = readSrc w x v.a 0 ∧ t = typeOf v ∧ weightType t = true ∧ off.toNat % 256 = 0 ∧
      off.toNat + tileSize t ≤ x.wbud ∧ x.leaseAsk = true ∧ x.acmds.length < 8)
    (fun w x s => s.setCtx w.c (({ x with shRec := ⟨off.toNat, t, true⟩ } : Ctx).queued (.wload ⟨off.toNat, t, true⟩) (cptOf v)))) ∧
  (∀ v, Completes (.wswp v) (frameX v) (fun _ x _ => x.leaseAsk = true ∧ x.shRec.valid = true ∧ x.acmds.length < 8)
    (fun w x s => s.setCtx w.c (({ x with actRec := x.shRec, shRec := x.actRec } : Ctx).queued .wswp 0))) ∧
  (∀ v b, Completes (.ashp v) (frameX v)
    (fun w x _ => b = (if isImm v.a then (field v.low 0 4).setWidth 64 else readSrc w x v.a 0) ∧ (b = 1 ∨ b = 3 ∨ b = 7 ∨ b = 15))
    (fun w x s => s.setCtx w.c { x with ashp := b.setWidth 4 })) ∧
  Multiplies .mma 0 ∧ Multiplies .mmaz 1 ∧ Multiplies .mmai 2 ∧
  (∀ v o, Completes (.epicf v) (frameX v)
    (fun w x s => o = readSrc w x v.a 0 ∧ o.toNat % 64 = 0 ∧ o.toNat + 64 ≤ x.abud ∧
      epiOk ((s.ownA w x).read o.toNat 64) x.abud = true)
    (fun w x s => s.setCtx w.c { x with epi := EpiCfg.ofBytes ((s.ownA w x).read o.toNat 64) })) ∧
  (∀ v ao, Completes (.epi v) (frameX v)
    (fun w x _ => isQ v.d = false ∧ ao = readSrc w x v.a 0 ∧ zRows v x ∧ strideOf v (epiRow x.epi.ofmt) % 4 = 0 ∧
      ao.toNat % 4 = 0 ∧ x.acmds.length < 8 ∧
      ao.toNat + ((nrOf v - 1) * strideOf v (epiRow x.epi.ofmt) + epiRow x.epi.ofmt) ≤ x.abud)
    (fun w x s => s.setCtx w.c (x.queued (.epi (zrOf v) (nrOf v) none ao.toNat (strideOf v (epiRow x.epi.ofmt)) (bitAt v.low 44)
      x.epi) (cptOf v)))) ∧
  (∀ v q k, q = qOf v.d → Completes (.epi v) (frameX v)
    (fun _ x _ => isQ v.d = true ∧ zRows v x ∧ strideOf v (epiRow x.epi.ofmt) % 4 = 0 ∧ x.acmds.length < 8 ∧ x.epi.ofmt ≠ 30 ∧
      (x.selfLoop q = true → nrOf v * epiEntries x.epi.ofmt ≤ qDepth x.harvest q) ∧
      k = { acc := x.nextAcc, kind := .epi (zrOf v) (nrOf v) (some q) 0 (strideOf v (epiRow x.epi.ofmt)) (bitAt v.low 44) x.epi
            cpt := cptOf v, at_ := x.nextId, owed := nrOf v * epiEntries x.epi.ofmt, qid := x.nextId })
    (fun w x s => s.setCtx w.c (Ctx.settleQ
      { x with acmds := x.acmds ++ [k], nextAcc := x.nextAcc + 1, nextId := x.nextId + 1 } q))) ∧
  (∀ v, Completes (.zrd v) (frameX v)
    (fun _ x _ => zrOf v ≤ 47 ∧ zrOf v + 1 ≤ x.zbud / 512 ∧ x.acmds.length < 8 ∧ Taken.stop { x := x } (some (qOf v.d)) = none)
    (fun w x s => s.setCtx w.c ((x.qReserve (qOf v.d)).queued (.zrd (zrOf v) (halfOf v) (qOf v.d) x.nextId) 0))) ∧
  (∀ v, Completes (.zwr v) (frameX v)
    (fun _ x _ => zrOf v ≤ 47 ∧ zrOf v + 1 ≤ x.zbud / 512 ∧ x.acmds.length < 8 ∧
      (Taken.q { x := x } (qOf v.a) false).stop none = none)
    (fun w x s => s.setCtx w.c ((x.qPop (qOf v.a)).queued (.zwr (zrOf v) (halfOf v) (headLanes x (qOf v.a))) 0))) ∧
  (∀ v, Completes (.zclr v) (frameX v) (fun _ x _ => zRows v x ∧ x.acmds.length < 8)
    (fun w x s => s.setCtx w.c (x.queued (.zclr (zrOf v) (nrOf v)) 0)))

/-- With a sound head command that the array may begin: a WLOAD copies its tile into the shadow plane, a WSWP exchanges the
planes, a multiply within the allowance of its window injects one plane more, which a frozen core, finishing its row, does
not count, ballast one plane of its own below its floor, a ZRD, ZWR or ZCLR reads or writes Z. A completed command pushes
its token and leaves the queue, and the bands that no command in flight enables open. A lease nobody holds goes to the
winner of the arbitration; a used-up grant that nobody else asks for is renewed. (10_matrix.md R228, 10_matrix.md R231,
10_matrix.md R232, 10_matrix.md R235, 10_matrix.md R236, 10_matrix.md R246, 21_power.md R428) -/
def Obligations.ArrayMoves : Prop :=
  (∀ x k p s1, Performs .wloadTileCopy
    (fun s => arrayAt x k s ∧ k.kind = .wload p ∧ s.beginHead s.inp.c k = some s1 ∧ s.badS s.inp.c 1 p.off (tileSize p.fmt) = false)
    (fun s => (s1.modCtx s.inp.c (fun y => { y with sh := p.load x.wbuf })).headDone s.inp.c { k with begun := true })) ∧
  (∀ x k s1, Performs .wswpExchange
    (fun s => arrayAt x k s ∧ k.kind = .wswp ∧ s.beginHead s.inp.c k = some s1)
    (fun s => (s1.modCtx s.inp.c (fun y => { y with act := x.sh, sh := x.act })).headDone s.inp.c { k with begun := true })) ∧
  (∀ x k s1 kind zr nr t zs off str ben u, Performs .planeInjection
    (fun s => u = s.roll s.inp.c.cid ∧ s.inp.flag = false ∧ arrayAt x k u ∧ k.kind = .mma kind zr nr t zs off str ben ∧
      u.inp.c = s.inp.c ∧ u.inp.flag = s.inp.flag ∧
      (u.core s.inp.c.cid).frozen = none ∧ (u.core s.inp.c.cid).winPlanes < u.allowance s.inp.c.cid ∧ u.thawed s.inp.c.cid = true ∧
      (u.core s.inp.c.cid).bands &&& ben = ben ∧ k.inj < blockWidth t ∧ u.beginHead s.inp.c k = some s1)
    (fun s => (s1.modCore s.inp.c.cid (fun k => { k with winPlanes := k.winPlanes + 1, thaw := none })).modCtx s.inp.c
      (fun y => y.setHead { k with begun := true, inj := k.inj + 1 }))) ∧
  (∀ x k s1 kind zr nr t zs off str ben u, Performs .planeInjection
    (fun s => u = s.roll s.inp.c.cid ∧ s.inp.flag = false ∧ arrayAt x k u ∧ k.kind = .mma kind zr nr t zs off str ben ∧
      u.inp.c = s.inp.c ∧ u.inp.flag = s.inp.flag ∧
      (u.core s.inp.c.cid).frozen ≠ none ∧ u.thawed s.inp.c.cid = true ∧
      (u.core s.inp.c.cid).bands &&& ben = ben ∧ k.inj < blockWidth t ∧ u.beginHead s.inp.c k = some s1)
    (fun s => (s1.modCore s.inp.c.cid (fun k => { k with thaw := none })).modCtx s.inp.c
      (fun y => y.setHead { k with begun := true, inj := k.inj + 1 }))) ∧
  (∀ u, Performs .planeInjection
    (fun s => u = s.roll s.inp.c.cid ∧ u.inp.c = s.inp.c ∧ u.inp.flag = true ∧ (u.core s.inp.c.cid).frozen = none ∧
      (u.core s.inp.c.cid).winPlanes < u.ballastFloor s.inp.c.cid)
    (fun s => u.modCore s.inp.c.cid (fun k => { k with winPlanes := k.winPlanes + 1 }))) ∧
  (∀ x k kind zr nr t zs off str ben, Performs .bandPowerUp
    (fun s => arrayAt x k s ∧ k.kind = .mma kind zr nr t zs off str ben)
    (fun s => s.modCore s.inp.c.cid (fun k => { k with bands := k.bands ||| ben }))) ∧
  (∀ x k zr h q id, Performs .zDirectExecute
    (fun s => arrayAt x k s ∧ k.kind = .zrd zr h q id ∧ s.badS s.inp.c 2 (512 * zr + 256 * h) 256 = false)
    (fun s => (s.setCtx s.inp.c (x.qFill q id ((List.range 64).map (fun i =>
      BitVec.ofNat 32 ((x.zRow zr).getD (64 * h + i) 0))))).headDone s.inp.c k)) ∧
  (∀ x k zr h l, Performs .zDirectExecute (fun s => arrayAt x k s ∧ k.kind = .zwr zr h l)
    (fun s => ((s.setCtx s.inp.c { x with zbuf := x.zbuf.write (512 * zr + 256 * h) (laneBytes l) }).cleanS s.inp.c 2 (512 * zr + 256 * h)
      256).headDone s.inp.c k)) ∧
  (∀ x k zr nr, Performs .zDirectExecute (fun s => arrayAt x k s ∧ k.kind = .zclr zr nr)
    (fun s => ((s.setCtx s.inp.c { x with zbuf := x.zbuf.write (512 * zr) (List.replicate (512 * nr) 0) }).cleanS s.inp.c 2 (512 * zr)
      (512 * nr)).headDone s.inp.c k)) ∧
  (∀ x k rest f, Performs .arrayCompletionPush
    (fun s => s.ctx s.inp.c = some x ∧ x.acmds = k :: rest ∧ f = (if k.cpt = 1 then 1 else 2) ∧ k.done = true ∧ x.tok f < 8 ∧
      (s.core s.inp.c.cid).frozen = none)
    (fun s => ((s.setCtx s.inp.c { x.setTok f (x.tok f + 1) with acmds := rest }).settleLease s.inp.c).openBands s.inp.c.cid)) ∧
  (∀ n, Performs .leaseHandover (fun s => (s.core s.inp.cid).lease = none ∧ s.winner s.inp.cid none = some n)
    (fun s => s.grantLease ⟨s.inp.cid, n⟩)) ∧
  (∀ l x, Performs .leaseHandover
    (fun s => (s.core s.inp.cid).lease = some l ∧ l.count = 0 ∧ s.ctx ⟨s.inp.cid, l.num⟩ = some x ∧ x.acmds = [] ∧
      s.winner s.inp.cid (some l.num) = none)
    (fun s => s.modCore s.inp.cid (fun k => { k with lease := some ⟨l.num, leaseCount l.num⟩ })))

/-- Each output word of a multiply adds the enabled bands in ascending order to the Z word, or to zero; the flags join the C
role's FLG. An epilogue row converts its 128 words in order, writes the bytes to the A buffer at its stride or, entry by
entry, into the entries reserved for it, clears the Z row if asked, and leaves the LFSRs it used. The last row completes the
command. (10_matrix.md R237, 10_matrix.md R243, 10_matrix.md R245, 03_numbers.md R70, 03_numbers.md R71, 03_numbers.md R73) -/
def Obligations.ArrayRows : Prop :=
  (∀ x k kind zr nr t zs off str ben r u, Performs .arrayRowComplete
    (fun s => arrayAt x k s ∧ k.kind = .mma kind zr nr t zs off str ben ∧ blockWidth t ≤ k.inj ∧ k.done = false ∧
      s.badBands s.inp.c ben (off + k.next * str) (blockWidth t) = false ∧
      (zs = false → s.badS s.inp.c 2 (512 * (zr + k.next)) 512 = false) ∧
      r = mmaRow kind zs t x.act ben (x.abuf.read (off + k.next * str) (4 + 16 * blockWidth t)) (x.zRow (zr + k.next)) ∧
      u = (s.setCtx s.inp.c ((x.setZRow (zr + k.next) (r.map (·.bits))).cFlags (r.foldl (fun f e => f ||| e.flags) 0))).cleanS
        s.inp.c 2 (512 * (zr + k.next)) 512)
    (fun s => if k.next + 1 = nr then u.headDone s.inp.c { k with next := k.next + 1, inj := 0 }
      else u.modCtx s.inp.c (fun y => y.setHead { k with next := k.next + 1, inj := 0 }))) ∧
  (∀ x k zr nr off str clr cfg vals o, Performs .epilogueRow
    (fun s => arrayAt x k s ∧ k.kind = .epi zr nr none off str clr cfg ∧ s.beginHead s.inp.c k ≠ none ∧
      s.badEpi s.inp.c cfg (zr + k.next) = false ∧
      vals = (x.zRow (zr + k.next)).zipIdx.map (fun (z, j) => epiElem cfg x.abuf (zr + k.next) j z) ∧
      o = epiConvert cfg x.lfsr (vals.map (·.bits)))
    (fun s => (s.putA s.inp.c (off + k.next * str) o.bytes).rowDone s.inp.c k nr (zr + k.next) clr false
      (vals.foldl (fun f e => f ||| e.flags) o.flags) o.lfsr)) ∧
  (∀ x k zr nr q off str clr cfg vals o y, Performs .epilogueRow
    (fun s => arrayAt x k s ∧ k.kind = .epi zr nr (some q) off str clr cfg ∧ s.beginHead s.inp.c k ≠ none ∧
      s.badEpi s.inp.c cfg (zr + k.next) = false ∧
      vals = (x.zRow (zr + k.next)).zipIdx.map (fun (z, j) => epiElem cfg x.abuf (zr + k.next) j z) ∧
      o = epiConvert cfg x.lfsr (vals.map (·.bits)) ∧
      x.qFillNext q k.qid ((rowEntries cfg.ofmt o.bytes).getD k.inj []) = some y)
    (fun s => if k.inj + 1 < epiEntries cfg.ofmt then
        s.setCtx s.inp.c (y.setHead { k with inj := k.inj + 1, owed := y.headOwed, begun := true })
      else (s.setCtx s.inp.c y).rowDone s.inp.c k nr (zr + k.next) clr false
        (vals.foldl (fun f e => f ||| e.flags) o.flags) o.lfsr))

/-- A command at an aligned offset within the budget that passes the checks of R265 takes the next place of its engine queue
with its bytes, its offset and its acceptance number; a command that fails one raises that fault and is not accepted. ECHK
returns the queue's word and clears its FLT. (11_engines.md R250, 11_engines.md R251, 11_engines.md R264, 11_engines.md
R265) -/
def Obligations.CopyCommands : Prop :=
  Copies .cpyi false [0, 1] ∧ Copies .cpyo true [0, 1] ∧ Copies .gthi false [2] ∧ Copies .scto true [3] ∧
  CopyFaults .cpyi false [0, 1] ∧ CopyFaults .cpyo true [0, 1] ∧ CopyFaults .gthi false [2] ∧ CopyFaults .scto true [3] ∧
  (∀ v q, q = bitAt v.low 48 → Completes (.echk v) (frameX v) anyCtx (fun w x s =>
    (s.setCtx w.c (if q then { x with storeFlt := false } else { x with loadFlt := false })).setS w v.d.toNat
      (x.queueWord q (s.core w.c.cid).frozen.isSome)))

/-- A command that may begin takes its index list and transfers units until it is done, waits or meets a fault; the lines that
it has written leave its core's read cache. A finished head command, whose writes to other packages are answered, orders its
writes under the release flag, writes its status word, pushes its token and leaves the queue; a full FIFO holds it after its
status. A fault freezes the core, writes STATE 3 and delivers the copy-fault trap to a running context; the release of the
freeze lets the command go on. (11_engines.md R255, 11_engines.md R257, 11_engines.md R258, 11_engines.md R261) -/
def Obligations.EngineMoves : Prop :=
  (∀ x k c store, Performs .engineCommandBegin
    (fun s => c = s.inp.c ∧ store = s.inp.flag ∧ s.ctx c = some x ∧ (x.engQ store)[s.inp.id]? = some k ∧ mayRun s c x k = true ∧
      (k.begun = true ∨ mayBegin s c x store k = true) ∧ (2 ≤ (Cmd.of k.bytes).op → k.begun = false →
        s.badS c 0 (Cmd.of k.bytes).gix (4 * (Cmd.of k.bytes).ext 1) = false))
    (fun s => (runUnits c store k.acc (farCode s (Cmd.of k.bytes) s.inp.no) (Cmd.of k.bytes).count
      (s.setCtx c (x.modCmd store k.acc (fun e =>
        if e.begun then e else { e with begun := true, idx := (Cmd.of k.bytes).readIdx x.abuf, fcode := 0 }))) s.inp.data).settleWrites
          c k.acc s.hist.length)) ∧
  (∀ x k l c store s1, Performs .engineCommandCompletion
    (fun s => c = s.inp.c ∧ store = s.inp.flag ∧ s.ctx c = some x ∧ x.engQ store = k :: l ∧
      ((k.finished = true ∧ k.fcode = 0) ∨ k.ended = true) ∧ s.unanswered c store k = false ∧
      (s.core c.cid).frozen = none ∧ (x.state = .run ∨ x.state = .trapped) ∧
      s1 = (if k.statused then s else ((s.relCmd c k).writeStatus c store k (if k.ended then 2 else 1) (x.cmpl store + 1).toNat).modCtx c
        (fun y => y.modCmd store k.acc (fun e => { e with statused := true }))))
    (fun _ => if (Cmd.of k.bytes).tps = 0 then s1.modCtx c (fun y => y.retireCmd store)
      else if x.tok (if store then 3 else 0) < 8 then s1.modCtx c (fun y =>
        (y.setTok (if store then 3 else 0) (y.tok (if store then 3 else 0) + 1)).retireCmd store)
      else s1)) ∧
  (∀ x k c store, Performs .copyFaultFreeze
    (fun s => c = s.inp.c ∧ store = s.inp.flag ∧ s.ctx c = some x ∧ faultyCmd x store = some k ∧ (s.core c.cid).frozen = none ∧
      x.state = .run)
    (fun s => ((s.writeStatus c store k 3 (x.cmpl store + 1).toNat).modCore c.cid (fun j => { j with
      frozen := some (c.num, store) })).deliver c (if store then 2 else 0) cCopyFault k.fcode (BitVec.ofNat 64 k.off) false)) ∧
  Performs .frzRelease (fun s => (s.core s.inp.cid).frozen ≠ none) (fun s => s.unfreeze s.inp.cid)

/-- LOAD fills an open slot with its fragment, a fresh header and a CRC-32C; ADD replaces the payload by the element sums with a
new CRC and sticky SAT, OF and NV; COPY writes the payload, with the header under WH, to the target; EMPTY writes it and
frees the slot; EMPTY-ADD adds it into memory. Each raises its flag by FINC. A station in pass-through marks PT, and an
occupancy of an ended flow is emptied. (12_conveyor.md R274, 12_conveyor.md R276, 12_conveyor.md R277, 12_conveyor.md R280,
12_conveyor.md R284) -/
def Obligations.SlotActions : Prop :=
  (∀ e t tg fr, Performs .slotLoad
    (fun s => slotAt 1 e t tg s ∧ (t.cls = 0 ∨ (t.cls = 3 ∧ t.rsvs = s.inp.pass.stn)) ∧
      s.passed.holdCause s.inp.pass.stn e tg = none ∧ s.passed.fragment tg = (fr, false))
    (fun s => ({ s.passed with
      ring := (s.passed.ring.setSlot (t.loaded s.inp.pass.stn e fr (s.passed.ring.loads s.inp.pass.stn s.inp.pass.trk
        s.inp.pass.slot))).bumpLoads s.inp.pass.stn s.inp.pass.trk s.inp.pass.slot } : State).raiseFlag s.inp.pass.stn e)) ∧
  (∀ e t tg fr r, Performs .slotAdd
    (fun s => slotAt 3 e t tg s ∧ slotOurs e t tg s ∧ s.passed.fragment tg = (fr, false) ∧ r = sumPayload (entFmt e) t.payload fr)
    (fun s => ((s.passed.acted s.inp.pass.stn t).setSlot { t.free with
      payload := r.bytes, crc := crc32c r.bytes, sat := t.sat || r.sat, of_ := t.of_ || r.of_, nv := t.nv || r.nv }).raiseFlag s.inp.pass.stn e)) ∧
  (∀ e t tg, Performs .slotCopy (fun s => slotAt 2 e t tg s ∧ slotOurs e t tg s)
    (fun s => (((s.passed.acted s.inp.pass.stn t).putTarget tg (slotBytes s.inp.pass.stn e t.free)).setSlot t.free).raiseFlag s.inp.pass.stn e)) ∧
  (∀ e t tg, Performs .slotEmpty (fun s => slotAt 4 e t tg s ∧ slotOurs e t tg s)
    (fun s => (((s.passed.acted s.inp.pass.stn t).putTarget tg (slotBytes s.inp.pass.stn e t.free)).setSlot t.free.emptied).raiseFlag s.inp.pass.stn e)) ∧
  (∀ e t tg fr, Performs .slotEmptyAdd (fun s => slotAt 5 e t tg s ∧ slotOurs e t tg s ∧ s.passed.fragment tg = (fr, false))
    (fun s => (((s.passed.acted s.inp.pass.stn t).putTarget tg (sumPayload (entFmt e) fr t.payload).bytes).setSlot
      t.free.emptied).raiseFlag s.inp.pass.stn e)) ∧
  (∀ e t, Performs .slotPassThrough
    (fun s => s.passes = true ∧ s.passing s.inp.pass.stn = true ∧ e = s.ring.entry s.inp.pass.stn s.inp.pass.trk s.inp.pass.slot ∧
      t = s.slotHere ∧ t.cls = 1 ∧ entOp e ≠ 0 ∧ t.flow = entFlow e)
    (fun s => s.passed.setSlot { t with pt := true })) ∧
  (∀ t, Performs .endedFlowEmpty
    (fun s => s.passes = true ∧ t = s.slotHere ∧ t.cls = 1 ∧ s.flowLives t.flow = false)
    (fun s => s.passed.setSlot t.emptied))

/-- A station with traffic pending reserves one passing unallotted slot for each track; it injects its oldest payload, with a
CRC, into an unallotted slot that passes empty or reserved for it, and its reservation on the track is released; the
destination station empties the slot and hands its payload over. (12_conveyor.md R285) -/
def Obligations.BestEffort : Prop :=
  (∀ p t v, Performs .bestEffortReserve
    (fun s => p = s.inp.pass ∧ v = (if s.inp.data.isEmpty ∨ 256 < s.inp.data.length ∨ 128 ≤ s.inp.e then s
        else { s with ring := { s.ring with best := s.ring.best ++ [(p.stn, s.inp.e, s.inp.data)] } }) ∧
      t = v.slotHere ∧ v.passes = true ∧ v.passing p.stn = false ∧
      v.unallotted p.trk p.slot = true ∧ t.rsvv = false ∧ (∃ b ∈ v.ring.best, b.1 = p.stn) ∧
      (∀ u ∈ v.ring.slots, ¬(u.trk = p.trk ∧ u.rsvv = true ∧ u.rsvs = p.stn)))
    (fun _ => v.passed.setSlot { t with rsvs := p.stn, rsvv := true, cls := if t.cls = 0 then 3 else t.cls })) ∧
  (∀ p t b, Performs .bestEffortInject
    (fun s => p = s.inp.pass ∧ t = s.slotHere ∧ s.ring.best.find? (fun b => b.1 == p.stn) = some b ∧
      s.passes = true ∧ s.passing p.stn = false ∧ s.unallotted p.trk p.slot = true ∧
      ((t.cls = 0 ∧ t.rsvv = false) ∨ (t.cls = 3 ∧ t.rsvv = true ∧ t.rsvs = p.stn)))
    (fun s => { s.passed with ring := (s.passed.ring.leaves p.trk p.stn b).setSlot (Slot.best p.trk p.slot p.stn b) })) ∧
  (∀ p t, Performs .bestEffortDeliver
    (fun s => p = s.inp.pass ∧ t = s.slotHere ∧ s.passes = true ∧ s.passing p.stn = false ∧ t.cls = 2 ∧ t.dst = p.stn)
    (fun s => { s.passed.setSlot t.emptied with ring := { (s.passed.setSlot t.emptied).ring with
      delivered := (s.passed.setSlot t.emptied).ring.delivered ++ [(p.stn, t.payload)] } }))

/-- With a flag of the context's set: CVWT whose flag has reached its value acquires at package scope; CVTS sets p to whether it
has, an acquire if so; CVCL clears the counter, but for increments of the same slot-time, which are applied after it. A flag
outside the set is the conveyor-access fault. CVINF returns the flow word of an index, 0 for none; CVTIM returns RST or the
slot at the issuing station. (12_conveyor.md R281, 12_conveyor.md R287, 12_conveyor.md R288, 12_conveyor.md R289,
12_conveyor.md R290) -/
def Obligations.ConveyorInstructions : Prop :=
  (∀ v stn f, Completes (.cvwt v) (frameTryX v)
    (fun w x s => flagIx s w x v = some (stn, f) ∧ reached (s.ring.flag stn f) ((readSrc w x v.a 0).setWidth 16) = true)
    (fun w _ s => s.acquire w.c.cid 2)) ∧
  (∀ v stn f b, Completes (.cvts v) (frameX v)
    (fun w x s => flagIx s w x v = some (stn, f) ∧ b = reached (s.ring.flag stn f) ((readSrc w x v.a 0).setWidth 16))
    (fun w _ s => (if b then s.acquire w.c.cid 2 else s).setP w (v.d.toNat - 48) b)) ∧
  (∀ v stn f, Completes (.cvcl v) (frameX v) (fun w x s => flagIx s w x v = some (stn, f))
    (fun _ _ s => { s with ring := s.ring.setFlag stn f (BitVec.ofNat 16 (if s.ring.at_ = s.rst then
      ((s.ring.incs.filter (fun i => i.1 == (stn, f))).map (·.2)).sum else 0)) })) ∧
  (∀ v, Raises (.cvwt v) (frameTryX v) (fun w x s => flagIx s w x v = none) cConveyor (fun _ _ _ => 0)) ∧
  (∀ v, Raises (.cvts v) (frameX v) (fun w x s => flagIx s w x v = none) cConveyor (fun _ _ _ => 0)) ∧
  (∀ v, Raises (.cvcl v) (frameX v) (fun w x s => flagIx s w x v = none) cConveyor (fun _ _ _ => 0)) ∧
  (∀ v, Completes (.cvinf v) (frameX v) anyCtx (fun w x s => s.setS w v.d.toNat (flowWord s w x (readSrc w x v.a 0)))) ∧
  (∀ v, Completes (.cvtim v) (frameX v) anyCtx (fun w _ s => s.setS w v.d.toNat (BitVec.ofNat 64
    (if bitAt v.low 48 then (s.rst + 512 - 4 * dieStation (dieOf w.c.cid) % 512) % 512 else s.rst))))

/-- With a handle of the kernel's table: an MBSND whose box has room, holds back, rejects or is refused returns 0 to 3 and pops
its entry where it was taken; an MBRCV takes the oldest observation, pushes its payload or fills the entry that it has
reserved as it waited, notes the step in its slot, returns the low half of the header and acquires at system scope; MBSTA
returns the status word, or the two step numbers under W. A handle outside the table is the mailbox-access fault.
(14_sett.md R313, 14_sett.md R315, 14_sett.md R318, 14_sett.md R320, 14_sett.md R321, 14_sett.md R322, 14_sett.md R323) -/
def Obligations.MailboxInstructions : Prop :=
  (∀ v d k e st pop p, Completes (.mbsnd v) (frameTryX v)
    (fun w x s => handleOf s x (readSrc w x v.b 0) = some (d, k, e) ∧ (Taken.q { x := x } (qOf v.a) false).stop none = none ∧
      freed 3 w x s ∧ (s.epSlot d k e).send x.ver (laneBytes (headLanes x (qOf v.a))) = .done st pop p)
    (fun w x s => ((if pop then s.setCtx w.c (x.qPop (qOf v.a)) else s).setEpSlot d k e p).setS w v.d.toNat (BitVec.ofNat 64 st))) ∧
  (∀ v d k e o p y, Completes (.mbrcv v) (frameMbrcv v)
    (fun w x s => handleOf s x (readSrc w x v.a 0) = some (d, k, e) ∧ (s.epSlot d k e).take = some (o, p) ∧
      ((x.rcvd = none ∧ Taken.stop { x := x } (some (qOf v.d)) = none ∧ y = x.qPush (qOf v.d) (bytesLanes o.payload)) ∨
        (∃ q id, x.rcvd = some (q, id) ∧ y = { x.qFill q id (bytesLanes o.payload) with rcvd := none })))
    (fun w _ s => (((s.setCtx w.c y).setEpSlot d k e { p with ostep := field o.hdr 96 32 }).acquire w.c.cid 3).setS w
      (field v.low 51 6).toNat (field o.hdr 0 64))) ∧
  (∀ v h d k e, Completes (.mbsta v) (frameX v)
    (fun w x s => h = readSrc w x v.a 0 ∧ handleOf s x h = some (d, k, e))
    (fun w _ s => s.setS w v.d.toNat (if bitAt v.low 47 then
      (s.epSlot d k e).ostep.setWidth 64 <<< 32 ||| (s.epSlot d k e).step.setWidth 64
      else (s.epSlot d k e).word (epiOf d k e)))) ∧
  (∀ v, Raises (.mbsnd v) (frameTryX v) (fun w x s => handleOf s x (readSrc w x v.b 0) = none) cMailbox (fun w x _ => readSrc w x v.b 0)) ∧
  (∀ v, Raises (.mbrcv v) (frameMbrcv v) (fun w x s => handleOf s x (readSrc w x v.a 0) = none) cMailbox (fun w x _ => readSrc w x v.a 0)) ∧
  (∀ v, Raises (.mbsta v) (frameX v) (fun w x s => handleOf s x (readSrc w x v.a 0) = none) cMailbox (fun w x _ => readSrc w x v.a 0))

/-- A bank CSR write changes the slot that kjepi selects within its limits; OPEN set on a closed slot empties it and lets it
run, OPEN cleared closes it; kjkill, a window violation in U mode and the step watchdog stop a running or ended episode: its
terminal entry is written with the step, the last version and the cause, and the monitor is interrupted. (14_sett.md R309,
14_sett.md R311, 14_sett.md R313, 14_sett.md R316, 14_sett.md R317) -/
def Obligations.MailboxEvents : Prop :=
  Performs .settCsrWrite (fun _ => True) (fun s => s.modSett s.inp.die s.inp.e (fun t =>
    { t.setSlot t.kjepi ((t.slot t.kjepi).writeCsr s.inp.no s.inp.v) with at_ := s.cycles })) ∧
  (∀ p, Performs .openSet (fun s => p = s.epSlot s.inp.die s.inp.e (s.settCore s.inp.die s.inp.e).kjepi ∧ p.open_ = false)
    (fun s => s.modSett s.inp.die s.inp.e (fun t => { t.setSlot t.kjepi p.open with at_ := s.cycles }))) ∧
  (∀ p, Performs .openClear (fun s => p = s.epSlot s.inp.die s.inp.e (s.settCore s.inp.die s.inp.e).kjepi ∧ p.open_ = true)
    (fun s => s.setEpSlot s.inp.die s.inp.e (s.settCore s.inp.die s.inp.e).kjepi p.close)) ∧
  (∀ d k e p, Performs .kjkill
    (fun s => d = s.inp.die ∧ k = s.inp.e ∧ e = (s.settCore d k).kjepi ∧ p = s.epSlot d k e ∧ bitAt s.inp.v 0 = true ∧
      p.state ≠ .closed ∧ p.state ≠ .stopped)
    (fun s => s.modSett d k (fun t => { t.setSlot e (p.stop (epiOf d k e) 3 0 (List.replicate 256 0)) with stopIrq := true }))) ∧
  (∀ d k e p, Performs .windowViolation
    (fun s => d = s.inp.die ∧ k = s.inp.e ∧ (s.settCore d k).mode = .u ∧ e = (s.settCore d k).kjepi ∧ p = s.epSlot d k e ∧
      p.window s.inp.addr s.inp.no s.inp.flag = .none ∧ p.state ≠ .closed ∧ p.state ≠ .stopped)
    (fun s => s.modSett d k (fun t => { t.setSlot e (p.stop (epiOf d k e) 3 0 (List.replicate 256 0)) with stopIrq := true }))) ∧
  (∀ d k e p u, Performs .stepWatchdogExpiry
    (fun s => d = s.inp.die ∧ k = s.inp.e ∧ e = s.inp.id ∧ u = s.countWatch d k ∧ p = u.epSlot d k e ∧ p.steplim ≠ 0 ∧ p.counting = true ∧
      p.steplim.toNat < p.wdog ∧ p.state ≠ .closed ∧ p.state ≠ .stopped)
    (fun _ => u.modSett d k (fun t => { t.setSlot e (p.stop (epiOf d k e) 2 0 (List.replicate 256 0)) with stopIrq := true })))

/-- SRD returns the value of the special of the named target; SWR of a value within its limits writes it, of any other value
raises the operand-range fault, before that of a target that does not exist. A special of a running context takes the value
once each of its roles has come to an instruction boundary, and SWR waits for that, noting the roles that it awaits. PTLO
and PTHI are written only with all partitions; any core names them. The device's own writes of specials have the same
effect. (17_privilege.md R348, 17_privilege.md R349, 17_privilege.md R351, 17_privilege.md R352, 17_privilege.md R353) -/
def Obligations.PrivilegedRegisters : Prop :=
  (∀ v, Completes (.srd v) (frameP v) (fun _ _ _ => bitAt v.low 47 = true ∧ ctxSpecial (spcNo v) = true)
    (fun w x s => s.setS w v.d.toNat (contextSpecial s w.c x (spcRole v) (spcNo v)))) ∧
  (∀ v c y, Completes (.srd v) (frameP v)
    (fun w x s => bitAt v.low 47 = false ∧ ctxSpecial (spcNo v) = true ∧ named (readSrc w x v.a 0) c y x s)
    (fun w _ s => s.setS w v.d.toNat (contextSpecial s c y (spcRole v) (spcNo v)))) ∧
  (∀ v c, Completes (.srd v) (frameP v) (fun w x s => ctxSpecial (spcNo v) = false ∧ spcCore v (readSrc w x v.a 0) c w x s)
    (fun w x s => s.setS w v.d.toNat (coreSpecial s c (spcPart x v) (spcNo v)))) ∧
  (∀ v c y u, Completes (.swr v) (frameP v)
    (fun w x s => ctxSpecial (spcNo v) = true ∧ swrNames v w c y x s ∧ (y.state = .run → swrFree v w c y x s) ∧
      writeContextSpecial s c ((s.ctx c).getD {}) (spcRole v) (spcNo v) (readSrc w x v.a 0) ≠ none ∧
      writeContextSpecial s c { y with swr := none } (spcRole v) (spcNo v) (readSrc w x v.a 0) = some u)
    (fun _ _ _ => u)) ∧
  (∀ v c y, Answers (.swr v) (frameP v)
    (fun w x s => ctxSpecial (spcNo v) = true ∧ swrNames v w c y x s ∧ y.state = .run ∧ y.swr = none ∧ y.offBoundary (swrOwn w c) ≠ [] ∧
      writeContextSpecial s c y (spcRole v) (spcNo v) (readSrc w x v.a 0) ≠ none)
    (fun w x s => (s.setCtx c { y with swr := some ⟨w.c, w.r, spcNo v, spcRole v, readSrc w x v.a 0, y.offBoundary (swrOwn w c)⟩ }).waitOn
      w .target)) ∧
  (∀ v c u, Completes (.swr v) (frameP v)
    (fun w x s => (0x4E ≤ spcNo v → x.servPart = 31) ∧ ctxSpecial (spcNo v) = false ∧ spcCore v (readSrc w x v.b 0) c w x s ∧
      writeCoreSpecial s c (spcPart x v) (spcNo v) (readSrc w x v.a 0) = some u)
    (fun _ _ _ => u)) ∧
  (∀ v c, Raises (.swr v) (frameP v)
    (fun w x s => ctxSpecial (spcNo v) = true ∧
      (if bitAt v.low 47 then c = w.c else c = idOf (readSrc w x v.b 0) ∧ idFault s x (readSrc w x v.b 0) true = none) ∧
      writeContextSpecial s c ((s.ctx c).getD {}) (spcRole v) (spcNo v) (readSrc w x v.a 0) = none) cRange (fun w x _ => readSrc w x v.a 0)) ∧
  (∀ v c, Raises (.swr v) (frameP v)
    (fun w x s => ctxSpecial (spcNo v) = true ∧ bitAt v.low 47 = false ∧ c = idOf (readSrc w x v.b 0) ∧
      idFault s x (readSrc w x v.b 0) true = none ∧ s.ctx c = none ∧
      writeContextSpecial s c {} (spcRole v) (spcNo v) (readSrc w x v.a 0) ≠ none) cTarget (fun w x _ => readSrc w x v.b 0)) ∧
  (∀ v c, Raises (.swr v) (frameP v)
    (fun w x s => (0x4E ≤ spcNo v → x.servPart = 31) ∧ ctxSpecial (spcNo v) = false ∧ spcCore v (readSrc w x v.b 0) c w x s ∧
      writeCoreSpecial s c (spcPart x v) (spcNo v) (readSrc w x v.a 0) = none)
    cRange (fun w x _ => readSrc w x v.a 0)) ∧
  (∀ v, Raises (.swr v) (frameP v) (fun _ x _ => 0x4E ≤ spcNo v ∧ x.servPart ≠ 31) cPrivilege (fun w x _ => readSrc w x v.b 0)) ∧
  Performs .seedWrite (fun _ => True) (fun s => s.put 0x0E s.inp.v) ∧
  Performs .winWrite (fun _ => True) (fun s => s.put 0x0C s.inp.v) ∧
  Performs .wlimmaxWrite (fun _ => True) (fun s => s.put 0x42 s.inp.v) ∧
  Performs .passThroughWrite (fun _ => True) (fun s => s.writePass s.inp.flag s.inp.v) ∧
  Performs .specialRegisterWrite (fun s => s.inp.flag = false ∧ swrWritable (BitVec.ofNat 9 s.inp.no) = true ∧ s.inp.no < 512)
    (fun s => s.put s.inp.no s.inp.v)

/-- ERET of a TRAPPED context ends its domain, releases its freeze, or lets it go on at or after its instruction. A CTXSV whose
save is made returns its code; CTXLD of a sound image whose slot is free restores the context, and one whose header lies in
an uncorrectable word raises the memory-error fault; PARK revokes a harvest context and returns its bank, UNPARK lets it go
on; DBGH sets or clears the halt of the named roles, or the hold of a die. (17_privilege.md R354, 17_privilege.md R355,
17_privilege.md R356, 17_privilege.md R358, 17_privilege.md R365) -/
def Obligations.ContextControl : Prop :=
  (∀ v c y role cause code val, Completes (.eret v) (frameP v)
    (fun w x s => named (readSrc w x v.a 0) c y x s ∧ y.state = .trapped ∧ y.trap = some (role, cause, code, val) ∧
      ¬((eretMode v = 1 ∧ role = 3) ∨ (eretMode v = 0 ∧ cause = cCopyFault)) ∧ freed 2 w x s)
    (fun _ _ s => resumeCtx s c y (eretMode v) role cause)) ∧
  (∀ v m, Completes (.ctxsv v) (frameP v)
    (fun w x _ => (x.role w.r).wait = some .target ∧ (x.role w.r).mark = some m ∧ m ≠ -1) (fun w _ s => s.setS w v.d.toNat m)) ∧
  (∀ v c y h l z, Completes (.ctxld v) (frameP v)
    (fun w x s => idFault s x (readSrc w x v.a 0) true = none ∧ c = idOf (readSrc w x v.a 0) ∧
      s.loadRuns w.c.cid x.part (pageParts (readSrc w x v.b 0).toNat 64) = .ok h ∧ numAt h 0 4 = 0x4B435831 ∧ numAt h 4 2 = c.cid ∧
      numAt h 6 1 = c.num ∧ numAt h 8 4 = Config.implCode.toNat ∧ s.savedOf c (numAt h 0x10 8) = some y ∧ s.slotClean c = true ∧
      (s.core c.cid).retired = false ∧ s.fits c.cid y.abud y.wbud y.zbud = true ∧ freed 2 w x s ∧
      s.loadRuns w.c.cid x.part (imageRuns (readSrc w x v.b 0).toNat) = .ok l ∧ z = s.imageOf y (l.drop 64))
    (fun w x s => ((s.release w.c 2).keepLeaves w.c.cid x.part (imageRuns (readSrc w x v.b 0).toNat)).restore c z)) ∧
  (∀ v, Raises (.ctxld v) (frameP v)
    (fun w x s => idFault s x (readSrc w x v.a 0) true = none ∧
      s.loadRuns w.c.cid x.part (pageParts (readSrc w x v.b 0).toNat 64) = .error (cMemory, (readSrc w x v.b 0).toNat)) cMemory
    (fun w x _ => readSrc w x v.b 0)) ∧
  (∀ v c y, Completes (.park v) (frameP v)
    (fun w x s => named (readSrc w x v.a 0) c y x s ∧ c.num ≠ 0 ∧ (y.state = .run ∨ y.state = .trapped))
    (fun w _ s => (s.revoke c 0).setS w v.d.toNat (BitVec.ofNat 64 (c.num - 1)))) ∧
  (∀ v c y, Completes (.unpark v) (frameP v)
    (fun w x s => named (readSrc w x v.a 0) c y x s ∧ c.num ≠ 0 ∧ y.state = .parked ∧ freed 2 w x s) (fun _ _ s => s.unpark c)) ∧
  (∀ v c y, Completes (.dbgh v) (frameP v)
    (fun w x s => (field v.low 48 2).toNat < 2 ∧ field v.low 50 3 ≠ 0 ∧ named (readSrc w x v.a 0) c y x s)
    (fun _ _ s => s.debug (field v.low 48 2).toNat (field v.low 50 3) c)) ∧
  (∀ v cid, Completes (.dbgh v) (frameP v)
    (fun w x s => 2 ≤ (field v.low 48 2).toNat ∧ field v.low 50 3 = 0 ∧ namedCore (readSrc w x v.a 0) cid x s)
    (fun _ _ s => s.debug (field v.low 48 2).toNat (field v.low 50 3) ⟨cid, 0⟩))

/-- INVL of a legal range returns the index it takes, and its record goes to the store buffer under release order; INVA
completes once every core in service has applied it; STBW writes a legal entry and STBR reads one; RETIRE retires a core;
SPARE brings a spare in or returns 1; IDLE returns TQT once the queue is not empty. A pending record is appended once there
is room. (17_privilege.md R359, 17_privilege.md R360, 17_privilege.md R362, 17_privilege.md R363, 17_privilege.md R364,
17_privilege.md R366, 19_translation.md R394, 17_privilege.md R369) -/
def Obligations.InvalidationAndTables : Prop :=
  (∀ v a size, Completes (.invl v) (frameP v)
    (fun w x s => a = readSrc w x v.a 0 ∧ field v.low 48 2 ≠ 3 ∧
      size = (if (field v.low 48 2).toNat = 0 then 65536 else if (field v.low 48 2).toNat = 1 then 2097152 else 1073741824) ∧
      a.toNat % size = 0 ∧ a.toNat < 2 ^ 48 ∧ (bitAt v.low 50 = true → a = 0))
    (fun w x s => (s.invalidate w x (bitAt v.low 50) size a.toNat).setS w v.d.toNat (BitVec.ofNat 64 (s.part x.part).ivlt))) ∧
  (∀ v n s1, Completes (.inva v) (frameP v)
    (fun w x s => n = invaTarget v w x s ∧ s1 = (s.liveCores x.part).foldl (fun (s : State) cid => s.applyLog cid) s ∧
      (∀ cid ∈ s1.liveCores x.part, reachedIdx (s1.core cid).ivla n = true)) (fun _ _ _ => s1)) ∧
  Performs .invalidationApply (fun _ => True) (fun s => s.applyLog s.inp.cid) ∧
  (∀ v stn trk slot, Completes (.stbw v) (frameP v)
    (fun w x s => namedLoc (readSrc w x v.b 0) stn trk slot x s ∧ entryBad stn (readSrc w x v.a 0) = false)
    (fun w x s => { s with ring := s.ring.setEntry stn trk slot (readSrc w x v.a 0) })) ∧
  (∀ v stn trk slot, Completes (.stbr v) (frameP v) (fun w x s => namedLoc (readSrc w x v.b 0) stn trk slot x s)
    (fun w _ s => s.setS w v.d.toNat (s.ring.entry stn trk slot))) ∧
  (∀ v cid, Completes (.retire v) (frameP v)
    (fun w x s => field (readSrc w x v.a 0) 0 2 = 0 ∧ namedCore (readSrc w x v.a 0) cid x s) (fun _ _ s => s.retireCore cid)) ∧
  (∀ v cid, Completes (.spare v) (frameP v)
    (fun w x s => namedCore (readSrc w x v.a 0) cid x s ∧ (s.core cid).retired = true)
    (fun w _ s => if (s.die (dieOf cid)).left = 0 then s.setS w v.d.toNat 1 else (s.bringSpare cid).setS w v.d.toNat 0)) ∧
  (∀ v q, Completes (.idle v) (frameIdle v) (fun w x s => q = s.trapQ (dieOf w.c.cid) x.part ∧ q.tqt ≠ q.tqh)
    (fun w _ s => (s.acquire w.c.cid 2).setS w v.d.toNat (q.tqt.setWidth 64))) ∧
  (∀ v q m, Completes (.idle v) (frameIdle v)
    (fun w x s => q = s.trapQ (dieOf w.c.cid) x.part ∧ bitAt v.low 56 = false ∧ (x.role w.r).mark = some m ∧
      readSrc w x v.a 0 ≠ 0 ∧ readSrc w x v.a 0 ≤ s.cyc w.c.cid - m)
    (fun w _ s => (s.acquire w.c.cid 2).setS w v.d.toNat (q.tqt.setWidth 64))) ∧
  (∀ (s : State) x v k m n, s.ctx s.inp.c = some x → decode (fetchBytes (s.textOf x) (x.role s.inp.r).pc) = .ok (.idle v, k) →
    (x.role s.inp.r).mark = some m → n = (readSrc ⟨s.inp.c, s.inp.r⟩ x v.a 0 - (s.cyc s.inp.c.cid - m)).toNat →
    (x.role s.inp.r).wait = some .idle → s.due n = none → readSrc ⟨s.inp.c, s.inp.r⟩ x v.a 0 ≠ 0 → s.canIssue ⟨s.inp.c, s.inp.r⟩ = true →
    (x.role s.inp.r).waited + n < x.wlim →
    ∃ t, exec (.idle v) { s.elapse n with turn := .role s.inp.c s.inp.r } = .next t ∧
      exec .idleCycleLimit s = .next { t with turn := s.turn }) ∧
  (∀ t l s1 s2, Performs .trapRecordPendingAppend
    (fun s => (s.trapQ s.inp.die s.inp.part).waiting = t :: l ∧ (s.trapQ s.inp.die s.inp.part).full = false ∧
      s.devBusy s.inp.part ((s.trapQ s.inp.die s.inp.part).tqb + 64 * ((s.trapQ s.inp.die s.inp.part).tqt.toNat % 256)) = false ∧ s1 = s.modTrapQ s.inp.die s.inp.part (fun q => { q with waiting := q.waiting.tail }) ∧
      s1.storeRec s.inp.die s.inp.part t = some s2) (fun _ => s2))

/-- A channel of a running kernel for which every participant has arrived or is excused releases: each arrival is released with
the status latched. Channel 0 releases so too unless a checkpoint's freeze is due first. A detection wave notes whether it
found the lists and contexts quiet, and latches when the wave before it found the same. (09_sync.md R218, 09_sync.md R220,
09_sync.md R221, 11_engines.md R270, 20_reliability.md R414, 21_power.md R427) -/
def Obligations.Releases : Prop :=
  (∀ k, Performs .barrierRelease
    (fun s => s.kernel s.inp.k = some k ∧ k.state = .running ∧ 1 ≤ s.inp.e ∧ s.inp.e < k.g ∧
      s.allArrived k (fun x => (x.chan s.inp.e).pending) = true)
    (fun s => s.releaseChan k s.inp.e)) ∧
  (∀ k, Performs .phaseBarrierRelease (fun s => s.kernel s.inp.k = some k ∧ s.phaseFull k = true ∧ s.freezeDue k.id = false)
    (fun s => s.releasePhase k)) ∧
  (∀ k l q, Performs .detectionWave
    (fun s => s.kernel s.inp.k = some k ∧ k.wl = some l ∧
      q = (l.lists.all (·.isEmpty) && l.appended == l.taken && k.grant.all (s.ctxIdle k)))
    (fun s => s.modKernel k.id (fun k => { k with wl := some { l with
      wave := some (q, l.appended), latch := l.latch || (q && l.wave == some (true, l.appended)) } })))

/-- A context whose live roles all wait on its own queues with nothing in flight takes the self-deadlock trap; a role whose
counted wait has reached WLIM takes the wait-timeout fault; an event held off for HOLDLIM cycles delivers the hold-off trap,
and the trapped context is saved once its transfers have ended. A WAITC completes when its clock is reached, a YLD when its
cycles are over, with no passage of the ring due before. (09_sync.md R222, 09_sync.md R223, 02_execution.md R46,
05_scalar.md R121, 05_scalar.md R122) -/
def Obligations.WaitEnds : Prop :=
  (∀ x, Performs .selfDeadlock
    (fun s => s.ctx s.inp.c = some x ∧ x.deadlocked = true ∧ (s.core s.inp.c.cid).frozen = none)
    (fun s => s.deliver s.inp.c 3 cDeadlock 0 0 false)) ∧
  (∀ x k, Performs .waitTimeout
    (fun s => s.ctx s.inp.c = some x ∧ (x.role s.inp.r).wait = some k ∧ k.counts = true ∧ x.wlim ≤ (x.role s.inp.r).waited ∧
      (k.deadlock = true → (x.role s.inp.r).seen = x.shared) ∧ s.canIssue ⟨s.inp.c, s.inp.r⟩ = true)
    (fun s => s.raise ⟨s.inp.c, s.inp.r⟩ cTimeout 0)) ∧
  (∀ x, Performs .holdOffOverrun
    (fun s => s.ctx s.inp.c = some x ∧ x.async ≠ [] ∧ x.state = .run ∧ (s.core s.inp.c.cid).holdlim ≤ x.heldOff)
    (fun s => s.deliver s.inp.c 3 cHoldOff 0 0 false)) ∧
  (∀ x role code val, Performs .holdOffOverrun
    (fun s => s.ctx s.inp.c = some x ∧ x.async ≠ [] ∧ x.state = .trapped ∧ x.trap = some (role, cHoldOff, code, val) ∧
      (x.inTransfer = false ∨ (s.core s.inp.c.cid).frozen ≠ none) ∧
      (x.async.any (·.isSave) = true → s.saveReady s.inp.c x = true))
    (fun s => s.takeAsync s.inp.c 1)) ∧
  (∀ (s : State) x v k n, s.ctx s.inp.c = some x → decode (fetchBytes (s.textOf x) (x.role s.inp.r).pc) = .ok (.waitc v, k) →
    cyclesUntil s s.inp.c v (readSrc ⟨s.inp.c, s.inp.r⟩ x v.a (imm64 v)) = some n → (x.role s.inp.r).wait = some .clock →
    s.canIssue ⟨s.inp.c, s.inp.r⟩ = true → (x.role s.inp.r).waited + n < x.wlim → s.due n = none →
    ∃ t, exec (.waitc v) { s.elapse n with turn := .role s.inp.c s.inp.r } = .next t ∧
      exec .waitcClockReached s = .next { t with turn := s.turn }) ∧
  (∀ x n, Performs .yieldEnd
    (fun s => s.ctx s.inp.c = some x ∧ n = (x.role s.inp.r).yieldLeft.getD 0 ∧ s.due n = none)
    (fun s => (s.elapse n).modRole ⟨s.inp.c, s.inp.r⟩ (fun r => { r with yieldLeft := r.yieldLeft.map (fun _ => 0) })))

/-- CKPT of a sound descriptor of a checkpoint-enabled leaf returns the next number, appends the request, holds it off in the
kernel's contexts and writes the progress record with STATE 1. The freeze makes the dirty window pages, or all of them, the
snapshot set and protects it; the engine writes each page with its header at its stream offset; completion writes the
checkpoint header, and the progress record once the writes before it have been answered; an overrun or an error of the
destination fails it. A write to a protected page first saves its old contents. (20_reliability.md R412, 20_reliability.md
R413, 20_reliability.md R414, 20_reliability.md R415, 20_reliability.md R416, 20_reliability.md R417, 17_privilege.md R367) -/
def Obligations.Checkpoints : Prop :=
  (∀ v d k r pa, Completes (.ckpt v) (frameP v)
    (fun w x s => s.xlate x.part (readSrc w x v.b 0).toNat false = .ok pa ∧ s.readV x.part (readSrc w x v.b 0).toNat 320 = some d ∧
      descOk d = true ∧ s.ckLeaf x.part (readSrc w x v.a 0).toNat = some k ∧ r = requestOf k (s.ckOf k.id) d)
    (fun w _ s => (({ (s.setCk { s.ckOf k.id with count := r.no }).ckProgress r 1 0 0 with
      ck := { ((s.setCk { s.ckOf k.id with count := r.no }).ckProgress r 1 0 0).ck with
        reqs := ((s.setCk { s.ckOf k.id with count := r.no }).ckProgress r 1 0 0).ck.reqs ++ [r] } } : State).holdCkpt k).setS w v.d.toNat
      (BitVec.ofNat 64 r.no))) ∧
  (∀ k r c pages snap r1, Performs .bitmapFreeze
    (fun s => s.kernel s.inp.k = some k ∧ s.reqOf s.inp.k .waiting = some r ∧ s.phaseFull k = true ∧ s.freezeDue k.id = true ∧
      c = s.ckOf k.id ∧ pages = s.ckPages r ∧ snap = (if c.nextFull then pages else pages.filter (fun p => s.ck.dirty.contains p.2)) ∧
      r1 = { r with state := .copying, full := c.nextFull, base := if c.nextFull then r.no else c.base, onext := c.onext,
                    tfreeze := s.refTime, phn := k.phn + 1, todo := snap, pages := snap.length })
    (fun s =>
      let s1 := (s.modReq r (fun _ => r1)).setCk { c with base := r1.base, nextFull := false }
      (({ s1 with ck := { s1.ck with
          dirty := s1.ck.dirty.filter (fun d => !pages.any (fun p => p.2 == d))
          prot := s1.ck.prot ++ snap.map Prod.snd } } : State).takeCkpt k).ckProgress r1 2 0 0)) ∧
  (∀ r va pa rest o s1 s2, Performs .checkpointPageCopy
    (fun s => s.reqOf s.inp.k .copying = some r ∧ r.todo = (va, pa) :: rest ∧ o = r.onext + ckLen r.pdone ∧
      o + 65552 ≤ r.dlen ∧ s.inp.flag = false ∧
      s.ckWrite r (r.dadr + o) (bytesN va 8 ++ bytesOf (crc32c (s.snapshot pa)) 4 ++ bytesN 0 4) = some s1 ∧
      s1.ckWrite r (r.dadr + o + 16) (s.snapshot pa) = some s2)
    (fun _ => (s2.modReq r (fun e => { e with todo := rest, pdone := e.pdone + 1 })).unprotect [pa])) ∧
  Performs .copyOnWrite (fun _ => True) (fun s => s.saveSide (pageOf s.inp.addr)) ∧
  (∀ r s1, Performs .checkpointComplete
    (fun s => s.reqOf s.inp.k .copying = some r ∧ r.todo = [] ∧ s.ckPending r = false ∧ r.onext + 64 ≤ r.dlen ∧
      r.headed = false ∧ s.ckWrite r (r.dadr + r.onext) r.header = some s1)
    (fun _ => (s1.modReq r (fun e => { e with headed := true })).ckDone { r with headed := true })) ∧
  (∀ r, Performs .checkpointComplete
    (fun s => s.reqOf s.inp.k .copying = some r ∧ r.todo = [] ∧ s.ckPending r = false ∧ r.onext + 64 ≤ r.dlen ∧ r.headed = true)
    (fun s => ((s.dropReq r).setCk { s.ckOf r.kernel with onext := r.after }).ckProgress r 3 0 s.refTime)) ∧
  (∀ r va pa rest, Performs .checkpointPageCopy
    (fun s => s.reqOf s.inp.k .copying = some r ∧ r.todo = (va, pa) :: rest ∧ r.dlen < r.onext + ckLen r.pdone + 65552)
    (fun s => s.failCk r 1)) ∧
  (∀ r va pa rest, Performs .checkpointPageCopy
    (fun s => s.reqOf s.inp.k .copying = some r ∧ r.todo = (va, pa) :: rest ∧ r.onext + ckLen r.pdone + 65552 ≤ r.dlen ∧ s.inp.flag = true)
    (fun s => s.failCk r 2)) ∧
  (∀ r, Performs .checkpointComplete
    (fun s => s.reqOf s.inp.k .copying = some r ∧ r.todo = [] ∧ s.ckPending r = false ∧ r.dlen < r.onext + 64) (fun s => s.failCk r 1)) ∧
  (∀ r, Performs .checkpointComplete
    (fun s => s.reqOf s.inp.k .copying = some r ∧ r.todo = [] ∧ s.ckPending r = false ∧ r.onext + 64 ≤ r.dlen ∧ r.headed = false ∧
      s.ckWrite r (r.dadr + r.onext) r.header = none)
    (fun s => s.failCk r 2)) ∧
  (∀ v, Raises (.ckpt v) (frameP v)
    (fun w x s => ∃ pa d, s.xlate x.part (readSrc w x v.b 0).toNat false = .ok pa ∧ s.readV x.part (readSrc w x v.b 0).toNat 320 = some d ∧
      descOk d = false) cRange (fun w x _ => readSrc w x v.b 0)) ∧
  (∀ v, Raises (.ckpt v) (frameP v)
    (fun w x s => ∃ pa d, s.xlate x.part (readSrc w x v.b 0).toNat false = .ok pa ∧ s.readV x.part (readSrc w x v.b 0).toNat 320 = some d ∧
      descOk d = true ∧ s.ckLeaf x.part (readSrc w x v.a 0).toNat = none) cTarget (fun w x _ => readSrc w x v.a 0)) ∧
  (∀ r, Performs .checkpointFailure (fun s => s.reqOf s.inp.k .failed = some r) (fun s => s.ckFailed r)) ∧
  (∀ r, Performs .checkpointFailure
    (fun s => s.reqOf s.inp.k .failed = none ∧ s.reqOf s.inp.k .copying = some r ∧ s.inp.flag = true) (fun s => s.failCk r 2)) ∧
  (∀ r, Performs .checkpointFailure
    (fun s => s.reqOf s.inp.k .failed = none ∧ s.reqOf s.inp.k .copying = none ∧ s.reqOf s.inp.k .waiting = some r ∧ s.kernel s.inp.k = none)
    (fun s => s.failCk r 3))

/-- A directory write with REG opens a closed queue whose descriptor is sound, and refuses another with STS 2; REG 0 closes.
TAIL takes a value within the room of an open queue with no index published twice, PUBL one index, and TAIL then advances
over contiguous ones; another write sets ERR. CLAIM adds. What a host writes through a virtual function to a queue of
another partition is dropped. A leader that no longer qualifies is replaced by the first die of the order that does.
(18_scheduling.md R373, 18_scheduling.md R374, 18_scheduling.md R375, 18_scheduling.md R382) -/
def Obligations.LaunchQueues : Prop :=
  Performs .queueRegister (fun _ => True) (fun s => s.writeDirectory s.inp.q (s.inp.v.toNat / 2 * 2 + 1) s.inp.flag) ∧
  Performs .queueClose (fun _ => True) (fun s => s.writeDirectory s.inp.q ((s.queue s.inp.q).word / 2 * 2) s.inp.flag) ∧
  (∀ k t l, Performs .tailWrite
    (fun s => s.reaches s.inp.e s.inp.q = true ∧ k = s.queue s.inp.q ∧ t = s.inp.v.setWidth 32 ∧ k.sts = 1 ∧ s.queuesOff = false ∧ k.ahead t ≤ k.room ∧
      l = (List.range (k.ahead t)).map (fun i => (k.tail.toNat + i) % 2 ^ 32) ∧ (∀ i ∈ l, i ∉ k.published))
    (fun s => s.modQueue s.inp.q (fun k => LQueue.advance { k with tail := t, appenders := k.appenders ++ [] } k.published.length))) ∧
  (∀ k t, Performs .tailWrite
    (fun s => s.reaches s.inp.e s.inp.q = true ∧ k = s.queue s.inp.q ∧ t = s.inp.v.setWidth 32 ∧ (k.sts ≠ 1 ∨ k.room < k.ahead t))
    (fun s => s.modQueue s.inp.q (fun k => { k with err := true }))) ∧
  (∀ k t, Performs .publ
    (fun s => s.reaches s.inp.e s.inp.q = true ∧ k = s.queue s.inp.q ∧ t = s.inp.v.setWidth 32 ∧ k.sts = 1 ∧ s.queuesOff = false ∧ k.ahead t < k.room ∧
      t.toNat ∉ k.published)
    (fun s => s.modQueue s.inp.q (fun k => LQueue.advance { k with
      published := k.published ++ [t.toNat], appenders := k.appenders ++ [] } (k.published.length + 1)))) ∧
  (∀ k t, Performs .publ
    (fun s => s.reaches s.inp.e s.inp.q = true ∧ k = s.queue s.inp.q ∧ t = s.inp.v.setWidth 32 ∧ (k.sts ≠ 1 ∨ k.room ≤ k.ahead t))
    (fun s => s.modQueue s.inp.q (fun k => { k with err := true }))) ∧
  Performs .tailWrite (fun s => s.reaches s.inp.e s.inp.q = false) (fun s => s) ∧
  Performs .publ (fun s => s.reaches s.inp.e s.inp.q = false) (fun s => s) ∧
  Performs .claim (fun s => s.reaches s.inp.e s.inp.q = false) (fun s => s) ∧
  Performs .claim (fun s => s.reaches s.inp.e s.inp.q = true) (fun s => s.modQueue s.inp.q (fun k => { k with claim := k.claim + s.inp.v.setWidth 32 })) ∧
  (∀ q d, Performs .leaderHandOver
    (fun s => q = s.queue s.inp.q ∧ q.leader = some d ∧ (q.sts = 1 ∨ q.sts = 3) ∧ s.qualifies q d = false)
    (fun s => (s.tryWrite q.part (q.daddr + 0x10) (bytesOf q.head 4)).modQueue q.q (fun k => { k with leader := s.leaderOf q })))

/-- A flight whose bytes have come writes them to its destination; one that may be performed reads its place first. An atomic
and a store-buffer entry with nothing to wait for are performed, the entry leaving the buffer, and its release order
carrying what came before it. A cluster message is performed at the peer's bank; F replies and acknowledgements end their
access; the fourth CRC failure of a packet, or of an STO, ends it; a host completion delivers its data or raises the
host-access fault with its PESTS bit; a walk caches its leaf or raises its fault. (07_memory.md R164, 07_memory.md R165,
07_memory.md R167, 07_memory.md R169, 07_memory.md R173, 07_memory.md R174, 19_translation.md R393, 19_translation.md R400,
20_reliability.md R407, 22_host.md R436, 22_host.md R439) -/
def Obligations.AccessesPerformed : Prop :=
  (∀ x f l, Performs .loadDataWrite
    (fun s => s.ctx s.inp.c = some x ∧ x.flight s.inp.id = some f ∧ f.data = some l) (fun s => s.writeBack s.inp.c f l)) ∧
  (∀ x f s1 y g l, Performs .loadDataWrite
    (fun s => s.ctx s.inp.c = some x ∧ x.flight s.inp.id = some f ∧ f.data = none ∧ f.atom = none ∧
      f.failed = none ∧ s.ldhDown f = false ∧ x.performs f = true ∧
      s.performAt s.inp.c x f (fun t g => t.performLoad s.inp.c x g) = some s1 ∧ s1.ctx s.inp.c = some y ∧
      y.flight f.id = some g ∧ g.failed = none ∧ g.data = some l)
    (fun s => s1.writeBack s.inp.c g l)) ∧
  (∀ x f c val, Performs .loadDataWrite
    (fun s => s.ctx s.inp.c = some x ∧ x.flight s.inp.id = some f ∧ f.data = none ∧ f.failed = some (c, val) ∧ x.state = .run)
    (fun s => s.lateFault s.inp.c f c val)) ∧
  (∀ x f o s1, Performs .atomicPerform
    (fun s => s.ctx s.inp.c = some x ∧ x.flight s.inp.id = some f ∧ f.atom = some o ∧ f.data = none ∧ f.failed = none ∧
      s.performAt s.inp.c x f (fun t g => t.performAtomic s.inp.c x g o) = some s1)
    (fun _ => s1)) ∧
  (∀ e x s2, Performs .storeBufferDrain
    (fun s => (s.core s.inp.cid).sbuf[s.inp.id]? = some e ∧ s.ctx e.ctx = some x ∧
      s.mayDrain (s.core s.inp.cid) s.inp.id e x = true ∧
      (s.modCore s.inp.cid (fun k => { k with sbuf := k.sbuf.eraseIdx s.inp.id })).performStore e x = some s2)
    (fun _ => if e.rel then s2.release e.ctx e.scope else s2)) ∧
  (∀ x e, Performs .clusterMessagePerform
    (fun s => s.ctx s.inp.c = some x ∧ s.inp.flag = false ∧ x.kstores.find? (fun e => e.id == s.inp.id) = some e)
    (fun s => s.kStore s.inp.c x e)) ∧
  (∀ x f, Performs .clusterMessagePerform
    (fun s => s.ctx s.inp.c = some x ∧ s.inp.flag = false ∧ x.kstores.find? (fun e => e.id == s.inp.id) = none ∧
      x.flight s.inp.id = some f)
    (fun s => s.kAccess s.inp.c x f)) ∧
  (∀ ix p, Performs .fAccessArrival (fun s => s.fabOn = true ∧ s.inp.arr = .loopback ix ∧ s.pkt ix = some p ∧ p.pkg = s.fab.pkgid)
    (fun s => s.loopback p)) ∧
  (∀ ix ok data p id, Performs .fAccessArrival
    (fun s => s.fabOn = true ∧ s.inp.arr = .reply ix ok data ∧ s.pkt ix = some p ∧ p.kind = .load id ∧ p.pkg ≠ s.fab.pkgid)
    (fun s => s.endF p id (if ok then .ok data else .error cRemote))) ∧
  (∀ key va op l s1, Performs .fAccessArrival (fun s => s.fabOn = true ∧ s.inp.arr = .inbound key va op ∧
      s.fab.keys.any (fun e => e.1.1 == s.inp.port && decide (e.1.1 ≤ 32) && e.2.1 == key) = true ∧ s.serve key va op = .ok l s1)
    (fun _ => s1)) ∧
  (∀ g no h l, Performs .fAccessArrival (fun s => s.inp.arr = .goltik g no h l) (fun s => s.goltikIn g no h l)) ∧
  (∀ p store acc n l, Performs .stfAcknowledgement
    (fun s => s.fabOn = true ∧ s.pkt s.inp.id = some p ∧ p.kind = .engine store acc n l)
    (fun s => s.engineAnswer p store acc s.inp.flag)) ∧
  (∀ p l, Performs .stfAcknowledgement
    (fun s => s.fabOn = true ∧ s.pkt s.inp.id = some p ∧ p.kind = .store l ∧ p.pkg ≠ s.fab.pkgid)
    (fun s => (s.dropPkt p.ix).acked p.ctx s.inp.flag)) ∧
  (∀ p l ok, Performs .stfAcknowledgement
    (fun s => s.fabOn = true ∧ s.pkt s.inp.id = some p ∧ p.kind = .store l ∧ p.pkg = s.fab.pkgid ∧ p.served = some ok)
    (fun s => (s.dropPkt p.ix).acked p.ctx !ok)) ∧
  (∀ p, Performs .packetCrcFailure (fun s => s.inp.flag = false ∧ s.pkt s.inp.id = some p ∧ p.tries < 3)
    (fun s => { s with fab := { s.fab with
      pkts := s.fab.pkts.map (fun q => if q.ix = p.ix then { q with tries := q.tries + 1 } else q) } })) ∧
  (∀ p l, Performs .packetCrcFailure (fun s => s.inp.flag = false ∧ s.pkt s.inp.id = some p ∧ 3 ≤ p.tries ∧ p.kind = .store l)
    (fun s => ((s.dropPkt p.ix).acked p.ctx false).post s.inp.die 10 s.inp.port 0)) ∧
  (∀ p store acc n l, Performs .packetCrcFailure (fun s => s.inp.flag = false ∧ s.pkt s.inp.id = some p ∧ 3 ≤ p.tries ∧ p.kind = .engine store acc n l)
    (fun s => (s.dropPkt p.ix).post s.inp.die 10 s.inp.port 0)) ∧
  (∀ p id, Performs .packetCrcFailure (fun s => s.inp.flag = false ∧ s.pkt s.inp.id = some p ∧ 3 ≤ p.tries ∧ p.kind = .load id)
    (fun s => s.endF p id (.error cMemory))) ∧
  (∀ p k n l, Performs .packetCrcFailure (fun s => s.inp.flag = false ∧ s.pkt s.inp.id = some p ∧ 3 ≤ p.tries ∧ p.kind = .ckpt k n l)
    (fun s => (s.dropPkt p.ix).post s.inp.die 10 s.inp.port 0)) ∧
  (∀ o, Performs .packetCrcFailure
    (fun s => s.inp.flag = true ∧ s.fab.stos.find? (fun o => o.tag == s.inp.id && !o.numbered) = some o ∧ 3 ≤ o.tries)
    (fun s => (s.dropSto s.inp.id).rejectSto o.ctx)) ∧
  (∀ p k n l, Performs .stfAcknowledgement (fun s => s.fabOn = true ∧ s.pkt s.inp.id = some p ∧ p.kind = .ckpt k n l)
    (fun s => s.ckAnswer p k n s.inp.flag)) ∧
  Performs .linkCrcRetry (fun _ => True) (fun s => s) ∧
  (∀ x f, Performs .ldhCompletion
    (fun s => s.ldh s.inp.c s.inp.id = some (x, f) ∧ s.mustWait s.inp.c x f = false ∧ s.inp.host = .success ∧ x.performs f = true)
    (fun s => s.gotData s.inp.c f (s.inp.data.take f.size))) ∧
  (∀ x f, Performs .ldhCompletion
    (fun s => s.ldh s.inp.c s.inp.id = some (x, f) ∧ s.mustWait s.inp.c x f = false ∧ s.inp.host ≠ .success)
    (fun s => s.hostFault s.inp.c x f (hostBit s.inp.host))) ∧
  (∀ x f, Performs .completionTimeout (fun s => s.ldh s.inp.c s.inp.id = some (x, f))
    (fun s => s.hostFault s.inp.c x f 0b00100)) ∧
  (∀ w x l, Performs .translationWalk
    (fun s => s.walker s.inp.cid s.inp.addr = some (w, x) ∧ s.walk x.part s.inp.addr = .ok l)
    (fun s => s.modCore s.inp.cid (fun k => k.addLeaf l))) ∧
  (∀ w x c, Performs .translationWalk
    (fun s => s.walker s.inp.cid s.inp.addr = some (w, x) ∧ s.walk x.part s.inp.addr = .fault c)
    (fun s => s.raise w c (BitVec.ofNat 64 s.inp.addr)))

/-- A fabric request whose checks pass completes: it makes its change and answers error 0 in FSTS: the package id, one route set
or removed, one group installed with its window cleared, a group removed, a sequencer set or ended, a key entry set or
removed. One that fails a check changes nothing but FSTS and the block's own words, and answers the error of its first
failing check: an FOP of no operation 1, an invalid field 2, a group that stands in its way 3, a window that is not pinned
4. (13_fabric.md R295, 13_fabric.md R297, 13_fabric.md R299, 19_translation.md R400) -/
def Obligations.FabricRequests : Prop :=
  Performs .setid (fun s => s.inp.flag = false ∧ (field (s.arg 0) 0 11).toNat ≤ 1056 ∧ s.fab.groups = [])
    (fun s => State.fsts { s with fab := { s.fab with pkgid := (field (s.arg 0) 0 11).toNat } } 1 0) ∧
  (∀ fop : Byte, Performs .setid
    (fun s => s.inp.flag = true ∧ fop = (if 7 ≤ s.inp.e ∧ s.inp.e < 256 then BitVec.ofNat 8 s.inp.e else 0)) (fun s => s.fsts fop 1)) ∧
  Performs .setid (fun s => s.inp.flag = false ∧ 1056 < (field (s.arg 0) 0 11).toNat) (fun s => s.fsts 1 2) ∧
  Performs .setid (fun s => s.inp.flag = false ∧ (field (s.arg 0) 0 11).toNat ≤ 1056 ∧ s.fab.groups ≠ []) (fun s => s.fsts 1 3) ∧
  (∀ dst l, Performs .route
    (fun s => routeOk s ∧ dst = (field (s.arg 0) 0 11).toNat ∧
      l = s.fab.routes.filter (fun r => r.dst != dst) ++
        (if bitAt (s.arg 0) 16 then [⟨dst, bitAt (s.arg 0) 17, s.arg 1, altPaths s⟩] else []))
    (fun s => State.fsts { s with fab := { s.fab with routes := l } } 2 0)) ∧
  Performs .route (fun s => ¬ routeOk s) (fun s => s.fsts 2 2) ∧
  (∀ g t, Performs .ginst
    (fun s => ginstOk s ∧ (∀ h ∈ s.fab.groups, h.gid ≠ g.gid) ∧ s.pinned g.part g.va (2 ^ g.wlog) = some g.pages ∧
      g = { gid := (field (s.arg 0) 0 12).toNat, wlog := (field (s.arg 0) 12 5).toNat, memb := (field (s.arg 0) 21 11).toNat,
            part := (field (s.arg 0) 32 4).toNat, va := (s.arg 1).toNat, pages := g.pages,
            seqSwitch := (field (s.arg 2) 0 11).toNat } ∧
      t = State.fsts { s with fab := { s.fab with groups := s.fab.groups ++ [g] } } 3 0)
    (fun _ => (g.pages.flatMap (fun p : PinnedPage =>
      [(p.pa + (Nat.max g.va p.va - p.va), Nat.min (g.va + 2 ^ g.wlog) (p.va + p.len) - Nat.max g.va p.va)])).foldl
        (fun (s : State) (p : Nat × Nat) => s.clearG p.1 p.2) t)) ∧
  Performs .ginst (fun s => ¬ ginstOk s) (fun s => s.fsts 3 2) ∧
  Performs .ginst (fun s => ginstOk s ∧ ∃ g ∈ s.fab.groups, g.gid = (field (s.arg 0) 0 12).toNat) (fun s => s.fsts 3 3) ∧
  Performs .ginst (fun s => ginstOk s ∧ (∀ g ∈ s.fab.groups, g.gid ≠ (field (s.arg 0) 0 12).toNat) ∧
      s.pinned (field (s.arg 0) 32 4).toNat (s.arg 1).toNat (2 ^ (field (s.arg 0) 12 5).toNat) = none)
    (fun s => s.fsts 3 4) ∧
  (∀ gid, Performs .grem
    (fun s => gid = (field (s.arg 0) 0 12).toNat ∧ s.stoOut gid = false ∧ (∃ g ∈ s.fab.groups, g.gid = gid))
    (fun s => State.fsts { s with fab := { s.fab with groups := s.fab.groups.filter (fun g => g.gid != gid) } } 4 0)) ∧
  (∀ gid, Performs .grem
    (fun s => gid = (field (s.arg 0) 0 12).toNat ∧ (s.stoOut gid = true ∨ ∀ g ∈ s.fab.groups, g.gid ≠ gid)) (fun s => s.fsts 4 3)) ∧
  (∀ gid, Performs .seq (fun s => gid = (field (s.arg 0) 0 12).toNat ∧ bitAt (s.arg 0) 12 = false)
    (fun s => State.fsts { s with fab := { s.fab with seqs := s.fab.seqs.filter (fun q => q.gid != gid) } } 5 0)) ∧
  (∀ gid first l, Performs .seq
    (fun s => gid = (field (s.arg 0) 0 12).toNat ∧ bitAt (s.arg 0) 12 = true ∧ l = seqMembers s ∧ 1 ≤ l.length ∧ l.length ≤ 1057 ∧
      (∀ m ∈ l, m ≤ 1056) ∧ ((∀ g ∈ s.fab.groups, g.gid ≠ gid) ∧ first = 1 ∨
        ∃ g, s.fab.groups.find? (fun g => g.gid == gid) = some g ∧ first = g.applied + 1))
    (fun s => State.fsts { s with fab := { s.fab with
      seqs := s.fab.seqs.filter (fun q => q.gid != gid) ++ [⟨gid, l, first, []⟩] } } 5 0)) ∧
  Performs .seq (fun s => bitAt (s.arg 0) 12 = true ∧ (seqMembers s = [] ∨ 1057 < (seqMembers s).length ∨ ∃ m ∈ seqMembers s, 1056 < m))
    (fun s => s.fsts 5 2) ∧
  (∀ port ent key part l, Performs .key
    (fun s => port = (field (s.arg 0) 0 6).toNat ∧ ent = (field (s.arg 0) 6 6).toNat ∧ key = field (s.arg 0) 12 16 ∧
      part = (field (s.arg 0) 28 4).toNat ∧ port ≤ 33 ∧ (bitAt (s.arg 0) 32 = true → port = 33 →
        ∀ p ∈ s.parts, p.2.valid = true → p.2.jkey = key → p.1 = part) ∧
      l = s.fab.keys.filter (fun e => e.1 != (port, ent)) ++ (if bitAt (s.arg 0) 32 then [((port, ent), (key, part))] else []))
    (fun s => State.fsts { s with fab := { s.fab with keys := l } } 6 0)) ∧
  Performs .key (fun s => 33 < (field (s.arg 0) 0 6).toNat) (fun s => s.fsts 6 2) ∧
  Performs .key (fun s => (field (s.arg 0) 0 6).toNat = 33 ∧ bitAt (s.arg 0) 32 = true ∧
      ∃ p ∈ s.parts, p.2.valid = true ∧ p.2.jkey = field (s.arg 0) 12 16 ∧ p.1 ≠ (field (s.arg 0) 28 4).toNat)
    (fun s => s.fsts 6 3)

/-- While the fabric switch is in service (its I/O die lives), the sequencer of a group that does not re-form gives an own store
with a good key the next number and hands it to the members, and rejects one with a bad key or at number 2^48 - 1; a member
applies the store that follows APPLIED whole; the acknowledgement of a store that every member has applied lets it go, at
its sequencer and at its issuer, and another sequencer's reject settles an unnumbered one; re-formation sets REF, and its
outcome redelivers, settles the own stores, clears REF and advances the epoch. That an own store waits only for an earlier
one of its role that it overlaps is the model's reading (log 31). (13_fabric.md R297, 13_fabric.md R300, 13_fabric.md R301,
13_fabric.md R302, 20_reliability.md R408) -/
def Obligations.OrderedMulticast : Prop :=
  (∀ q tag o, Performs .stoStamp
    (fun s => s.fabOn = true ∧ s.fab.seqs.find? (fun q => q.gid == s.inp.gid) = some q ∧ q.unstable.length < 1024 ∧ s.inp.sto = .own tag ∧
      s.reforming q.gid = false ∧ s.ownSto q.gid tag = some o ∧ s.keyPasses o.ctx = true ∧ q.next ≠ 2 ^ 48 - 1)
    (fun s => (s.stamp q s.fab.pkgid o.cid tag o.off o.data).modSto tag (fun o => { o with numbered := true }))) ∧
  (∀ q tag o, Performs .stoStamp
    (fun s => s.fabOn = true ∧ s.fab.seqs.find? (fun q => q.gid == s.inp.gid) = some q ∧ q.unstable.length < 1024 ∧ s.inp.sto = .own tag ∧
      s.reforming q.gid = false ∧ s.ownSto q.gid tag = some o ∧ (s.keyPasses o.ctx = false ∨ q.next = 2 ^ 48 - 1))
    (fun s => (s.dropSto tag).rejectSto o.ctx)) ∧
  (∀ g e, Performs .stampedStoreApply
    (fun s => s.fabOn = true ∧ s.inp.flag = false ∧ s.fab.groups.find? (fun g => g.gid == s.inp.gid) = some g ∧
      g.pending.find? (fun e => e.n == g.applied + 1) = some e ∧
      (∀ p ∈ g.parts e.off e.data.length, s.sideFull (pageOf p.1) = false))
    (fun s => s.applyStore g.gid e.pkg e.tag e.off e.data)) ∧
  (∀ q, Performs .stampAcknowledgement
    (fun s => s.fabOn = true ∧ s.inp.flag = false ∧ s.fab.seqs.find? (fun q => q.gid == s.inp.gid) = some q ∧ s.inp.no ≠ s.fab.pkgid ∧
      (∃ e ∈ q.unstable, e.2 = (s.inp.no, s.inp.id) ∧ ∀ g ∈ s.fab.groups, g.gid = q.gid → e.1 ≤ g.applied))
    (fun s => s.modSeq s.inp.gid (fun q => { q with unstable := q.unstable.filter (fun e => e.2 != (s.inp.no, s.inp.id)) }))) ∧
  Performs .stampAcknowledgement
    (fun s => s.fabOn = true ∧ s.inp.flag = false ∧ s.fab.seqs.find? (fun q => q.gid == s.inp.gid) = none ∧ s.inp.no = s.fab.pkgid ∧
      (∃ o ∈ s.fab.stos, o.tag = s.inp.id ∧ o.gid = s.inp.gid ∧ o.marked = true))
    (fun s => s.dropSto s.inp.id) ∧
  (∀ o, Performs .stampAcknowledgement
    (fun s => s.fabOn = true ∧ s.inp.flag = true ∧ s.fab.stos.find? (fun o => o.tag == s.inp.id && o.gid == s.inp.gid && !o.numbered) = some o ∧
      (∀ q ∈ s.fab.seqs, q.gid ≠ s.inp.gid))
    (fun s => (s.dropSto o.tag).rejectSto o.ctx)) ∧
  Performs .groupReFormation (fun s => s.inp.reform = none) (fun s => s.modGroup s.inp.gid (fun g => { g with ref := true })) ∧
  (∀ r g, Performs .groupReFormation
    (fun s => s.fabOn = true ∧ s.inp.reform = some r ∧ s.fab.groups.find? (fun g => g.gid == s.inp.gid) = some g ∧ g.ref = true ∧
      g.applied + r.redelivered.length = r.p)
    (fun s => ((r.redelivered.foldl (fun (s : State) e => s.applyStore g.gid e.1 e.2.1 e.2.2.1 e.2.2.2)
      (s.modSeq s.inp.gid (fun q => { q with next := r.p + 1, unstable := [] }))).settle s.inp.gid).modGroup s.inp.gid
        (fun g => { g with ref := false, epoch := g.epoch + 1, pending := [] })))

/-- The leader of a queue in service takes the entry at HEAD and passes it once its tree has been judged. A staging entry is
transferred in its order, once it stands among the first 63 of its die's board; an issuable kernel that nothing outranks
starts on every core, and a pre-empted one goes on, whole; a pending kernel ages after 4 ms; an unaged pending one pre-empts
its victims whole; a stopped context's storage is claimed with its image in the pool; a harvest grid is placed whole, its
contexts revoked on demand and unparked once the demand is gone, or restored from the image; a kernel whose cores have all
ended ends. (02_execution.md R31, 18_scheduling.md R376, 18_scheduling.md R382, 18_scheduling.md R383, 18_scheduling.md
R384, 18_scheduling.md R385, 18_scheduling.md R386, 18_scheduling.md R387) -/
def Obligations.Scheduling : Prop :=
  (∀ q d b t (u : State), Performs .admission
    (fun s0 => u = s0.withGoltik ∧ q = u.queue u.inp.q ∧ q.leader = some d ∧ u.qualifies q d = true ∧ (q.sts = 1 ∨ q.sts = 3) ∧ q.head ≠ q.tail ∧
      u.queuesOff = false ∧ u.readV q.part (q.base + 8 * (q.head.toNat % q.size)) 8 = some b ∧
      u.admitTree q (natOfBytes b) (q.appenders.find? (fun a => a.idx == q.head.toNat)) u.inp.flag
        ((List.range (u.inp.data.length / 2)).map (fun i => numAt u.inp.data (2 * i) 2)) = some t)
    (fun _ => t.passEntry q)) ∧
  (∀ k t c x y r e l, Performs .stagingTransfer
    (fun s => s.kernel s.inp.k = some k ∧ k.staging[s.inp.id]? = some t ∧ k.grant[t.gidx]? = some c ∧ k.prep[t.gidx]? = some x ∧
      k.pending = true ∧ t.done = false ∧ s.stagingPlace k s.inp.id c < 64 ∧ (∀ e ∈ k.staging.take s.inp.id, e.gidx = t.gidx → e.done = true) ∧ s.dieServes c = true ∧
      s.canReserve k c.cid = true ∧ s.chosen k = true ∧
      s.stage k c (if x.loadQ.isEmpty then { x with loadQ := [{ acc := s.inp.id, off := 0, bytes := t.bytes, begun := true }] } else x)
        s.inp.no s.inp.data = (y, r) ∧ y.loadQ = e :: l ∧ e.fcode = 0)
    (fun s => r.modKernel k.id (fun j => { j with
      state := .staging
      prep := j.prep.set t.gidx (if e.finished then { y with loadQ := [] } else y)
      staging := if e.finished then j.staging.set s.inp.id { t with done := true } else j.staging }))) ∧
  (∀ k, Performs .kernelIssue (fun s => s.kernel s.inp.k = some k ∧ s.issuable k = true ∧ s.chosen k = true) (fun s => s.issue k)) ∧
  (∀ k, Performs .kernelIssue
    (fun s => s.kernel s.inp.k = some k ∧ k.state = .running ∧ (∃ c ∈ k.grant, ∃ x, s.member k c = some x ∧ x.preempted = true) ∧
      (∀ c ∈ k.grant, s.mayResume k c = true) ∧
      (∀ j ∈ s.kernels, j.pending = true → (∃ c ∈ j.grant, c ∈ k.grant) → j.aged = false ∧ j.prio ≤ k.prio))
    (fun s => k.grant.foldl (fun (s : State) c => s.resumeMember k c) s)) ∧
  (∀ k, Performs .kernelAging
    (fun s => s.kernel s.inp.k = some k ∧ k.pending = true ∧ k.admitted + agingCycles ≤ s.cycles)
    (fun s => s.modKernel k.id (fun j => { j with aged := true }))) ∧
  (∀ k, Performs .preEmption (fun s => s.kernel s.inp.k = some k ∧ k.pending = true ∧ k.aged = false ∧ s.chosen k = true)
    (fun s => ((s.kernels.filter (s.victim k)).foldr insertVictim []).foldl
      (fun (s : State) j => j.grant.foldl (fun (s : State) c => s.preemptCtx j c) s) s)) ∧
  (∀ x k a l t, Performs .storageClaim
    (fun s => s.ctx s.inp.c = some x ∧ x.claimable s.inp.c = true ∧ s.storageWanted s.inp.c x = true ∧ s.settled s.inp.c x = true ∧
      (∀ e ∈ s.ctxs, e.1.cid = s.inp.c.cid → e.1 ≠ s.inp.c → e.2.claimable e.1 = true → s.storageWanted e.1 e.2 = true →
        s.prioOf x ≤ s.prioOf e.2) ∧
      s.kernel x.kernel = some k ∧ s.freeImages (s.queue k.queue) = a :: l ∧
      s.writeImage s.inp.c x (s.queue k.queue).part a = some t)
    (fun s => ((t.dropLoads s.inp.c x).setCtx s.inp.c { (if x.state = .saved then x else x.toSaved none 0) with
      image := some a, imageNo := s.freeIx, claimed := true }).modCore s.inp.c.cid (·.dropLease s.inp.c.num))) ∧
  (∀ k n gr k' t, Performs .harvestPlacement
    (fun s => s.kernel s.inp.k = some k ∧ s.node k.node = some n ∧ s.placeable k = true ∧
      (∀ j ∈ s.kernels, j.id ≠ k.id → s.placeable j = true → s.outranks j k = false) ∧
      gr = (ascending (chooseOrder (s.openHosts n)
        ((List.range (s.inp.data.length / 2)).map (fun i => numAt s.inp.data (2 * i) 2)) (fun _ => true)) (k.gw * k.gh)).map
          (fun cid => (⟨cid, (s.hostNum cid k.abud k.wbud k.zbud).getD 1⟩ : CtxId)) ∧
      k' = { k with grant := gr } ∧
      t = s.modKernel k.id (fun _ => k'))
    (fun _ => if t.issuable k' ∧ t.chosen k' then t.issue k' else t)) ∧
  Performs .revocation (fun s => s.inp.c.num ≠ 0 ∧ s.leaseDemand s.inp.c = true) (fun s => s.revoke s.inp.c 1) ∧
  Performs .revocation (fun s => s.inp.c.num ≠ 0 ∧ s.leaseDemand s.inp.c = false ∧ s.placementDemand s.inp.c = true)
    (fun s => s.revoke s.inp.c 2) ∧
  (∀ x, Performs .harvestUnpark
    (fun s => s.ctx s.inp.c = some x ∧ s.inp.c.num ≠ 0 ∧ x.state = .parked ∧ x.parkedFor = 1 ∧
      ∀ o, s.ctx ⟨s.inp.c.cid, 0⟩ = some o → o.state = .ended ∨ (o.leaseAsk = false ∧ ∀ l, (s.core s.inp.c.cid).lease = some l → l.num ≠ 0))
    (fun s => s.unpark s.inp.c)) ∧
  (∀ x, Performs .harvestUnpark
    (fun s => s.ctx s.inp.c = some x ∧ s.inp.c.num ≠ 0 ∧ x.preempted = true ∧ s.storageBack s.inp.c = true ∧
      s.dieServes s.inp.c = true ∧ s.slotClean s.inp.c = true ∧ s.fits s.inp.c.cid x.abud x.wbud x.zbud = true)
    (fun s => s.restore s.inp.c x)) ∧
  (∀ x, Performs .harvestUnpark
    (fun s => s.ctx s.inp.c = some x ∧ s.inp.c.num ≠ 0 ∧ x.state = .parked ∧ x.parkedFor = 2 ∧ s.storageBack s.inp.c = true)
    (fun s => s.unpark s.inp.c)) ∧
  (∀ k, Performs .kernelEnd
    (fun s => s.kernel s.inp.k = some k ∧ k.state = .running ∧ (∀ c ∈ k.grant, ∀ x, s.member k c = some x → x.state = .ended))
    (fun s => s.endKernel k.id))

/-- Each of these events completes with its effect. A residue mismatch posts SUB 2 and, mismatching again, SUB 3 with the core
retired; an uncorrectable word is marked, or raises the memory-error fault where it is an instruction's, and the scrubber,
unless it is off, posts for a marked one; a diverged scheduler drains its die with SUB 11 and its reload returns it; the
controllers hand over with SUB 13; a failed stack leaves LIVEM with SUB 9; a lost clock posts SUB 12: of a compute die,
which is lost, of a memory die, whose stack fails, or of an I/O die, whose link is lost, the reference moving where it was
the west one; TIME of a live compute die or stack is slewed by half a nanosecond within its bounds (that the I/O dies keep
in step is the model's reading, log 38); measured offsets are published. (20_reliability.md R404, 20_reliability.md R405,
20_reliability.md R406, 20_reliability.md R408, 20_reliability.md R410, 01_package.md R10, 01_package.md R15, 01_package.md
R16, 01_package.md R21, 01_package.md R24, 17_privilege.md R352) -/
def Obligations.Failures : Prop :=
  (∀ s0 : State, Performs .residueMismatch
    (fun s => s.host.nores = false ∧ (s.core s.inp.cid).retired = false ∧ (s.die (dieOf s.inp.cid)).live = true ∧
      s0 = (if s.inp.e = 1 then s.modCtx ⟨s.inp.cid, s.inp.c.num⟩ (fun x => { x with acmds := abandonRows x.acmds }) else s))
    (fun s => if s.inp.flag then (s0.post (dieOf s.inp.cid) 3 (s.inp.cid % 128) 0).retireCore s.inp.cid
      else s0.post (dieOf s.inp.cid) 2 (s.inp.cid % 128) 0)) ∧
  Performs .uncorrectableMemoryError (fun s => s.inp.flag = false) (fun s => s.poisonAt s.inp.site) ∧
  (∀ x, Performs .uncorrectableMemoryError
    (fun s => s.inp.flag = true ∧ s.ctx s.inp.c = some x ∧ s.canIssue ⟨s.inp.c, s.inp.r⟩ = true ∧ (x.role s.inp.r).rest = none)
    (fun s => s.raise ⟨s.inp.c, s.inp.r⟩ cMemory 0)) ∧
  (∀ pa, Performs .scrub (fun s => s.host.noscrb = false ∧ s.inp.site = .hbm pa ∧ s.badG (pa / 8 * 8) 8 = true)
    (fun s => s.post (s.stackOf pa) 6 (s.stackOf pa) (pa / 8 * 8))) ∧
  (∀ c o b, Performs .scrub
    (fun s => s.host.noscrb = false ∧ (c, b, o / 8 * 8) ∈ s.poisonS ∧
      (b = 0 ∧ s.inp.site = .abuf c o ∨ b = 1 ∧ s.inp.site = .wbuf c o ∨ b = 2 ∧ s.inp.site = .zbuf c o))
    (fun s => s.post (dieOf c.cid) 5 (c.cid % 128) 0)) ∧
  (∀ cid, Performs .scrub
    (fun s => s.host.noscrb = false ∧ s.isBad s.inp.site = true ∧ ((∃ pa, s.inp.site = .line cid pa) ∨ ∃ (c : CtxId), c.cid = cid ∧
      ((∃ q i, s.inp.site = .qent c q i) ∨ s.inp.site = .bank c ∨ ∃ n o, s.inp.site = .text c n o)))
    (fun s => s.post (dieOf cid) 5 (cid % 128) 0)) ∧
  (∀ d, Performs .scrub
    (fun s => s.host.noscrb = false ∧ s.isBad s.inp.site = true ∧
      ((∃ n t k, s.inp.site = .table n t k ∧ d = stationUnit n) ∨ ∃ k o, s.inp.site = .sett d k o))
    (fun s => s.post d 5 0xFF 0)) ∧
  Performs .scrub (fun s => s.host.noscrb = true) (fun s => s) ∧
  Performs .schedulerDivergence (fun s => (s.die s.inp.die).live = true ∧ (s.die s.inp.die).drained = false)
    (fun s => (s.modDie s.inp.die (fun k => { k with drained := true })).post s.inp.die 11 s.inp.die 0) ∧
  Performs .schedulerReload (fun _ => True) (fun s => s.modDie s.inp.die (fun k => { k with drained := false })) ∧
  Performs .controllerHandOver (fun _ => True)
    (fun s => State.post { s with eastControl := !s.eastControl } 0 13 (bit1 s.eastControl 0) 0) ∧
  (∀ (m : Nat) (u : State), Performs .stackFailure
    (fun s => m = s.inp.region ∧ m ∈ s.liveStacks ∧ m ∉ s.failedStacks ∧
      u = ({ s with failedStacks := s.failedStacks ++ [m] } : State).forcePass (stackStation m))
    (fun _ => (State.post { u with info := { u.info with
      livem := u.info.livem &&& ~~~(1#64 <<< m), offs := u.info.offs.filter (fun o => o.region != 64 + m) } } m 9 m 0).publish)) ∧
  Performs .clockLoss (fun s => s.inp.region < 64) (fun s => s.loseDie s.inp.region) ∧
  (∀ m, Performs .clockLoss (fun s => m < 64 ∧ s.inp.region = 64 + m ∧ m ∈ s.liveStacks ∧ m ∉ s.failedStacks)
    (fun s => (s.post m 12 (64 + m) 0).failStack m)) ∧
  (∀ t : State, Performs .clockLoss
    (fun s => s.inp.region = 128 ∧ s.host.lost0 = false ∧
      t = { ((s.post 0 12 128 0).loseLink 0) with host := { ((s.post 0 12 128 0).loseLink 0).host with lost0 := true } })
    (fun s => ((if s.host.lost1 then t else t.moveReference).setOffsets s.inp.offs).publish)) ∧
  (∀ t : State, Performs .clockLoss
    (fun s => s.inp.region = 129 ∧ s.host.lost1 = false ∧
      t = { ((s.post 0 12 129 0).loseLink 1) with host := { ((s.post 0 12 129 0).loseLink 1).host with lost1 := true } })
    (fun _ => State.publish { t with info := { t.info with
      offs := if t.info.refe then t.info.offs else t.info.offs.filter (fun o => o.region != 129) } })) ∧
  (∀ r (o : Int), Performs .timeSlew
    (fun s => r = s.inp.region ∧ o = (if s.inp.flag then (s.region r).ofs - 1 else (s.region r).ofs + 1) ∧ s.info.cal = true ∧
      r < 128 ∧ s.regionLive r = true ∧ s.slewOk r o = true ∧
      (s.region r).slewAt + 1024 ≤ s.time2 ∧ (s.inp.flag = true → s.regionTime r % 2 = 1))
    (fun s => { s with regions := aset s.regions r ⟨o, s.time2⟩ })) ∧
  (∀ (s : State) r o, s.slewOk r o = true → o.natAbs ≤ 12 ∧ ∀ e ∈ s.info.offs, e.region = r → (4 * o - e.ofs).natAbs ≤ e.unc.toNat) ∧
  Performs .offsetPublication (fun s => s.info.cal = true) (fun s => (s.setOffsets s.inp.offs).publish)

/-- Each of these events completes with its effect. A Thaw deferral whose TIME has come ends; a limiter window and the expiry of
ballast set and clear BAL with its debt; a droop alarm sets DROOP, its recovery falls to DRPCAD or by 1; over-current and
trips set and clear their conditions; a coarse-cap window averages; CADREQ takes a cadence within its limits, keeps its
value for another one, and pays the debt down; a host's aligned write of 4 or 8 bytes changes the power table field by
field, where a value out of its range keeps the old one and reserved bits are ignored, and any other write changes nothing.
What ends ballast above the cap after 20 µs may come as a row, or by itself, and then the energy drawn is a free value.
(21_power.md R424, 21_power.md R427, 21_power.md R428, 21_power.md R429, 21_power.md R430, 21_power.md R431, 21_power.md
R432) -/
def Obligations.PowerEvents : Prop :=
  Performs .thawDeferralEnd (fun s => s.thawed s.inp.cid = true) (fun s => s.modCore s.inp.cid (fun k => { k with thaw := none })) ∧
  (∀ (s : State) g f, s.govern g f = (s.rollAll.modGroupP g f).publish) ∧
  (∀ (u : State) g need, Performs .limiterWindow
    (fun s => u = s.rollAll ∧ g = groupOf (dieOf u.inp.cid) ∧
      need = (u.needsBallast g && decide ((u.group g).gcap < (u.group g).pavg.toNat)))
    (fun _ => if need ∧ (u.group g).bal = false then (u.modGroupP g (fun p => { p with bal := true, balFrom := u.cycles })).publish
      else if (u.group g).bal ∧ need = false then (u.modGroupP g (fun p => p.endBal u.inp.v)).publish else u)) ∧
  (∀ (p : PowerGroup) v, p.endBal v = { p with bal := false, debt := p.debt + v }) ∧
  Performs .ballastLimitExpiry
    (fun s => s.inp.flag = false ∧ (s.group s.inp.g).bal = true ∧ (s.group s.inp.g).balFrom + ballastCycles ≤ s.cycles)
    (fun s => s.govern s.inp.g (fun p => { p.endBal s.inp.v with balStopped := true })) ∧
  Performs .ballastLimitExpiry
    (fun s => s.inp.flag = true ∧ (s.group s.inp.g).bal = true ∧ (s.group s.inp.g).balFrom + ballastCycles ≤ s.cycles)
    (fun s => s.free.2.govern s.inp.g (fun p => { p.endBal s.free.1 with balStopped := true })) ∧
  Performs .ballastLimitExpiry
    (fun s => (s.group s.inp.g).bal = false ∨ s.cycles < (s.group s.inp.g).balFrom + ballastCycles) (fun s => s) ∧
  Performs .droopAlarm (fun _ => True) (fun s => s.govern s.inp.g (fun p => { p with droop := true, droopHeld := true })) ∧
  Performs .droopRecovery (fun s => (s.group s.inp.g).droop = true)
    (fun s => s.govern s.inp.g (fun p => p.fall (if p.droopHeld then Nat.max p.drpcad (p.base false) else p.droopCad - 1))) ∧
  (∀ (p : PowerGroup) n, p.fall n = { p with droopHeld := false, droopCad := n, droop := decide (p.base false < n) }) ∧
  Performs .overCurrent (fun _ => True) (fun s => s.govern s.inp.g (fun p => { p with oc := true })) ∧
  Performs .overCurrentClear (fun _ => True) (fun s => s.govern s.inp.g (fun p => { p with oc := false })) ∧
  Performs .thermalTrip (fun _ => True) (fun s => s.govern (groupOf s.inp.die) (fun p => { p with
    trips := if p.trips.contains s.inp.die then p.trips else s.inp.die :: p.trips })) ∧
  Performs .thermalTripClear (fun _ => True) (fun s => s.govern (groupOf s.inp.die) (fun p => { p with
    trips := p.trips.filter (· != s.inp.die) })) ∧
  Performs .coarseCapWindow (fun _ => True) (fun s => s.govern s.inp.g (fun p => { p with
    coarse := decide (1050 * p.gcap < s.inp.v.toNat), pavg := BitVec.ofNat 32 (s.inp.v.toNat / 1000)
    balStopped := p.balStopped && decide (p.gcap < s.inp.v.toNat / 1000) })) ∧
  Performs .cadreqUpdate
    (fun s => 1 ≤ s.inp.v.toNat ∧ s.inp.v.toNat ≤ 63 ∧
      (∀ e ∈ s.cores, groupOf (dieOf e.1) = s.inp.g → e.2.fmin ≤ s.inp.v.toNat))
    (fun s => s.govern s.inp.g (fun p => { p with
      cadreq := s.inp.v.toNat, tjp := s.inp.v1.setWidth 16
      debt := if p.debt.toNat ≤ s.inp.v2.toNat then 0 else p.debt - s.inp.v2 })) ∧
  Performs .cadreqUpdate
    (fun s => s.inp.v.toNat = 0 ∨ 63 < s.inp.v.toNat ∨ ∃ e ∈ s.cores, groupOf (dieOf e.1) = s.inp.g ∧ s.inp.v.toNat < e.2.fmin)
    (fun s => s.govern s.inp.g (fun p => { p with
      tjp := s.inp.v1.setWidth 16
      debt := if p.debt.toNat ≤ s.inp.v2.toNat then 0 else p.debt - s.inp.v2 })) ∧
  Performs .powerTableWrite
    (fun s => s.info.published = true ∧ (s.inp.data.length = 4 ∨ s.inp.data.length = 8) ∧ s.inp.addr % s.inp.data.length = 0)
    (fun s => State.publish { s.rollAll with power := s.writePower s.inp.addr s.inp.data }) ∧
  Performs .powerTableWrite
    (fun s => s.info.published = false ∨ (s.inp.data.length ≠ 4 ∧ s.inp.data.length ≠ 8) ∨ s.inp.addr % s.inp.data.length ≠ 0)
    (fun s => s) ∧
  (∀ (s : State) addr data (m : Nat → Nat → Nat) (p : Power), m = s.merged addr data → p = s.writePower addr data →
    p.thawEn = (m 0x2000 1).testBit 0 ∧ p.maclimEn = (m 0x2018 1).testBit 0 ∧
    p.thawStep = (if m 0x2002 2 ≤ 1000 then m 0x2002 2 else s.power.thawStep) ∧
    p.thawPod = m 0x2004 1 % 16 ∧
    p.ord = (if (∀ r < 16, r ∈ (List.range 16).map (fun g => m (0x2008 + g) 1)) then (List.range 16).map (fun g => m (0x2008 + g) 1)
      else s.power.ord) ∧
    p.floor = (if 1 ≤ m 0x2019 1 ∧ m 0x2019 1 ≤ 64 then m 0x2019 1 else s.power.floor) ∧
    p.step = (if 1 ≤ m 0x201A 1 ∧ m 0x201A 1 ≤ 64 then m 0x201A 1 else s.power.step) ∧
    p.dstep = (if 1 ≤ m 0x201B 1 % 128 ∧ m 0x201B 1 % 128 ≤ 64 then m 0x201B 1 % 128 else s.power.dstep) ∧
    p.pcap = (if m 0x2020 4 ≤ 28000 then m 0x2020 4 else s.power.pcap) ∧
    ∀ g : Fin 16, p.groups[g] = { s.power.groups[g] with
      gcap := if 100 ≤ m (0x2100 + 32 * g.val) 2 ∧ m (0x2100 + 32 * g.val) 2 ≤ 1750 then m (0x2100 + 32 * g.val) 2 else s.power.groups[g].gcap
      drpcad := if 2 ≤ m (0x2103 + 32 * g.val) 1 ∧ m (0x2103 + 32 * g.val) 1 ≤ 63 then m (0x2103 + 32 * g.val) 1
        else s.power.groups[g].drpcad })

/-- A partition field whose value keeps the limits is written and another one refused; standby is accepted with no kernel
admitted; DBGM is set and cleared with its bits; a debug mailbox command that is not BUSY is begun, and one that meets BUSY
dropped; a link goes down and, unless its I/O die has lost its clock, up; VF_FLR ends its partition's kernels and queues;
PF_FLR clears BUSY; a TAP instruction in reset shows its register; a host write is a store to the partition; a host's write
of 4 or 8 aligned bytes to BAR0 of an enabled function goes to a host-window block or to a register of a queue that it
reaches, and any other changes nothing; the physical function reads BSTS and HCTL at the offsets 0 and 8. (19_translation.md
R399, 20_reliability.md R420, 22_host.md R439, 22_host.md R440, 22_host.md R441, 22_host.md R442) -/
def Obligations.HostEvents : Prop :=
  (∀ p, Performs .partitionDescriptorWrite
    (fun s => s.info.published = true ∧ s.inp.part < 16 ∧ (s.part s.inp.part).withField s.inp.pf s.inp.v = some p ∧
      s.partOk s.inp.part p = true)
    (fun s => (if p.valid = false then s.modPart s.inp.part (fun _ => p)
      else if (s.part s.inp.part).valid then (s.modPart s.inp.part (fun _ => p)).joinPart s.inp.part
        (((s.modPart s.inp.part (fun _ => p)).diesOf s.inp.part).filter (fun d => !(s.diesOf s.inp.part).contains d))
      else (s.modPart s.inp.part (fun _ => p)).openPart s.inp.part).publish)) ∧
  Performs .standbyRequest
    (fun s => (∀ k ∈ s.kernels, k.state = .ended) ∧ s.host.stby = false ∧ s.host.step = 6)
    (fun s => { s with
      queues := s.queues.map (fun q => { q with sts := 0, reg := false, leader := none, published := [], appenders := [] })
      ctxs := [], away := [], images := [], kernels := [], nodes := [], sett := [], dies := [], poisonS := [], ring := {}, ck := {}
      cores := s.cores.map (fun (c, k) => (c, { wlimmax := k.wlimmax, fmin := k.fmin }))
      fab := { s.fab with groups := [], seqs := [], pkts := [], stos := [] }
      host := { s.host with stby := true, stbya := true } }) ∧
  Performs .debugModeEnter (fun s => s.host.dbgm = false)
    (fun s => State.post { s with host := { s.host with dbgm := true } } 0 15 0 0) ∧
  Performs .debugModeEnter (fun s => s.host.dbgm = true)
    (fun s => State.publish { s with host := { s.host with nores := bitAt s.inp.v 9, noscrb := bitAt s.inp.v 10 } }) ∧
  Performs .debugModeExit (fun _ => True)
    (fun s => State.publish { s with host := { s.host with dbgm := false, nores := false, noscrb := false } }) ∧
  Performs .debugMailboxSrd (fun s => bitAt s.host.dsts 0 = false) (fun s => s.mail 0) ∧
  Performs .debugMailboxSwr (fun s => bitAt s.host.dsts 0 = false) (fun s => s.mail 1) ∧
  Performs .debugMailboxDbgh (fun s => bitAt s.host.dsts 0 = false) (fun s => s.mail 2) ∧
  Performs .debugMailboxSwr (fun s => bitAt s.host.dsts 0 = true ∧ s.inp.flag = false) (fun s => s) ∧
  Performs .linkDown (fun _ => True) (fun s => s.loseLink s.inp.port) ∧
  Performs .portReset (fun _ => True) (fun s => s.loseLink s.inp.port) ∧
  Performs .linkUp (fun _ => True) (fun s => { s with host := { s.host with
    link0 := s.host.link0 || (s.inp.port == 0 && !s.host.lost0), link1 := s.host.link1 || (s.inp.port == 1 && !s.host.lost1) } }) ∧
  (∀ s1 s2 : State, Performs .vfFlr
    (fun s => s1 = s.kernels.foldl (fun (t : State) (k : Kernel) =>
        if k.part = s.inp.part ∧ k.state ≠ .ended then t.endDomain k.id 0 else t) s ∧
      s2 = s1.queues.foldl (fun (t : State) (q : LQueue) =>
        if q.part = s.inp.part ∧ q.sts ≠ 0 then t.writeDirectory q.q (q.word / 2 * 2) true else t) s1)
    (fun s => s2.modWindow s.inp.part s.inp.port (fun _ => {}))) ∧
  Performs .pfFlr (fun _ => True) (fun s => { s with host := { s.host with dsts := s.host.dsts &&& ~~~1#64 } }) ∧
  Performs .boundaryScan (fun s => s.host.inReset = true ∧ s.inp.tap = .idcode)
    (fun s => { s with host := { s.host with tap := .idcode, tapOut := idcode } }) ∧
  Performs .boundaryScan (fun s => s.host.inReset = true ∧ s.inp.tap = .bypass)
    (fun s => { s with host := { s.host with tap := .bypass, tapOut := 0 } }) ∧
  (∀ t, Performs .hostWrite
    (fun s => storePages none s.inp.part (pageParts s.inp.addr (s.inp.data.take 4096).length) s (s.inp.data.take 4096) = .ok t)
    (fun _ => t)) ∧
  Performs .specialRegisterWrite (fun s => s.inp.flag = true ∧ s.barOk 0 s.inp.addr s.inp.data.length = true ∧ s.inp.e = 0 ∧
      0x40000 ≤ s.inp.addr ∧ s.inp.addr < 0x40800)
    (fun s => s.modWindow ((s.inp.addr - 0x40000) / 128) ((s.inp.addr - 0x40000) / 64 % 2) (fun h =>
      h.write ((s.inp.addr - 0x40000) % 64 / 8 * 8)
        (BitVec.ofNat 64 (natOfBytes s.inp.data) <<< (8 * ((s.inp.addr - 0x40000) % 8)))
        (BitVec.ofNat 64 (2 ^ (8 * s.inp.data.length) - 1) <<< (8 * ((s.inp.addr - 0x40000) % 8))))) ∧
  (∀ q, Performs .specialRegisterWrite
    (fun s => s.inp.flag = true ∧ s.barOk s.inp.e s.inp.addr s.inp.data.length = true ∧ 0x1000 ≤ s.inp.addr ∧ s.inp.addr < 0x2000 ∧
      q = (s.inp.addr - 0x1000) / 64 ∧ s.reaches s.inp.e q = true)
    (fun s => s.writeQueueReg q (s.inp.addr % 64) (BitVec.ofNat 32 (natOfBytes s.inp.data)) none)) ∧
  Performs .specialRegisterWrite (fun s => s.inp.flag = true ∧ s.barOk s.inp.e s.inp.addr s.inp.data.length = false) (fun s => s) ∧
  (∀ (s : State) fn o n, s.barOk fn o n = true ↔ (n = 4 ∨ n = 8) ∧ o % n = 0 ∧ o + n ≤ barSize fn ∧ s.fnOn fn = true) ∧
  (∀ s : State, s.bsts % 256 = s.host.step % 256) ∧
  (∀ s : State, s.barWord 0 0 = s.bsts ∧ s.barWord 0 8 = s.hctl)

/-- A power-on reset with valid firmware, a live die, a live stack and an I/O die brings the dies, cores, Sett firmware (its
place is the model's choice, log 14), pass-through bits, ring, TIME, window and queue 0 up from the reset state; without
firmware, dies, stacks or a controller bring-up fails with code 1 to 4. A standby exit brings the dies up again; a stack
that was live and fails its test is failed. (22_host.md R438, 22_host.md R440, 22_host.md R441) -/
def Obligations.BringUp : Prop :=
  (∀ u b, Performs .powerOnReset
    (fun s => s.inp.flag = false ∧ b = s.inp.boot ∧ b.firmware = true ∧ testedDies b ≠ [] ∧ testedStacks b ≠ [] ∧
      (b.west = true ∨ b.east = true) ∧ u = { s.powerOn with host := { s.powerOn.host with inReset := false } })
    (fun s => (State.bootPublish { (State.bootDies { u with liveStacks := testedStacks b } b).loadFirmware b s.inp.addr (s.inp.data.drop 64) with
      time2 := 2 * s.inp.v1.toNat } b).bootQueue s.inp.v.toNat (s.inp.data.take 64))) ∧
  (∀ u : State, Performs .powerOnReset
    (fun s => s.inp.flag = false ∧ s.inp.boot.firmware = false ∧
      u = { s.powerOn with host := { s.powerOn.host with inReset := false } })
    (fun _ => u.bootFail 1)) ∧
  (∀ u : State, Performs .powerOnReset
    (fun s => s.inp.flag = false ∧ s.inp.boot.firmware = true ∧ testedDies s.inp.boot = [] ∧
      u = { s.powerOn with host := { s.powerOn.host with inReset := false }, liveStacks := testedStacks s.inp.boot })
    (fun _ => u.bootFail 2)) ∧
  (∀ u : State, Performs .powerOnReset
    (fun s => s.inp.flag = false ∧ s.inp.boot.firmware = true ∧ testedDies s.inp.boot ≠ [] ∧ testedStacks s.inp.boot = [] ∧
      u = { s.powerOn with host := { s.powerOn.host with inReset := false }, liveStacks := [] })
    (fun s => (u.bootDies s.inp.boot).bootFail 3)) ∧
  (∀ u : State, Performs .powerOnReset
    (fun s => s.inp.flag = false ∧ s.inp.boot.firmware = true ∧ testedDies s.inp.boot ≠ [] ∧ testedStacks s.inp.boot ≠ [] ∧
      s.inp.boot.west = false ∧ s.inp.boot.east = false ∧
      u = { s.powerOn with host := { s.powerOn.host with inReset := false }, liveStacks := testedStacks s.inp.boot })
    (fun s => (u.bootDies s.inp.boot).bootFail 4)) ∧
  Performs .powerOnReset (fun s => s.inp.flag = true) (fun s => s.powerOn) ∧
  (∀ (b : BootResult) bad (u v : State), Performs .standbyExit
    (fun s => s.host.stbya = true ∧ b = s.inp.boot ∧
      bad = s.liveStacks.filter (fun m => !b.liveStacks.contains m && !s.failedStacks.contains m) ∧
      u = { s with host := { s.host with stby := false }, failedStacks := s.failedStacks ++ bad } ∧ testedDies b ≠ [] ∧
      u.liveStacks.all u.failedStacks.contains = false ∧ (b.west = true ∨ b.east = true) ∧
      v = bad.foldl (fun (s : State) m => s.post m 9 m 0) (((u.bootDies b).loadFirmware b s.inp.addr s.inp.data).bootPublish b))
    (fun _ => State.writeDirectory { v with
        host := { v.host with step := 6, stbya := false }
        parts := v.parts.map (fun (e : Nat × Partition) => (e.1, { e.2 with ivlt := 0 })) } 0
      ((State.queue { v with
        host := { v.host with step := 6, stbya := false }
        parts := v.parts.map (fun (e : Nat × Partition) => (e.1, { e.2 with ivlt := 0 })) } 0).word / 2 * 2 + 1) true))

/-- When a Sett core moves, an ordinary instruction completes. LUI, AUIPC, the register and immediate forms of the I and M
extensions and their word forms write their result and go on at the next instruction; JAL and JALR write the link and go to
their target, with bit 0 dropped; a branch that is taken goes to its target and one that is not goes on; loads write the
sign- or zero-extended bytes and stores write their bytes where the access is permitted; FENCE has no effect; AMOSWAP,
AMOADD, AMOXOR, AMOOR and AMOAND return the old value and store the new one, LR reserves, SC stores and returns 0 where the
reservation stands and 1 where not; CSRRW of mscratch and MRET, in M mode, swap and return; FLD, FSD, FADD, FSUB, FMUL and
FMADD do theirs; C.ADDI x8, -1 (0x147D) and C.MV x10, x11 (0x852E) do what they stand for. Whatever a word asks, one that is
legal retires with it, and any other takes the illegal-instruction exception, as an all-zero word does; ECALL in U mode
takes exception 8. That the results are RV64GC's is the model's reading of the profile (log 12). (14_sett.md R308,
14_sett.md R310) -/
def Obligations.SettOrdinary : Prop :=
  (∀ (w : W32) (u : State), field w 0 2 = 3#2 → Setts (.settCoreInstruction w) 4
    (fun d k _ s => rvExec s d k w 4 = .next u) (fun _ _ _ _ => u)) ∧
  (∀ w : W32, field w 0 2 = 3#2 → ∀ s d k u, s.turn = .sett d k → u = s.stepped d k → rvExec u d k w 4 = .illegal →
    exec (.settCoreInstruction w) s = .next (u.modSett d k (fun t => t.trap 2 false (w.setWidth 64)))) ∧
  (∀ w : W32, field w 0 7 = 0x37#7 →
    Setts (.settCoreInstruction w) 4 anySett (fun d k _ s => s.putX d k (field w 7 5).toNat (immU w))) ∧
  (∀ w : W32, field w 0 7 = 0x17#7 →
    Setts (.settCoreInstruction w) 4 anySett (fun d k t s => s.putX d k (field w 7 5).toNat (t.pc + immU w))) ∧
  (∀ (w : W32) (f3 : BitVec 3) (g : W64 → W64 → W64), field w 0 7 = 0x13#7 → field w 12 3 = f3 →
    (f3, g) ∈ [(0#3, (fun (a b : W64) => a + b)), (2#3, fun (a b : W64) => if a.toInt < b.toInt then 1 else 0),
      (3#3, fun (a b : W64) => if a.toNat < b.toNat then 1 else 0), (4#3, fun (a b : W64) => a ^^^ b), (6#3, fun (a b : W64) => a ||| b), (7#3, fun (a b : W64) => a &&& b)] →
    Setts (.settCoreInstruction w) 4 anySett (fun d k t s =>
      s.putX d k (field w 7 5).toNat (g (t.xr (field w 15 5).toNat) (immI w)))) ∧
  (∀ (w : W32) (f3 : BitVec 3) (f7 : BitVec 7) (g : W64 → Nat → W64), field w 0 7 = 0x13#7 → field w 12 3 = f3 → field w 25 7 = f7 →
    (f7, f3, g) ∈ [(0#7, 1#3, (fun (a : W64) (n : Nat) => a <<< n)), (1#7, 1#3, fun (a : W64) (n : Nat) => a <<< n), (0#7, 5#3, fun (a : W64) (n : Nat) => a >>> n), (1#7, 5#3, fun (a : W64) (n : Nat) => a >>> n),
      (0x20#7, 5#3, fun (a : W64) (n : Nat) => a.sshiftRight n), (0x21#7, 5#3, fun (a : W64) (n : Nat) => a.sshiftRight n)] →
    Setts (.settCoreInstruction w) 4 anySett (fun d k t s =>
      s.putX d k (field w 7 5).toNat (g (t.xr (field w 15 5).toNat) ((immI w).toNat % 64)))) ∧
  (∀ (w : W32) (f3 : BitVec 3) (f7 : BitVec 7) (g : W64 → W64 → W64), field w 0 7 = 0x33#7 → field w 12 3 = f3 → field w 25 7 = f7 →
    (f7, f3, g) ∈ [(0#7, 0#3, (fun (a b : W64) => a + b)), (0x20#7, 0#3, fun (a b : W64) => a - b), (0#7, 1#3, fun (a b : W64) => a <<< (b.toNat % 64)),
      (0#7, 2#3, fun (a b : W64) => if a.toInt < b.toInt then 1 else 0), (0#7, 3#3, fun (a b : W64) => if a.toNat < b.toNat then 1 else 0),
      (0#7, 4#3, fun (a b : W64) => a ^^^ b), (0#7, 5#3, fun (a b : W64) => a >>> (b.toNat % 64)), (0x20#7, 5#3, fun (a b : W64) => a.sshiftRight (b.toNat % 64)),
      (0#7, 6#3, fun (a b : W64) => a ||| b), (0#7, 7#3, fun (a b : W64) => a &&& b), (1#7, 0#3, fun (a b : W64) => a * b),
      (1#7, 1#3, fun (a b : W64) => BitVec.ofInt 64 (a.toInt * b.toInt / 2 ^ 64)), (1#7, 2#3, fun (a b : W64) => BitVec.ofInt 64 (a.toInt * b.toNat / 2 ^ 64)),
      (1#7, 3#3, fun (a b : W64) => BitVec.ofInt 64 (a.toNat * b.toNat / 2 ^ 64)),
      (1#7, 4#3, fun (a b : W64) => BitVec.ofInt 64 (if b.toInt = 0 then -1 else a.toInt.tdiv b.toInt)),
      (1#7, 5#3, fun (a b : W64) => if b = 0 then -1 else BitVec.ofNat 64 (a.toNat / b.toNat)),
      (1#7, 6#3, fun (a b : W64) => BitVec.ofInt 64 (if b.toInt = 0 then a.toInt else a.toInt.tmod b.toInt)),
      (1#7, 7#3, fun (a b : W64) => if b = 0 then a else BitVec.ofNat 64 (a.toNat % b.toNat))] →
    Setts (.settCoreInstruction w) 4 anySett (fun d k t s =>
      s.putX d k (field w 7 5).toNat (g (t.xr (field w 15 5).toNat) (t.xr (field w 20 5).toNat)))) ∧
  (∀ w : W32, field w 0 7 = 0x1B#7 → field w 12 3 = 0#3 →
    Setts (.settCoreInstruction w) 4 anySett (fun d k t s =>
      s.putX d k (field w 7 5).toNat (((t.xr (field w 15 5).toNat + immI w).setWidth 32).signExtend 64))) ∧
  (∀ (w : W32) (f3 : BitVec 3) (f7 : BitVec 7) (g : W32 → W32 → W32), field w 0 7 = 0x3B#7 → field w 12 3 = f3 → field w 25 7 = f7 →
    (f7, f3, g) ∈ [(1#7, 0#3, (fun (a b : W32) => a * b)),
      (1#7, 5#3, fun (a b : W32) => if b = 0 then -1 else BitVec.ofNat 32 (a.toNat / b.toNat)),
      (1#7, 7#3, fun (a b : W32) => if b = 0 then a else BitVec.ofNat 32 (a.toNat % b.toNat))] →
    Setts (.settCoreInstruction w) 4 anySett
      (fun d k t s => s.putX d k (field w 7 5).toNat
        ((g ((t.xr (field w 15 5).toNat).setWidth 32) ((t.xr (field w 20 5).toNat).setWidth 32)).signExtend 64))) ∧
  (∀ (w : W32) (f3 : BitVec 3) (f7 : BitVec 7) (g : W32 → Nat → W32), field w 0 7 = 0x3B#7 → field w 12 3 = f3 → field w 25 7 = f7 →
    (f7, f3, g) ∈ [(0#7, 1#3, (fun (a : W32) (n : Nat) => a <<< n)), (0#7, 5#3, fun (a : W32) (n : Nat) => a >>> n), (0x20#7, 5#3, fun (a : W32) (n : Nat) => a.sshiftRight n)] →
    Setts (.settCoreInstruction w) 4 anySett
      (fun d k t s => s.putX d k (field w 7 5).toNat
        ((g ((t.xr (field w 15 5).toNat).setWidth 32) ((t.xr (field w 20 5).toNat).toNat % 32)).signExtend 64))) ∧
  (∀ (w : W32) (f7 : BitVec 7), field w 0 7 = 0x3B#7 → field w 12 3 = 0#3 → field w 25 7 = f7 → (f7 = 0#7 ∨ f7 = 0x20#7) →
    Setts (.settCoreInstruction w) 4 anySett (fun d k t s => s.putX d k (field w 7 5).toNat
      (((if f7 = 0#7 then t.xr (field w 15 5).toNat + t.xr (field w 20 5).toNat
        else t.xr (field w 15 5).toNat - t.xr (field w 20 5).toNat).setWidth 32).signExtend 64))) ∧
  (∀ w : W32, field w 0 7 = 0x6F#7 →
    SettJumps (.settCoreInstruction w) anySett (fun t => t.pc + immJ w)
      (fun d k t s => s.putX d k (field w 7 5).toNat (t.pc + 4))) ∧
  (∀ w : W32, field w 0 7 = 0x67#7 → field w 12 3 = 0#3 →
    SettJumps (.settCoreInstruction w) anySett (fun t => t.xr (field w 15 5).toNat + immI w)
      (fun d k t s => s.putX d k (field w 7 5).toNat (t.pc + 4))) ∧
  (∀ (w : W32) (f3 : BitVec 3) (g : W64 → W64 → Bool), field w 0 7 = 0x63#7 → field w 12 3 = f3 →
    (f3, g) ∈ [(0#3, (fun (a b : W64) => decide (a = b))), (1#3, fun (a b : W64) => decide (a ≠ b)), (4#3, fun (a b : W64) => decide (a.toInt < b.toInt)),
      (5#3, fun (a b : W64) => decide (b.toInt ≤ a.toInt)), (6#3, fun (a b : W64) => decide (a.toNat < b.toNat)),
      (7#3, fun (a b : W64) => decide (b.toNat ≤ a.toNat))] →
    SettJumps (.settCoreInstruction w) (fun _ _ t _ => g (t.xr (field w 15 5).toNat) (t.xr (field w 20 5).toNat) = true)
      (fun t => t.pc + immB w) noEffect ∧
    Setts (.settCoreInstruction w) 4 (fun _ _ t _ => g (t.xr (field w 15 5).toNat) (t.xr (field w 20 5).toNat) = false)
      noEffect) ∧
  (∀ (w : W32) (n : Nat) (l : List Byte), field w 0 7 = 0x03#7 → (field w 12 3).toNat = n → n < 4 →
    Setts (.settCoreInstruction w) 4
      (fun _ _ t s => s.settRead t (t.xr (field w 15 5).toNat + immI w) (2 ^ n) .load = .ok l)
      (fun d k _ s => s.putX d k (field w 7 5).toNat (w64 (signed (8 * 2 ^ n) (natOfBytes l))))) ∧
  (∀ (w : W32) (n : Nat) (l : List Byte), field w 0 7 = 0x03#7 → (field w 12 3).toNat = n + 4 → n < 3 →
    Setts (.settCoreInstruction w) 4
      (fun _ _ t s => s.settRead t (t.xr (field w 15 5).toNat + immI w) (2 ^ n) .load = .ok l)
      (fun d k _ s => s.putX d k (field w 7 5).toNat (BitVec.ofNat 64 (natOfBytes l)))) ∧
  (∀ (w : W32) (n : Nat) (u : State), field w 0 7 = 0x23#7 → (field w 12 3).toNat = n → n < 4 →
    Setts (.settCoreInstruction w) 4
      (fun d k t s => s.settWrite d k (t.xr (field w 15 5).toNat + immS w) (bytesOf (t.xr (field w 20 5).toNat) (2 ^ n)) = .ok u)
      (fun _ _ _ _ => u)) ∧
  (∀ w : W32, field w 0 7 = 0x0F#7 → (field w 12 3 = 0#3 ∨ field w 12 3 = 1#3) → Setts (.settCoreInstruction w) 4 anySett noEffect) ∧
  (∀ (w : W32) (n : Nat) (f5 : BitVec 5) (g : Nat → Nat → Nat) (a : W64) p l (u : State),
    field w 0 7 = 0x2F#7 → (field w 12 3 = 2#3 ∧ n = 4 ∨ field w 12 3 = 3#3 ∧ n = 8) → field w 27 5 = f5 →
    (f5, g) ∈ [(1#5, (fun (_ v : Nat) => v)), (0#5, fun (m v : Nat) => m + v), (4#5, fun (m v : Nat) => m ^^^ v), (8#5, fun (m v : Nat) => m ||| v), (12#5, fun (m v : Nat) => m &&& v)] →
    Setts (.settCoreInstruction w) 4
      (fun d k t s => a = t.xr (field w 15 5).toNat ∧ a.toNat % n = 0 ∧ t.place a n .store = .ok p ∧
        (∀ va, p = .g va → ∃ pa, s.settG t va n a .store = .ok pa) ∧ s.settRead t a n .store = .ok l ∧
        s.settWrite d k a (bytesN (g (natOfBytes l) ((t.xr (field w 20 5).toNat).toNat % 2 ^ (8 * n))) n) = .ok u)
      (fun d k _ _ => u.putX d k (field w 7 5).toNat (w64 (signed (8 * n) (natOfBytes l))))) ∧
  (∀ (w : W32) (n : Nat) (a : W64) p l pa, field w 0 7 = 0x2F#7 → (field w 12 3 = 2#3 ∧ n = 4 ∨ field w 12 3 = 3#3 ∧ n = 8) →
    field w 27 5 = 2#5 → field w 20 5 = 0#5 →
    Setts (.settCoreInstruction w) 4
      (fun _ _ t s => a = t.xr (field w 15 5).toNat ∧ a.toNat % n = 0 ∧ t.place a n .load = .ok p ∧
        pa = (match p with | .g va => s.settG t va n a .load | _ => .ok 0) ∧ (∃ q, pa = .ok q) ∧ s.settRead t a n .load = .ok l)
      (fun d k _ s => (s.putX d k (field w 7 5).toNat (w64 (signed (8 * n) (natOfBytes l)))).modSett d k (fun t =>
        { t with resv := blockOf p pa }))) ∧
  (∀ (w : W32) (n : Nat) (a : W64) p pa, field w 0 7 = 0x2F#7 → (field w 12 3 = 2#3 ∧ n = 4 ∨ field w 12 3 = 3#3 ∧ n = 8) →
    field w 27 5 = 3#5 →
    Setts (.settCoreInstruction w) 4
      (fun _ _ t s => a = t.xr (field w 15 5).toNat ∧ a.toNat % n = 0 ∧ t.place a n .store = .ok p ∧
        pa = (match p with | .g va => s.settG t va n a .store | _ => .ok 0) ∧ (∃ q, pa = .ok q) ∧
        (t.resv = none ∨ t.resv ≠ blockOf p pa))
      (fun d k _ s => (s.modSett d k (fun t => { t with resv := none })).putX d k (field w 7 5).toNat 1)) ∧
  (∀ (w : W32) (n : Nat) (a : W64) p pa (u : State), field w 0 7 = 0x2F#7 → (field w 12 3 = 2#3 ∧ n = 4 ∨ field w 12 3 = 3#3 ∧ n = 8) →
    field w 27 5 = 3#5 →
    Setts (.settCoreInstruction w) 4
      (fun d k t s => a = t.xr (field w 15 5).toNat ∧ a.toNat % n = 0 ∧ t.place a n .store = .ok p ∧
        pa = (match p with | .g va => s.settG t va n a .store | _ => .ok 0) ∧ (∃ q, pa = .ok q) ∧
        t.resv ≠ none ∧ t.resv = blockOf p pa ∧
        (s.modSett d k (fun t => { t with resv := none })).settWrite d k a (bytesOf (t.xr (field w 20 5).toNat) n) = .ok u)
      (fun d k _ _ => u.putX d k (field w 7 5).toNat 0)) ∧
  (∀ w : W32, field w 0 7 = 0x73#7 → field w 12 3 = 1#3 → field w 20 12 = 0x340#12 →
    Setts (.settCoreInstruction w) 4 (fun _ _ t _ => t.mode = .m)
      (fun d k t s => (s.modSett d k (fun u => u.setCsr 0x340 (t.xr (field w 15 5).toNat))).putX d k (field w 7 5).toNat (t.csr 0x340))) ∧
  SettJumps (.settCoreInstruction 0x30200073#32) (fun _ _ t _ => t.mode = .m ∧ field (t.csr cMstatus) 11 2 = 0#2) (fun t => t.csr 0x341)
    (fun d k t s => s.modSett d k (fun _ => ((((({ t with mode := .u } : Sett).setM 3 1 (bit1 (t.mbit 7) 0)).setM 7 1 1).setM 11 2 0).setM 17 1 0))) ∧
  (∀ (w : W32) (n : Nat) (l : List Byte), field w 0 7 = 0x07#7 → (field w 12 3 = 2#3 ∧ n = 4 ∨ field w 12 3 = 3#3 ∧ n = 8) →
    Setts (.settCoreInstruction w) 4
      (fun _ _ t s => t.fs ≠ 0 ∧ s.settRead t (t.xr (field w 15 5).toNat + immI w) n .load = .ok l)
      (fun d k _ s => s.modSett d k (fun t => t.setF (field w 7 5).toNat (fpBox (n == 8) (natOfBytes l))))) ∧
  (∀ (w : W32) (n : Nat) (u : State), field w 0 7 = 0x27#7 → (field w 12 3 = 2#3 ∧ n = 4 ∨ field w 12 3 = 3#3 ∧ n = 8) →
    Setts (.settCoreInstruction w) 4
      (fun d k t s => t.fs ≠ 0 ∧
        s.settWrite d k (t.xr (field w 15 5).toNat + immS w) (bytesOf (t.fr (field w 20 5).toNat) n) = .ok u)
      (fun _ _ _ _ => u)) ∧
  (∀ (w : W32) (f5 : BitVec 5) (dbl : Bool) (m : RMode) (g : Fmt → RMode → FVal → FVal → Res), field w 0 7 = 0x53#7 →
    field w 25 2 = (if dbl then 1#2 else 0#2) → field w 27 5 = f5 →
    (f5, g) ∈ [(0#5, (fun (f : Fmt) (m : RMode) (a b : FVal) => fAdd f m a b 0)), (1#5, fun (f : Fmt) (m : RMode) (a b : FVal) => fAdd f m a b.negate 0), (2#5, fun (f : Fmt) (m : RMode) (a b : FVal) => fMul f m a b 0)] →
    Setts (.settCoreInstruction w) 4 (fun _ _ t _ => t.fs ≠ 0 ∧ t.rm (field w 12 3).toNat = some m)
      (fun d k t s =>
        let r := rvRound (fpFmt dbl) (fun f => g f m (fpVal dbl (t.fr (field w 15 5).toNat)) (fpVal dbl (t.fr (field w 20 5).toNat)))
        (s.modSett d k (fun t => t.setF (field w 7 5).toNat (fpBox dbl r.bits))).fpFlags d k (fflagsOf r.flags))) ∧
  (∀ (w : W32) (dbl : Bool) (m : RMode), field w 0 7 = 0x43#7 → field w 25 2 = (if dbl then 1#2 else 0#2) →
    Setts (.settCoreInstruction w) 4 (fun _ _ t _ => t.fs ≠ 0 ∧ t.rm (field w 12 3).toNat = some m)
      (fun d k t s =>
        let r := rvRound (fpFmt dbl) (fun f => fFma f m (fpVal dbl (t.fr (field w 15 5).toNat)) (fpVal dbl (t.fr (field w 20 5).toNat))
          (fpVal dbl (t.fr (field w 27 5).toNat)) 0)
        (s.modSett d k (fun t => t.setF (field w 7 5).toNat (fpBox dbl r.bits))).fpFlags d k (fflagsOf r.flags))) ∧
  Setts (.settCoreInstruction 0x147D#32) 2 anySett (fun d k t s => s.putX d k 8 (t.xr 8 + -1#64)) ∧
  Setts (.settCoreInstruction 0x852E#32) 2 anySett (fun d k t s => s.putX d k 10 (t.xr 11)) ∧
  (∀ w : W32, field w 0 16 = 0#16 → SettTraps (.settCoreInstruction w) anySett 2 (fun _ => w.setWidth 64)) ∧
  SettTraps (.settCoreInstruction 0x73#32) (fun _ _ t _ => t.mode = .u) 8 (fun _ => 0)

/-- In U or S mode with a slot that is RUN or ENDED and a buffer that is aligned and permitted: mb.recv delivers the head action
into its buffer and rd, and waits where there is none; mb.send posts an observation, or, when the step is the limit, stops
the episode; mb.step posts and receives, or posts and holds where no action is there, and once its post is done only
receives; mb.done posts with STAT 1 and ends the episode; mb.stat and mb.ver read the slot. In M mode, and with a slot
CLOSED or STOPPED, each is an illegal instruction; a buffer off 16 bytes raises cause 4 or 6. (14_sett.md R314, 14_sett.md
R316, 14_sett.md R317, 14_sett.md R318, 14_sett.md R319) -/
def Obligations.SettMailbox : Prop :=
  (∀ rd rs1 a p e q z, Setts (.mbRecv rd rs1) 4
    (fun d k t s => mbUse p t ∧ a = t.xr rs1.toNat ∧ a.toNat % 16 = 0 ∧ s.canStore t a = none ∧
      delivers d k a e q s z)
    (fun d k _ _ => z.putX d k rd.toNat (actionWord e q.step))) ∧
  (∀ rs1 rs2 a p l, Setts (.mbSend rs1 rs2) 4
    (fun _ _ t s => mbUse p t ∧ a = t.xr rs1.toNat ∧ a.toNat % 16 = 0 ∧ s.settRead t a 256 .load = .ok l ∧
      (p.enter.eplim = 0 ∨ p.enter.step ≠ p.enter.eplim) ∧ p.enter.obs.length < 8)
    (fun d k t s => s.modSlot d k (fun _ => p.enter.post (epiOf d k t.kjepi) 0 ((t.xr rs2.toNat).setWidth 32) l))) ∧
  (∀ rs1 rs2 a p l, Setts (.mbSend rs1 rs2) 4
    (fun _ _ t s => mbUse p t ∧ a = t.xr rs1.toNat ∧ a.toNat % 16 = 0 ∧ s.settRead t a 256 .load = .ok l ∧
      p.enter.eplim ≠ 0 ∧ p.enter.step = p.enter.eplim)
    (fun d k t s => (s.modSlot d k EpSlot.enter).stopSlot d k t.kjepi 2 ((t.xr rs2.toNat).setWidth 32) l)) ∧
  (∀ rd rs1 rs2 a p l e q z, Setts (.mbStep rd rs1 rs2) 4
    (fun d k t s => mbUse p t ∧ p.posted.contains (t.pc, t.mode.code) = false ∧ a = t.xr rs1.toNat ∧ a.toNat % 16 = 0 ∧ s.settRead t a 256 .load = .ok l ∧
      s.canStore t a = none ∧ (p.enter.eplim = 0 ∨ p.enter.step ≠ p.enter.eplim) ∧ p.enter.obs.length < 8 ∧
      delivers d k a e q (s.modSlot d k (fun _ => p.enter.post (epiOf d k t.kjepi) 0 ((t.xr rs2.toNat).setWidth 32) l)) z)
    (fun d k _ _ => z.putX d k rd.toNat (actionWord e q.step))) ∧
  (∀ rd rs1 rs2 a p e q z, Setts (.mbStep rd rs1 rs2) 4
    (fun d k t s => mbUse p t ∧ p.posted.contains (t.pc, t.mode.code) = true ∧ a = t.xr rs1.toNat ∧ a.toNat % 16 = 0 ∧
      s.canStore t a = none ∧ delivers d k a e q s z)
    (fun d k _ _ => z.putX d k rd.toNat (actionWord e q.step))) ∧
  (∀ rd rs1 rs2 a p l (s u v : State) d k t, s.turn = .sett d k → u = s.stepped d k → t = u.settCore d k → mbUse p t →
    p.posted.contains (t.pc, t.mode.code) = false → a = t.xr rs1.toNat → a.toNat % 16 = 0 → u.settRead t a 256 .load = .ok l →
    u.canStore t a = none → (p.enter.eplim = 0 ∨ p.enter.step ≠ p.enter.eplim) → p.enter.obs.length < 8 →
    v = u.modSlot d k (fun _ => p.enter.post (epiOf d k t.kjepi) 0 ((t.xr rs2.toNat).setWidth 32) l) →
    ((v.settCore d k).slot (v.settCore d k).kjepi).enter.receive = none →
    exec (.mbStep rd rs1 rs2) s = .next ((v.modSett d k (fun t => { t with boxWait := true })).modSlot d k (fun p =>
      { p with posted := (t.pc, t.mode.code) :: (p.unposted t.mode.code).posted }))) ∧
  (∀ rd rs1 a p (s u : State) d k t, s.turn = .sett d k → u = s.stepped d k → t = u.settCore d k → mbUse p t →
    a = t.xr rs1.toNat → a.toNat % 16 = 0 → u.canStore t a = none → p.enter.receive = none →
    exec (.mbRecv rd rs1) s = .next (u.modSett d k (fun t => { t with boxWait := true }))) ∧
  (∀ rs1 rs2 a p l, Setts (.mbDone rs1 rs2) 4
    (fun _ _ t s => mbUse p t ∧ a = t.xr rs1.toNat ∧ a.toNat % 16 = 0 ∧ s.settRead t a 256 .load = .ok l ∧ p.obs.length < 8)
    (fun d k t s => s.modSlot d k (fun p => (p.post (epiOf d k t.kjepi) 1 ((t.xr rs2.toNat).setWidth 32) l).done_))) ∧
  (∀ rd p, Setts (.mbStat rd) 4 (fun _ _ t _ => mbUse p t)
    (fun d k t s => s.putX d k rd.toNat (p.word (epiOf d k t.kjepi)))) ∧
  (∀ rd p, Setts (.mbVer rd) 4 (fun _ _ t _ => mbUse p t) (fun d k _ s => s.putX d k rd.toNat (p.lastVer.setWidth 64))) ∧
  (∀ i, (∃ rd rs1, i = .mbRecv rd rs1) ∨ (∃ rs1 rs2, i = .mbSend rs1 rs2) ∨ (∃ rd rs1 rs2, i = .mbStep rd rs1 rs2) ∨
      (∃ rs1 rs2, i = .mbDone rs1 rs2) ∨ (∃ rd, i = .mbStat rd) ∨ (∃ rd, i = .mbVer rd) →
    SettTraps i (fun _ _ t _ => t.mode = .m ∨ (t.slot t.kjepi).state = .closed ∨ (t.slot t.kjepi).state = .stopped) 2
      (fun _ => (mbBits i).setWidth 64)) ∧
  (∀ i rs1 c, (∃ rd, i = .mbRecv rd rs1 ∧ c = 6) ∨ (∃ rs2, i = .mbSend rs1 rs2 ∧ c = 4) ∨
      (∃ rd rs2, i = .mbStep rd rs1 rs2 ∧ c = 6) ∨ (∃ rs2, i = .mbDone rs1 rs2 ∧ c = 4) →
    SettTraps i (fun _ _ t _ => (∃ p, mbUse p t) ∧ (t.xr rs1.toNat).toNat % 16 ≠ 0) c (fun t => t.xr rs1.toNat))

/-- For every well-formed instruction of the Vartar map, whatever its fields and whatever bytes follow, the decoder reads the
instruction from its twelve bytes and leaves the rest. The same holds of the six Xknajan instructions in their four bytes,
of every other 32-bit Sett word, and of every 16-bit one. (04_encoding.md R75, 04_encoding.md R76, 04_encoding.md R81,
04_encoding.md R82, 04_encoding.md R83, 04_encoding.md R84, 04_encoding.md R85, 04_encoding.md R87, 14_sett.md R318) -/
def Obligations.RoundTrip : Prop :=
  (∀ i w rest, encodeWord i = some w → WellFormed i → decode (encode i ++ rest) = .ok (i, rest)) ∧
  (∀ i w rest, encodeSettWord i = some w → (∀ x, i ≠ .settCoreInstruction x) →
    decodeSett (encode i ++ rest) = .ok (i, rest) ∧ (encode i).length = 4) ∧
  (∀ (w : W32) rest, field w 0 2 = 3#2 → decodeSettWord w = .settCoreInstruction w →
    decodeSett (encode (.settCoreInstruction w) ++ rest) = .ok (.settCoreInstruction w, rest)) ∧
  (∀ (w : W32) rest, field w 0 2 ≠ 3#2 → w.toNat < 2 ^ 16 →
    decodeSett (encode (.settCoreInstruction w) ++ rest) = .ok (.settCoreInstruction w, rest) ∧
      (encode (.settCoreInstruction w)).length = 2)

/-- The word of the instruction that a 96-bit word decodes to is that word again, so no bit is dropped; two well-formed
instructions with the same word are the same. Bytes fewer than twelve hold no instruction; twelve or more always hold one. A
word whose opcode is in no row of the map is an unassigned one, and that is never well-formed. (04_encoding.md R75,
04_encoding.md R76, 04_encoding.md R87, 04_encoding.md R89, 04_encoding.md R90) -/
def Obligations.OneMeaningPerWord : Prop :=
  (∀ w, encodeWord (decodeWord w) = some w) ∧
  (∀ i j w, encodeWord i = some w → encodeWord j = some w → WellFormed i → WellFormed j → i = j) ∧
  (∀ l : List Byte, l.length < 12 → decode l = .error .truncated) ∧
  (∀ l : List Byte, 12 ≤ l.length → ∃ i, decode l = .ok (i, l.drop 12)) ∧
  (∀ w n, opcOf w = n → (0x038 ≤ n ∧ n ≤ 0x0EF) ∨ (0x134 ≤ n ∧ n ≤ 0x1FF) ∨ (0x22D ≤ n ∧ n ≤ 0x2FF) ∨
    (0x30D ≤ n ∧ n ≤ 0x30F) ∨ (0x315 ≤ n ∧ n ≤ 0x317) ∨ (0x31D ≤ n ∧ n ≤ 0x31F) ∨ (0x323 ≤ n ∧ n ≤ 0x37F) ∨ 0x390 ≤ n →
    decodeWord w = .unassignedOpcode w) ∧
  (∀ w, ¬ WellFormed (.unassignedOpcode w))

/-- ADD s3, s1, 16 from its bytes in memory; NEXT.l1 with a target; VCMP; ATK.add.ret with its displacement; CBCLM with PEER;
MMAZ with ZR, NR and AT; CVWT; ERET; and mb.step and mb.done from their bytes: each decodes to the row with the fields that
the spec names, and passes the decode checks. (05_scalar.md, 06_vector.md, 07_memory.md, 09_sync.md, 10_matrix.md,
12_conveyor.md, 14_sett.md R319, 17_privilege.md) -/
def Obligations.WorkedEncodings : Prop :=
  decode [0x10, 0, 0, 0, 0, 0, 0, 0x80, 0x1F, 0x0C, 0x10, 0] = .ok (.add ⟨0, 0, 3, 1, 62, 0, 0, 16⟩, []) ∧
  decode [0, 0, 0, 5, 0, 3, 1, 0, 0, 0, 8, 0xC0] = .ok (.next ⟨3, 0, 0, 0, 0, 1, 3, 5, 0⟩, []) ∧
  decode (bytesOf 0x41220A004000010000000000#96 12) = .ok (.vcmp ⟨1, 0, 2, 32, 1, 0, 0, 0, 0, 0, 0, 8, 0, 0⟩, []) ∧
  decode [8, 0, 0, 0, 0, 8, 0x94, 0, 0x60, 0x14, 0x12, 2] = .ok (.atk ⟨0, 0, 5, 6, 0, 0, 2, 1, 1, 0, 0x80000000008#48⟩, []) ∧
  decode [1, 0, 0, 0, 0, 1, 0, 0, 0x60, 0x10, 0x18, 0x82] = .ok (.cbclm ⟨2, 0, 4, 6, 0, 0, 0, 0, 0, 0, 0x10000000001#48⟩, []) ∧
  (∃ v, decode (bytesOf 0x430600300028320000000000#96 12) = .ok (.mmaz v, []) ∧ v.role = 1 ∧ v.d = 0 ∧ v.a = 3 ∧ v.b = 0 ∧
    zrOf v = 5 ∧ nrOf v = 1 ∧ typeOf v = 18 ∧ cptOf v = 0 ∧ strOf v = 0) ∧
  (∃ v, decode (bytesOf 0x431800300002800000000000#96 12) = .ok (.cvwt v, []) ∧ v.role = 1 ∧ v.d = 0 ∧ v.a = 3 ∧ v.b = 0) ∧
  (∃ v, decode (bytesOf 0x838200400000000000000000#96 12) = .ok (.eret v, []) ∧ v.role = 2 ∧ v.a = 4 ∧ v.low = 0) ∧
  (∃ v, decode (bytesOf 0x83202650C000000000000000#96 12) = .ok (.mbsnd v, []) ∧ v.role = 2 ∧ v.d = 9 ∧ v.a = 37 ∧ v.b = 3) ∧
  decodeSett [0x0B, 0xA5, 0xC5, 0] = .ok (.mbStep 10 11 12, []) ∧
  decodeSett [0x0B, 0xB0, 0xC9, 1] = .ok (.mbDone 19 28, []) ∧
  WellFormed (.add ⟨0, 0, 3, 1, 62, 0, 0, 16⟩) ∧ WellFormed (.next ⟨3, 0, 0, 0, 0, 1, 3, 5, 0⟩) ∧
  WellFormed (.vcmp ⟨1, 0, 2, 32, 1, 0, 0, 0, 0, 0, 0, 8, 0, 0⟩) ∧
  WellFormed (.atk ⟨0, 0, 5, 6, 0, 0, 2, 1, 1, 0, 0x80000000008#48⟩) ∧
  WellFormed (.cbclm ⟨2, 0, 4, 6, 0, 0, 0, 0, 0, 0, 0x10000000001#48⟩)

/-- The values that the spec gives for reset: TIME is 0 and nothing is published, so the window reads its version word and
zeros, every queue reads STS 0, the power table holds its reset column (but CADREQ, which is the model's choice, log 6, and
of which only the range is stated), FRZ and TSTAT are clear, HOLDLIM is 20,000 and each WLIMMAX 0x01000000, every trap
queue, log and slot is at its base, BSTS and HCTL are 0. The invariant that every step keeps holds. (01_package.md R19,
17_privilege.md R351, 17_privilege.md R352, 21_power.md R424, 22_host.md R438, 22_host.md R440, 22_host.md R441) -/
def Obligations.ResetValues : Prop :=
  State.reset.Governed ∧ State.reset.time2 = 0 ∧ State.reset.info.published = false ∧ State.reset.info.gen = 0 ∧
  (∀ off, State.reset.infoByte off = if off < 8 then (bytesN 0x4B4A0001 8).getD off 0 else 0) ∧ (∀ q, (State.reset.queue q).sts = 0 ∧ (State.reset.queue q).reg = false) ∧
  State.reset.power.pcap = 28000 ∧ State.reset.power.ord = List.range 16 ∧ State.reset.power.thawEn = true ∧
  State.reset.power.thawStep = 200 ∧ State.reset.power.thawPod = 0 ∧ State.reset.power.maclimEn = true ∧
  State.reset.power.floor = 8 ∧ State.reset.power.step = 8 ∧ State.reset.power.dstep = 8 ∧
  (∀ g < 16, (State.reset.group g).gcap = 1750 ∧ (State.reset.group g).drpcad = 3) ∧
  (∀ cid, (State.reset.core cid).holdlim = 20000 ∧ (State.reset.core cid).wlimmax = Vector.replicate 3 0x01000000 ∧
    (State.reset.core cid).frozen = none) ∧
  (∀ d p, (State.reset.trapQ d p).tqb = 0 ∧ (State.reset.trapQ d p).tqt = 0 ∧ (State.reset.die d).ivlb = 0 ∧
    (State.reset.die d).ivlt = 0 ∧ (State.reset.die d).live = false) ∧
  (∀ d k e, (State.reset.epSlot d k e).state = .closed) ∧ State.reset.passThrough = 0 ∧
  State.reset.host.step = 0 ∧ State.reset.host.fail = 0 ∧ State.reset.host.stby = false ∧ State.reset.host.stbya = false ∧
  State.reset.host.dbgm = false ∧ State.reset.host.nores = false ∧ State.reset.host.noscrb = false ∧
  State.reset.ctxs = [] ∧ State.reset.kernels = []

/-- In a canonical memory a write gives its bytes at its addresses and leaves every other, keeps the canonical form, and two
memories that read alike are one. A G store that meets no uncorrectable error leaves every byte outside its physical parts,
and within one page writes its bytes at the place it was given; a store to the context's own A buffer through its store
buffer changes that buffer only, at its offset, and one to an A buffer by way of the cluster joins the role's K accesses and
changes no memory yet; accepting an instruction's end changes no memory. (07_memory.md R158, 07_memory.md R165, 07_memory.md
R167, 20_reliability.md R405) -/
def Obligations.MemoryLaws : Prop :=
  (∀ (m : Mem) a l b, m.wf = true →
    (m.write a l).get b = if a ≤ b ∧ b < a + l.length then l.getD (b - a) 0 else m.get b) ∧
  (∀ (m : Mem) a l, m.wf = true → (m.write a l).wf = true) ∧
  (∀ m n : Mem, m.wf = true → n.wf = true → (∀ a, m.get a = n.get a) → m = n) ∧
  (∀ (s t : State) e x pa pb, s.hbm.wf = true → e.place = .g pa pb → s.performStore e x = some t →
    (∀ p ∈ gParts pa pb e.data.length, s.storeBad p.1 p.2 = false) →
    ∀ a, (∀ p ∈ gParts pa pb e.data.length, ¬ (p.1 ≤ a ∧ a < p.1 + p.2)) → t.hbm.get a = s.hbm.get a) ∧
  (∀ (s t : State) e x pa pb, s.hbm.wf = true → e.place = .g pa pb → s.performStore e x = some t →
    s.storeBad pa e.data.length = false → pa % 65536 + e.data.length ≤ 65536 →
    ∀ a, pa ≤ a → a < pa + e.data.length → t.hbm.get a = e.data.getD (a - pa) 0) ∧
  (∀ (s t : State) e x y off, e.place = .a e.ctx off → e.k = false → e.more = [] → s.ctx e.ctx = some y → y.abuf.wf = true →
    s.performStore e x = some t → ∃ z, t.ctx e.ctx = some z ∧ t.hbm = s.hbm ∧ z.wbuf = y.wbuf ∧
      ∀ a, z.abuf.get a = if off ≤ a ∧ a < off + e.data.length then e.data.getD (a - off) 0 else y.abuf.get a) ∧
  (∀ (s t : State) e x c off, e.place = .a c off → e.k = true → s.performStore e x = some t →
    t = s.modCtx e.ctx (fun y => { y with kstores := y.kstores ++ [e] })) ∧
  (∀ (f : Frame) w pc dest fl (s : State) x, s.ctx w.c = some x → (f.finish w pc dest fl s).hbm = s.hbm)

/-- A step first takes the next move of the agenda, or with an empty one the next role in turn, and lets its cycles pass; what
comes by itself in them, a passage of the ring or a timer, acts first (log 1). When a role moves that may issue and has no
instruction half done, the twelve bytes at its program counter decide: if they hold an uncorrectable error, the role raises
the memory-error fault; if they decode to an instruction, the step is exec of it at that state; if they hold none, the role
raises the pool-execution fault. A role that may not issue does nothing, but for a further fault in the cycle in which its
context has stopped (log 16), and one with an instruction half done goes on with it. A Sett core runs the instruction of its
bytes in the same way, and an event of the agenda runs its row. (02_execution.md R36, 04_encoding.md R75, 04_encoding.md
R92, 14_sett.md R310) -/
def Obligations.StepRunsDecoded : Prop :=
  (∀ (s : State) c r i rest, s.begin.turn = .role c r → s.begin.canIssue ⟨c, r⟩ = true → s.begin.hasRest ⟨c, r⟩ = false →
    s.begin.fetchBad ⟨c, r⟩ = false → decode (s.begin.wordAt ⟨c, r⟩) = .ok (i, rest) → step s = exec i s.begin) ∧
  (∀ (s : State) c r, s.begin.turn = .role c r → s.begin.canIssue ⟨c, r⟩ = true → s.begin.hasRest ⟨c, r⟩ = false →
    s.begin.fetchBad ⟨c, r⟩ = true → step s = .next (s.begin.raise ⟨c, r⟩ cMemory 0)) ∧
  (∀ (s : State) c r e (x : Ctx), s.begin.turn = .role c r → s.begin.canIssue ⟨c, r⟩ = true → s.begin.hasRest ⟨c, r⟩ = false →
    s.begin.fetchBad ⟨c, r⟩ = false → decode (s.begin.wordAt ⟨c, r⟩) = .error e → s.begin.ctx c = some x →
    step s = .next (s.begin.deliverAt c (Role.code r) cPoolExec 0 0 false (some (fellFrom (s.begin.textOf x) (x.role r).pc)))) ∧
  (∀ (s : State) c r, s.begin.turn = .role c r → s.begin.canIssue ⟨c, r⟩ = false → (∀ e ∈ s.begin.stops, e.c ≠ c) →
    step s = .next s.begin) ∧
  (∀ (s : State) c r, s.begin.turn = .role c r → s.begin.canIssue ⟨c, r⟩ = false → step s = .next (s.begin.furtherFault ⟨c, r⟩ (fun u => match runRoleAt ⟨c, r⟩ u with | .next t => t | _ => u))) ∧
  (∀ (s : State) c r, s.begin.turn = .role c r → s.begin.canIssue ⟨c, r⟩ = true → s.begin.hasRest ⟨c, r⟩ = true →
    step s = .next (s.begin.finishRest ⟨c, r⟩)) ∧
  (∀ (s u : State) d k l i rest, s.begin.turn = .sett d k → u = s.begin.settBegin d k → u.settFetch d k = .ok l →
    decodeSett l = .ok (i, rest) → step s = exec i u) ∧
  (∀ (s : State) i inp, s.begin.turn = .event i inp → step s = exec i s.begin) ∧
  (∀ (s : State) (m : Move) l, s.agenda = m :: l → s.due (s.cyclesOf m) = none →
    s.begin.agenda = l ∧ s.begin.turn = m.agent ∧ s.begin.cycles = s.cycles + s.cyclesOf m ∧
    (m.cycles ≠ 0 ∨ s.ranks = [] → s.cyclesOf m = m.cycles)) ∧
  (∀ (s : State) (m : Move) l n i p, s.agenda = m :: l → s.due (s.cyclesOf m) = some (n, i, p) →
    s.begin.agenda = ⟨s.cyclesOf m - n, m.agent⟩ :: l ∧ s.begin.turn = .event i p ∧ s.begin.inp = p ∧ s.begin.cycles = s.cycles + n) ∧
  (∀ (s : State) w (x : Ctx) sec, s.ctx w.c = some x → sectionOf (s.textOf x) (x.role w.r).pc.sec = some sec →
    s.wordAt w = (sec.body.drop (12 * (x.role w.r).pc.word)).take 12)

/-- For every instruction of the Vartar map: an unassigned opcode raises the illegal-instruction fault; otherwise a privileged
opcode in a context without privilege the privilege fault; otherwise a tag that is not permitted, a QBND of another role's
q-register among them, the illegal-role fault; otherwise any other violation of the word, or a PSEL that the context may not
use, the illegal-instruction fault. Each is raised whatever the guard and the tokens, before any of the word's pops.
(04_encoding.md R89, 04_encoding.md R88, 04_encoding.md R86, 09_sync.md R203, 17_privilege.md R348, 17_privilege.md R353) -/
def Obligations.DecodeOrder : Prop :=
  (∀ i h (s : State) w (x : Ctx), Executes i h s w x → violation i = some .opcode → exec i s = .next (s.raise w cIllegal 0)) ∧
  (∀ i h (s : State) w (x : Ctx), Executes i h s w x → violation i ≠ some .opcode → privOp i = true → x.priv = false →
    exec i s = .next (s.raise w cPrivilege 0)) ∧
  (∀ i h (s : State) w (x : Ctx), Executes i h s w x → violation i ≠ some .opcode → (privOp i = true → x.priv = true) →
    (violation i = some .tag ∨ tagFault i x = true) → exec i s = .next (s.raise w cRole 0)) ∧
  (∀ i h (s : State) w (x : Ctx), Executes i h s w x → violation i ≠ some .opcode → (privOp i = true → x.priv = true) →
    violation i ≠ some .tag → tagFault i x = false → (violation i ≠ none ∨ pselFault i x = true) →
    exec i s = .next (s.raise w cIllegal 0))

/-- For every instruction of the Vartar map but PHASE, a role whose tag it does not carry goes on to the next word with no
effect: its context alone changes, and of it the role's bookkeeping only; where the section that it would enter is held it
waits first. At a PHASE it waits. A well-formed word whose guard is false performs its pops, with the tokens there, and the
acquire that they are (R182), and its pushes, and goes on: no operand is read and no register, memory, engine or flag
changes. (02_execution.md R36, 02_execution.md R43, 04_encoding.md R77, 04_encoding.md R80) -/
def Obligations.GuardAndPassing : Prop :=
  (∀ i h (s : State) w (x : Ctx), s.turn = .role w.c w.r → s.ctx w.c = some x → headOf i = some h → (∀ v, i ≠ .phase v) →
    h.role.toNat ≠ Role.code w.r → h.role ≠ 0b11#2 →
    exec i s = .next (retireNext s s w (s.textOf x) (x.role w.r) 0 none false (some s))) ∧
  (∀ v (s : State) w (x : Ctx), s.turn = .role w.c w.r → s.ctx w.c = some x → v.role.toNat ≠ Role.code w.r → v.role ≠ 0b11#2 →
    exec (.phase v) s = .next (s.waitOn w .meet)) ∧
  (∀ (s : State) w (x : Ctx) dest, s.ctx w.c = some x → fallThrough (s.textOf x) (x.role w.r).pc = some dest →
    countFull (x.role w.r) (restOf 0 none (x.role w.r).pc dest false false false).enter
      (restOf 0 none (x.role w.r).pc dest false false false).exit = false →
    retireWait (s.core w.c.cid) (s.textOf x) x w (restOf 0 none (x.role w.r).pc dest false false false) = none →
    ∃ y, retireNext s s w (s.textOf x) (x.role w.r) 0 none false (some s) = s.setCtx w.c y ∧ Leaves y x w.r 0 [] ∧ y.qs = x.qs ∧
      y.lfsr = x.lfsr ∧ y.nextId = x.nextId ∧ (y.role w.r).flg = (x.role w.r).flg) ∧
  (∀ (s : State) w (x : Ctx) dest k, s.ctx w.c = some x → fallThrough (s.textOf x) (x.role w.r).pc = some dest →
    countFull (x.role w.r) (restOf 0 none (x.role w.r).pc dest false false false).enter
      (restOf 0 none (x.role w.r).pc dest false false false).exit = false →
    retireWait (s.core w.c.cid) (s.textOf x) x w (restOf 0 none (x.role w.r).pc dest false false false) = some k →
    retireNext s s w (s.textOf x) (x.role w.r) 0 none false (some s) = s.waitOn w k) ∧
  (∀ i h b (s : State) w (x : Ctx) dest, b = commitsWhole i → Executes i h s w x → WellFormed i → tagFault i x = false → pselFault i x = false → x.harvest = false →
    (privOp i = true → x.priv = true) → guardOn (x.role w.r) h.guard = false →
    ((x.role w.r).popped = true ∨ ∀ q ∈ tokPops w.r h.tok, x.tok q ≠ 0) → (∀ q ∈ tokPushes w.r h.tok, x.tok q.2 < 8) →
    Falls ⟨h.role, h.tok, h.guard, [], false, none, false, b⟩ s w x dest → s.calm w.c.cid →
    ∃ y, exec i s = .next ((s.popped ⟨h.role, h.tok, h.guard, [], false, none, false, b⟩ w x).retire w
        (restOf h.tok none (x.role w.r).pc dest false false false)) ∧
      (s.popped ⟨h.role, h.tok, h.guard, [], false, none, false, b⟩ w x).retire w
        (restOf h.tok none (x.role w.r).pc dest false false false) =
        (s.popped ⟨h.role, h.tok, h.guard, [], false, none, false, b⟩ w x).setCtx w.c y ∧ Leaves y x w.r 0 [] ∧ y.qs = x.qs ∧
      y.lfsr = x.lfsr ∧ y.nextId = x.nextId ∧ (y.role w.r).flg = (x.role w.r).flg)

/-- A fault of a role with a queue that takes its record: the context enters TRAPPED with the role, the cause and the program
counter, its roles abandon their waits, and the record goes to the queue; of the rest of the context only the q-register
entry goes that a waiting MBRCV had reserved, and the stop is noted for the other roles' faults of the same cycle (log 16).
With none, R28 ends the context. A record that finds 256 unconsumed, or no room for its write (R414), waits; otherwise its
64 bytes are written at TQB + 64 (TQT mod 256), where that translates with write permission, and TQT advances. MODE 0 of
ERET runs the context again as it stood; MODE 1 moves the faulting role to the next word, its token actions undone.
(17_privilege.md R369, 17_privilege.md R370, 17_privilege.md R354, 02_execution.md R28) -/
def Obligations.TrapEntry : Prop :=
  (∀ (s : State) w (x : Ctx) cause val t, s.ctx w.c = some x →
    (s.setCtx w.c (x.entered w.r cause)).appendRec (dieOf w.c.cid) x.part (s.faultRec w x cause val) = some t →
    s.raise w cause val = { t with
      stops := ⟨w.c, Role.code w.r, ((s.setCtx w.c (x.entered w.r cause)).trapQ (dieOf w.c.cid) x.part).tqt, [x.rl, x.rc, x.rs]⟩ :: s.stops } ∧
    t.ctx w.c = some (x.entered w.r cause)) ∧
  (∀ (s : State) w (x : Ctx) cause val, s.ctx w.c = some x →
    (s.setCtx w.c (x.entered w.r cause)).appendRec (dieOf w.c.cid) x.part (s.faultRec w x cause val) = none →
    s.raise w cause val = (s.setCtx w.c (x.entered w.r cause)).endDomain x.kernel cause) ∧
  (∀ (s : State) d p t, (s.trapQ d p).tqb = 0 → s.appendRec d p t = none) ∧
  (∀ (s : State) d p t, (s.trapQ d p).tqb ≠ 0 → ((s.trapQ d p).full = true ∨ (s.trapQ d p).waiting ≠ [] ∨
      s.devBusy p ((s.trapQ d p).tqb + 64 * ((s.trapQ d p).tqt.toNat % 256)) = true) →
    s.appendRec d p t = some (s.modTrapQ d p (fun q => { q with waiting := q.waiting ++ [t] }))) ∧
  (∀ (s : State) d p t pa, (s.trapQ d p).tqb ≠ 0 → (s.trapQ d p).full = false → (s.trapQ d p).waiting = [] →
    s.devBusy p ((s.trapQ d p).tqb + 64 * ((s.trapQ d p).tqt.toNat % 256)) = false →
    s.xlate p ((s.trapQ d p).tqb + 64 * ((s.trapQ d p).tqt.toNat % 256)) true (t.bytes (s.trapQ d p).tqt).length = .ok pa →
    s.appendRec d p t = some ((s.writeDev pa (t.bytes (s.trapQ d p).tqt)).modTrapQ d p (fun q => { q with tqt := q.tqt + 1 }))) ∧
  (∀ (s : State) d p t e, (s.trapQ d p).tqb ≠ 0 → (s.trapQ d p).full = false → (s.trapQ d p).waiting = [] →
    s.devBusy p ((s.trapQ d p).tqb + 64 * ((s.trapQ d p).tqt.toNat % 256)) = false →
    s.xlate p ((s.trapQ d p).tqb + 64 * ((s.trapQ d p).tqt.toNat % 256)) true (t.bytes (s.trapQ d p).tqt).length = .error e → s.appendRec d p t = none) ∧
  (∀ (t : TrapRec) seq, (t.pcs.length = 3) → (t.bytes seq).length = 64) ∧
  (∀ (x : Ctx) r cause t, x.late = none → (x.entered r cause).resume t false =
    { x.unreserve with state := .run, trap := none, rl := x.rl.stop, rc := x.rc.stop, rs := x.rs.stop }) ∧
  (∀ (x : Ctx) r cause t dest, x.late = none → fallThrough t (x.role r).pc = some dest →
    (((x.entered r cause).resume t true).role r).pc = dest ∧ ((x.entered r cause).resume t true).toks = x.toks ∧
    ((x.entered r cause).resume t true).state = .run ∧ (((x.entered r cause).resume t true).role r).sregs = (x.role r).sregs)

/-- Every word with an opcode of 0x0F0 to 0x0FF decodes to a hint, whatever its other bits; its one decode check is the
token-bit rule. Whenever a role issues it, it performs its token actions, changes nothing else, and the role goes on. Two
hint words with the same tag and token bits do the same in every state, so no other field has an effect. One that breaks the
token-bit rule raises the illegal-instruction fault. (04_encoding.md R90) -/
def Obligations.HintRule : Prop :=
  (∀ w, 0x0F0 ≤ opcOf w → opcOf w ≤ 0x0FF →
    ∃ n v, decodeWord w = .hint n v ∧ v.role = field w 94 2 ∧ v.tok = field w 90 4) ∧
  (∀ n v, Completes (.hint n v) ⟨v.role, v.tok, 0, [], false, none, false, true⟩ anyCtx (fun _ _ s => s)) ∧
  (∀ n m (u v : HintWord) (s : State), u.role = v.role → u.tok = v.tok → exec (.hint n u) s = exec (.hint m v) s) ∧
  (∀ n (v : HintWord), violation (.hint n v) = none ∨ violation (.hint n v) = some .token) ∧
  (∀ n (v : HintWord), violation (.hint n v) = none ↔
    (v.role = 1#2 ∨ (v.role = 3#2 ∧ v.tok = 0) ∨ ((v.role = 0#2 ∨ v.role = 2#2) ∧ field v.tok 0 2 = 0#2))) ∧
  (∀ n v (s : State) w (x : Ctx), s.turn = .role w.c w.r → s.ctx w.c = some x → (v.role.toNat = Role.code w.r ∨ v.role = 3#2) →
    violation (.hint n v) = some .token → exec (.hint n v) s = .next (s.raise w cIllegal 0))

/-- VSEL is opcode 0x124. A well-formed one names a scalar of codes 0 to 31 in c. Whenever it issues with its sources there and
room in d, exec answers the next state in which the entry pushed to d is what the lanes give: lane i is a's where bit i of
the 64-bit scalar is 1, b's elsewhere, and zero where the lane is disabled. No flag is raised. (06_vector.md R144) -/
def Obligations.SelectByMask : Prop :=
  (∀ v w, encodeWord (.vsel v) = some w → opcOf w = 0x124) ∧
  (∀ v, WellFormed (.vsel v) → v.c.toNat < 32) ∧
  (∀ v, Completes (.vsel v) (frameV v) (vReady v 2) (fun w x s => vOut v 2 w x
    { lanes := laneIx.map (fun i => if bitAt (vMask w x v.lm) i then
        (if bitAt ((x.role w.r).s v.c.toNat) i then lane (vIn v 2 w x).a i else lane (vIn v 2 w x).b i) else 0)
      lfsr := x.lfsr } s))

/-- A context starts with three empty stacks; saving it keeps them. A CALL with 16 entries and a RET with none raise the
return-stack fault in the state before the instruction: the role's program counter and stack stand. A CALL with fewer pushes
the address of the next word, so that there are never more than 16. (05_scalar.md R116) -/
def Obligations.ReturnStack : Prop :=
  (∀ (k : Kernel) g r, ((startCtx k g).role r).ret = []) ∧
  (∀ (x : Ctx) image no r, ((x.toSaved image no).role r).ret = (x.role r).ret) ∧
  (∀ (s : State) c (x : Ctx) part a t, State.writeImage s c x part a = some t →
    ∃ y, (s.freeIx, y) ∈ t.images ∧ ∀ r, (y.role r).ret = (x.role r).ret) ∧
  (∀ v, Raises (.call v) (frameB v) (fun w x _ => 16 ≤ (x.role w.r).ret.length) cReturn (fun _ _ _ => 0)) ∧
  (∀ v, Raises (.ret v) (frameS v) (fun w x _ => (x.role w.r).ret = []) cReturn (fun _ _ _ => 0)) ∧
  (∀ (s : State) w (x : Ctx) val t, s.ctx w.c = some x →
    (s.setCtx w.c (x.entered w.r cReturn)).appendRec (dieOf w.c.cid) x.part (s.faultRec w x cReturn val) = some t →
    ∃ y, (s.raise w cReturn val).ctx w.c = some y ∧ (y.role w.r).ret = (x.role w.r).ret ∧ (y.role w.r).pc = (x.role w.r).pc) ∧
  (∀ v, Jumps (.call v) (frameB v) true false (fun w x _ => (x.role w.r).ret.length < 16) (fun _ _ _ => targetOf v)
    (fun w _ s => s.modRole w (fun r => { r with ret := ⟨r.pc.sec, r.pc.word + 1⟩ :: r.ret })))

/-- Whenever one of the scalar instructions with a destination, a NOP, or a vector instruction issues and falls through, one
context is all that changes of the machine, beside the acquire at core scope that its token pops are (R182): memory,
engines, queues, every other context and every special stand. Of that context the executing role's program counter and
bookkeeping, the token counts and WIN in force go on; every scalar and predicate but the destination, the loop counters, the
return stack and the other roles stand; no flag is cleared; a scalar instruction changes no q-register, a vector instruction
none that it does not name. (05_scalar.md R103, 06_vector.md R129, 06_vector.md R131, 04_encoding.md R78) -/
def Obligations.RegisterFrames : Prop :=
  (∀ mk ∈ [Instr.add, .sub, .mul, .mulh, .mulhn, .div, .divn, .rem, .remn, .and, .or, .xor, .andn, .orn, .shl, .shr, .sra, .rotl,
      .min, .max, .minn, .maxn, .clz, .ctz, .popc, .brev, .bswap, .sext, .zext, .bfx, .bfi, .lim, .limh, .lea, .cmp, .sel, .plog,
      .nop], FramesS mk) ∧
  (∀ mk ∈ [Instr.vadd, .vsub, .vmul, .vdiv, .vmin, .vmax, .viadd, .visub, .vimul, .vimulh, .vsadd, .vssub, .vimin, .vimax, .vshl,
      .vshr, .vsra, .vand, .vor, .vxor, .vpack, .vqbfp, .vext, .vperm, .vrot, .vcmp, .vicmp, .vsel], FramesV mk 2) ∧
  (∀ mk ∈ [Instr.vsqrt, .vabs, .vneg, .vrcp, .vrsq, .vexp2, .vlog2, .viabs, .vpopc, .vclz, .vcvt, .vunpk, .vdqbfp, .vmov, .vcmpr,
      .vexpd, .vred, .vscan, .varg], FramesV mk 1) ∧
  (∀ mk ∈ [Instr.vfma, .vfms, .vfnma, .vimad, .vins], FramesV mk 3)

/-- For every state, reached or not, in which package memory has its canonical form, every field of the power table lies in its
range with each start rank used once, and residue checking and scrubbing are off only in debug mode: whatever instruction or
event the next step runs, if it answers a next state these hold there again. The range 1 to 63 of CADREQ rests on the
model's FMIN (log 6). (20_reliability.md R401, 21_power.md R424, 22_host.md R440, 07_memory.md R156) -/
def Obligations.StepKeeps : Prop :=
  ∀ s t : State, s.Governed → step s = .next t → t.Governed

end
end

