-- ==== Sys2Proof/Laws/Encode.lean ====
section
/-! SUPPORT. The fields of a word put together and taken apart again, and the bytes of a word. -/

namespace Sys2Proof

theorem field_append_hi {m n : Nat} (a : BitVec m) (b : BitVec n) (lo k : Nat) (h : n ≤ lo) :
    field (a ++ b) lo k = field a (lo - n) k := by
  apply BitVec.eq_of_getLsbD_eq
  intro i hi
  simp only [field, BitVec.getLsbD_extractLsb', BitVec.getLsbD_append, hi, decide_true, Bool.true_and]
  rw [if_neg (by omega)]
  rw [show lo - n + i = lo + i - n by omega]

theorem field_append_lo {m n : Nat} (a : BitVec m) (b : BitVec n) (lo k : Nat) (h : lo + k ≤ n) :
    field (a ++ b) lo k = field b lo k := by
  apply BitVec.eq_of_getLsbD_eq
  intro i hi
  simp only [field, BitVec.getLsbD_extractLsb', BitVec.getLsbD_append, hi, decide_true, Bool.true_and]
  rw [if_pos (by omega)]

theorem field_all {n : Nat} (a : BitVec n) : field a 0 n = a := by
  apply BitVec.eq_of_getLsbD_eq
  intro i hi
  simp only [field, BitVec.getLsbD_extractLsb', hi, decide_true, Bool.true_and, Nat.zero_add]

theorem opcOf_of {w : Word96} {o : BitVec 10} (h : field w 80 10 = o) : opcOf w = o.toNat := by rw [opcOf, h]

theorem getS_putS (o : BitVec 10) (w : WordS) : getS (putS o w) = w ∧ opcOf (putS o w) = o.toNat := by
  constructor
  · unfold getS putS
    congr 1 <;> (repeat (first | refine (field_append_lo _ _ _ _ (by decide)).trans ?_ | refine (field_append_hi _ _ _ _ (by decide)).trans ?_)) <;> exact field_all _
  · apply opcOf_of; unfold putS
    (repeat (first | refine (field_append_lo _ _ _ _ (by decide)).trans ?_ | refine (field_append_hi _ _ _ _ (by decide)).trans ?_)) <;> exact field_all _

theorem getV_putV (o : BitVec 10) (w : WordV) : getV (putV o w) = w ∧ opcOf (putV o w) = o.toNat := by
  constructor
  · unfold getV putV
    congr 1 <;> (repeat (first | refine (field_append_lo _ _ _ _ (by decide)).trans ?_ | refine (field_append_hi _ _ _ _ (by decide)).trans ?_)) <;> exact field_all _
  · apply opcOf_of; unfold putV
    (repeat (first | refine (field_append_lo _ _ _ _ (by decide)).trans ?_ | refine (field_append_hi _ _ _ _ (by decide)).trans ?_)) <;> exact field_all _

theorem getM_putM (o : BitVec 10) (w : WordM) : getM (putM o w) = w ∧ opcOf (putM o w) = o.toNat := by
  constructor
  · unfold getM putM
    congr 1 <;> (repeat (first | refine (field_append_lo _ _ _ _ (by decide)).trans ?_ | refine (field_append_hi _ _ _ _ (by decide)).trans ?_)) <;> exact field_all _
  · apply opcOf_of; unfold putM
    (repeat (first | refine (field_append_lo _ _ _ _ (by decide)).trans ?_ | refine (field_append_hi _ _ _ _ (by decide)).trans ?_)) <;> exact field_all _

theorem getB_putB (o : BitVec 10) (w : WordB) : getB (putB o w) = w ∧ opcOf (putB o w) = o.toNat := by
  constructor
  · unfold getB putB
    congr 1 <;> (repeat (first | refine (field_append_lo _ _ _ _ (by decide)).trans ?_ | refine (field_append_hi _ _ _ _ (by decide)).trans ?_)) <;> exact field_all _
  · apply opcOf_of; unfold putB
    (repeat (first | refine (field_append_lo _ _ _ _ (by decide)).trans ?_ | refine (field_append_hi _ _ _ _ (by decide)).trans ?_)) <;> exact field_all _

theorem getX_putX (o : BitVec 10) (w : WordX) : getX (putX o w) = w ∧ opcOf (putX o w) = o.toNat := by
  constructor
  · unfold getX putX
    congr 1 <;> (repeat (first | refine (field_append_lo _ _ _ _ (by decide)).trans ?_ | refine (field_append_hi _ _ _ _ (by decide)).trans ?_)) <;> exact field_all _
  · apply opcOf_of; unfold putX
    (repeat (first | refine (field_append_lo _ _ _ _ (by decide)).trans ?_ | refine (field_append_hi _ _ _ _ (by decide)).trans ?_)) <;> exact field_all _

theorem getHint_putHint (n : BitVec 4) (w : HintWord) :
    getHint (putHint n w) = w ∧ field (putHint n w) 80 4 = n ∧ field (putHint n w) 84 6 = 0x0F#6 := by
  refine ⟨?_, ?_, ?_⟩
  · unfold getHint putHint
    congr 1 <;> (repeat (first | refine (field_append_lo _ _ _ _ (by decide)).trans ?_ | refine (field_append_hi _ _ _ _ (by decide)).trans ?_)) <;> exact field_all _
  · unfold putHint
    (repeat (first | refine (field_append_lo _ _ _ _ (by decide)).trans ?_ | refine (field_append_hi _ _ _ _ (by decide)).trans ?_)) <;> exact field_all _
  · unfold putHint
    (repeat (first | refine (field_append_lo _ _ _ _ (by decide)).trans ?_ | refine (field_append_hi _ _ _ _ (by decide)).trans ?_)) <;> exact field_all _

/-- Adjoining fields are one field. -/
theorem field_append_field {m : Nat} (w : BitVec m) (a n k : Nat) : field w (a + k) n ++ field w a k = field w a (n + k) := by
  apply BitVec.eq_of_getLsbD_eq
  intro i hi
  simp only [field, BitVec.getLsbD_extractLsb', BitVec.getLsbD_append]
  by_cases h : i < k
  · simp [h]; intro; omega
  · simp only [h, if_false, decide_false]
    have : a + k + (i - k) = a + i := by omega
    rw [this]
    have h2 : i - k < n := by omega
    simp [h2, hi]

/-- Adjoining fields, with the place of the upper one given. -/
theorem field_cat {m : Nat} (w : BitVec m) (a n k b : Nat) (h : a + k = b) : field w b n ++ field w a k = field w a (n + k) := by
  subst h; exact field_append_field w a n k

theorem putS_getS (w : Word96) (o : BitVec 10) (h : opcOf w = o.toNat) : putS o (getS w) = w := by
  obtain rfl : field w 80 10 = o := BitVec.eq_of_toNat_eq h
  unfold putS getS
  dsimp only
  rw [field_cat w 90 (2) 4 94 rfl,
    field_cat w 80 (2 + 4) 10 90 rfl,
    field_cat w 74 (2 + 4 + 10) 6 80 rfl,
    field_cat w 68 (2 + 4 + 10 + 6) 6 74 rfl,
    field_cat w 62 (2 + 4 + 10 + 6 + 6) 6 68 rfl,
    field_cat w 57 (2 + 4 + 10 + 6 + 6 + 6) 5 62 rfl,
    field_cat w 48 (2 + 4 + 10 + 6 + 6 + 6 + 5) 9 57 rfl,
    field_cat w 0 (2 + 4 + 10 + 6 + 6 + 6 + 5 + 9) 48 48 rfl]
  exact field_all w

theorem putV_getV (w : Word96) (o : BitVec 10) (h : opcOf w = o.toNat) : putV o (getV w) = w := by
  obtain rfl : field w 80 10 = o := BitVec.eq_of_toNat_eq h
  unfold putV getV
  dsimp only
  rw [field_cat w 90 (2) 4 94 rfl,
    field_cat w 80 (2 + 4) 10 90 rfl,
    field_cat w 74 (2 + 4 + 10) 6 80 rfl,
    field_cat w 68 (2 + 4 + 10 + 6) 6 74 rfl,
    field_cat w 62 (2 + 4 + 10 + 6 + 6) 6 68 rfl,
    field_cat w 57 (2 + 4 + 10 + 6 + 6 + 6) 5 62 rfl,
    field_cat w 51 (2 + 4 + 10 + 6 + 6 + 6 + 5) 6 57 rfl,
    field_cat w 45 (2 + 4 + 10 + 6 + 6 + 6 + 5 + 6) 6 51 rfl,
    field_cat w 44 (2 + 4 + 10 + 6 + 6 + 6 + 5 + 6 + 6) 1 45 rfl,
    field_cat w 43 (2 + 4 + 10 + 6 + 6 + 6 + 5 + 6 + 6 + 1) 1 44 rfl,
    field_cat w 42 (2 + 4 + 10 + 6 + 6 + 6 + 5 + 6 + 6 + 1 + 1) 1 43 rfl,
    field_cat w 37 (2 + 4 + 10 + 6 + 6 + 6 + 5 + 6 + 6 + 1 + 1 + 1) 5 42 rfl,
    field_cat w 34 (2 + 4 + 10 + 6 + 6 + 6 + 5 + 6 + 6 + 1 + 1 + 1 + 5) 3 37 rfl,
    field_cat w 0 (2 + 4 + 10 + 6 + 6 + 6 + 5 + 6 + 6 + 1 + 1 + 1 + 5 + 3) 34 34 rfl]
  exact field_all w

theorem putM_getM (w : Word96) (o : BitVec 10) (h : opcOf w = o.toNat) : putM o (getM w) = w := by
  obtain rfl : field w 80 10 = o := BitVec.eq_of_toNat_eq h
  unfold putM getM
  dsimp only
  rw [field_cat w 90 (2) 4 94 rfl,
    field_cat w 80 (2 + 4) 10 90 rfl,
    field_cat w 74 (2 + 4 + 10) 6 80 rfl,
    field_cat w 68 (2 + 4 + 10 + 6) 6 74 rfl,
    field_cat w 62 (2 + 4 + 10 + 6 + 6) 6 68 rfl,
    field_cat w 57 (2 + 4 + 10 + 6 + 6 + 6) 5 62 rfl,
    field_cat w 54 (2 + 4 + 10 + 6 + 6 + 6 + 5) 3 57 rfl,
    field_cat w 52 (2 + 4 + 10 + 6 + 6 + 6 + 5 + 3) 2 54 rfl,
    field_cat w 50 (2 + 4 + 10 + 6 + 6 + 6 + 5 + 3 + 2) 2 52 rfl,
    field_cat w 48 (2 + 4 + 10 + 6 + 6 + 6 + 5 + 3 + 2 + 2) 2 50 rfl,
    field_cat w 0 (2 + 4 + 10 + 6 + 6 + 6 + 5 + 3 + 2 + 2 + 2) 48 48 rfl]
  exact field_all w

theorem putB_getB (w : Word96) (o : BitVec 10) (h : opcOf w = o.toNat) : putB o (getB w) = w := by
  obtain rfl : field w 80 10 = o := BitVec.eq_of_toNat_eq h
  unfold putB getB
  dsimp only
  rw [field_cat w 90 (2) 4 94 rfl,
    field_cat w 80 (2 + 4) 10 90 rfl,
    field_cat w 74 (2 + 4 + 10) 6 80 rfl,
    field_cat w 62 (2 + 4 + 10 + 6) 12 74 rfl,
    field_cat w 57 (2 + 4 + 10 + 6 + 12) 5 62 rfl,
    field_cat w 48 (2 + 4 + 10 + 6 + 12 + 5) 9 57 rfl,
    field_cat w 40 (2 + 4 + 10 + 6 + 12 + 5 + 9) 8 48 rfl,
    field_cat w 24 (2 + 4 + 10 + 6 + 12 + 5 + 9 + 8) 16 40 rfl,
    field_cat w 0 (2 + 4 + 10 + 6 + 12 + 5 + 9 + 8 + 16) 24 24 rfl]
  exact field_all w

theorem putX_getX (w : Word96) (o : BitVec 10) (h : opcOf w = o.toNat) : putX o (getX w) = w := by
  obtain rfl : field w 80 10 = o := BitVec.eq_of_toNat_eq h
  unfold putX getX
  dsimp only
  rw [field_cat w 90 (2) 4 94 rfl,
    field_cat w 80 (2 + 4) 10 90 rfl,
    field_cat w 74 (2 + 4 + 10) 6 80 rfl,
    field_cat w 68 (2 + 4 + 10 + 6) 6 74 rfl,
    field_cat w 62 (2 + 4 + 10 + 6 + 6) 6 68 rfl,
    field_cat w 57 (2 + 4 + 10 + 6 + 6 + 6) 5 62 rfl,
    field_cat w 0 (2 + 4 + 10 + 6 + 6 + 6 + 5) 57 57 rfl]
  exact field_all w

theorem putHint_getHint (w : Word96) (h : field w 84 6 = 0x0F#6) : putHint (field w 80 4) (getHint w) = w := by
  unfold putHint getHint
  dsimp only
  rw [← h, field_cat w 90 2 4 94 rfl, field_cat w 84 (2 + 4) 6 90 rfl, field_cat w 80 (2 + 4 + 6) 4 84 rfl,
    field_cat w 0 (2 + 4 + 6 + 4) 80 80 rfl]
  exact field_all w

/-- The opcode of a hint. -/
theorem opcOf_putHint (n : BitVec 4) (w : HintWord) : opcOf (putHint n w) = 0xF0 + n.toNat := by
  have h : field (putHint n w) 80 10 = (0x0F#6) ++ n := by
    obtain ⟨_, h2, h3⟩ := getHint_putHint n w
    have e : field (putHint n w) 84 6 ++ field (putHint n w) 80 4 = field (putHint n w) 80 10 := field_append_field _ 80 6 4
    rw [h2, h3] at e
    exact e.symm
  rw [opcOf, h, BitVec.toNat_append]
  have := n.isLt
  rw [show (0x0F#6).toNat <<< 4 = 2 ^ 4 * 15 from rfl, ← Nat.two_pow_add_eq_or_of_lt this]

/-- Each of the sixteen hint opcodes decodes to a hint. -/
theorem decodeWord_hint (w : Word96) (n : BitVec 4) (h : opcOf w = 0xF0 + n.toNat) :
    decodeWord w = .hint (w.extractLsb' 80 4) (getHint w) := by
  have hn : n.toNat < 16 := n.isLt
  have hc : opcOf w / 256 = 0 := by omega
  unfold decodeWord
  rw [hc]
  show decodeClass0 w = _
  unfold decodeClass0
  rw [h]
  clear h hc
  generalize n.toNat = k at hn ⊢
  iterate 16
    rcases k with _ | k
    · rfl
  omega

theorem byteOf_toNat {m : Nat} (x : BitVec m) (i : Nat) : (byteOf x i).toNat = x.toNat / 256 ^ i % 256 := by
  unfold byteOf field
  rw [BitVec.extractLsb'_toNat, Nat.shiftRight_eq_div_pow, show 8 * i = i * 8 from Nat.mul_comm _ _, Nat.pow_mul', ]

theorem natOfBytes_append (l k : List Byte) : natOfBytes (l ++ k) = natOfBytes l + 256 ^ l.length * natOfBytes k := by
  induction l with
  | nil => simp [natOfBytes]
  | cons b r ih =>
    simp only [List.cons_append, natOfBytes, ih, List.length_cons, Nat.pow_succ]
    rw [Nat.mul_add, Nat.add_assoc, ← Nat.mul_assoc, Nat.mul_comm 256 (256 ^ r.length)]

@[simp] theorem bytesOf_length {m : Nat} (x : BitVec m) (n : Nat) : (bytesOf x n).length = n := by simp [bytesOf]

/-- The bytes of a value give it back. -/
theorem natOfBytes_bytesOf {m : Nat} (x : BitVec m) (n : Nat) : natOfBytes (bytesOf x n) = x.toNat % 256 ^ n := by
  induction n with
  | zero => simp [bytesOf, natOfBytes, Nat.mod_one]
  | succ n ih =>
    have h : bytesOf x (n + 1) = bytesOf x n ++ [byteOf x n] := by simp [bytesOf, List.range_succ]
    rw [h, natOfBytes_append, ih, bytesOf_length]
    simp only [natOfBytes, byteOf_toNat, Nat.mul_zero, Nat.add_zero]
    rw [Nat.pow_succ, Nat.mod_mul]

/-- A word of whole bytes is read back from its bytes, whatever follows them. -/
theorem wordOfBytes_bytesOf {m : Nat} (x : BitVec m) (n : Nat) (rest : List Byte) (h : m ≤ 8 * n) :
    wordOfBytes m ((bytesOf x n ++ rest).take n) = x := by
  have hl : (bytesOf x n ++ rest).take n = bytesOf x n := by simp
  rw [hl, wordOfBytes, natOfBytes_bytesOf]
  apply BitVec.eq_of_toNat_eq
  rw [BitVec.toNat_ofNat]
  have h1 : x.toNat < 2 ^ m := x.isLt
  have h2 : 2 ^ m ≤ 256 ^ n := by
    rw [show (256 : Nat) = 2 ^ 8 from rfl, ← Nat.pow_mul]
    exact Nat.pow_le_pow_right (by decide) h
  rw [Nat.mod_eq_of_lt (Nat.lt_of_lt_of_le h1 h2), Nat.mod_eq_of_lt h1]

end Sys2Proof
end

