-- ==== Sys2Proof/Laws/Memory.lean ====
section
/-! SUPPORT. Memory: every operation keeps the canonical form, and what one byte reads as after a write. -/

namespace Sys2Proof.Machine

theorem Mem.wfFrom_mono {m : Mem} {lo lo' : Nat} (h : lo ≤ lo') (hm : Mem.wfFrom lo' m = true) : Mem.wfFrom lo m = true := by
  cases m with
  | nil => rfl
  | cons c r =>
    simp only [Mem.wfFrom, Bool.and_eq_true, decide_eq_true_eq] at hm ⊢
    exact ⟨⟨Nat.le_trans h hm.1.1, hm.1.2⟩, hm.2⟩

theorem Mem.set_wfFrom {m : Mem} {lo a : Nat} {b : Byte} (h : lo ≤ a) (hm : Mem.wfFrom lo m = true) :
    Mem.wfFrom lo (m.set a b) = true := by
  induction m generalizing lo with
  | nil =>
    unfold Mem.set
    split
    · rfl
    · simp_all [Mem.wfFrom]
  | cons c r ih =>
    obtain ⟨a', b'⟩ := c
    simp only [Mem.wfFrom, Bool.and_eq_true, decide_eq_true_eq] at hm
    unfold Mem.set
    split
    · split
      · exact Mem.wfFrom_mono (by omega) hm.2
      · subst a'; simp_all [Mem.wfFrom]
    · split
      · simp only [Mem.wfFrom, Bool.and_eq_true, decide_eq_true_eq]
        exact ⟨hm.1, ih (by omega) hm.2⟩
      · split
        · simp_all [Mem.wfFrom]
        · simp only [Mem.wfFrom, Bool.and_eq_true, decide_eq_true_eq, bne_iff_ne, ne_eq]
          exact ⟨⟨h, by assumption⟩, ⟨by omega, by simpa using hm.1.2⟩, hm.2⟩

/-- A write of one byte keeps the canonical form. -/
@[simp] theorem Mem.set_wf {m : Mem} {a : Nat} {b : Byte} (h : m.wf = true) : (m.set a b).wf = true :=
  Mem.set_wfFrom (Nat.zero_le a) h

/-- A write of bytes keeps the canonical form. -/
@[simp] theorem Mem.write_wf {m : Mem} {a : Nat} {l : List Byte} (h : m.wf = true) : (m.write a l).wf = true := by
  induction l generalizing m a with
  | nil => exact h
  | cons b r ih => exact ih (Mem.set_wf h)

theorem Mem.filter_wfFrom {m : Mem} {lo : Nat} (p : Host.Cell → Bool) (h : Mem.wfFrom lo m = true) :
    Mem.wfFrom lo (m.filter p) = true := by
  induction m generalizing lo with
  | nil => rfl
  | cons c r ih =>
    simp only [Mem.wfFrom, Bool.and_eq_true, decide_eq_true_eq] at h
    rw [List.filter_cons]
    split
    · simp only [Mem.wfFrom, Bool.and_eq_true, decide_eq_true_eq]
      exact ⟨h.1, ih h.2⟩
    · exact Mem.wfFrom_mono (by omega) (ih h.2)

/-- Cells taken out of a memory leave the canonical form. -/
@[simp] theorem Mem.filter_wf {m : Mem} (p : Host.Cell → Bool) (h : m.wf = true) : Mem.wf (m.filter p) = true :=
  Mem.filter_wfFrom p h
@[simp] theorem Mem.range_wf {m : Mem} {lo n : Nat} (h : m.wf = true) : (m.range lo n).wf = true := Mem.filter_wf _ h
@[simp] theorem Mem.nil_wf : Mem.wf [] = true := rfl

/-- The memory after reset lists nothing. -/
theorem reset_hbm_wf : State.reset.hbm.wf = true := rfl

theorem Mem.get_low {m : Mem} {lo a : Nat} (h : Mem.wfFrom lo m = true) (ha : a < lo) : m.get a = 0 := by
  cases m with
  | nil => rfl
  | cons c r =>
    obtain ⟨a', b'⟩ := c
    simp only [Mem.wfFrom, Bool.and_eq_true, decide_eq_true_eq] at h
    simp only [Mem.get]
    rw [if_neg (by omega), if_neg (by omega)]

/-- A byte after a write of one byte. -/
theorem Mem.get_set {m : Mem} {lo a a' : Nat} {b : Byte} (h : Mem.wfFrom lo m = true) :
    (m.set a b).get a' = if a' = a then b else m.get a' := by
  induction m generalizing lo with
  | nil =>
    unfold Mem.set
    split
    · rename_i hb; subst hb; simp [Mem.get]
    · simp only [Mem.get]
      by_cases e : a = a'
      · simp [e]
      · rw [if_neg e, if_neg (Ne.symm e), ite_self]
  | cons c r ih =>
    obtain ⟨x, y⟩ := c
    simp only [Mem.wfFrom, Bool.and_eq_true, decide_eq_true_eq] at h
    have ih := ih h.2
    unfold Mem.set
    split
    · subst x
      split
      · rename_i hb; subst hb
        by_cases e : a' = a
        · subst e; rw [if_pos rfl]; exact Mem.get_low h.2 (by omega)
        · rw [if_neg e]; simp only [Mem.get]
          rw [if_neg (Ne.symm e)]
          split
          · rfl
          · exact Mem.get_low h.2 (by omega)
      · by_cases e : a' = a
        · subst e; simp [Mem.get]
        · simp only [Mem.get, if_neg (Ne.symm e), if_neg e]
    · split
      · simp only [Mem.get]
        by_cases e : x = a'
        · subst e; rw [if_pos rfl, if_pos rfl, if_neg (by omega)]
        · rw [if_neg e, if_neg e]
          by_cases l : x < a'
          · rw [if_pos l, if_pos l, ih]
          · rw [if_neg l, if_neg l, if_neg (by omega)]
      · have hax : a < x := by omega
        split
        · rename_i hb; subst hb
          by_cases e : a' = a
          · subst e; rw [if_pos rfl]; simp only [Mem.get]; rw [if_neg (by omega), if_neg (by omega)]
          · rw [if_neg e]
        · simp only [Mem.get]
          by_cases e : a' = a
          · subst e; simp
          · rw [if_neg (Ne.symm e), if_neg e]
            by_cases l : a < a'
            · rw [if_pos l]
            · rw [if_neg l, if_neg (by omega), if_neg (by omega)]

end Sys2Proof.Machine
end

