-- ==== Sys2Proof/Laws/GovernedCore.lean ====
section
/-! SUPPORT. What each operation and meaning keeps of the invariant of the machine, `State.Governed`: the operations and the meanings of the cores. -/

set_option Elab.async false
namespace Sys2Proof.Machine

def EffGov : Eff → Prop
  | .done s | .load _ s | .goto _ _ s | .call _ s | .stay s | .waitIn _ s | .tryFail s | .trap _ _ s | .final s => s.Governed
  | _ => True
def OutGov : Host.Outcome State Fault Refusal → Prop
  | .next s => s.Governed
  | _ => True
def RvGov : Rv → Prop
  | .next s | .jump s _ | .hold s => s.Governed
  | _ => True

theorem Keeping.write {m p a b c x l} (h : Keeping m p a b c) : Keeping (m.write x l) p a b c := ⟨Mem.write_wf h.1, h.2⟩

theorem foldl_gov {α : Type} (l : List α) (g : State → α → State) (s : State) (hs : s.Governed)
    (hg : ∀ s a, s.Governed → (g s a).Governed) : (l.foldl g s).Governed := by
  induction l generalizing s with
  | nil => exact hs
  | cons a l ih => exact ih _ (hg s a hs)

theorem foldl_fst_gov {α β : Type} (l : List α) (g : State × β → α → State × β) (p : State × β) (hp : p.1.Governed)
    (hg : ∀ p a, p.1.Governed → (g p a).1.Governed) : (l.foldl g p).1.Governed := by
  induction l generalizing p with
  | nil => exact hp
  | cons a l ih => exact ih _ (hg p a hp)

theorem getD_gov (o : Option State) (s : State) (hs : s.Governed) (ho : ∀ so, o = some so → so.Governed) :
    (o.getD s).Governed := by
  cases o with
  | none => exact hs
  | some t => exact ho t rfl

theorem PowerGroup.all_set (l : Vector PowerGroup 16) (g : Nat) (v : PowerGroup)
    (hl : l.toList.all PowerGroup.inRange = true) (hv : v.inRange = true) :
    (l.setIfInBounds g v).toList.all PowerGroup.inRange = true := by
  rw [List.all_eq_true] at *
  intro x hx
  rw [Vector.mem_toList_iff] at hx
  have : x ∈ l ∨ x = v := by
    simp only [Vector.mem_iff_getElem] at hx ⊢
    obtain ⟨i, hi, he⟩ := hx
    rw [Vector.getElem_setIfInBounds] at he
    split at he
    · exact .inr he.symm
    · exact .inl ⟨i, hi, he⟩
  rcases this with h | h
  · exact hl x (by rwa [Vector.mem_toList_iff])
  · exact h ▸ hv


theorem ite_gov {c : Prop} [Decidable c] {a b : State} (ha : a.Governed) (hb : b.Governed) : (if c then a else b).Governed := by
  split
  · exact ha
  · exact hb

/-- A state under an option, when there is one. -/
theorem foldl_opt_gov {α β : Type} (l : List α) (g : Option (β × State) → α → Option (β × State)) (o : Option (β × State))
    (ho : ∀ p, o = some p → p.2.Governed)
    (hg : ∀ o a, (∀ p, o = some p → p.2.Governed) → ∀ p, g o a = some p → p.2.Governed) :
    ∀ p, l.foldl g o = some p → p.2.Governed := by
  induction l generalizing o with
  | nil => exact ho
  | cons a l ih => exact ih _ (hg o a ho)

/-- A state after another operation, when there is one. -/
theorem map_gov {ε : Type} {e : Except ε State} {g : State → State} (he : ∀ so, e = .ok so → so.Governed) (hg : ∀ s, s.Governed → (g s).Governed) :
    ∀ so, e.map g = .ok so → so.Governed := by
  intro so h
  cases e with
  | error e => cases h
  | ok t => cases h; exact hg _ (he t rfl)


theorem State.setCtx_gov (s : State) (c : CtxId) (x : Ctx) (hs : s.Governed) : (State.setCtx s c x).Governed := by
  unfold State.setCtx
  grind (splits := 20) [State.Governed, EffGov, OutGov, RvGov]

theorem State.modCtx_gov (s : State) (c : CtxId) (f : Ctx → Ctx) (hs : s.Governed) : (State.modCtx s c f).Governed := by
  unfold State.modCtx
  grind (splits := 20) [State.Governed, EffGov, OutGov, RvGov, State.setCtx_gov]

theorem State.modRole_gov (s : State) (w : Who) (f : RoleSt → RoleSt) (hs : s.Governed) : (State.modRole s w f).Governed := by
  unfold State.modRole
  grind (splits := 20) [State.Governed, EffGov, OutGov, RvGov, State.modCtx_gov]

theorem State.modCore_gov (s : State) (cid : Nat) (f : Core → Core) (hs : s.Governed) : (State.modCore s cid f).Governed := by
  unfold State.modCore
  grind (splits := 20) [State.Governed, EffGov, OutGov, RvGov]

theorem State.modDie_gov (s : State) (d : Nat) (f : Die → Die) (hs : s.Governed) : (State.modDie s d f).Governed := by
  unfold State.modDie
  grind (splits := 20) [State.Governed, EffGov, OutGov, RvGov]

theorem State.modPart_gov (s : State) (p : Nat) (f : Partition → Partition) (hs : s.Governed) : (State.modPart s p f).Governed := by
  unfold State.modPart
  grind (splits := 20) [State.Governed, EffGov, OutGov, RvGov]

theorem State.modKernel_gov (s : State) (k : Nat) (f : Kernel → Kernel) (hs : s.Governed) : (State.modKernel s k f).Governed := by
  unfold State.modKernel
  grind (splits := 20) [State.Governed, EffGov, OutGov, RvGov]

theorem State.modNode_gov (s : State) (n : Nat) (f : Node → Node) (hs : s.Governed) : (State.modNode s n f).Governed := by
  unfold State.modNode
  grind (splits := 20) [State.Governed, EffGov, OutGov, RvGov]

theorem State.modQueue_gov (s : State) (q : Nat) (f : LQueue → LQueue) (hs : s.Governed) : (State.modQueue s q f).Governed := by
  unfold State.modQueue
  grind (splits := 20) [State.Governed, EffGov, OutGov, RvGov]

theorem State.modTrapQ_gov (s : State) (d : Nat) (p : Nat) (f : TrapQ → TrapQ) (hs : s.Governed) : (State.modTrapQ s d p f).Governed := by
  unfold State.modTrapQ
  grind (splits := 20) [State.Governed, EffGov, OutGov, RvGov, State.modDie_gov]

theorem State.modWindow_gov (s : State) (p : Nat) (k : Nat) (f : HostWin → HostWin) (hs : s.Governed) : (State.modWindow s p k f).Governed := by
  unfold State.modWindow
  grind (splits := 20) [State.Governed, EffGov, OutGov, RvGov]

theorem State.free_gov (s : State) (hs : s.Governed) : (State.free s).2.Governed := by
  unfold State.free
  grind (splits := 20) [State.Governed, EffGov, OutGov, RvGov]

theorem State.setS_gov (s : State) (w : Who) (n : Nat) (v : W64) (hs : s.Governed) : (State.setS s w n v).Governed := by
  unfold State.setS
  grind (splits := 20) [State.Governed, EffGov, OutGov, RvGov, State.modRole_gov]

theorem State.setP_gov (s : State) (w : Who) (n : Nat) (v : Bool) (hs : s.Governed) : (State.setP s w n v).Governed := by
  unfold State.setP
  grind (splits := 20) [State.Governed, EffGov, OutGov, RvGov, State.modRole_gov]

theorem State.orFlags_gov (s : State) (w : Who) (f : BitVec 5) (hs : s.Governed) : (State.orFlags s w f).Governed := by
  unfold State.orFlags
  grind (splits := 20) [State.Governed, EffGov, OutGov, RvGov, State.modRole_gov]

theorem State.saveSide_gov (s : State) (page : Nat) (hs : s.Governed) : (State.saveSide s page).Governed := by
  unfold State.saveSide
  grind (splits := 20) [State.Governed, EffGov, OutGov, RvGov]

theorem State.writeG_gov (s : State) (pa : Nat) (l : List Byte) (own : Option Nat) (hs : s.Governed) : (State.writeG s pa l own).Governed := by
  unfold State.writeG
  grind (splits := 20) [State.Governed, EffGov, OutGov, RvGov, Keeping.write, State.saveSide_gov]

theorem State.writeDev_gov (s : State) (pa : Nat) (l : List Byte) (hs : s.Governed) : (State.writeDev s pa l).Governed := by
  unfold State.writeDev
  grind (splits := 20) [State.Governed, EffGov, OutGov, RvGov, State.writeG_gov]

theorem State.flushDev_gov (s : State) (z1 : List (Nat × List Byte)) (hs : s.Governed) : (State.flushDev s z1).Governed := by
  induction z1 generalizing s with
  | nil => exact hs
  | cons a r ih =>
    unfold State.flushDev
    split
    · exact hs
    · exact ih _ (State.writeG_gov _ _ _ _ hs)

theorem State.keepLeaf_gov (s : State) (cid : Nat) (part : Nat) (va : Nat) (hs : s.Governed) : (State.keepLeaf s cid part va).Governed := by
  unfold State.keepLeaf
  grind (splits := 20) [State.Governed, EffGov, OutGov, RvGov, State.modCore_gov]

theorem State.writeRun_gov (s : State) (part : Nat) (va : Nat) (l : List Byte) (hs : s.Governed) : ∀ so, State.writeRun s part va l = some so → so.Governed := by
  unfold State.writeRun
  grind (splits := 20) [State.Governed, EffGov, OutGov, RvGov, State.writeDev_gov]

theorem State.publish_gov (s : State) (hs : s.Governed) : (State.publish s).Governed := by
  unfold State.publish
  grind (splits := 20) [State.Governed, EffGov, OutGov, RvGov]

theorem State.modGroupP_gov (s : State) (g : Nat) (f : PowerGroup → PowerGroup) (hs : s.Governed)
    (hf : ∀ p : PowerGroup, p.inRange = true → (f p).inRange = true) : (State.modGroupP s g f).Governed := by
  have hg : (s.group g).inRange = true := by
    unfold State.group
    rcases Nat.lt_or_ge g 16 with h | h
    · rw [Vector.getElem?_eq_getElem h]
      have := hs.2.1
      simp only [Power.inRange, Bool.and_eq_true, List.all_eq_true] at this
      exact this.2 _ (by simp)
    · rw [Vector.getElem?_eq_none h]; rfl
  refine ⟨hs.1, ?_, hs.2.2⟩
  have := hs.2.1
  unfold State.modGroupP
  simp only [Power.inRange, Bool.and_eq_true] at this ⊢
  exact ⟨this.1, PowerGroup.all_set _ _ _ this.2 (hf _ hg)⟩

theorem State.storeRec_gov (s : State) (d : Nat) (p : Nat) (t : TrapRec) (hs : s.Governed) : ∀ so, State.storeRec s d p t = some so → so.Governed := by
  unfold State.storeRec
  grind (splits := 20) [State.Governed, EffGov, OutGov, RvGov, State.writeRun_gov, State.modTrapQ_gov]

theorem State.appendRec_gov (s : State) (d : Nat) (p : Nat) (t : TrapRec) (hs : s.Governed) : ∀ so, State.appendRec s d p t = some so → so.Governed := by
  unfold State.appendRec
  grind (splits := 20) [State.Governed, EffGov, OutGov, RvGov, State.modTrapQ_gov, State.storeRec_gov]

theorem State.post_gov (s : State) (d : Nat) (sub : Nat) (unit : Nat) (addr : Nat) (hs : s.Governed) : (State.post s d sub unit addr).Governed := getD_gov _ _ hs (State.appendRec_gov _ _ _ _ hs)

theorem State.performG_gov (s : State) (pa : Nat) (va : Nat) (l : List Byte) (hs : s.Governed) : (State.performG s pa va l).Governed := by
  unfold State.performG
  grind (splits := 20) [State.Governed, EffGov, OutGov, RvGov, State.post_gov, State.writeG_gov]

theorem State.performDev_gov (s : State) (pa : Nat) (va : Nat) (l : List Byte) (hs : s.Governed) : (State.performDev s pa va l).Governed := by
  unfold State.performDev
  grind (splits := 20) [State.Governed, EffGov, OutGov, RvGov, State.post_gov, State.writeDev_gov]

theorem State.tryWrite_gov (s : State) (part : Nat) (va : Nat) (l : List Byte) (hs : s.Governed) : (State.tryWrite s part va l).Governed := getD_gov _ _ hs (State.writeRun_gov _ _ _ _ hs)

theorem State.writeRecord_gov (s : State) (n : Node) (phases : Nat) (sfc : Nat) (hs : s.Governed) : (State.writeRecord s n phases sfc).Governed := by
  unfold State.writeRecord
  grind (splits := 20) [State.Governed, EffGov, OutGov, RvGov, State.tryWrite_gov]

theorem State.endNode_gov (z0 : Nat) (z1 : State) (z2 : Nat) (z3 : Nat) (z4 : Nat) (hz1 : z1.Governed) : (State.endNode z0 z1 z2 z3 z4).Governed := by
  induction z0 generalizing z1 z2 z3 z4 with
  | zero => exact hz1
  | succ n ih =>
    unfold State.endNode
    grind (splits := 20) [State.modNode_gov, State.writeRecord_gov]

theorem State.openBands_gov (s : State) (cid : Nat) (hs : s.Governed) : (State.openBands s cid).Governed := by
  unfold State.openBands
  grind (splits := 20) [State.Governed, EffGov, OutGov, RvGov, State.modCore_gov]

theorem State.finishCtx_gov (s : State) (c : CtxId) (hs : s.Governed) : (State.finishCtx s c).Governed := by
  unfold State.finishCtx
  grind (splits := 20) [State.Governed, EffGov, OutGov, RvGov, State.openBands_gov, State.modCore_gov, State.modCtx_gov]

theorem State.endKernel_gov (s : State) (id : Nat) (hs : s.Governed) : (State.endKernel s id).Governed := by
  unfold State.endKernel
  split
  · exact hs
  · split
    · exact hs
    · refine State.endNode_gov _ _ _ _ _ (State.modKernel_gov _ _ _ ?_)
      exact foldl_gov _ _ s hs (fun s c h => by grind [State.finishCtx_gov])

theorem State.endDomain_gov (s : State) (kernel : Nat) (cause : Nat) (hs : s.Governed) : (State.endDomain s kernel cause).Governed := by
  unfold State.endDomain
  split
  · exact hs
  · exact foldl_gov _ _ _ hs (fun s c h => by grind [State.endKernel_gov])

theorem State.deliverAt_gov (s : State) (c : CtxId) (role : Nat) (cause : Nat) (code : Nat) (val : W64) (next : Bool) (at_ : Option Pos) (hs : s.Governed) : (State.deliverAt s c role cause code val next at_).Governed := by
  unfold State.deliverAt
  split
  · exact hs
  · simp only
    split
    · rename_i s' he
      have := State.appendRec_gov _ _ _ _ (State.setCtx_gov _ _ _ hs) s' he
      exact this
    · exact State.endDomain_gov _ _ _ (State.setCtx_gov _ _ _ hs)

theorem State.markMulti_gov (s : State) (c : CtxId) (p : Nat) (seq : W32) (hs : s.Governed) : (State.markMulti s c p seq).Governed := by
  unfold State.markMulti
  grind (splits := 20) [State.Governed, EffGov, OutGov, RvGov, State.modTrapQ_gov, State.tryWrite_gov]

theorem State.deliver_gov (s : State) (c : CtxId) (role : Nat) (cause : Nat) (code : Nat) (val : W64) (next : Bool) (hs : s.Governed) : (State.deliver s c role cause code val next).Governed := by
  unfold State.deliver
  grind (splits := 20) [State.Governed, EffGov, OutGov, RvGov, State.deliverAt_gov]

theorem State.raiseLoop_gov (s : State) (w : Who) (excess : Bool) (hs : s.Governed) : (State.raiseLoop s w excess).Governed := by
  unfold State.raiseLoop
  grind (splits := 20) [State.Governed, EffGov, OutGov, RvGov, State.deliver_gov, State.modCtx_gov]

theorem State.raise_gov (s : State) (w : Who) (cause : Nat) (val : W64) (hs : s.Governed) : (State.raise s w cause val).Governed := by
  unfold State.raise
  grind (splits := 20) [State.Governed, EffGov, OutGov, RvGov, State.deliver_gov]

theorem State.tick_gov (s : State) (n : Nat) (hs : s.Governed) : (State.tick s n).Governed := by
  unfold State.tick
  grind (splits := 20) [State.Governed, EffGov, OutGov, RvGov]

theorem State.restale_gov (s : State) (cid : Nat) (hs : s.Governed) : (State.restale s cid).Governed := by
  unfold State.restale
  grind (splits := 20) [State.Governed, EffGov, OutGov, RvGov]

theorem State.applyLog_gov (s : State) (cid : Nat) (hs : s.Governed) : (State.applyLog s cid).Governed := by
  unfold State.applyLog
  grind (splits := 20) [State.Governed, EffGov, OutGov, RvGov, State.modCore_gov, State.restale_gov]

theorem State.raiseRel_gov (s : State) (cid : Nat) (hs : s.Governed) : (State.raiseRel s cid).Governed := by
  unfold State.raiseRel
  grind (splits := 20) [State.Governed, EffGov, OutGov, RvGov, State.modCore_gov]

theorem State.acquireNow_gov (s : State) (cid : Nat) (scope : Nat) (hs : s.Governed) : (State.acquireNow s cid scope).Governed := by
  unfold State.acquireNow
  grind (splits := 20) [State.Governed, EffGov, OutGov, RvGov, State.modCore_gov, State.applyLog_gov]

theorem State.acquire_gov (s : State) (cid : Nat) (scope : Nat) (hs : s.Governed) : (State.acquire s cid scope).Governed := by
  unfold State.acquire
  grind (splits := 20) [State.Governed, EffGov, OutGov, RvGov, State.acquireNow_gov, State.modCore_gov]

theorem State.tightenIf_gov (s : State) (p : Loose → Bool) (scope : Nat) (hs : s.Governed) : (State.tightenIf s p scope).Governed := by
  unfold State.tightenIf
  grind (splits := 20) [State.Governed, EffGov, OutGov, RvGov]

theorem State.tighten_gov (s : State) (c : CtxId) (scope : Nat) (hs : s.Governed) : (State.tighten s c scope).Governed := by
  unfold State.tighten
  grind (splits := 20) [State.Governed, EffGov, OutGov, RvGov, State.tightenIf_gov]

theorem State.release_gov (s : State) (c : CtxId) (scope : Nat) (hs : s.Governed) : (State.release s c scope).Governed := by
  unfold State.release
  grind (splits := 20) [State.Governed, EffGov, OutGov, RvGov, State.raiseRel_gov, State.tighten_gov]

theorem QStop.eff_gov (z0 : QStop) : EffGov (QStop.eff z0) := by
  unfold QStop.eff
  grind (splits := 20) [State.Governed, EffGov, OutGov, RvGov]

theorem Taken.stop_gov (t : Taken) (dst : Option Nat) : ∀ so, Taken.stop t dst = some so → EffGov so := by
  unfold Taken.stop
  grind (splits := 20) [State.Governed, EffGov, OutGov, RvGov, QStop.eff_gov]

theorem withQ_gov (x : Ctx) (q : Nat) (dst : Option Nat) (f : Ctx → List W32 → Eff) (hf : ∀ y0 y1, EffGov (f y0 y1)) : EffGov (withQ x q dst f) := by
  unfold withQ
  grind (splits := 20) [State.Governed, EffGov, OutGov, RvGov, Taken.stop_gov]

theorem State.waitOn_gov (s : State) (w : Who) (k : Wait) (hs : s.Governed) : (State.waitOn s w k).Governed := by
  unfold State.waitOn
  grind (splits := 20) [State.Governed, EffGov, OutGov, RvGov, State.raise_gov, State.modRole_gov]

theorem State.finishRest_gov (s : State) (w : Who) (hs : s.Governed) : (State.finishRest s w).Governed := by
  unfold State.finishRest
  grind (splits := 20) [State.Governed, EffGov, OutGov, RvGov, State.waitOn_gov, State.setCtx_gov]

theorem State.retire_gov (s : State) (w : Who) (t : Rest) (hs : s.Governed) : (State.retire s w t).Governed := by
  unfold State.retire
  grind (splits := 20) [State.Governed, EffGov, OutGov, RvGov, State.finishRest_gov, State.modRole_gov]

theorem State.retireAs_gov (s : State) (w : Who) (t : List Section) (e : Rest) (sp : Option State) (hs : s.Governed) (hsp : ∀ so, sp = some so → so.Governed) : (State.retireAs s w t e sp).Governed := by
  unfold State.retireAs
  grind (splits := 20) [State.Governed, EffGov, OutGov, RvGov, State.retire_gov, State.waitOn_gov]

theorem retireNext_gov (s0 : State) (s1 : State) (w : Who) (t : List Section) (r : RoleSt) (push : BitVec 4) (flight : Option Nat) (a : Bool) (sp : Option State) (hs0 : s0.Governed) (hs1 : s1.Governed) (hsp : ∀ so, sp = some so → so.Governed) : (retireNext s0 s1 w t r push flight a sp).Governed := by
  unfold retireNext
  grind (splits := 20) [State.Governed, EffGov, OutGov, RvGov, State.raise_gov, State.retireAs_gov]

theorem retireTo_gov (s0 : State) (s1 : State) (w : Who) (t : List Section) (r : RoleSt) (push : BitVec 4) (dest : Pos) (call : Bool) (ret : Bool) (a : Bool) (sp : Option State) (hs0 : s0.Governed) (hs1 : s1.Governed) (hsp : ∀ so, sp = some so → so.Governed) : (retireTo s0 s1 w t r push dest call ret a sp).Governed := by
  unfold retireTo
  grind (splits := 20) [State.Governed, EffGov, OutGov, RvGov, State.raise_gov, State.retireAs_gov]

theorem tryFailed_gov (s0 : State) (s1 : State) (w : Who) (t : List Section) (r : RoleSt) (tp : Nat) (a : Bool) (whole : Bool) (hs0 : s0.Governed) (hs1 : s1.Governed) : (tryFailed s0 s1 w t r tp a whole).Governed := by
  unfold tryFailed
  grind (splits := 20) [State.Governed, EffGov, OutGov, RvGov, retireNext_gov, State.setP_gov]

theorem runTail_gov (f : Frame) (a : Bool) (w : Who) (t : List Section) (r : RoleSt) (s0 : State) (s1 : State) (x : Ctx) (e : Eff) (hs0 : s0.Governed) (hs1 : s1.Governed) (he : EffGov e) : (runTail f a w t r s0 s1 x e).Governed := by
  unfold runTail
  grind (splits := 20) [State.Governed, EffGov, OutGov, RvGov, State.setP_gov, State.raise_gov, State.raiseLoop_gov, tryFailed_gov, State.applyLog_gov, retireNext_gov, State.waitOn_gov, retireTo_gov, State.retireAs_gov, State.deliver_gov, State.modWindow_gov]

theorem State.popped_gov (s : State) (f : Frame) (w : Who) (x : Ctx) (hs : s.Governed) : (State.popped s f w x).Governed := by
  unfold State.popped
  grind (splits := 20) [State.Governed, EffGov, OutGov, RvGov, State.setCtx_gov, State.acquire_gov]

theorem runRole_gov (i : Instr) (f : Frame) (e : Effect) (w : Who) (x : Ctx) (s : State) (he : ∀ w x s, s.Governed → EffGov (e w x s)) (hs : s.Governed) : (runRole i f e w x s).Governed := by
  unfold runRole
  grind (splits := 20) [State.Governed, EffGov, OutGov, RvGov, State.waitOn_gov, retireNext_gov, State.raise_gov, tryFailed_gov, State.popped_gov, runTail_gov]

theorem runWord_gov (i : Instr) (f : Frame) (e : Effect) (s : State) (he : ∀ w x s, s.Governed → EffGov (e w x s)) (hs : s.Governed) : OutGov (runWord i f e s) := by
  unfold runWord
  grind (splits := 20) [State.Governed, EffGov, OutGov, RvGov, runRole_gov]

theorem runS_gov (i : Instr) (w : WordS) (e : Effect) (s : State) (he : ∀ w x s, s.Governed → EffGov (e w x s)) (hs : s.Governed) : OutGov (runS i w e s) := by
  unfold runS
  grind (splits := 20) [State.Governed, EffGov, OutGov, RvGov, runWord_gov]

theorem runTryS_gov (i : Instr) (w : WordS) (e : Effect) (s : State) (he : ∀ w x s, s.Governed → EffGov (e w x s)) (hs : s.Governed) : OutGov (runTryS i w e s) := by
  unfold runTryS
  grind (splits := 20) [State.Governed, EffGov, OutGov, RvGov, runWord_gov]

theorem runB_gov (i : Instr) (w : WordB) (e : Effect) (s : State) (he : ∀ w x s, s.Governed → EffGov (e w x s)) (hs : s.Governed) : OutGov (runB i w e s) := by
  unfold runB
  grind (splits := 20) [State.Governed, EffGov, OutGov, RvGov, runWord_gov]

theorem runV_gov (i : Instr) (w : WordV) (e : Effect) (s : State) (he : ∀ w x s, s.Governed → EffGov (e w x s)) (hs : s.Governed) : OutGov (runV i w e s) := by
  unfold runV
  grind (splits := 20) [State.Governed, EffGov, OutGov, RvGov, runWord_gov]

theorem runM_gov (i : Instr) (w : WordM) (e : Effect) (s : State) (he : ∀ w x s, s.Governed → EffGov (e w x s)) (hs : s.Governed) : OutGov (runM i w e s) := by
  unfold runM
  grind (splits := 20) [State.Governed, EffGov, OutGov, RvGov, runWord_gov]

theorem runWholeM_gov (i : Instr) (w : WordM) (e : Effect) (s : State) (he : ∀ w x s, s.Governed → EffGov (e w x s)) (hs : s.Governed) : OutGov (runWholeM i w e s) := by
  unfold runWholeM
  grind (splits := 20) [State.Governed, EffGov, OutGov, RvGov, runWord_gov]

theorem runTryM_gov (i : Instr) (w : WordM) (e : Effect) (s : State) (he : ∀ w x s, s.Governed → EffGov (e w x s)) (hs : s.Governed) : OutGov (runTryM i w e s) := by
  unfold runTryM
  grind (splits := 20) [State.Governed, EffGov, OutGov, RvGov, runWord_gov]

theorem runX_gov (i : Instr) (w : WordX) (e : Effect) (s : State) (he : ∀ w x s, s.Governed → EffGov (e w x s)) (hs : s.Governed) : OutGov (runX i w e s) := by
  unfold runX
  grind (splits := 20) [State.Governed, EffGov, OutGov, RvGov, runWord_gov]

theorem runTryX_gov (i : Instr) (w : WordX) (e : Effect) (s : State) (he : ∀ w x s, s.Governed → EffGov (e w x s)) (hs : s.Governed) : OutGov (runTryX i w e s) := by
  unfold runTryX
  grind (splits := 20) [State.Governed, EffGov, OutGov, RvGov, runWord_gov]

theorem runP_gov (i : Instr) (w : WordX) (e : Effect) (s : State) (he : ∀ w x s, s.Governed → EffGov (e w x s)) (hs : s.Governed) : OutGov (runP i w e s) := by
  unfold runP
  grind (splits := 20) [State.Governed, EffGov, OutGov, RvGov, runWord_gov]

theorem State.furtherFault_gov (s : State) (w : Who) (run : State → State) (hs : s.Governed) (hrun : ∀ y0, y0.Governed → (run y0).Governed) : (State.furtherFault s w run).Governed := by
  unfold State.furtherFault
  grind (splits := 20) [State.Governed, EffGov, OutGov, RvGov, State.markMulti_gov, State.setCtx_gov]

theorem putD_gov (w : Who) (s : State) (d : BitVec 6) (v : W64) (hs : s.Governed) : EffGov (putD w s d v) := by
  unfold putD
  grind (splits := 20) [State.Governed, EffGov, OutGov, RvGov, State.setS_gov]

theorem effS2_gov (v : WordS) (f : W64 → W64 → W64) : ∀ w x s, s.Governed → EffGov (effS2 v f w x s) := by
  unfold effS2
  grind (splits := 20) [State.Governed, EffGov, OutGov, RvGov, putD_gov]

theorem effS1_gov (v : WordS) (f : W64 → W64) : ∀ w x s, s.Governed → EffGov (effS1 v f w x s) := by
  unfold effS1
  grind (splits := 20) [State.Governed, EffGov, OutGov, RvGov, putD_gov]

theorem effArith_gov (v : WordS) (f : Int → Int → Int) : ∀ w x s, s.Governed → EffGov (effArith v f w x s) := by
  unfold effArith
  grind (splits := 20) [State.Governed, EffGov, OutGov, RvGov, State.orFlags_gov, State.setS_gov]

theorem effShift_gov (v : WordS) (f : W64 → Nat → W64) (g : W32 → Nat → W32) : ∀ w x s, s.Governed → EffGov (effShift v f g w x s) := by
  unfold effShift
  grind (splits := 20) [State.Governed, EffGov, OutGov, RvGov, putD_gov]

theorem execAdd_gov (v : WordS) (s : State) (hs : s.Governed) : OutGov (execAdd v s) := by
  unfold execAdd
  grind (splits := 20) [State.Governed, EffGov, OutGov, RvGov, runS_gov, effArith_gov]

theorem execSub_gov (v : WordS) (s : State) (hs : s.Governed) : OutGov (execSub v s) := by
  unfold execSub
  grind (splits := 20) [State.Governed, EffGov, OutGov, RvGov, runS_gov, effArith_gov]

theorem execMul_gov (v : WordS) (s : State) (hs : s.Governed) : OutGov (execMul v s) := by
  unfold execMul
  grind (splits := 20) [State.Governed, EffGov, OutGov, RvGov, runS_gov, effArith_gov]

theorem execMulh_gov (v : WordS) (s : State) (hs : s.Governed) : OutGov (execMulh v s) := by
  unfold execMulh
  grind (splits := 20) [State.Governed, EffGov, OutGov, RvGov, runS_gov, effS2_gov]

theorem execMulhn_gov (v : WordS) (s : State) (hs : s.Governed) : OutGov (execMulhn v s) := by
  unfold execMulhn
  grind (splits := 20) [State.Governed, EffGov, OutGov, RvGov, runS_gov, effS2_gov]

theorem execDiv_gov (v : WordS) (s : State) (hs : s.Governed) : OutGov (execDiv v s) := by
  unfold execDiv
  grind (splits := 20) [State.Governed, EffGov, OutGov, RvGov, runS_gov, effS2_gov]

theorem execDivn_gov (v : WordS) (s : State) (hs : s.Governed) : OutGov (execDivn v s) := by
  unfold execDivn
  grind (splits := 20) [State.Governed, EffGov, OutGov, RvGov, runS_gov, effS2_gov]

theorem execRem_gov (v : WordS) (s : State) (hs : s.Governed) : OutGov (execRem v s) := by
  unfold execRem
  grind (splits := 20) [State.Governed, EffGov, OutGov, RvGov, runS_gov, effS2_gov]

theorem execRemn_gov (v : WordS) (s : State) (hs : s.Governed) : OutGov (execRemn v s) := by
  unfold execRemn
  grind (splits := 20) [State.Governed, EffGov, OutGov, RvGov, runS_gov, effS2_gov]

theorem execAnd_gov (v : WordS) (s : State) (hs : s.Governed) : OutGov (execAnd v s) := by
  unfold execAnd
  grind (splits := 20) [State.Governed, EffGov, OutGov, RvGov, runS_gov, effS2_gov]

theorem execOr_gov (v : WordS) (s : State) (hs : s.Governed) : OutGov (execOr v s) := by
  unfold execOr
  grind (splits := 20) [State.Governed, EffGov, OutGov, RvGov, runS_gov, effS2_gov]

theorem execXor_gov (v : WordS) (s : State) (hs : s.Governed) : OutGov (execXor v s) := by
  unfold execXor
  grind (splits := 20) [State.Governed, EffGov, OutGov, RvGov, runS_gov, effS2_gov]

theorem execAndn_gov (v : WordS) (s : State) (hs : s.Governed) : OutGov (execAndn v s) := by
  unfold execAndn
  grind (splits := 20) [State.Governed, EffGov, OutGov, RvGov, runS_gov, effS2_gov]

theorem execOrn_gov (v : WordS) (s : State) (hs : s.Governed) : OutGov (execOrn v s) := by
  unfold execOrn
  grind (splits := 20) [State.Governed, EffGov, OutGov, RvGov, runS_gov, effS2_gov]

theorem execShl_gov (v : WordS) (s : State) (hs : s.Governed) : OutGov (execShl v s) := by
  unfold execShl
  grind (splits := 20) [State.Governed, EffGov, OutGov, RvGov, runS_gov, effShift_gov]

theorem execShr_gov (v : WordS) (s : State) (hs : s.Governed) : OutGov (execShr v s) := by
  unfold execShr
  grind (splits := 20) [State.Governed, EffGov, OutGov, RvGov, runS_gov, effShift_gov]

theorem execSra_gov (v : WordS) (s : State) (hs : s.Governed) : OutGov (execSra v s) := by
  unfold execSra
  grind (splits := 20) [State.Governed, EffGov, OutGov, RvGov, runS_gov, effShift_gov]

theorem execRotl_gov (v : WordS) (s : State) (hs : s.Governed) : OutGov (execRotl v s) := by
  unfold execRotl
  grind (splits := 20) [State.Governed, EffGov, OutGov, RvGov, runS_gov, effShift_gov]

theorem execMin_gov (v : WordS) (s : State) (hs : s.Governed) : OutGov (execMin v s) := by
  unfold execMin
  grind (splits := 20) [State.Governed, EffGov, OutGov, RvGov, runS_gov, effS2_gov]

theorem execMax_gov (v : WordS) (s : State) (hs : s.Governed) : OutGov (execMax v s) := by
  unfold execMax
  grind (splits := 20) [State.Governed, EffGov, OutGov, RvGov, runS_gov, effS2_gov]

theorem execMinn_gov (v : WordS) (s : State) (hs : s.Governed) : OutGov (execMinn v s) := by
  unfold execMinn
  grind (splits := 20) [State.Governed, EffGov, OutGov, RvGov, runS_gov, effS2_gov]

theorem execMaxn_gov (v : WordS) (s : State) (hs : s.Governed) : OutGov (execMaxn v s) := by
  unfold execMaxn
  grind (splits := 20) [State.Governed, EffGov, OutGov, RvGov, runS_gov, effS2_gov]

theorem execClz_gov (v : WordS) (s : State) (hs : s.Governed) : OutGov (execClz v s) := by
  unfold execClz
  grind (splits := 20) [State.Governed, EffGov, OutGov, RvGov, runS_gov, effS1_gov]

theorem execCtz_gov (v : WordS) (s : State) (hs : s.Governed) : OutGov (execCtz v s) := by
  unfold execCtz
  grind (splits := 20) [State.Governed, EffGov, OutGov, RvGov, runS_gov, effS1_gov]

theorem execPopc_gov (v : WordS) (s : State) (hs : s.Governed) : OutGov (execPopc v s) := by
  unfold execPopc
  grind (splits := 20) [State.Governed, EffGov, OutGov, RvGov, runS_gov, effS1_gov]

theorem execBrev_gov (v : WordS) (s : State) (hs : s.Governed) : OutGov (execBrev v s) := by
  unfold execBrev
  grind (splits := 20) [State.Governed, EffGov, OutGov, RvGov, runS_gov, effS1_gov]

theorem execBswap_gov (v : WordS) (s : State) (hs : s.Governed) : OutGov (execBswap v s) := by
  unfold execBswap
  grind (splits := 20) [State.Governed, EffGov, OutGov, RvGov, runS_gov, effS1_gov]

theorem execSext_gov (v : WordS) (s : State) (hs : s.Governed) : OutGov (execSext v s) := by
  unfold execSext
  grind (splits := 20) [State.Governed, EffGov, OutGov, RvGov, runS_gov, effS1_gov]

theorem execZext_gov (v : WordS) (s : State) (hs : s.Governed) : OutGov (execZext v s) := by
  unfold execZext
  grind (splits := 20) [State.Governed, EffGov, OutGov, RvGov, runS_gov, effS1_gov]

theorem execBfx_gov (v : WordS) (s : State) (hs : s.Governed) : OutGov (execBfx v s) := by
  unfold execBfx
  grind (splits := 20) [State.Governed, EffGov, OutGov, RvGov, runS_gov, effS1_gov]

theorem execBfi_gov (v : WordS) (s : State) (hs : s.Governed) : OutGov (execBfi v s) := by
  unfold execBfi
  grind (splits := 20) [State.Governed, EffGov, OutGov, RvGov, runS_gov, effS2_gov]

theorem execSel_gov (v : WordS) (s : State) (hs : s.Governed) : OutGov (execSel v s) := by
  unfold execSel
  grind (splits := 20) [State.Governed, EffGov, OutGov, RvGov, runS_gov, putD_gov]

theorem execLim_gov (v : WordS) (s : State) (hs : s.Governed) : OutGov (execLim v s) := by
  unfold execLim
  grind (splits := 20) [State.Governed, EffGov, OutGov, RvGov, runS_gov, putD_gov]

theorem execLimh_gov (v : WordS) (s : State) (hs : s.Governed) : OutGov (execLimh v s) := by
  unfold execLimh
  grind (splits := 20) [State.Governed, EffGov, OutGov, RvGov, runS_gov, effS1_gov]

theorem execLea_gov (v : WordS) (s : State) (hs : s.Governed) : OutGov (execLea v s) := by
  unfold execLea
  grind (splits := 20) [State.Governed, EffGov, OutGov, RvGov, runS_gov, effS2_gov]

theorem putBool_gov (w : Who) (s : State) (d : BitVec 6) (b : Bool) (hs : s.Governed) : EffGov (putBool w s d b) := by
  unfold putBool
  grind (splits := 20) [State.Governed, EffGov, OutGov, RvGov, State.setP_gov, putD_gov]

theorem execCmp_gov (v : WordS) (s : State) (hs : s.Governed) : OutGov (execCmp v s) := by
  unfold execCmp
  grind (splits := 20) [State.Governed, EffGov, OutGov, RvGov, runS_gov, putBool_gov]

theorem execPlog_gov (v : WordS) (s : State) (hs : s.Governed) : OutGov (execPlog v s) := by
  unfold execPlog
  grind (splits := 20) [State.Governed, EffGov, OutGov, RvGov, runS_gov, putBool_gov]

theorem execPmov_gov (v : WordS) (s : State) (hs : s.Governed) : OutGov (execPmov v s) := by
  unfold execPmov
  grind (splits := 20) [State.Governed, EffGov, OutGov, RvGov, runS_gov, putD_gov, State.modRole_gov, State.setP_gov]

theorem execMfs_gov (v : WordS) (s : State) (hs : s.Governed) : OutGov (execMfs v s) := by
  unfold execMfs
  grind (splits := 20) [State.Governed, EffGov, OutGov, RvGov, runS_gov, putD_gov]

theorem execMts_gov (v : WordS) (s : State) (hs : s.Governed) : OutGov (execMts v s) := by
  unfold execMts
  grind (splits := 20) [State.Governed, EffGov, OutGov, RvGov, runS_gov, State.setCtx_gov]

theorem State.sendFlight_gov (s : State) (c : CtxId) (key : W16) (f : Flight) (hs : s.Governed) : (State.sendFlight s c key f).Governed := by
  unfold State.sendFlight
  grind (splits := 20) [State.Governed, EffGov, OutGov, RvGov]

theorem State.addFlight_gov (s : State) (w : Who) (x : Ctx) (f : Flight) (hs : s.Governed) : (State.addFlight s w x f).Governed := by
  unfold State.addFlight
  grind (splits := 20) [State.Governed, EffGov, OutGov, RvGov, State.sendFlight_gov, State.setCtx_gov]

theorem State.issuedLoad_gov (s : State) (w : Who) (f : Flight) (hs : s.Governed) : (State.issuedLoad s w f).Governed := by
  unfold State.issuedLoad
  grind (splits := 20) [State.Governed, EffGov, OutGov, RvGov, State.acquireNow_gov]

theorem effLoad_gov (sp : Space) (v : WordM) : ∀ w x s, s.Governed → EffGov (effLoad sp v w x s) := by
  unfold effLoad
  grind (splits := 20) [State.Governed, EffGov, OutGov, RvGov, Taken.stop_gov, State.issuedLoad_gov, State.addFlight_gov]

theorem State.addStore_gov (s : State) (w : Who) (x : Ctx) (v : WordM) (p : Place) (va : Nat) (data : List Byte) (more : List (Nat × List Byte)) (k : Bool) (hs : s.Governed) : (State.addStore s w x v p va data more k).Governed := by
  unfold State.addStore
  grind (splits := 20) [State.Governed, EffGov, OutGov, RvGov, State.modCore_gov, State.setCtx_gov]

theorem effStore_gov (sp : Space) (v : WordM) : ∀ w x s, s.Governed → EffGov (effStore sp v w x s) := by
  unfold effStore
  grind (splits := 20) [State.Governed, EffGov, OutGov, RvGov, withQ_gov, State.addStore_gov]

theorem execLdl_gov (v : WordM) (s : State) (hs : s.Governed) : OutGov (execLdl v s) := by
  unfold execLdl
  grind (splits := 20) [State.Governed, EffGov, OutGov, RvGov, runM_gov, effLoad_gov]

theorem execStl_gov (v : WordM) (s : State) (hs : s.Governed) : OutGov (execStl v s) := by
  unfold execStl
  grind (splits := 20) [State.Governed, EffGov, OutGov, RvGov, runM_gov, effStore_gov]

theorem execLdk_gov (v : WordM) (s : State) (hs : s.Governed) : OutGov (execLdk v s) := by
  unfold execLdk
  grind (splits := 20) [State.Governed, EffGov, OutGov, RvGov, runM_gov, effLoad_gov]

theorem execStk_gov (v : WordM) (s : State) (hs : s.Governed) : OutGov (execStk v s) := by
  unfold execStk
  grind (splits := 20) [State.Governed, EffGov, OutGov, RvGov, runM_gov, effStore_gov]

theorem execLdg_gov (v : WordM) (s : State) (hs : s.Governed) : OutGov (execLdg v s) := by
  unfold execLdg
  grind (splits := 20) [State.Governed, EffGov, OutGov, RvGov, runM_gov, effLoad_gov]

theorem execStg_gov (v : WordM) (s : State) (hs : s.Governed) : OutGov (execStg v s) := by
  unfold execStg
  grind (splits := 20) [State.Governed, EffGov, OutGov, RvGov, runM_gov, effStore_gov]

theorem execLdf_gov (v : WordM) (s : State) (hs : s.Governed) : OutGov (execLdf v s) := by
  unfold execLdf
  grind (splits := 20) [State.Governed, EffGov, OutGov, RvGov, runM_gov, effLoad_gov]

theorem execStf_gov (v : WordM) (s : State) (hs : s.Governed) : OutGov (execStf v s) := by
  unfold execStf
  grind (splits := 20) [State.Governed, EffGov, OutGov, RvGov, runM_gov, effStore_gov]

theorem execLdo_gov (v : WordM) (s : State) (hs : s.Governed) : OutGov (execLdo v s) := by
  unfold execLdo
  grind (splits := 20) [State.Governed, EffGov, OutGov, RvGov, runM_gov, effLoad_gov]

theorem execSto_gov (v : WordM) (s : State) (hs : s.Governed) : OutGov (execSto v s) := by
  unfold execSto
  grind (splits := 20) [State.Governed, EffGov, OutGov, RvGov, runM_gov, effStore_gov]

theorem execLdh_gov (v : WordM) (s : State) (hs : s.Governed) : OutGov (execLdh v s) := by
  unfold execLdh
  grind (splits := 20) [State.Governed, EffGov, OutGov, RvGov, runM_gov, effLoad_gov]

theorem execSth_gov (v : WordM) (s : State) (hs : s.Governed) : OutGov (execSth v s) := by
  unfold execSth
  grind (splits := 20) [State.Governed, EffGov, OutGov, RvGov, runM_gov, effStore_gov]

theorem laneFault_gov (x : Ctx) (size : Nat) (l : List W64) : ∀ so, laneFault x size l = some so → EffGov so := by
  unfold laneFault
  grind (splits := 20) [State.Governed, EffGov, OutGov, RvGov]

theorem effLdlx_gov (v : WordM) : ∀ w x s, s.Governed → EffGov (effLdlx v w x s) := by
  unfold effLdlx
  grind (splits := 20) [State.Governed, EffGov, OutGov, RvGov, Taken.stop_gov, laneFault_gov, State.addFlight_gov]

theorem effStlx_gov (v : WordM) : ∀ w x s, s.Governed → EffGov (effStlx v w x s) := by
  unfold effStlx
  grind (splits := 20) [State.Governed, EffGov, OutGov, RvGov, Taken.stop_gov, laneFault_gov, State.addStore_gov]

theorem execLdlx_gov (v : WordM) (s : State) (hs : s.Governed) : OutGov (execLdlx v s) := by
  unfold execLdlx
  grind (splits := 20) [State.Governed, EffGov, OutGov, RvGov, runM_gov, effLdlx_gov]

theorem execStlx_gov (v : WordM) (s : State) (hs : s.Governed) : OutGov (execStlx v s) := by
  unfold execStlx
  grind (splits := 20) [State.Governed, EffGov, OutGov, RvGov, runM_gov, effStlx_gov]

theorem State.fillLine_gov (s : State) (cid : Nat) (pa : Nat) (stream : Bool) (hs : s.Governed) : (State.fillLine s cid pa stream).Governed := by
  unfold State.fillLine
  grind (splits := 20) [State.Governed, EffGov, OutGov, RvGov, State.modCore_gov]

theorem effPfg_gov (v : WordM) : ∀ w x s, s.Governed → EffGov (effPfg v w x s) := by
  intro w x s hs
  unfold effPfg
  simp only
  repeat' split
  all_goals first
    | exact hs
    | exact foldl_gov _ _ _ (State.keepLeaf_gov _ _ _ _ hs) (fun s i h => by grind [State.fillLine_gov])

theorem execPfg_gov (v : WordM) (s : State) (hs : s.Governed) : OutGov (execPfg v s) := by
  unfold execPfg
  grind (splits := 20) [State.Governed, EffGov, OutGov, RvGov, runM_gov, effPfg_gov]

theorem effAtomic_gov (sp : Space) (v : WordM) : ∀ w x s, s.Governed → EffGov (effAtomic sp v w x s) := by
  unfold effAtomic
  grind (splits := 20) [State.Governed, EffGov, OutGov, RvGov, State.addFlight_gov]

theorem runAtomic_gov (i : Instr) (v : WordM) (sp : Space) (s : State) (hs : s.Governed) : OutGov (runAtomic i v sp s) := by
  unfold runAtomic
  grind (splits := 20) [State.Governed, EffGov, OutGov, RvGov, runWord_gov, effAtomic_gov]

theorem execAtl_gov (v : WordM) (s : State) (hs : s.Governed) : OutGov (execAtl v s) := by
  unfold execAtl
  grind (splits := 20) [State.Governed, EffGov, OutGov, RvGov, runAtomic_gov]

theorem execAtk_gov (v : WordM) (s : State) (hs : s.Governed) : OutGov (execAtk v s) := by
  unfold execAtk
  grind (splits := 20) [State.Governed, EffGov, OutGov, RvGov, runAtomic_gov]

theorem execAtg_gov (v : WordM) (s : State) (hs : s.Governed) : OutGov (execAtg v s) := by
  unfold execAtg
  grind (splits := 20) [State.Governed, EffGov, OutGov, RvGov, runAtomic_gov]

theorem execAtf_gov (v : WordM) (s : State) (hs : s.Governed) : OutGov (execAtf v s) := by
  unfold execAtf
  grind (splits := 20) [State.Governed, EffGov, OutGov, RvGov, runAtomic_gov]

theorem effFence_gov (v : WordM) : ∀ w x s, s.Governed → EffGov (effFence v w x s) := by
  unfold effFence
  grind (splits := 20) [State.Governed, EffGov, OutGov, RvGov, State.release_gov, State.acquire_gov]

theorem execFence_gov (v : WordM) (s : State) (hs : s.Governed) : OutGov (execFence v s) := by
  unfold execFence
  grind (splits := 20) [State.Governed, EffGov, OutGov, RvGov, runM_gov, effFence_gov]

theorem execQcnt_gov (v : WordM) (s : State) (hs : s.Governed) : OutGov (execQcnt v s) := by
  unfold execQcnt
  grind (splits := 20) [State.Governed, EffGov, OutGov, RvGov, runM_gov, putD_gov]

theorem execQclr_gov (v : WordM) (s : State) (hs : s.Governed) : OutGov (execQclr v s) := by
  unfold execQclr
  grind (splits := 20) [State.Governed, EffGov, OutGov, RvGov, runM_gov, State.setCtx_gov]

theorem execQbnd_gov (v : WordM) (s : State) (hs : s.Governed) : OutGov (execQbnd v s) := by
  unfold execQbnd
  grind (splits := 20) [State.Governed, EffGov, OutGov, RvGov, runM_gov, State.setCtx_gov]

theorem execTktry_gov (v : WordM) (s : State) (hs : s.Governed) : OutGov (execTktry v s) := by
  unfold execTktry
  grind (splits := 20) [State.Governed, EffGov, OutGov, RvGov, runM_gov, State.setP_gov, State.setCtx_gov, State.acquire_gov]

theorem object_gov (s : State) (w : Who) (x : Ctx) (v : WordM) (n : Nat) (bad : Option W64) (hs : s.Governed) : ∀ eo, object s w x v n bad = .stop eo → EffGov eo := by
  unfold object
  grind (splits := 20) [State.Governed, EffGov, OutGov, RvGov]

theorem State.setA_gov (s : State) (c : CtxId) (m : Mem) (hs : s.Governed) : (State.setA s c m).Governed := by
  unfold State.setA
  grind (splits := 20) [State.Governed, EffGov, OutGov, RvGov, State.modCtx_gov]

theorem effCbini_gov (v : WordM) : ∀ w x s, s.Governed → EffGov (effCbini v w x s) := by
  unfold effCbini
  grind (splits := 20) [State.Governed, EffGov, OutGov, RvGov, object_gov, State.setA_gov]

theorem cbOp_gov (v : WordM) (f : Who →   CtxId →     Nat → Ctx → CBlock → Nat → State → Eff) (hf : ∀ y0 y1 y2 y3 y4 y5 y6, y6.Governed → EffGov (f y0 y1 y2 y3 y4 y5 y6)) : ∀ w x s, s.Governed → EffGov (cbOp v f w x s) := by
  intro w x s hs
  unfold cbOp
  simp only
  split
  · exact object_gov _ _ _ _ _ _ hs _ ‹_›
  · repeat' split
    · exact trivial
    · exact trivial
    · exact hf _ _ _ _ _ _ _ hs

theorem execCbini_gov (v : WordM) (s : State) (hs : s.Governed) : OutGov (execCbini v s) := by
  unfold execCbini
  grind (splits := 20) [State.Governed, EffGov, OutGov, RvGov, runM_gov, effCbini_gov]

theorem execCbclm_gov (v : WordM) (s : State) (hs : s.Governed) : OutGov (execCbclm v s) := by
  refine runTryM_gov _ _ _ _ (cbOp_gov _ _ (fun w c o y b n s h => ?_)) hs
  try simp only
  repeat' split
  all_goals first
    | exact trivial
    | repeat' (first | exact h | apply State.setP_gov | apply State.setS_gov | apply State.acquire_gov | apply State.setA_gov)

theorem execCbtak_gov (v : WordM) (s : State) (hs : s.Governed) : OutGov (execCbtak v s) := by
  refine runTryM_gov _ _ _ _ (cbOp_gov _ _ (fun w c o y b n s h => ?_)) hs
  try simp only
  repeat' split
  all_goals first
    | exact trivial
    | repeat' (first | exact h | apply State.setP_gov | apply State.setS_gov | apply State.acquire_gov | apply State.setA_gov)

theorem cbRelease_gov (v : WordM) (f : Who →   CtxId →     Nat → Ctx → CBlock → Nat → State → Eff) (hf : ∀ y0 y1 y2 y3 y4 y5 y6, y6.Governed → EffGov (f y0 y1 y2 y3 y4 y5 y6)) : ∀ w x s, s.Governed → EffGov (cbRelease v f w x s) := by
  unfold cbRelease
  refine cbOp_gov _ _ (fun w c o y b n s hs => ?_)
  split
  · split
    · exact trivial
    · exact hf _ _ _ _ _ _ _ hs
  · exact hf _ _ _ _ _ _ _ hs

theorem execCbpub_gov (v : WordM) (s : State) (hs : s.Governed) : OutGov (execCbpub v s) := by
  refine runM_gov _ _ _ _ (cbRelease_gov _ _ (fun w c o y b n s h => ?_)) hs
  try simp only
  repeat' split
  all_goals first
    | exact trivial
    | repeat' (first | exact h | apply State.setP_gov | apply State.setS_gov | apply State.acquire_gov | apply State.setA_gov)

theorem execCbrel_gov (v : WordM) (s : State) (hs : s.Governed) : OutGov (execCbrel v s) := by
  refine runM_gov _ _ _ _ (cbRelease_gov _ _ (fun w c o y b n s h => ?_)) hs
  try simp only
  repeat' split
  all_goals first
    | exact trivial
    | repeat' (first | exact h | apply State.setP_gov | apply State.setS_gov | apply State.acquire_gov | apply State.setA_gov)

theorem dqOp_gov (v : WordM) (f : Who →   Ctx →     CtxId →       Nat → Ctx → DBlock → State → Eff) (hf : ∀ y0 y1 y2 y3 y4 y5 y6, y6.Governed → EffGov (f y0 y1 y2 y3 y4 y5 y6)) : ∀ w x s, s.Governed → EffGov (dqOp v f w x s) := by
  intro w x s hs
  unfold dqOp
  split
  · exact object_gov _ _ _ _ _ _ hs _ ‹_›
  · simp only
    split
    · exact trivial
    · exact hf _ _ _ _ _ _ _ hs

theorem effDqini_gov (v : WordM) : ∀ w x s, s.Governed → EffGov (effDqini v w x s) := by
  unfold effDqini
  grind (splits := 20) [State.Governed, EffGov, OutGov, RvGov, object_gov, State.setA_gov]

theorem execDqini_gov (v : WordM) (s : State) (hs : s.Governed) : OutGov (execDqini v s) := by
  unfold execDqini
  grind (splits := 20) [State.Governed, EffGov, OutGov, RvGov, runM_gov, effDqini_gov]

theorem execDqpsh_gov (v : WordM) (s : State) (hs : s.Governed) : OutGov (execDqpsh v s) := by
  refine runTryM_gov _ _ _ _ (dqOp_gov _ _ (fun w x c o y b s h => ?_)) hs
  try simp only
  repeat' split
  all_goals first
    | exact trivial
    | repeat' (first | exact h | apply State.setP_gov | apply State.setS_gov | apply State.acquire_gov | apply State.setA_gov)

theorem execDqpop_gov (v : WordM) (s : State) (hs : s.Governed) : OutGov (execDqpop v s) := by
  refine runM_gov _ _ _ _ (dqOp_gov _ _ (fun w x c o y b s h => ?_)) hs
  try simp only
  repeat' split
  all_goals first
    | exact trivial
    | repeat' (first | exact h | apply State.setP_gov | apply State.setS_gov | apply State.acquire_gov | apply State.setA_gov)

theorem execDqstl_gov (v : WordM) (s : State) (hs : s.Governed) : OutGov (execDqstl v s) := by
  refine runM_gov _ _ _ _ (dqOp_gov _ _ (fun w x c o y b s h => ?_)) hs
  try simp only
  repeat' split
  all_goals first
    | exact trivial
    | repeat' (first | exact h | apply State.setP_gov | apply State.setS_gov | apply State.acquire_gov | apply State.setA_gov)

theorem arrive_gov (w : Who) (x : Ctx) (e : Nat) (s : State) (k : Ctx → Eff) (hs : s.Governed) (hk : ∀ y0, EffGov (k y0)) : EffGov (arrive w x e s k) := by
  unfold arrive
  grind (splits := 20) [State.Governed, EffGov, OutGov, RvGov]

theorem awaitRelease_gov (w : Who) (x : Ctx) (v : WordM) (e : Nat) (s : State) (hs : s.Governed) : EffGov (awaitRelease w x v e s) := by
  unfold awaitRelease
  grind (splits := 20) [State.Governed, EffGov, OutGov, RvGov, State.setS_gov, State.acquire_gov]

theorem execBara_gov (v : WordM) (s : State) (hs : s.Governed) : OutGov (execBara v s) := by
  unfold execBara
  grind (splits := 20) [State.Governed, EffGov, OutGov, RvGov, runTryM_gov, arrive_gov, State.release_gov, State.setCtx_gov]

theorem execBarw_gov (v : WordM) (s : State) (hs : s.Governed) : OutGov (execBarw v s) := by
  unfold execBarw
  grind (splits := 20) [State.Governed, EffGov, OutGov, RvGov, runTryM_gov, awaitRelease_gov]

theorem execBar_gov (v : WordM) (s : State) (hs : s.Governed) : OutGov (execBar v s) := by
  unfold execBar
  grind (splits := 20) [State.Governed, EffGov, OutGov, RvGov, runM_gov, awaitRelease_gov, arrive_gov, State.release_gov, State.setCtx_gov]

theorem execBidb_gov (v : WordM) (s : State) (hs : s.Governed) : OutGov (execBidb v s) := by
  unfold execBidb
  grind (splits := 20) [State.Governed, EffGov, OutGov, RvGov, runWholeM_gov, State.setCtx_gov]

theorem execBida_gov (v : WordM) (s : State) (hs : s.Governed) : OutGov (execBida v s) := by
  unfold execBida
  grind (splits := 20) [State.Governed, EffGov, OutGov, RvGov, runWholeM_gov, State.setCtx_gov]

theorem State.phasePass_gov (s : State) (c : CtxId) (hs : s.Governed) : (State.phasePass s c).Governed := by
  unfold State.phasePass
  split
  · exact hs
  · exact foldl_gov _ _ _ (State.acquireNow_gov _ _ _ (State.tightenIf_gov _ _ _ (State.setCtx_gov _ _ _ hs)))
      (fun s r h => retireNext_gov _ _ _ _ _ _ _ _ none h h (by simp))

theorem effPhase_gov : ∀ w x s, s.Governed → EffGov (effPhase w x s) := by
  unfold effPhase
  grind (splits := 20) [State.Governed, EffGov, OutGov, RvGov, State.phasePass_gov, State.setCtx_gov]

theorem execPhase_gov (v : WordM) (s : State) (hs : s.Governed) : OutGov (execPhase v s) := by
  unfold execPhase
  grind (splits := 20) [State.Governed, EffGov, OutGov, RvGov, runWord_gov, effPhase_gov]

theorem State.setLists_gov (s : State) (x : Ctx) (l : WorkLists) (hs : s.Governed) : (State.setLists s x l).Governed := by
  unfold State.setLists
  grind (splits := 20) [State.Governed, EffGov, OutGov, RvGov, State.modKernel_gov]

theorem effWlapp_gov (v : WordM) : ∀ w x s, s.Governed → EffGov (effWlapp v w x s) := by
  unfold effWlapp
  grind (splits := 20) [State.Governed, EffGov, OutGov, RvGov, Taken.stop_gov, State.release_gov, State.setLists_gov, State.setCtx_gov]

theorem execWlapp_gov (v : WordM) (s : State) (hs : s.Governed) : OutGov (execWlapp v s) := by
  unfold execWlapp
  grind (splits := 20) [State.Governed, EffGov, OutGov, RvGov, runTryM_gov, effWlapp_gov]

theorem effWltak_gov (v : WordM) : ∀ w x s, s.Governed → EffGov (effWltak v w x s) := by
  unfold effWltak
  grind (splits := 20) [State.Governed, EffGov, OutGov, RvGov, Taken.stop_gov, State.setLists_gov, State.setCtx_gov, State.setS_gov, State.acquire_gov]

theorem execWltak_gov (v : WordM) (s : State) (hs : s.Governed) : OutGov (execWltak v s) := by
  unfold execWltak
  grind (splits := 20) [State.Governed, EffGov, OutGov, RvGov, runTryM_gov, effWltak_gov]

theorem execWlidl_gov (v : WordM) (s : State) (hs : s.Governed) : OutGov (execWlidl v s) := by
  unfold execWlidl
  grind (splits := 20) [State.Governed, EffGov, OutGov, RvGov, runM_gov, State.setCtx_gov]

theorem execTrmw_gov (v : WordM) (s : State) (hs : s.Governed) : OutGov (execTrmw v s) := by
  unfold execTrmw
  grind (splits := 20) [State.Governed, EffGov, OutGov, RvGov, runTryM_gov, State.setS_gov, State.acquire_gov]

theorem execOseq_gov (v : WordM) (s : State) (hs : s.Governed) : OutGov (execOseq v s) := by
  unfold execOseq
  grind (splits := 20) [State.Governed, EffGov, OutGov, RvGov, runM_gov, State.setCtx_gov, putD_gov, State.acquire_gov]

theorem execOwt_gov (v : WordM) (s : State) (hs : s.Governed) : OutGov (execOwt v s) := by
  unfold execOwt
  grind (splits := 20) [State.Governed, EffGov, OutGov, RvGov, runTryM_gov, State.acquire_gov]

theorem vOut_gov (v : WordV) (n : Nat) (w : Who) (x : Ctx) (r : VRes) (s : State) (hs : s.Governed) : (vOut v n w x r s).Governed := by
  unfold vOut
  grind (splits := 20) [State.Governed, EffGov, OutGov, RvGov, State.orFlags_gov, State.setCtx_gov, State.setS_gov]

theorem effV_gov (v : WordV) (n : Nat) (f : VIn → VRes) : ∀ w x s, s.Governed → EffGov (effV v n f w x s) := by
  unfold effV
  grind (splits := 20) [State.Governed, EffGov, OutGov, RvGov, Taken.stop_gov, vOut_gov]

theorem effF_gov (v : WordV) (n : Nat) (f : RMode →   FVal → FVal → FVal → W32 → Res) : ∀ w x s, s.Governed → EffGov (effF v n f w x s) := by
  unfold effF
  grind (splits := 20) [State.Governed, EffGov, OutGov, RvGov, effV_gov]

theorem execVadd_gov (v : WordV) (s : State) (hs : s.Governed) : OutGov (execVadd v s) := by
  unfold execVadd
  grind (splits := 20) [State.Governed, EffGov, OutGov, RvGov, runV_gov, effF_gov]

theorem execVsub_gov (v : WordV) (s : State) (hs : s.Governed) : OutGov (execVsub v s) := by
  unfold execVsub
  grind (splits := 20) [State.Governed, EffGov, OutGov, RvGov, runV_gov, effF_gov]

theorem execVmul_gov (v : WordV) (s : State) (hs : s.Governed) : OutGov (execVmul v s) := by
  unfold execVmul
  grind (splits := 20) [State.Governed, EffGov, OutGov, RvGov, runV_gov, effF_gov]

theorem execVfma_gov (v : WordV) (s : State) (hs : s.Governed) : OutGov (execVfma v s) := by
  unfold execVfma
  grind (splits := 20) [State.Governed, EffGov, OutGov, RvGov, runV_gov, effF_gov]

theorem execVfms_gov (v : WordV) (s : State) (hs : s.Governed) : OutGov (execVfms v s) := by
  unfold execVfms
  grind (splits := 20) [State.Governed, EffGov, OutGov, RvGov, runV_gov, effF_gov]

theorem execVfnma_gov (v : WordV) (s : State) (hs : s.Governed) : OutGov (execVfnma v s) := by
  unfold execVfnma
  grind (splits := 20) [State.Governed, EffGov, OutGov, RvGov, runV_gov, effF_gov]

theorem execVdiv_gov (v : WordV) (s : State) (hs : s.Governed) : OutGov (execVdiv v s) := by
  unfold execVdiv
  grind (splits := 20) [State.Governed, EffGov, OutGov, RvGov, runV_gov, effF_gov]

theorem execVsqrt_gov (v : WordV) (s : State) (hs : s.Governed) : OutGov (execVsqrt v s) := by
  unfold execVsqrt
  grind (splits := 20) [State.Governed, EffGov, OutGov, RvGov, runV_gov, effF_gov]

theorem execVmin_gov (v : WordV) (s : State) (hs : s.Governed) : OutGov (execVmin v s) := by
  unfold execVmin
  grind (splits := 20) [State.Governed, EffGov, OutGov, RvGov, runV_gov, effV_gov]

theorem execVmax_gov (v : WordV) (s : State) (hs : s.Governed) : OutGov (execVmax v s) := by
  unfold execVmax
  grind (splits := 20) [State.Governed, EffGov, OutGov, RvGov, runV_gov, effV_gov]

theorem execVabs_gov (v : WordV) (s : State) (hs : s.Governed) : OutGov (execVabs v s) := by
  unfold execVabs
  grind (splits := 20) [State.Governed, EffGov, OutGov, RvGov, runV_gov, effV_gov]

theorem execVneg_gov (v : WordV) (s : State) (hs : s.Governed) : OutGov (execVneg v s) := by
  unfold execVneg
  grind (splits := 20) [State.Governed, EffGov, OutGov, RvGov, runV_gov, effV_gov]

theorem effT_gov (v : WordV) (f : FVal → Res) : ∀ w x s, s.Governed → EffGov (effT v f w x s) := by
  unfold effT
  grind (splits := 20) [State.Governed, EffGov, OutGov, RvGov, effV_gov]

theorem execVrcp_gov (v : WordV) (s : State) (hs : s.Governed) : OutGov (execVrcp v s) := by
  unfold execVrcp
  grind (splits := 20) [State.Governed, EffGov, OutGov, RvGov, runV_gov, effT_gov]

theorem execVrsq_gov (v : WordV) (s : State) (hs : s.Governed) : OutGov (execVrsq v s) := by
  unfold execVrsq
  grind (splits := 20) [State.Governed, EffGov, OutGov, RvGov, runV_gov, effT_gov]

theorem execVexp2_gov (v : WordV) (s : State) (hs : s.Governed) : OutGov (execVexp2 v s) := by
  unfold execVexp2
  grind (splits := 20) [State.Governed, EffGov, OutGov, RvGov, runV_gov, effT_gov]

theorem execVlog2_gov (v : WordV) (s : State) (hs : s.Governed) : OutGov (execVlog2 v s) := by
  unfold execVlog2
  grind (splits := 20) [State.Governed, EffGov, OutGov, RvGov, runV_gov, effT_gov]

theorem effI1_gov (v : WordV) (g : W32 → W32) : ∀ w x s, s.Governed → EffGov (effI1 v g w x s) := by
  unfold effI1
  grind (splits := 20) [State.Governed, EffGov, OutGov, RvGov, effV_gov]

theorem effI2_gov (v : WordV) (g : W32 → W32 → W32) : ∀ w x s, s.Governed → EffGov (effI2 v g w x s) := by
  unfold effI2
  grind (splits := 20) [State.Governed, EffGov, OutGov, RvGov, effV_gov]

theorem execViadd_gov (v : WordV) (s : State) (hs : s.Governed) : OutGov (execViadd v s) := by
  unfold execViadd
  grind (splits := 20) [State.Governed, EffGov, OutGov, RvGov, runV_gov, effI2_gov]

theorem execVisub_gov (v : WordV) (s : State) (hs : s.Governed) : OutGov (execVisub v s) := by
  unfold execVisub
  grind (splits := 20) [State.Governed, EffGov, OutGov, RvGov, runV_gov, effI2_gov]

theorem execVimul_gov (v : WordV) (s : State) (hs : s.Governed) : OutGov (execVimul v s) := by
  unfold execVimul
  grind (splits := 20) [State.Governed, EffGov, OutGov, RvGov, runV_gov, effI2_gov]

theorem execVimad_gov (v : WordV) (s : State) (hs : s.Governed) : OutGov (execVimad v s) := by
  unfold execVimad
  grind (splits := 20) [State.Governed, EffGov, OutGov, RvGov, runV_gov, effV_gov]

theorem execVimulh_gov (v : WordV) (s : State) (hs : s.Governed) : OutGov (execVimulh v s) := by
  unfold execVimulh
  grind (splits := 20) [State.Governed, EffGov, OutGov, RvGov, runV_gov, effI2_gov]

theorem execVsadd_gov (v : WordV) (s : State) (hs : s.Governed) : OutGov (execVsadd v s) := by
  unfold execVsadd
  grind (splits := 20) [State.Governed, EffGov, OutGov, RvGov, runV_gov, effV_gov]

theorem execVssub_gov (v : WordV) (s : State) (hs : s.Governed) : OutGov (execVssub v s) := by
  unfold execVssub
  grind (splits := 20) [State.Governed, EffGov, OutGov, RvGov, runV_gov, effV_gov]

theorem execVimin_gov (v : WordV) (s : State) (hs : s.Governed) : OutGov (execVimin v s) := by
  unfold execVimin
  grind (splits := 20) [State.Governed, EffGov, OutGov, RvGov, runV_gov, effI2_gov]

theorem execVimax_gov (v : WordV) (s : State) (hs : s.Governed) : OutGov (execVimax v s) := by
  unfold execVimax
  grind (splits := 20) [State.Governed, EffGov, OutGov, RvGov, runV_gov, effI2_gov]

theorem execViabs_gov (v : WordV) (s : State) (hs : s.Governed) : OutGov (execViabs v s) := by
  unfold execViabs
  grind (splits := 20) [State.Governed, EffGov, OutGov, RvGov, runV_gov, effV_gov]

theorem execVshl_gov (v : WordV) (s : State) (hs : s.Governed) : OutGov (execVshl v s) := by
  unfold execVshl
  grind (splits := 20) [State.Governed, EffGov, OutGov, RvGov, runV_gov, effI2_gov]

theorem execVshr_gov (v : WordV) (s : State) (hs : s.Governed) : OutGov (execVshr v s) := by
  unfold execVshr
  grind (splits := 20) [State.Governed, EffGov, OutGov, RvGov, runV_gov, effI2_gov]

theorem execVsra_gov (v : WordV) (s : State) (hs : s.Governed) : OutGov (execVsra v s) := by
  unfold execVsra
  grind (splits := 20) [State.Governed, EffGov, OutGov, RvGov, runV_gov, effI2_gov]

theorem execVand_gov (v : WordV) (s : State) (hs : s.Governed) : OutGov (execVand v s) := by
  unfold execVand
  grind (splits := 20) [State.Governed, EffGov, OutGov, RvGov, runV_gov, effI2_gov]

theorem execVor_gov (v : WordV) (s : State) (hs : s.Governed) : OutGov (execVor v s) := by
  unfold execVor
  grind (splits := 20) [State.Governed, EffGov, OutGov, RvGov, runV_gov, effI2_gov]

theorem execVxor_gov (v : WordV) (s : State) (hs : s.Governed) : OutGov (execVxor v s) := by
  unfold execVxor
  grind (splits := 20) [State.Governed, EffGov, OutGov, RvGov, runV_gov, effI2_gov]

theorem execVpopc_gov (v : WordV) (s : State) (hs : s.Governed) : OutGov (execVpopc v s) := by
  unfold execVpopc
  grind (splits := 20) [State.Governed, EffGov, OutGov, RvGov, runV_gov, effI1_gov]

theorem execVclz_gov (v : WordV) (s : State) (hs : s.Governed) : OutGov (execVclz v s) := by
  unfold execVclz
  grind (splits := 20) [State.Governed, EffGov, OutGov, RvGov, runV_gov, effI1_gov]

theorem execVcmp_gov (v : WordV) (s : State) (hs : s.Governed) : OutGov (execVcmp v s) := by
  unfold execVcmp
  grind (splits := 20) [State.Governed, EffGov, OutGov, RvGov, runV_gov, effV_gov]

theorem execVicmp_gov (v : WordV) (s : State) (hs : s.Governed) : OutGov (execVicmp v s) := by
  unfold execVicmp
  grind (splits := 20) [State.Governed, EffGov, OutGov, RvGov, runV_gov, effV_gov]

theorem execVsel_gov (v : WordV) (s : State) (hs : s.Governed) : OutGov (execVsel v s) := by
  unfold execVsel
  grind (splits := 20) [State.Governed, EffGov, OutGov, RvGov, runV_gov, effV_gov]

theorem execVcvt_gov (v : WordV) (s : State) (hs : s.Governed) : OutGov (execVcvt v s) := by
  unfold execVcvt
  grind (splits := 20) [State.Governed, EffGov, OutGov, RvGov, runV_gov, effV_gov]

theorem execVpack_gov (v : WordV) (s : State) (hs : s.Governed) : OutGov (execVpack v s) := by
  unfold execVpack
  grind (splits := 20) [State.Governed, EffGov, OutGov, RvGov, runV_gov, effV_gov]

theorem execVunpk_gov (v : WordV) (s : State) (hs : s.Governed) : OutGov (execVunpk v s) := by
  unfold execVunpk
  grind (splits := 20) [State.Governed, EffGov, OutGov, RvGov, runV_gov, effV_gov]

theorem execVqbfp_gov (v : WordV) (s : State) (hs : s.Governed) : OutGov (execVqbfp v s) := by
  unfold execVqbfp
  grind (splits := 20) [State.Governed, EffGov, OutGov, RvGov, runV_gov, effV_gov]

theorem execVdqbfp_gov (v : WordV) (s : State) (hs : s.Governed) : OutGov (execVdqbfp v s) := by
  unfold execVdqbfp
  grind (splits := 20) [State.Governed, EffGov, OutGov, RvGov, runV_gov, effV_gov]

theorem execVmov_gov (v : WordV) (s : State) (hs : s.Governed) : OutGov (execVmov v s) := by
  unfold execVmov
  grind (splits := 20) [State.Governed, EffGov, OutGov, RvGov, runV_gov, effI1_gov]

theorem execVins_gov (v : WordV) (s : State) (hs : s.Governed) : OutGov (execVins v s) := by
  unfold execVins
  grind (splits := 20) [State.Governed, EffGov, OutGov, RvGov, runV_gov, effV_gov]

theorem execVext_gov (v : WordV) (s : State) (hs : s.Governed) : OutGov (execVext v s) := by
  unfold execVext
  grind (splits := 20) [State.Governed, EffGov, OutGov, RvGov, runV_gov, effV_gov]

theorem execVperm_gov (v : WordV) (s : State) (hs : s.Governed) : OutGov (execVperm v s) := by
  unfold execVperm
  grind (splits := 20) [State.Governed, EffGov, OutGov, RvGov, runV_gov, effV_gov]

theorem execVrot_gov (v : WordV) (s : State) (hs : s.Governed) : OutGov (execVrot v s) := by
  unfold execVrot
  grind (splits := 20) [State.Governed, EffGov, OutGov, RvGov, runV_gov, effV_gov]

theorem execVcmpr_gov (v : WordV) (s : State) (hs : s.Governed) : OutGov (execVcmpr v s) := by
  unfold execVcmpr
  grind (splits := 20) [State.Governed, EffGov, OutGov, RvGov, runV_gov, effV_gov]

theorem execVexpd_gov (v : WordV) (s : State) (hs : s.Governed) : OutGov (execVexpd v s) := by
  unfold execVexpd
  grind (splits := 20) [State.Governed, EffGov, OutGov, RvGov, runV_gov, effV_gov]

theorem execVred_gov (v : WordV) (s : State) (hs : s.Governed) : OutGov (execVred v s) := by
  unfold execVred
  grind (splits := 20) [State.Governed, EffGov, OutGov, RvGov, runV_gov, effV_gov]

theorem execVscan_gov (v : WordV) (s : State) (hs : s.Governed) : OutGov (execVscan v s) := by
  unfold execVscan
  grind (splits := 20) [State.Governed, EffGov, OutGov, RvGov, runV_gov, effV_gov]

theorem execVarg_gov (v : WordV) (s : State) (hs : s.Governed) : OutGov (execVarg v s) := by
  unfold execVarg
  grind (splits := 20) [State.Governed, EffGov, OutGov, RvGov, runV_gov, effV_gov]

theorem State.freeBytes_gov (s : State) (n : Nat) (hs : s.Governed) : (State.freeBytes s n).2.Governed := by
  unfold State.freeBytes
  grind (splits := 20) [State.Governed, EffGov, OutGov, RvGov]

theorem State.writePages_gov (z0 : Nat) (z1 : State) (z2 : Nat) (z3 : Nat) (z4 : List Byte) (hz1 : z1.Governed) : ∀ so, State.writePages z0 z1 z2 z3 z4 = some so → so.Governed := by
  induction z0 generalizing z1 z2 z3 z4 with
  | zero => simp only [State.writePages]; grind
  | succ n ih => unfold State.writePages; grind [State.writeRun_gov]

theorem State.writeImage_gov (s : State) (c : CtxId) (x : Ctx) (part : Nat) (addr : Nat) (hs : s.Governed) : ∀ so, State.writeImage s c x part addr = some so → so.Governed := by
  have hb : (s.freeBytes 131008).2.Governed := hs
  intro so
  unfold State.writeImage
  simp only
  generalize he : State.writePages 32 (s.freeBytes 131008).2 part addr _ = r
  cases r with
  | none => simp
  | some t =>
    have ht := State.writePages_gov 32 (s.freeBytes 131008).2 part addr _ hb t he
    simp only [Option.some.injEq]
    rintro rfl
    exact ht

theorem State.dropLoads_gov (s : State) (c : CtxId) (x : Ctx) (hs : s.Governed) : (State.dropLoads s c x).Governed := by
  unfold State.dropLoads
  grind (splits := 20) [State.Governed, EffGov, OutGov, RvGov]

theorem State.saveFor_gov (s : State) (c : CtxId) (by_ : CtxId) (role : Role) (addr : Nat) (code : Nat) (hs : s.Governed) : (State.saveFor s c by_ role addr code).Governed := by
  unfold State.saveFor
  grind (splits := 20) [State.Governed, EffGov, OutGov, RvGov, State.modRole_gov, State.writeImage_gov, State.openBands_gov, State.modCore_gov, State.modCtx_gov, State.dropLoads_gov]

theorem State.revoke_gov (s : State) (c : CtxId) (why : Nat) (hs : s.Governed) : (State.revoke s c why).Governed := by
  unfold State.revoke
  grind (splits := 20) [State.Governed, EffGov, OutGov, RvGov, State.openBands_gov, State.modCore_gov, State.setCtx_gov]

theorem State.stopVictim_gov (s : State) (c : CtxId) (hs : s.Governed) : (State.stopVictim s c).Governed := by
  unfold State.stopVictim
  grind (splits := 20) [State.Governed, EffGov, OutGov, RvGov, State.revoke_gov, State.openBands_gov, State.modCore_gov, State.modCtx_gov]

theorem State.takeAsync_gov (s : State) (c : CtxId) (code : Nat) (hs : s.Governed) : (State.takeAsync s c code).Governed := by
  unfold State.takeAsync
  split
  · exact hs
  · refine foldl_gov _ _ _ (State.setCtx_gov _ _ _ hs) ?_
    rintro s ⟨_ | ⟨b, r, a⟩ | _, n⟩ h
    · exact ite_gov (State.stopVictim_gov _ _ h) h
    · exact State.saveFor_gov _ _ _ _ _ _ h
    · exact ite_gov (State.stopVictim_gov _ _ h) h

theorem effNop_gov : ∀ w x s, s.Governed → EffGov (effNop w x s) := by
  unfold effNop
  grind (splits := 20) [State.Governed, EffGov, OutGov, RvGov]

theorem execNop_gov (v : WordS) (s : State) (hs : s.Governed) : OutGov (execNop v s) := by
  unfold execNop
  grind (splits := 20) [State.Governed, EffGov, OutGov, RvGov, runS_gov, effNop_gov]

theorem execHint_gov (n : BitVec 4) (v : HintWord) (s : State) (hs : s.Governed) : OutGov (execHint n v s) := by
  unfold execHint
  grind (splits := 20) [State.Governed, EffGov, OutGov, RvGov, runWord_gov, effNop_gov]

theorem execUnassignedOpcode_gov (v : Word96) (s : State) (hs : s.Governed) : OutGov (execUnassignedOpcode v s) := by
  unfold execUnassignedOpcode
  grind (splits := 20) [State.Governed, EffGov, OutGov, RvGov, runWord_gov]

theorem effHalt_gov : ∀ w x s, s.Governed → EffGov (effHalt w x s) := by
  unfold effHalt
  grind (splits := 20) [State.Governed, EffGov, OutGov, RvGov, State.setCtx_gov, State.finishCtx_gov]

theorem execHalt_gov (v : WordS) (s : State) (hs : s.Governed) : OutGov (execHalt v s) := by
  unfold execHalt
  grind (splits := 20) [State.Governed, EffGov, OutGov, RvGov, runS_gov, effHalt_gov]

theorem retireOthers_gov (s : State) (w : Who) (x : Ctx) (hs : s.Governed) : (retireOthers s w x).Governed := foldl_gov _ _ _ hs (fun s y h => by grind [retireNext_gov])

theorem effQpt_gov (a : Bool) : ∀ w x s, s.Governed → EffGov (effQpt a w x s) := by
  unfold effQpt
  grind (splits := 20) [State.Governed, EffGov, OutGov, RvGov, State.takeAsync_gov, State.retire_gov, retireOthers_gov]

theorem execQpt_gov (v : WordS) (s : State) (hs : s.Governed) : OutGov (execQpt v s) := by
  unfold execQpt
  grind (splits := 20) [State.Governed, EffGov, OutGov, RvGov, runS_gov, effQpt_gov]

theorem execBr_gov (v : WordB) (s : State) (hs : s.Governed) : OutGov (execBr v s) := by
  unfold execBr
  grind (splits := 20) [State.Governed, EffGov, OutGov, RvGov, runB_gov]

theorem execBrp_gov (v : WordB) (s : State) (hs : s.Governed) : OutGov (execBrp v s) := by
  unfold execBrp
  grind (splits := 20) [State.Governed, EffGov, OutGov, RvGov, runB_gov]

theorem execCall_gov (v : WordB) (s : State) (hs : s.Governed) : OutGov (execCall v s) := by
  unfold execCall
  grind (splits := 20) [State.Governed, EffGov, OutGov, RvGov, runB_gov, State.modRole_gov]

theorem execRet_gov (v : WordS) (s : State) (hs : s.Governed) : OutGov (execRet v s) := by
  unfold execRet
  grind (splits := 20) [State.Governed, EffGov, OutGov, RvGov, runS_gov, State.modRole_gov]

theorem State.setLoop_gov (s : State) (w : Who) (k : Nat) (l : LoopCtr) (hs : s.Governed) : (State.setLoop s w k l).Governed := by
  unfold State.setLoop
  grind (splits := 20) [State.Governed, EffGov, OutGov, RvGov, State.modRole_gov]

theorem execLoop_gov (v : WordB) (s : State) (hs : s.Governed) : OutGov (execLoop v s) := by
  unfold execLoop
  grind (splits := 20) [State.Governed, EffGov, OutGov, RvGov, runB_gov, State.setLoop_gov]

theorem execNext_gov (v : WordB) (s : State) (hs : s.Governed) : OutGov (execNext v s) := by
  unfold execNext
  grind (splits := 20) [State.Governed, EffGov, OutGov, RvGov, runB_gov, State.setLoop_gov]

theorem execBqs_gov (v : WordS) (s : State) (hs : s.Governed) : OutGov (execBqs v s) := by
  unfold execBqs
  grind (splits := 20) [State.Governed, EffGov, OutGov, RvGov, runTryS_gov, State.setCtx_gov]

theorem execBqr_gov (v : WordS) (s : State) (hs : s.Governed) : OutGov (execBqr v s) := by
  unfold execBqr
  grind (splits := 20) [State.Governed, EffGov, OutGov, RvGov, runTryS_gov, State.setP_gov, State.setCtx_gov]

theorem execWaitc_gov (v : WordS) (s : State) (hs : s.Governed) : OutGov (execWaitc v s) := by
  unfold execWaitc
  grind (splits := 20) [State.Governed, EffGov, OutGov, RvGov, runTryS_gov]

theorem execYld_gov (v : WordS) (s : State) (hs : s.Governed) : OutGov (execYld v s) := by
  unfold execYld
  grind (splits := 20) [State.Governed, EffGov, OutGov, RvGov, runS_gov, State.modRole_gov]

theorem execTrap_gov (v : WordS) (s : State) (hs : s.Governed) : OutGov (execTrap v s) := by
  unfold execTrap
  grind (splits := 20) [State.Governed, EffGov, OutGov, RvGov, runS_gov]

theorem execBkpt_gov (v : WordS) (s : State) (hs : s.Governed) : OutGov (execBkpt v s) := by
  unfold execBkpt
  grind (splits := 20) [State.Governed, EffGov, OutGov, RvGov, runS_gov, State.modRole_gov]

theorem execLdp_gov (v : WordS) (s : State) (hs : s.Governed) : OutGov (execLdp v s) := by
  unfold execLdp
  grind (splits := 20) [State.Governed, EffGov, OutGov, RvGov, runS_gov, putD_gov]

end Sys2Proof.Machine
end

