-- ==== Sys2Proof/Laws/GovernedUnits.lean ====
section
/-! SUPPORT. What each operation and meaning keeps of the invariant of the machine, `State.Governed`: the arrays, engines, flow conveyor, mailboxes, privileged instructions, barriers and Setts. -/

set_option Elab.async false
namespace Sys2Proof.Machine

theorem State.cleanS_gov (s : State) (c : CtxId) (buf : Nat) (o : Nat) (n : Nat) (hs : s.Governed) : (State.cleanS s c buf o n).Governed := by
  unfold State.cleanS
  grind (splits := 20) [State.Governed, EffGov, OutGov, RvGov]

theorem State.putA_gov (s : State) (c : CtxId) (o : Nat) (l : List Byte) (hs : s.Governed) : (State.putA s c o l).Governed := by
  unfold State.putA
  grind (splits := 20) [State.Governed, EffGov, OutGov, RvGov, State.cleanS_gov, State.modCtx_gov]

theorem State.grantLease_gov (s : State) (c : CtxId) (hs : s.Governed) : (State.grantLease s c).Governed := by
  unfold State.grantLease
  grind (splits := 20) [State.Governed, EffGov, OutGov, RvGov, State.modCtx_gov, State.modCore_gov]

theorem State.settleLease_gov (s : State) (c : CtxId) (hs : s.Governed) : (State.settleLease s c).Governed := by
  unfold State.settleLease
  grind (splits := 20) [State.Governed, EffGov, OutGov, RvGov, State.setCtx_gov, State.modCore_gov]

theorem State.askLease_gov (s : State) (c : CtxId) (x : Ctx) (hs : s.Governed) : (State.askLease s c x).2.Governed := by
  unfold State.askLease
  grind (splits := 20) [State.Governed, EffGov, OutGov, RvGov, State.setCtx_gov, State.grantLease_gov]

theorem effLease_gov (try_ : Bool) (tp : Nat) : ∀ w x s, s.Governed → EffGov (effLease try_ tp w x s) := by
  unfold effLease
  grind (splits := 20) [State.Governed, EffGov, OutGov, RvGov, State.askLease_gov, State.setP_gov]

theorem execLease_gov (v : WordX) (s : State) (hs : s.Governed) : OutGov (execLease v s) := by
  unfold execLease
  grind (splits := 20) [State.Governed, EffGov, OutGov, RvGov, runX_gov, effLease_gov]

theorem execUlease_gov (v : WordX) (s : State) (hs : s.Governed) : OutGov (execUlease v s) := by
  unfold execUlease
  grind (splits := 20) [State.Governed, EffGov, OutGov, RvGov, runX_gov, State.settleLease_gov, State.setCtx_gov]

theorem faults_gov (l : List (Bool × Nat × W64)) : ∀ so, faults l = some so → EffGov so := by
  unfold faults
  grind (splits := 20) [State.Governed, EffGov, OutGov, RvGov]

theorem accept_gov (s : State) (w : Who) (x : Ctx) (k : AKind) (cpt : Nat) (hs : s.Governed) : EffGov (accept s w x k cpt) := by
  unfold accept
  grind (splits := 20) [State.Governed, EffGov, OutGov, RvGov, State.setCtx_gov]

theorem execWload_gov (v : WordX) (s : State) (hs : s.Governed) : OutGov (execWload v s) := by
  unfold execWload
  grind (splits := 20) [State.Governed, EffGov, OutGov, RvGov, runX_gov, faults_gov, accept_gov]

theorem execWswp_gov (v : WordX) (s : State) (hs : s.Governed) : OutGov (execWswp v s) := by
  unfold execWswp
  grind (splits := 20) [State.Governed, EffGov, OutGov, RvGov, runX_gov, faults_gov, accept_gov]

theorem execAshp_gov (v : WordX) (s : State) (hs : s.Governed) : OutGov (execAshp v s) := by
  unfold execAshp
  grind (splits := 20) [State.Governed, EffGov, OutGov, RvGov, runX_gov, State.setCtx_gov]

theorem effMma_gov (kind : Nat) (v : WordX) : ∀ w x s, s.Governed → EffGov (effMma kind v w x s) := by
  unfold effMma
  grind (splits := 20) [State.Governed, EffGov, OutGov, RvGov, faults_gov, accept_gov]

theorem execMma_gov (v : WordX) (s : State) (hs : s.Governed) : OutGov (execMma v s) := by
  unfold execMma
  grind (splits := 20) [State.Governed, EffGov, OutGov, RvGov, runX_gov, effMma_gov]

theorem execMmaz_gov (v : WordX) (s : State) (hs : s.Governed) : OutGov (execMmaz v s) := by
  unfold execMmaz
  grind (splits := 20) [State.Governed, EffGov, OutGov, RvGov, runX_gov, effMma_gov]

theorem execMmai_gov (v : WordX) (s : State) (hs : s.Governed) : OutGov (execMmai v s) := by
  unfold execMmai
  grind (splits := 20) [State.Governed, EffGov, OutGov, RvGov, runX_gov, effMma_gov]

theorem execEpicf_gov (v : WordX) (s : State) (hs : s.Governed) : OutGov (execEpicf v s) := by
  unfold execEpicf
  grind (splits := 20) [State.Governed, EffGov, OutGov, RvGov, runX_gov, faults_gov, State.setCtx_gov]

theorem execEpi_gov (v : WordX) (s : State) (hs : s.Governed) : OutGov (execEpi v s) := by
  unfold execEpi
  grind (splits := 20) [State.Governed, EffGov, OutGov, RvGov, runX_gov, faults_gov, accept_gov, State.setCtx_gov]

theorem zFaults_gov (x : Ctx) (v : WordX) : ∀ so, zFaults x v = some so → EffGov so := by
  unfold zFaults
  grind (splits := 20) [State.Governed, EffGov, OutGov, RvGov, faults_gov]

theorem execZrd_gov (v : WordX) (s : State) (hs : s.Governed) : OutGov (execZrd v s) := by
  unfold execZrd
  grind (splits := 20) [State.Governed, EffGov, OutGov, RvGov, runX_gov, zFaults_gov, Taken.stop_gov, accept_gov]

theorem execZwr_gov (v : WordX) (s : State) (hs : s.Governed) : OutGov (execZwr v s) := by
  unfold execZwr
  grind (splits := 20) [State.Governed, EffGov, OutGov, RvGov, runX_gov, zFaults_gov, withQ_gov, accept_gov]

theorem execZclr_gov (v : WordX) (s : State) (hs : s.Governed) : OutGov (execZclr v s) := by
  unfold execZclr
  grind (splits := 20) [State.Governed, EffGov, OutGov, RvGov, runX_gov, faults_gov, accept_gov]

theorem State.headDone_gov (s : State) (c : CtxId) (k : ACmd) (hs : s.Governed) : (State.headDone s c k).Governed := by
  unfold State.headDone
  grind (splits := 20) [State.Governed, EffGov, OutGov, RvGov, State.openBands_gov, State.settleLease_gov, State.modCtx_gov]

theorem State.beginHead_gov (s : State) (c : CtxId) (k : ACmd) (hs : s.Governed) : ∀ so, State.beginHead s c k = some so → so.Governed := by
  unfold State.beginHead
  grind (splits := 20) [State.Governed, EffGov, OutGov, RvGov, State.modCtx_gov, State.modCore_gov]

theorem execArrayCompletionPush_gov (s : State) (hs : s.Governed) : OutGov (execArrayCompletionPush s) := by
  unfold execArrayCompletionPush
  grind (splits := 20) [State.Governed, EffGov, OutGov, RvGov, State.openBands_gov, State.settleLease_gov, State.setCtx_gov]

theorem execWloadTileCopy_gov (s : State) (hs : s.Governed) : OutGov (execWloadTileCopy s) := by
  unfold execWloadTileCopy
  grind (splits := 20) [State.Governed, EffGov, OutGov, RvGov, State.beginHead_gov, State.modCtx_gov, State.headDone_gov, State.post_gov]

theorem execWswpExchange_gov (s : State) (hs : s.Governed) : OutGov (execWswpExchange s) := by
  unfold execWswpExchange
  grind (splits := 20) [State.Governed, EffGov, OutGov, RvGov, State.beginHead_gov, State.headDone_gov, State.modCtx_gov]

theorem State.endWindow_gov (s : State) (cid : Nat) (hs : s.Governed) : (State.endWindow s cid).Governed := by
  unfold State.endWindow
  grind (splits := 20) [State.Governed, EffGov, OutGov, RvGov, State.modCore_gov]

theorem State.endWindows_gov (s : State) (cid : Nat) (z2 : Nat) (hs : s.Governed) : (State.endWindows s cid z2).Governed := by
  induction z2 generalizing s with
  | zero => exact hs
  | succ n ih => exact ih _ (State.endWindow_gov _ _ hs)

theorem State.roll_gov (s : State) (cid : Nat) (hs : s.Governed) : (State.roll s cid).Governed := by
  unfold State.roll
  grind (splits := 20) [State.Governed, EffGov, OutGov, RvGov, State.modCore_gov, State.endWindows_gov]

theorem State.rollAll_gov (s : State) (hs : s.Governed) : (State.rollAll s).Governed := foldl_gov _ _ _ hs (fun s e h => State.roll_gov _ _ h)

theorem execPlaneInjection_gov (s0 : State) (hs0 : s0.Governed) : OutGov (execPlaneInjection s0) := by
  unfold execPlaneInjection
  grind (splits := 20) [State.Governed, EffGov, OutGov, RvGov, State.roll_gov, State.modCore_gov, State.beginHead_gov, State.modCtx_gov]

theorem execBandPowerUp_gov (s : State) (hs : s.Governed) : OutGov (execBandPowerUp s) := by
  unfold execBandPowerUp
  grind (splits := 20) [State.Governed, EffGov, OutGov, RvGov, State.modCore_gov]

theorem execArrayRowComplete_gov (s : State) (hs : s.Governed) : OutGov (execArrayRowComplete s) := by
  unfold execArrayRowComplete
  grind (splits := 20) [State.Governed, EffGov, OutGov, RvGov, State.cleanS_gov, State.setCtx_gov, State.post_gov, State.headDone_gov, State.modCtx_gov]

theorem State.rowDone_gov (s : State) (c : CtxId) (k : ACmd) (nr : Nat) (i : Nat) (clr : Bool) (bad : Bool) (fl : Flags) (lfsr : List W32) (hs : s.Governed) : (State.rowDone s c k nr i clr bad fl lfsr).Governed := by
  unfold State.rowDone
  grind (splits := 20) [State.Governed, EffGov, OutGov, RvGov, State.modCtx_gov, State.cleanS_gov, State.post_gov, State.headDone_gov]

theorem execEpilogueRow_gov (s : State) (hs : s.Governed) : OutGov (execEpilogueRow s) := by
  unfold execEpilogueRow
  simp only
  repeat' split
  all_goals first
    | exact hs
    | exact State.rowDone_gov _ _ _ _ _ _ _ _ _ (State.putA_gov _ _ _ _ hs)
    | exact State.rowDone_gov _ _ _ _ _ _ _ _ _ (State.setCtx_gov _ _ _ hs)
    | exact State.setCtx_gov _ _ _ hs

theorem execZDirectExecute_gov (s : State) (hs : s.Governed) : OutGov (execZDirectExecute s) := by
  unfold execZDirectExecute
  grind (splits := 20) [State.Governed, EffGov, OutGov, RvGov, State.setCtx_gov, State.headDone_gov, State.post_gov, State.cleanS_gov]

theorem execLeaseHandover_gov (s : State) (hs : s.Governed) : OutGov (execLeaseHandover s) := by
  unfold execLeaseHandover
  grind (splits := 20) [State.Governed, EffGov, OutGov, RvGov, State.grantLease_gov, State.modCore_gov]

theorem State.handOver_gov (s : State) (q : LQueue) (hs : s.Governed) : (State.handOver s q).Governed := by
  unfold State.handOver
  grind (splits := 20) [State.Governed, EffGov, OutGov, RvGov, State.modQueue_gov, State.tryWrite_gov]

theorem execLeaderHandOver_gov (s : State) (hs : s.Governed) : OutGov (execLeaderHandOver s) := by
  unfold execLeaderHandOver
  grind (splits := 20) [State.Governed, EffGov, OutGov, RvGov, State.handOver_gov]

theorem State.openQueue_gov (s : State) (q : Nat) (part : Nat) (daddr : Nat) (pf : Bool) (hs : s.Governed) : ∀ so, State.openQueue s q part daddr pf = some so → so.Governed := by
  unfold State.openQueue
  grind (splits := 20) [State.Governed, EffGov, OutGov, RvGov, State.writeRun_gov, State.modQueue_gov, State.tryWrite_gov]

theorem State.writeDirectory_gov (s : State) (q : Nat) (word : Nat) (pf : Bool) (hs : s.Governed) : (State.writeDirectory s q word pf).Governed := by
  unfold State.writeDirectory
  simp only
  repeat' split
  all_goals first
    | exact hs
    | exact State.modQueue_gov _ _ _ hs
    | exact getD_gov _ _ (State.modQueue_gov _ _ _ hs) (State.openQueue_gov _ _ _ _ _ hs)

theorem execQueueRegister_gov (s : State) (hs : s.Governed) : OutGov (execQueueRegister s) := by
  unfold execQueueRegister
  grind (splits := 20) [State.Governed, EffGov, OutGov, RvGov, State.writeDirectory_gov]

theorem execQueueClose_gov (s : State) (hs : s.Governed) : OutGov (execQueueClose s) := by
  unfold execQueueClose
  grind (splits := 20) [State.Governed, EffGov, OutGov, RvGov, State.writeDirectory_gov]

theorem State.writeTail_gov (s : State) (q : Nat) (t : W32) (who : Option Appender) (hs : s.Governed) : (State.writeTail s q t who).Governed := by
  unfold State.writeTail
  grind (splits := 20) [State.Governed, EffGov, OutGov, RvGov, State.modQueue_gov]

theorem State.publIndex_gov (s : State) (q : Nat) (v : W32) (who : Option Appender) (hs : s.Governed) : (State.publIndex s q v who).Governed := by
  unfold State.publIndex
  grind (splits := 20) [State.Governed, EffGov, OutGov, RvGov, State.modQueue_gov]

theorem State.claimIndex_gov (s : State) (q : Nat) (n : W32) (hs : s.Governed) : (State.claimIndex s q n).2.Governed := by
  unfold State.claimIndex
  grind (splits := 20) [State.Governed, EffGov, OutGov, RvGov, State.modQueue_gov]

theorem execTailWrite_gov (s : State) (hs : s.Governed) : OutGov (execTailWrite s) := by
  unfold execTailWrite
  grind (splits := 20) [State.Governed, EffGov, OutGov, RvGov, State.writeTail_gov]

theorem execPubl_gov (s : State) (hs : s.Governed) : OutGov (execPubl s) := by
  unfold execPubl
  grind (splits := 20) [State.Governed, EffGov, OutGov, RvGov, State.publIndex_gov]

theorem execClaim_gov (s : State) (hs : s.Governed) : OutGov (execClaim s) := by
  unfold execClaim
  grind (splits := 20) [State.Governed, EffGov, OutGov, RvGov, State.claimIndex_gov]

theorem State.writeQueueReg_gov (s : State) (q : Nat) (off : Nat) (v : W32) (who : Option Appender) (hs : s.Governed) : (State.writeQueueReg s q off v who).Governed := by
  unfold State.writeQueueReg
  grind (splits := 20) [State.Governed, EffGov, OutGov, RvGov, State.writeTail_gov, State.publIndex_gov, State.modQueue_gov]

theorem State.writeWindow_gov (s : State) (x : Ctx) (off : Nat) (l : List Byte) (hs : s.Governed) : (State.writeWindow s x off l).Governed := by
  unfold State.writeWindow
  exact ite_gov (State.writeQueueReg_gov _ _ _ _ _ hs) (State.writeDirectory_gov _ _ _ _ hs)

theorem cmdFault_gov (s : State) (w : Who) (x : Ctx) (store : Bool) (ops : List Nat) (off : W64) (m : Cmd) (hs : s.Governed) : ∀ so, cmdFault s w x store ops off m = some so → EffGov so := by
  unfold cmdFault
  grind (splits := 20) [State.Governed, EffGov, OutGov, RvGov, faults_gov]

theorem effCopy_gov (store : Bool) (ops : List Nat) (v : WordX) : ∀ w x s, s.Governed → EffGov (effCopy store ops v w x s) := by
  unfold effCopy
  grind (splits := 20) [State.Governed, EffGov, OutGov, RvGov, faults_gov, cmdFault_gov, State.setCtx_gov]

theorem execCpyi_gov (v : WordX) (s : State) (hs : s.Governed) : OutGov (execCpyi v s) := by
  unfold execCpyi
  grind (splits := 20) [State.Governed, EffGov, OutGov, RvGov, runTryX_gov, effCopy_gov]

theorem execCpyo_gov (v : WordX) (s : State) (hs : s.Governed) : OutGov (execCpyo v s) := by
  unfold execCpyo
  grind (splits := 20) [State.Governed, EffGov, OutGov, RvGov, runTryX_gov, effCopy_gov]

theorem execGthi_gov (v : WordX) (s : State) (hs : s.Governed) : OutGov (execGthi v s) := by
  unfold execGthi
  grind (splits := 20) [State.Governed, EffGov, OutGov, RvGov, runTryX_gov, effCopy_gov]

theorem execScto_gov (v : WordX) (s : State) (hs : s.Governed) : OutGov (execScto v s) := by
  unfold execScto
  grind (splits := 20) [State.Governed, EffGov, OutGov, RvGov, runTryX_gov, effCopy_gov]

theorem execEchk_gov (v : WordX) (s : State) (hs : s.Governed) : OutGov (execEchk v s) := by
  unfold execEchk
  grind (splits := 20) [State.Governed, EffGov, OutGov, RvGov, runX_gov, State.setS_gov, State.setCtx_gov]

theorem storePages_gov (core : Option Nat) (part : Nat) (z2 : List (Nat × Nat)) (z3 : State) (z4 : List Byte) (hz3 : z3.Governed) : ∀ so, storePages core part z2 z3 z4 = .ok so → so.Governed := by
  induction z2 generalizing z3 z4 with
  | nil => simp only [storePages]; grind
  | cons a r ih => unfold storePages; grind [State.performG_gov]

theorem State.keepLeaves_gov (s : State) (cid : Nat) (part : Nat) (l : List (Nat × Nat)) (hs : s.Governed) : (State.keepLeaves s cid part l).Governed := foldl_gov _ _ _ hs (fun s p h => State.keepLeaf_gov _ _ _ _ h)

theorem State.sendEngine_gov (s : State) (c : CtxId) (x : Ctx) (m : Cmd) (store : Bool) (k : ECmd) (va : Nat) (l : List Byte) (hs : s.Governed) : (State.sendEngine s c x m store k va l).Governed := by
  unfold State.sendEngine
  grind (splits := 20) [State.Governed, EffGov, OutGov, RvGov]

theorem writePiece_gov (c : CtxId) (x : Ctx) (m : Cmd) (store : Bool) (k : ECmd) (a : Int) (l : List Byte) (s : State) (hs : s.Governed) : ∀ so, writePiece c x m store k a l s = .ok so → so.Governed := by
  have ha : ∀ p q, ∀ so, asReject (storePages none p q s l) = .ok so → so.Governed := by
    intro p q so h
    refine storePages_gov none p q s l hs so ?_
    unfold asReject at h
    grind
  intro so h
  unfold writePiece at h
  simp only at h
  repeat' split at h
  all_goals first
    | exact map_gov (storePages_gov _ _ _ _ _ hs) (fun _ h => State.keepLeaves_gov _ _ _ _ h) _ h
    | exact ha _ _ _ h
    | (injection h; done)
    | skip
  all_goals injection h with h
  all_goals rw [← h]
  all_goals first
    | with_reducible exact State.writeWindow_gov _ _ _ _ hs
    | with_reducible exact State.putA_gov _ _ _ _ hs
    | with_reducible exact State.cleanS_gov _ _ _ _ _ (State.modCtx_gov _ _ _ hs)
    | with_reducible exact State.sendEngine_gov _ _ _ _ _ _ _ _ hs
    | exact hs

theorem writePieces_gov (c : CtxId) (x : Ctx) (m : Cmd) (store : Bool) (k : ECmd) (z5 : List (Int × List Byte)) (z6 : State) (hz6 : z6.Governed) : ∀ so, writePieces c x m store k z5 z6 = .ok so → so.Governed := by
  induction z5 generalizing z6 with
  | nil => simp only [writePieces]; grind
  | cons a r ih => unfold writePieces; grind [writePiece_gov]

theorem unitSource_gov (s : State) (c : CtxId) (x : Ctx) (m : Cmd) (k : ECmd) (out : List Byte) (hs : s.Governed) : ∀ so ao, unitSource s c x m k out = .ok (so, ao) → so.Governed := by
  unfold unitSource
  grind (splits := 20) [State.Governed, EffGov, OutGov, RvGov, State.setCtx_gov, State.keepLeaves_gov]

theorem unitDest_gov (c : CtxId) (x : Ctx) (m : Cmd) (store : Bool) (k : ECmd) (ls : List (List Byte)) (s : State) (hs : s.Governed) : ∀ so ao, unitDest c x m store k ls s = .ok (so, ao) → so.Governed := by
  intro so ao h
  unfold unitDest at h
  simp only at h
  split at h
  · split at h
    · cases h
    · split at h
      · cases h; exact State.setCtx_gov _ _ _ hs
      · cases h
  · simp only [Except.map] at h
    split at h
    · cases h
    · cases h; exact writePieces_gov _ _ _ _ _ _ _ hs _ ‹_›

theorem unitStep_gov (s : State) (c : CtxId) (store : Bool) (acc : Nat) (out : List Byte) (hs : s.Governed) : ∀ so ao, unitStep s c store acc out = .ok (so, ao) → so.Governed := by
  intro so ao h
  unfold unitStep at h
  split at h
  · cases h
  · split at h
    · cases h
    · simp only at h
      split at h
      · cases h
      · split at h
        · cases h
        · rename_i h1
          split at h
          · cases h
          · rename_i h2
            cases h
            exact State.modCtx_gov _ _ _ (unitDest_gov _ _ _ _ _ _ _ (unitSource_gov _ _ _ _ _ _ hs _ _ h1) _ _ h2)

theorem State.flushCarry_gov (s : State) (c : CtxId) (store : Bool) (acc : Nat) (hs : s.Governed) : (State.flushCarry s c store acc).Governed := by
  unfold State.flushCarry
  grind (splits := 20) [State.Governed, EffGov, OutGov, RvGov, writePieces_gov, State.modCtx_gov]

theorem runUnits_gov (c : CtxId) (store : Bool) (acc : Nat) (far : Nat) (z4 : Nat) (z5 : State) (z6 : List Byte) (hz5 : z5.Governed) : (runUnits c store acc far z4 z5 z6).Governed := by
  induction z4 generalizing z5 z6 with
  | zero => exact hz5
  | succ n ih =>
    unfold runUnits
    split
    · exact ih _ _ (unitStep_gov _ _ _ _ _ hz5 _ _ (by assumption))
    · exact ite_gov hz5 (State.modCtx_gov _ _ _ (State.flushCarry_gov _ _ _ _ hz5))

theorem State.settleWrites_gov (s : State) (c : CtxId) (acc : Nat) (n : Nat) (hs : s.Governed) : (State.settleWrites s c acc n).Governed := by
  unfold State.settleWrites
  grind (splits := 20) [State.Governed, EffGov, OutGov, RvGov, State.modCore_gov]

theorem execEngineCommandBegin_gov (s : State) (hs : s.Governed) : OutGov (execEngineCommandBegin s) := by
  unfold execEngineCommandBegin
  grind (splits := 20) [State.Governed, EffGov, OutGov, RvGov, State.setCtx_gov, State.settleWrites_gov, runUnits_gov]

theorem State.writeStatus_gov (s : State) (c : CtxId) (store : Bool) (k : ECmd) (state : Nat) (seq : Nat) (hs : s.Governed) : (State.writeStatus s c store k state seq).Governed := by
  unfold State.writeStatus
  grind (splits := 20) [State.Governed, EffGov, OutGov, RvGov, State.putA_gov]

theorem State.relCmd_gov (s : State) (c : CtxId) (k : ECmd) (hs : s.Governed) : (State.relCmd s c k).Governed := by
  unfold State.relCmd
  grind (splits := 20) [State.Governed, EffGov, OutGov, RvGov, State.raiseRel_gov, State.tightenIf_gov]

theorem execEngineCommandCompletion_gov (s : State) (hs : s.Governed) : OutGov (execEngineCommandCompletion s) := by
  unfold execEngineCommandCompletion
  grind (splits := 20) [State.Governed, EffGov, OutGov, RvGov, State.modCtx_gov, State.writeStatus_gov, State.relCmd_gov]

theorem State.appendCopyRec_gov (s : State) (c : CtxId) (x : Ctx) (store : Bool) (k : ECmd) (hs : s.Governed) : (State.appendCopyRec s c x store k).Governed := getD_gov _ _ (State.endDomain_gov _ _ _ hs) (State.appendRec_gov _ _ _ _ hs)

theorem execCopyFaultFreeze_gov (s : State) (hs : s.Governed) : OutGov (execCopyFaultFreeze s) := by
  unfold execCopyFaultFreeze
  grind (splits := 20) [State.Governed, EffGov, OutGov, RvGov, State.modCore_gov, State.writeStatus_gov, State.deliver_gov, State.appendCopyRec_gov]

theorem State.resend_gov (s : State) (c : CtxId) (store : Bool) (ended : Bool) (hs : s.Governed) : (State.resend s c store ended).Governed := by
  unfold State.resend
  grind (splits := 20) [State.Governed, EffGov, OutGov, RvGov]

theorem State.modFaulting_gov (s : State) (c : CtxId) (store : Bool) (f : Ctx → Ctx) (hs : s.Governed) : (State.modFaulting s c store f).Governed := by
  unfold State.modFaulting
  grind (splits := 20) [State.Governed, EffGov, OutGov, RvGov, State.modCtx_gov]

theorem State.faultOver_gov (s : State) (c : CtxId) (store : Bool) (ended : Bool) (hs : s.Governed) : (State.faultOver s c store ended).Governed := by
  unfold State.faultOver
  grind (splits := 20) [State.Governed, EffGov, OutGov, RvGov, State.resend_gov, State.modFaulting_gov]

theorem State.unfreeze_gov (s : State) (cid : Nat) (hs : s.Governed) : (State.unfreeze s cid).Governed := by
  unfold State.unfreeze
  grind (splits := 20) [State.Governed, EffGov, OutGov, RvGov, State.faultOver_gov, State.modCore_gov]

theorem State.endFault_gov (s : State) (c : CtxId) (store : Bool) (hs : s.Governed) : (State.endFault s c store).Governed := by
  unfold State.endFault
  grind (splits := 20) [State.Governed, EffGov, OutGov, RvGov, State.faultOver_gov, State.modCore_gov]

theorem State.dropPkt_gov (s : State) (ix : Nat) (hs : s.Governed) : (State.dropPkt s ix).Governed := by
  unfold State.dropPkt
  grind (splits := 20) [State.Governed, EffGov, OutGov, RvGov]

theorem execFrzRelease_gov (s : State) (hs : s.Governed) : OutGov (execFrzRelease s) := by
  unfold execFrzRelease
  grind (splits := 20) [State.Governed, EffGov, OutGov, RvGov, State.unfreeze_gov]

theorem State.stationPut_gov (s : State) (c : CtxId) (o : Nat) (b : List Byte) (hs : s.Governed) : (State.stationPut s c o b).Governed := by
  unfold State.stationPut
  grind (splits := 20) [State.Governed, EffGov, OutGov, RvGov, State.putA_gov, State.modCtx_gov, State.modCore_gov]

theorem State.putTarget_gov (s : State) (t : Target) (l : List Byte) (hs : s.Governed) : (State.putTarget s t l).Governed := by
  unfold State.putTarget
  grind (splits := 20) [State.Governed, EffGov, OutGov, RvGov, State.stationPut_gov, State.modKernel_gov, State.performDev_gov]

theorem State.passed_gov (s : State) (hs : s.Governed) : (State.passed s).Governed := by
  unfold State.passed
  grind (splits := 20) [State.Governed, EffGov, OutGov, RvGov]

theorem State.setSlot_gov (s : State) (t : Slot) (hs : s.Governed) : (State.setSlot s t).Governed := by
  unfold State.setSlot
  grind (splits := 20) [State.Governed, EffGov, OutGov, RvGov]

theorem State.raiseFlag_gov (s : State) (stn : Nat) (e : W64) (hs : s.Governed) : (State.raiseFlag s stn e).Governed := by
  unfold State.raiseFlag
  grind (splits := 20) [State.Governed, EffGov, OutGov, RvGov]

theorem State.crcFailed_gov (s : State) (stn : Nat) (t : Slot) (hs : s.Governed) : (State.crcFailed s stn t).Governed := by
  unfold State.crcFailed
  grind (splits := 20) [State.Governed, EffGov, OutGov, RvGov, State.post_gov, State.setSlot_gov]

theorem State.fragBad_gov (s : State) (stn : Nat) (tg : Target) (hs : s.Governed) : (State.fragBad s stn tg).Governed := by
  unfold State.fragBad
  grind (splits := 20) [State.Governed, EffGov, OutGov, RvGov, State.post_gov]

theorem State.await_gov (s : State) (stn : Nat) (e : W64) (t : Slot) (hs : s.Governed) : (State.await s stn e t).Governed := by
  unfold State.await
  grind (splits := 20) [State.Governed, EffGov, OutGov, RvGov]

theorem State.acted_gov (s : State) (stn : Nat) (t : Slot) (hs : s.Governed) : (State.acted s stn t).Governed := by
  unfold State.acted
  grind (splits := 20) [State.Governed, EffGov, OutGov, RvGov]

theorem State.holdSlot_gov (s : State) (stn : Nat) (t : Slot) (dbg : Bool) (hs : s.Governed) : (State.holdSlot s stn t dbg).Governed := by
  unfold State.holdSlot
  grind (splits := 20) [State.Governed, EffGov, OutGov, RvGov, State.setSlot_gov]

theorem slotStep_gov (op : Nat) (s : State) (f : Nat →   W64 → Slot → Target → State → State) (hs : s.Governed) (hf : ∀ y0 y1 y2 y3 y4, y4.Governed → (f y0 y1 y2 y3 y4).Governed) : (slotStep op s f).Governed := by
  unfold slotStep
  grind (splits := 20) [State.Governed, EffGov, OutGov, RvGov, State.passed_gov]

theorem execSlotLoad_gov (s : State) (hs : s.Governed) : OutGov (execSlotLoad s) := by
  unfold execSlotLoad
  grind (splits := 20) [State.Governed, EffGov, OutGov, RvGov, slotStep_gov, State.fragBad_gov, State.raiseFlag_gov]

theorem onOccupancy_gov (stn : Nat) (e : W64) (t : Slot) (tg : Target) (s : State) (f : Slot → State → State) (hs : s.Governed) (hf : ∀ y0 y1, y1.Governed → (f y0 y1).Governed) : (onOccupancy stn e t tg s f).Governed := by
  unfold onOccupancy
  grind (splits := 20) [State.Governed, EffGov, OutGov, RvGov, State.setSlot_gov, State.await_gov, State.holdSlot_gov, State.acted_gov]

theorem execSlotAdd_gov (s : State) (hs : s.Governed) : OutGov (execSlotAdd s) := by
  unfold execSlotAdd
  grind (splits := 20) [State.Governed, EffGov, OutGov, RvGov, slotStep_gov, onOccupancy_gov, State.fragBad_gov, State.setSlot_gov, State.crcFailed_gov, State.raiseFlag_gov]

theorem execSlotCopy_gov (s : State) (hs : s.Governed) : OutGov (execSlotCopy s) := by
  unfold execSlotCopy
  grind (splits := 20) [State.Governed, EffGov, OutGov, RvGov, slotStep_gov, onOccupancy_gov, State.crcFailed_gov, State.raiseFlag_gov, State.setSlot_gov, State.putTarget_gov]

theorem execSlotEmpty_gov (s : State) (hs : s.Governed) : OutGov (execSlotEmpty s) := by
  unfold execSlotEmpty
  grind (splits := 20) [State.Governed, EffGov, OutGov, RvGov, slotStep_gov, onOccupancy_gov, State.crcFailed_gov, State.raiseFlag_gov, State.setSlot_gov, State.putTarget_gov]

theorem execSlotEmptyAdd_gov (s : State) (hs : s.Governed) : OutGov (execSlotEmptyAdd s) := by
  unfold execSlotEmptyAdd
  grind (splits := 20) [State.Governed, EffGov, OutGov, RvGov, slotStep_gov, onOccupancy_gov, State.fragBad_gov, State.setSlot_gov, State.crcFailed_gov, State.raiseFlag_gov, State.putTarget_gov]

theorem execSlotPassThrough_gov (s : State) (hs : s.Governed) : OutGov (execSlotPassThrough s) := by
  unfold execSlotPassThrough
  grind (splits := 20) [State.Governed, EffGov, OutGov, RvGov, State.setSlot_gov, State.passed_gov]

theorem execEndedFlowEmpty_gov (s : State) (hs : s.Governed) : OutGov (execEndedFlowEmpty s) := by
  unfold execEndedFlowEmpty
  grind (splits := 20) [State.Governed, EffGov, OutGov, RvGov, State.setSlot_gov, State.passed_gov]

theorem execBestEffortReserve_gov (s : State) (hs : s.Governed) : OutGov (execBestEffortReserve s) := by
  unfold execBestEffortReserve
  grind (splits := 20) [State.Governed, EffGov, OutGov, RvGov, State.setSlot_gov, State.passed_gov]

theorem execBestEffortInject_gov (s : State) (hs : s.Governed) : OutGov (execBestEffortInject s) := by
  unfold execBestEffortInject
  grind (splits := 20) [State.Governed, EffGov, OutGov, RvGov, State.passed_gov]

theorem execBestEffortDeliver_gov (s : State) (hs : s.Governed) : OutGov (execBestEffortDeliver s) := by
  unfold execBestEffortDeliver
  grind (splits := 20) [State.Governed, EffGov, OutGov, RvGov, State.setSlot_gov, State.passed_gov]

theorem State.setGoltik_gov (s : State) (l : List GFlow) (hs : s.Governed) : (State.setGoltik s l).Governed := by
  unfold State.setGoltik
  grind (splits := 20) [State.Governed, EffGov, OutGov, RvGov]

theorem State.goltikIn_gov (s : State) (g : Nat) (no : Nat) (h_ : BitVec 128) (payload : List Byte) (hs : s.Governed) : (State.goltikIn s g no h_ payload).Governed := by
  unfold State.goltikIn
  grind (splits := 20) [State.Governed, EffGov, OutGov, RvGov, State.setSlot_gov]

theorem State.goltikOut_gov (s : State) (n : Nat) (hs : s.Governed) : (State.goltikOut s n).Governed := by
  unfold State.goltikOut
  grind (splits := 20) [State.Governed, EffGov, OutGov, RvGov]

theorem State.elapse_gov (s : State) (n : Nat) (hs : s.Governed) : (State.elapse s n).Governed := by
  unfold State.elapse
  grind (splits := 20) [State.Governed, EffGov, OutGov, RvGov, State.tick_gov, State.goltikOut_gov]

theorem State.lapse_gov (s : State) (n : Nat) (f : State → State) (hs : s.Governed) (hf : ∀ y0, y0.Governed → (f y0).Governed) : (State.lapse s n f).Governed := by
  unfold State.lapse
  grind (splits := 20) [State.Governed, EffGov, OutGov, RvGov, State.elapse_gov]

theorem execCvwt_gov (v : WordX) (s : State) (hs : s.Governed) : OutGov (execCvwt v s) := by
  unfold execCvwt
  grind (splits := 20) [State.Governed, EffGov, OutGov, RvGov, runTryX_gov, State.acquire_gov]

theorem execCvts_gov (v : WordX) (s : State) (hs : s.Governed) : OutGov (execCvts v s) := by
  unfold execCvts
  grind (splits := 20) [State.Governed, EffGov, OutGov, RvGov, runX_gov, State.setP_gov, State.acquire_gov]

theorem execCvcl_gov (v : WordX) (s : State) (hs : s.Governed) : OutGov (execCvcl v s) := by
  unfold execCvcl
  grind (splits := 20) [State.Governed, EffGov, OutGov, RvGov, runX_gov]

theorem execCvinf_gov (v : WordX) (s : State) (hs : s.Governed) : OutGov (execCvinf v s) := by
  unfold execCvinf
  grind (splits := 20) [State.Governed, EffGov, OutGov, RvGov, runX_gov, State.setS_gov]

theorem execCvtim_gov (v : WordX) (s : State) (hs : s.Governed) : OutGov (execCvtim v s) := by
  unfold execCvtim
  grind (splits := 20) [State.Governed, EffGov, OutGov, RvGov, runX_gov, State.setS_gov]

theorem State.modSett_gov (s : State) (d : Nat) (k : Nat) (f : Sett → Sett) (hs : s.Governed) : (State.modSett s d k f).Governed := by
  unfold State.modSett
  grind (splits := 20) [State.Governed, EffGov, OutGov, RvGov]

theorem State.stopSlot_gov (s : State) (d : Nat) (k : Nat) (e : Nat) (stat : Nat) (rew : W32) (payload : List Byte) (hs : s.Governed) : (State.stopSlot s d k e stat rew payload).Governed := by
  unfold State.stopSlot
  grind (splits := 20) [State.Governed, EffGov, OutGov, RvGov, State.modSett_gov]

theorem State.killSlot_gov (s : State) (d : Nat) (k : Nat) (e : Nat) (hs : s.Governed) : (State.killSlot s d k e).Governed := by
  unfold State.killSlot
  grind (splits := 20) [State.Governed, EffGov, OutGov, RvGov, State.stopSlot_gov]

theorem Eff.waitAs_gov (e : Eff) (k : Wait) (he : EffGov e) : EffGov (Eff.waitAs e k) := by
  unfold Eff.waitAs
  grind (splits := 20) [State.Governed, EffGov, OutGov, RvGov]

theorem execMbsnd_gov (v : WordX) (s : State) (hs : s.Governed) : OutGov (execMbsnd v s) := by
  unfold execMbsnd
  grind (splits := 20) [State.Governed, EffGov, OutGov, RvGov, runTryX_gov, Eff.waitAs_gov, withQ_gov, State.setCtx_gov, State.setS_gov, State.modSett_gov]

theorem effMbrcv_gov (v : WordX) : ∀ w x s, s.Governed → EffGov (effMbrcv v w x s) := by
  unfold effMbrcv
  grind (splits := 20) [State.Governed, EffGov, OutGov, RvGov, Taken.stop_gov, Eff.waitAs_gov, State.setCtx_gov, State.modSett_gov, State.setS_gov, State.acquire_gov]

theorem execMbrcv_gov (v : WordX) (s : State) (hs : s.Governed) : OutGov (execMbrcv v s) := by
  unfold execMbrcv
  grind (splits := 20) [State.Governed, EffGov, OutGov, RvGov, runWord_gov, effMbrcv_gov]

theorem execMbsta_gov (v : WordX) (s : State) (hs : s.Governed) : OutGov (execMbsta v s) := by
  unfold execMbsta
  grind (splits := 20) [State.Governed, EffGov, OutGov, RvGov, runX_gov, State.setS_gov]

theorem execWindowViolation_gov (s : State) (hs : s.Governed) : OutGov (execWindowViolation s) := by
  unfold execWindowViolation
  grind (splits := 20) [State.Governed, EffGov, OutGov, RvGov, State.killSlot_gov]

theorem State.writeBank_gov (s : State) (d : Nat) (k : Nat) (no : Nat) (v : W64) (hs : s.Governed) : (State.writeBank s d k no v).Governed := by
  unfold State.writeBank
  grind (splits := 20) [State.Governed, EffGov, OutGov, RvGov, State.modSett_gov]

theorem execSettCsrWrite_gov (s : State) (hs : s.Governed) : OutGov (execSettCsrWrite s) := by
  unfold execSettCsrWrite
  grind (splits := 20) [State.Governed, EffGov, OutGov, RvGov, State.writeBank_gov]

theorem execOpenSet_gov (s : State) (hs : s.Governed) : OutGov (execOpenSet s) := by
  unfold execOpenSet
  grind (splits := 20) [State.Governed, EffGov, OutGov, RvGov, State.modSett_gov]

theorem execOpenClear_gov (s : State) (hs : s.Governed) : OutGov (execOpenClear s) := by
  unfold execOpenClear
  grind (splits := 20) [State.Governed, EffGov, OutGov, RvGov, State.modSett_gov]

theorem State.kjkill_gov (s : State) (d : Nat) (k : Nat) (v : W64) (hs : s.Governed) : (State.kjkill s d k v).Governed := by
  unfold State.kjkill
  grind (splits := 20) [State.Governed, EffGov, OutGov, RvGov, State.killSlot_gov]

theorem execKjkill_gov (s : State) (hs : s.Governed) : OutGov (execKjkill s) := by
  unfold execKjkill
  grind (splits := 20) [State.Governed, EffGov, OutGov, RvGov, State.kjkill_gov]

theorem State.watchdog_gov (s : State) (d : Nat) (k : Nat) (e : Nat) (hs : s.Governed) : (State.watchdog s d k e).Governed := by
  unfold State.watchdog
  grind (splits := 20) [State.Governed, EffGov, OutGov, RvGov, State.stopSlot_gov]

theorem State.countWatch_gov (s : State) (d : Nat) (k : Nat) (hs : s.Governed) : (State.countWatch s d k).Governed := by
  unfold State.countWatch
  grind (splits := 20) [State.Governed, EffGov, OutGov, RvGov, State.modSett_gov, State.watchdog_gov]

theorem execStepWatchdogExpiry_gov (s : State) (hs : s.Governed) : OutGov (execStepWatchdogExpiry s) := by
  unfold execStepWatchdogExpiry
  grind (splits := 20) [State.Governed, EffGov, OutGov, RvGov, State.watchdog_gov, State.countWatch_gov]

theorem idFault_gov (s : State) (x : Ctx) (v : W64) (num : Bool) (hs : s.Governed) : ∀ so, idFault s x v num = some so → EffGov so := by
  unfold idFault
  grind (splits := 20) [State.Governed, EffGov, OutGov, RvGov, faults_gov]

theorem onCtx_gov (s : State) (x : Ctx) (v : W64) (f : CtxId → Ctx → Eff) (hs : s.Governed) (hf : ∀ y0 y1, EffGov (f y0 y1)) : EffGov (onCtx s x v f) := by
  unfold onCtx
  grind (splits := 20) [State.Governed, EffGov, OutGov, RvGov, idFault_gov]

theorem onCore_gov (s : State) (x : Ctx) (v : W64) (f : Nat → Eff) (hs : s.Governed) (hf : ∀ y0, EffGov (f y0)) : EffGov (onCore s x v f) := by
  unfold onCore
  grind (splits := 20) [State.Governed, EffGov, OutGov, RvGov, idFault_gov]

theorem State.setPass_gov (s : State) (v : BitVec 128) (hs : s.Governed) : (State.setPass s v).Governed := foldl_gov _ _ _ hs (fun s n h => State.post_gov _ _ _ _ _ h)

theorem State.forcePass_gov (s : State) (stn : Nat) (hs : s.Governed) : (State.forcePass s stn).Governed := by
  unfold State.forcePass
  grind (splits := 20) [State.Governed, EffGov, OutGov, RvGov, State.post_gov]

theorem State.writePass_gov (s : State) (hi : Bool) (v : W64) (hs : s.Governed) : (State.writePass s hi v).Governed := by
  unfold State.writePass
  grind (splits := 20) [State.Governed, EffGov, OutGov, RvGov, State.setPass_gov]

theorem spcTarget_gov (s : State) (w : Who) (x : Ctx) (v : WordX) (t : W64) (f : CtxId → Option Ctx → Eff) (hs : s.Governed) (hf : ∀ y0 y1, EffGov (f y0 y1)) : EffGov (spcTarget s w x v t f) := by
  unfold spcTarget
  grind (splits := 20) [State.Governed, EffGov, OutGov, RvGov, onCtx_gov, idFault_gov]

theorem execSrd_gov (v : WordX) (s : State) (hs : s.Governed) : OutGov (execSrd v s) := by
  unfold execSrd
  grind (splits := 20) [State.Governed, EffGov, OutGov, RvGov, runP_gov, spcTarget_gov, State.setS_gov]

theorem writeCoreSpecial_gov (s : State) (c : CtxId) (p : Nat) (no : Nat) (v : W64) (hs : s.Governed) : ∀ so, writeCoreSpecial s c p no v = some so → so.Governed := by
  unfold writeCoreSpecial
  grind (splits := 20) [State.Governed, EffGov, OutGov, RvGov, State.modCore_gov, State.modCtx_gov, State.modTrapQ_gov, State.unfreeze_gov, State.modDie_gov, State.writePass_gov]

theorem writeContextSpecial_gov (s : State) (c : CtxId) (x : Ctx) (r : Role) (no : Nat) (v : W64) (hs : s.Governed) : ∀ so, writeContextSpecial s c x r no v = some so → so.Governed := by
  unfold writeContextSpecial
  intro so h
  split at h
  · split at h
    · cases h; exact State.setCtx_gov _ _ _ hs
    · cases h
  · simp only [Option.map_eq_some_iff] at h
    obtain ⟨a, _, rfl⟩ := h
    exact State.setCtx_gov _ _ _ hs

theorem writeSpecial_gov (s : State) (c : CtxId) (y : Option Ctx) (p : Nat) (r : Role) (no : Nat) (v : W64) (hs : s.Governed) : ∀ so, writeSpecial s c y p r no v = some so → so.Governed := by
  unfold writeSpecial
  grind (splits := 20) [State.Governed, EffGov, OutGov, RvGov, writeContextSpecial_gov, writeCoreSpecial_gov]

theorem swrRunning_gov (s : State) (w : Who) (c : CtxId) (y : Ctx) (no : Nat) (r : Role) (v : W64) (hs : s.Governed) : EffGov (swrRunning s w c y no r v) := by
  unfold swrRunning
  grind (splits := 20) [State.Governed, EffGov, OutGov, RvGov, writeContextSpecial_gov, State.setCtx_gov]

theorem swrContext_gov (s : State) (w : Who) (c : CtxId) (t : W64) (no : Nat) (r : Role) (v : W64) (hs : s.Governed) : EffGov (swrContext s w c t no r v) := by
  unfold swrContext
  grind (splits := 20) [State.Governed, EffGov, OutGov, RvGov, writeContextSpecial_gov, swrRunning_gov]

theorem execSwr_gov (v : WordX) (s : State) (hs : s.Governed) : OutGov (execSwr v s) := by
  unfold execSwr
  grind (splits := 20) [State.Governed, EffGov, OutGov, RvGov, runP_gov, swrContext_gov, idFault_gov, spcTarget_gov, writeCoreSpecial_gov]

theorem resumeCtx_gov (s : State) (c : CtxId) (y : Ctx) (mode : Nat) (role : Nat) (cause : Nat) (hs : s.Governed) : (resumeCtx s c y mode role cause).Governed := by
  unfold resumeCtx
  grind (splits := 20) [State.Governed, EffGov, OutGov, RvGov, State.endDomain_gov, State.modCtx_gov, State.endFault_gov, State.setCtx_gov, State.sendFlight_gov]

theorem execEret_gov (v : WordX) (s : State) (hs : s.Governed) : OutGov (execEret v s) := by
  unfold execEret
  grind (splits := 20) [State.Governed, EffGov, OutGov, RvGov, runP_gov, onCtx_gov, resumeCtx_gov]

theorem State.appendLog_gov (s : State) (p : Nat) (r : InvRec) (d : Nat) (hs : s.Governed) : (State.appendLog s p r d).Governed := by
  unfold State.appendLog
  generalize (2 : Nat) ^ 32 = m
  exact ite_gov (foldl_gov _ _ _ (State.modDie_gov _ _ _ hs) (fun _ _ h => ite_gov (State.modCore_gov _ _ _ h) h))
    (State.tryWrite_gov _ _ _ _ (foldl_gov _ _ _ (State.modDie_gov _ _ _ hs) (fun _ _ h => ite_gov (State.modCore_gov _ _ _ h) h)))

theorem State.invalidate_gov (s : State) (w : Who) (x : Ctx) (all : Bool) (size : Nat) (va : Nat) (hs : s.Governed) : (State.invalidate s w x all size va).Governed := State.modCore_gov _ _ _ (State.setCtx_gov _ _ _ (State.modPart_gov _ _ _ hs))

theorem execInvl_gov (v : WordX) (s : State) (hs : s.Governed) : OutGov (execInvl v s) := by
  unfold execInvl
  grind (splits := 20) [State.Governed, EffGov, OutGov, RvGov, runP_gov, State.setS_gov, State.invalidate_gov]

theorem effInva_gov (v : WordX) : ∀ w x s, s.Governed → EffGov (effInva v w x s) := by
  intro w x s hs
  have h1 := foldl_gov (s.liveCores x.part) (fun (s : State) cid => s.applyLog cid) _ hs (fun s c h => State.applyLog_gov _ _ h)
  unfold effInva
  simp only
  split
  · exact h1
  · exact State.modRole_gov _ _ _ h1

theorem execInva_gov (v : WordX) (s : State) (hs : s.Governed) : OutGov (execInva v s) := by
  unfold execInva
  grind (splits := 20) [State.Governed, EffGov, OutGov, RvGov, runP_gov, effInva_gov]

theorem execInvalidationApply_gov (s : State) (hs : s.Governed) : OutGov (execInvalidationApply s) := by
  unfold execInvalidationApply
  grind (splits := 20) [State.Governed, EffGov, OutGov, RvGov, State.applyLog_gov]

theorem locFault_gov (s : State) (x : Ctx) (v : W64) (hs : s.Governed) : ∀ so, locFault s x v = some so → EffGov so := by
  unfold locFault
  grind (splits := 20) [State.Governed, EffGov, OutGov, RvGov, faults_gov]

theorem execStbw_gov (v : WordX) (s : State) (hs : s.Governed) : OutGov (execStbw v s) := by
  unfold execStbw
  grind (splits := 20) [State.Governed, EffGov, OutGov, RvGov, runP_gov, locFault_gov]

theorem execStbr_gov (v : WordX) (s : State) (hs : s.Governed) : OutGov (execStbr v s) := by
  unfold execStbr
  grind (splits := 20) [State.Governed, EffGov, OutGov, RvGov, runP_gov, locFault_gov, State.setS_gov]

theorem execPark_gov (v : WordX) (s : State) (hs : s.Governed) : OutGov (execPark v s) := by
  unfold execPark
  grind (splits := 20) [State.Governed, EffGov, OutGov, RvGov, runP_gov, onCtx_gov, State.setS_gov, State.revoke_gov]

theorem State.reissue_gov (s : State) (c : CtxId) (hs : s.Governed) : (State.reissue s c).Governed := by
  unfold State.reissue
  split
  · exact hs
  · exact foldl_gov _ _ _ hs (fun s f h => ite_gov (State.sendFlight_gov _ _ _ _ h) h)

theorem State.unpark_gov (s : State) (c : CtxId) (hs : s.Governed) : (State.unpark s c).Governed := by
  unfold State.unpark
  grind (splits := 20) [State.Governed, EffGov, OutGov, RvGov, State.applyLog_gov, State.reissue_gov, State.modCtx_gov]

theorem execUnpark_gov (v : WordX) (s : State) (hs : s.Governed) : OutGov (execUnpark v s) := by
  unfold execUnpark
  grind (splits := 20) [State.Governed, EffGov, OutGov, RvGov, runP_gov, onCtx_gov, State.unpark_gov]

theorem State.beginSave_gov (s : State) (w : Who) (c : CtxId) (y : Ctx) (addr : Nat) (hs : s.Governed) : ∀ so, State.beginSave s w c y addr = some so → so.Governed := by
  unfold State.beginSave
  grind (splits := 20) [State.Governed, EffGov, OutGov, RvGov, State.saveFor_gov, State.setCtx_gov]

theorem effCtxsv_gov (v : WordX) : ∀ w x s, s.Governed → EffGov (effCtxsv v w x s) := by
  intro w x s hs
  have h1 : ∀ c y, EffGov (if (readSrc w x v.b 0).toNat % 4096 ≠ 0 then Eff.fault cAlign (readSrc w x v.b 0)
      else if c.num ≠ 0 ∧ y.state = .run then .waitIn .fence (s.revoke c 0)
      else if y.state ≠ .run ∧ y.state ≠ .ended ∧ y.state ≠ .saved ∧ !s.saveReady c y then .wait .fence
      else match (s.waitOn w .target).beginSave w c (match (s.waitOn w .target).ctx c with
          | some z => z
          | none => y) (readSrc w x v.b 0).toNat with
        | some s1 => .waitIn .target s1
        | none => .fault cTarget (readSrc w x v.a 0)) := by
    intro c y
    generalize readSrc w x v.b 0 = b
    have hb := fun y => State.beginSave_gov (s.waitOn w .target) w c y b.toNat (State.waitOn_gov _ _ _ hs)
    by_cases h1 : b.toNat % 4096 ≠ 0
    · rw [if_pos h1]; exact trivial
    · rw [if_neg h1]
      by_cases h2 : c.num ≠ 0 ∧ y.state = .run
      · rw [if_pos h2]; exact State.revoke_gov _ _ _ hs
      · rw [if_neg h2]
        by_cases h3 : y.state ≠ .run ∧ y.state ≠ .ended ∧ y.state ≠ .saved ∧ !s.saveReady c y
        · rw [if_pos h3]; exact trivial
        · rw [if_neg h3]
          generalize hr : State.beginSave _ _ _ _ _ = o
          cases o with
          | none => exact trivial
          | some t => exact hb _ _ hr
  have h2 := onCtx_gov s x (readSrc w x v.a 0) _ hs h1
  unfold effCtxsv
  generalize (x.role w.r).wait = a
  generalize (x.role w.r).mark = m
  rcases a with _ | k
  · exact h2
  · cases k
    case target =>
      cases m with
      | none => exact trivial
      | some m =>
        by_cases hm : m = -1
        · simp only [if_pos hm]; exact trivial
        · simp only [if_neg hm]; exact State.setS_gov _ _ _ _ hs
    all_goals exact h2

theorem execCtxsv_gov (v : WordX) (s : State) (hs : s.Governed) : OutGov (execCtxsv v s) := by
  unfold execCtxsv
  grind (splits := 20) [State.Governed, EffGov, OutGov, RvGov, runP_gov, effCtxsv_gov]

theorem State.place_gov (s : State) (c : CtxId) (x : Ctx) (hs : s.Governed) : (State.place s c x).Governed := by
  unfold State.place
  grind (splits := 20) [State.Governed, EffGov, OutGov, RvGov, State.setCtx_gov]

theorem State.restore_gov (s : State) (c : CtxId) (y : Ctx) (hs : s.Governed) : (State.restore s c y).Governed := by
  unfold State.restore
  grind (splits := 20) [State.Governed, EffGov, OutGov, RvGov, State.applyLog_gov, State.reissue_gov, State.place_gov]

theorem effCtxld_gov (v : WordX) : ∀ w x s, s.Governed → EffGov (effCtxld v w x s) := by
  unfold effCtxld
  grind (splits := 20) [State.Governed, EffGov, OutGov, RvGov, idFault_gov, State.restore_gov, State.keepLeaves_gov, State.release_gov]

theorem execCtxld_gov (v : WordX) (s : State) (hs : s.Governed) : OutGov (execCtxld v s) := by
  unfold execCtxld
  grind (splits := 20) [State.Governed, EffGov, OutGov, RvGov, runP_gov, effCtxld_gov]

theorem State.withdraw_gov (s : State) (c : CtxId) (x : Ctx) (hs : s.Governed) : (State.withdraw s c x).Governed := by
  unfold State.withdraw
  grind (splits := 20) [State.Governed, EffGov, OutGov, RvGov, State.setCtx_gov, State.modKernel_gov]

theorem State.retireCtx_gov (s : State) (c : CtxId) (hs : s.Governed) : (State.retireCtx s c).Governed := by
  unfold State.retireCtx
  split
  · exact hs
  · rename_i x _
    simp only
    have h1 : ((s.withdraw c x).modKernel x.kernel (fun k => { k with lost := c :: k.lost })).Governed :=
      State.modKernel_gov _ _ _ (State.withdraw_gov _ _ _ hs)
    generalize (s.withdraw c x).modKernel x.kernel (fun k => { k with lost := c :: k.lost }) = s1 at h1
    have h2 := State.finishCtx_gov _ c (getD_gov _ _ h1 (State.appendRec_gov s1 (dieOf c.cid) x.part
      ⟨c, 3, cRetired, false, 0, s1.rcbOf x, [x.rl.pc, x.rc.pc, x.rs.pc], 0, s1.time (dieOf c.cid), s1.cyc c.cid⟩ h1))
    split
    · exact h2
    · rename_i k _
      have h3 := State.modNode_gov _ k.node (fun n => { n with retc := n.retc + 1 }) h2
      split
      · split
        · exact State.endDomain_gov _ _ _ h3
        · exact h3
      · exact h3

theorem State.retireCore_gov (s : State) (cid : Nat) (hs : s.Governed) : (State.retireCore s cid).Governed := by
  unfold State.retireCore
  split
  · exact hs
  · simp only
    refine foldl_gov _ _ _ ?_ (fun s c h => State.retireCtx_gov _ _ h)
    split
    · exact State.modDie_gov _ _ _ (State.modCore_gov _ _ _ hs)
    · exact State.modCore_gov _ _ _ hs

theorem execRetire_gov (v : WordX) (s : State) (hs : s.Governed) : OutGov (execRetire v s) := by
  unfold execRetire
  grind (splits := 20) [State.Governed, EffGov, OutGov, RvGov, runP_gov, onCore_gov, State.retireCore_gov]

theorem State.bringSpare_gov (s : State) (cid : Nat) (hs : s.Governed) : (State.bringSpare s cid).Governed := by
  unfold State.bringSpare
  grind (splits := 20) [State.Governed, EffGov, OutGov, RvGov]

theorem execSpare_gov (v : WordX) (s : State) (hs : s.Governed) : OutGov (execSpare v s) := by
  unfold execSpare
  grind (splits := 20) [State.Governed, EffGov, OutGov, RvGov, runP_gov, onCore_gov, State.setS_gov, State.bringSpare_gov]

theorem State.debug_gov (s : State) (op : Nat) (rm : BitVec 3) (c : CtxId) (hs : s.Governed) : (State.debug s op rm c).Governed := by
  unfold State.debug
  grind (splits := 20) [State.Governed, EffGov, OutGov, RvGov, State.modCtx_gov, State.modDie_gov]

theorem execDbgh_gov (v : WordX) (s : State) (hs : s.Governed) : OutGov (execDbgh v s) := by
  unfold execDbgh
  grind (splits := 20) [State.Governed, EffGov, OutGov, RvGov, runP_gov, onCtx_gov, State.debug_gov, onCore_gov]

theorem effIdle_gov (v : WordX) : ∀ w x s, s.Governed → EffGov (effIdle v w x s) := by
  unfold effIdle
  grind (splits := 20) [State.Governed, EffGov, OutGov, RvGov, State.setS_gov, State.acquire_gov, State.modRole_gov]

theorem execIdle_gov (v : WordX) (s : State) (hs : s.Governed) : OutGov (execIdle v s) := by
  unfold execIdle
  grind (splits := 20) [State.Governed, EffGov, OutGov, RvGov, runWord_gov, effIdle_gov]

theorem execIdleCycleLimit_gov (s : State) (hs : s.Governed) : OutGov (execIdleCycleLimit s) := by
  unfold execIdleCycleLimit
  grind (splits := 20) [State.Governed, EffGov, OutGov, RvGov, State.lapse_gov, execIdle_gov]

theorem execTrapRecordPendingAppend_gov (s : State) (hs : s.Governed) : OutGov (execTrapRecordPendingAppend s) := by
  unfold execTrapRecordPendingAppend
  grind (splits := 20) [State.Governed, EffGov, OutGov, RvGov, State.modTrapQ_gov, State.storeRec_gov, State.endDomain_gov]

theorem State.put_gov (s : State) (no : Nat) (v : W64) (hs : s.Governed) : (State.put s no v).Governed := getD_gov _ _ hs (writeSpecial_gov _ _ _ _ _ _ _ hs)

theorem execSeedWrite_gov (s : State) (hs : s.Governed) : OutGov (execSeedWrite s) := by
  unfold execSeedWrite
  grind (splits := 20) [State.Governed, EffGov, OutGov, RvGov, State.put_gov]

theorem execWinWrite_gov (s : State) (hs : s.Governed) : OutGov (execWinWrite s) := by
  unfold execWinWrite
  grind (splits := 20) [State.Governed, EffGov, OutGov, RvGov, State.put_gov]

theorem execWlimmaxWrite_gov (s : State) (hs : s.Governed) : OutGov (execWlimmaxWrite s) := by
  unfold execWlimmaxWrite
  grind (splits := 20) [State.Governed, EffGov, OutGov, RvGov, State.put_gov]

theorem execPassThroughWrite_gov (s : State) (hs : s.Governed) : OutGov (execPassThroughWrite s) := by
  unfold execPassThroughWrite
  grind (splits := 20) [State.Governed, EffGov, OutGov, RvGov, State.writePass_gov]

theorem State.modMember_gov (s : State) (k : Kernel) (c : CtxId) (f : Ctx → Ctx) (hs : s.Governed) : (State.modMember s k c f).Governed := by
  unfold State.modMember
  grind (splits := 20) [State.Governed, EffGov, OutGov, RvGov, State.modCtx_gov]

theorem State.releaseChan_gov (s : State) (k : Kernel) (e : Nat) (hs : s.Governed) : (State.releaseChan s k e).Governed := foldl_gov _ _ _ (State.modKernel_gov _ _ _ hs) (fun s c h => State.modMember_gov _ _ _ _ h)

theorem execBarrierRelease_gov (s : State) (hs : s.Governed) : OutGov (execBarrierRelease s) := by
  unfold execBarrierRelease
  grind (splits := 20) [State.Governed, EffGov, OutGov, RvGov, State.releaseChan_gov]

theorem State.stepStart_gov (s : State) (k : Kernel) (ts : Nat) (hs : s.Governed) : (State.stepStart s k ts).Governed := foldl_gov _ _ _ hs (fun s c h => by grind [State.modCore_gov])

theorem State.releasePhase_gov (s : State) (k : Kernel) (hs : s.Governed) : (State.releasePhase s k).Governed := by
  unfold State.releasePhase
  simp only
  refine State.stepStart_gov _ _ _ (foldl_gov _ _ _ (State.modKernel_gov _ _ _ hs) (fun s c h => ?_))
  grind [State.phasePass_gov, State.modMember_gov]

theorem execPhaseBarrierRelease_gov (s : State) (hs : s.Governed) : OutGov (execPhaseBarrierRelease s) := by
  unfold execPhaseBarrierRelease
  grind (splits := 20) [State.Governed, EffGov, OutGov, RvGov, State.releasePhase_gov]

theorem execSelfDeadlock_gov (s : State) (hs : s.Governed) : OutGov (execSelfDeadlock s) := by
  unfold execSelfDeadlock
  grind (splits := 20) [State.Governed, EffGov, OutGov, RvGov, State.deliver_gov]

theorem State.timeOut_gov (s : State) (w : Who) (hs : s.Governed) : (State.timeOut s w).Governed := by
  unfold State.timeOut
  grind (splits := 20) [State.Governed, EffGov, OutGov, RvGov, State.raise_gov]

theorem execWaitTimeout_gov (s : State) (hs : s.Governed) : OutGov (execWaitTimeout s) := by
  unfold execWaitTimeout
  grind (splits := 20) [State.Governed, EffGov, OutGov, RvGov, State.timeOut_gov, State.furtherFault_gov]

theorem execHoldOffOverrun_gov (s : State) (hs : s.Governed) : OutGov (execHoldOffOverrun s) := by
  unfold execHoldOffOverrun
  grind (splits := 20) [State.Governed, EffGov, OutGov, RvGov, State.deliver_gov, State.takeAsync_gov]

theorem execDetectionWave_gov (s : State) (hs : s.Governed) : OutGov (execDetectionWave s) := by
  unfold execDetectionWave
  grind (splits := 20) [State.Governed, EffGov, OutGov, RvGov, State.modKernel_gov]

theorem execWaitcClockReached_gov (s : State) (hs : s.Governed) : OutGov (execWaitcClockReached s) := by
  unfold execWaitcClockReached
  simp only
  split
  · exact hs
  · split
    · split
      · exact hs
      · split
        · refine State.lapse_gov _ _ _ hs (fun s h => ?_)
          split
          · rename_i he
            exact (congrArg OutGov he).mp (execWaitc_gov _ _ h)
          · exact h
        · exact hs
    · exact hs

theorem execYieldEnd_gov (s : State) (hs : s.Governed) : OutGov (execYieldEnd s) := by
  unfold execYieldEnd
  grind (splits := 20) [State.Governed, EffGov, OutGov, RvGov, State.lapse_gov, State.modRole_gov]

theorem State.writeCsr_gov (s : State) (d : Nat) (k : Nat) (n : Nat) (v : W64) (hs : s.Governed) : (State.writeCsr s d k n v).Governed := by
  have hk : ∀ f, (s.modSett d k f).Governed := fun f => State.modSett_gov _ _ _ _ hs
  unfold State.writeCsr
  simp only
  repeat' apply ite_gov
  all_goals first
    | exact hk _
    | exact hs
    | exact State.kjkill_gov _ _ _ _ hs
    | exact State.writeBank_gov _ _ _ _ _ hs

theorem State.settWrite_gov (s : State) (d : Nat) (k : Nat) (a : W64) (l : List Byte) (hs : s.Governed) : ∀ so, State.settWrite s d k a l = .ok so → so.Governed := by
  intro so h
  unfold State.settWrite at h
  simp only at h
  split at h
  · cases h
  · cases h; exact State.modSett_gov _ _ _ _ hs
  · split at h
    · cases h
    · split at h
      · cases h
      · cases h; exact foldl_fst_gov _ _ _ hs (fun p a hp => State.performG_gov _ _ _ _ hp)
  · cases h

theorem Rv.ofExcept_gov (r : Except Stop State) (hr : ∀ so, r = .ok so → so.Governed) : RvGov (Rv.ofExcept r) := by
  unfold Rv.ofExcept
  grind (splits := 20) [State.Governed, EffGov, OutGov, RvGov]

theorem State.putX_gov (s : State) (d : Nat) (k : Nat) (rd : Nat) (v : W64) (hs : s.Governed) : (State.putX s d k rd v).Governed := by
  unfold State.putX
  grind (splits := 20) [State.Governed, EffGov, OutGov, RvGov, State.modSett_gov]

theorem rvLoad_gov (s : State) (d : Nat) (k : Nat) (rd : Nat) (f3 : Nat) (a : W64) (hs : s.Governed) : RvGov (rvLoad s d k rd f3 a) := by
  unfold rvLoad
  grind (splits := 20) [State.Governed, EffGov, OutGov, RvGov, State.putX_gov]

theorem rvAmo_gov (s : State) (d : Nat) (k : Nat) (w : W32) (hs : s.Governed) : RvGov (rvAmo s d k w) := by
  have hp : ∀ t : State, t.Governed → ∀ r v, (t.putX d k r v).Governed := fun t ht r v => State.putX_gov _ _ _ _ _ ht
  have hm : ∀ f, (s.modSett d k f).Governed := fun f => State.modSett_gov _ _ _ _ hs
  unfold rvAmo
  simp only
  repeat' split
  all_goals first
    | exact trivial
    | exact State.modSett_gov _ _ _ _ (hp _ hs _ _)
    | exact hp _ (hm _) _ _
    | exact hp _ (State.settWrite_gov _ _ _ _ _ hs _ ‹_›) _ _
    | exact hp _ (State.settWrite_gov _ _ _ _ _ (hm _) _ ‹_›) _ _

theorem rvSystem_gov (s : State) (d : Nat) (k : Nat) (w : W32) (hs : s.Governed) : RvGov (rvSystem s d k w) := by
  unfold rvSystem
  grind (splits := 20) [State.Governed, EffGov, OutGov, RvGov, State.modSett_gov, State.writeCsr_gov, State.putX_gov]

theorem State.fpFlags_gov (s : State) (d : Nat) (k : Nat) (b : Byte) (hs : s.Governed) : (State.fpFlags s d k b).Governed := by
  unfold State.fpFlags
  grind (splits := 20) [State.Governed, EffGov, OutGov, RvGov, State.modSett_gov]

theorem State.putFp_gov (s : State) (d : Nat) (k : Nat) (rd : Nat) (dbl : Bool) (r : Res) (hs : s.Governed) : RvGov (State.putFp s d k rd dbl r) := by
  unfold State.putFp
  grind (splits := 20) [State.Governed, EffGov, OutGov, RvGov, State.fpFlags_gov, State.modSett_gov]

theorem State.putFx_gov (s : State) (d : Nat) (k : Nat) (rd : Nat) (v : W64) (f : Flags) (hs : s.Governed) : RvGov (State.putFx s d k rd v f) := by
  unfold State.putFx
  grind (splits := 20) [State.Governed, EffGov, OutGov, RvGov, State.fpFlags_gov, State.putX_gov]

theorem rvFp_gov (s : State) (d : Nat) (k : Nat) (w : W32) (hs : s.Governed) : RvGov (rvFp s d k w) := by
  unfold rvFp
  grind (splits := 20) [State.Governed, EffGov, OutGov, RvGov, State.putFp_gov, State.fpFlags_gov, State.modSett_gov, State.putFx_gov]

theorem rvFma_gov (s : State) (d : Nat) (k : Nat) (w : W32) (negP : Bool) (negC : Bool) (hs : s.Governed) : RvGov (rvFma s d k w negP negC) := by
  unfold rvFma
  grind (splits := 20) [State.Governed, EffGov, OutGov, RvGov, State.putFp_gov]

theorem rvExec_gov (s : State) (d : Nat) (k : Nat) (w : W32) (len : Nat) (hs : s.Governed) : RvGov (rvExec s d k w len) := by
  unfold rvExec
  grind (splits := 20) [State.Governed, EffGov, OutGov, RvGov, State.putX_gov, rvLoad_gov, Rv.ofExcept_gov, State.settWrite_gov, rvAmo_gov, rvSystem_gov, State.modSett_gov, rvFma_gov, rvFp_gov]

theorem rvFinish_gov (s : State) (d : Nat) (k : Nat) (w : W32) (len : Nat) (r : Rv) (hs : s.Governed) (hr : RvGov r) : (rvFinish s d k w len r).Governed := by
  unfold rvFinish
  grind (splits := 20) [State.Governed, EffGov, OutGov, RvGov, State.modSett_gov, State.killSlot_gov]

theorem runSett_gov (w : W32) (len : Nat) (f : Nat → Nat → State → Rv) (s : State) (hf : ∀ y0 y1 y2, y2.Governed → RvGov (f y0 y1 y2)) (hs : s.Governed) : OutGov (runSett w len f s) := by
  unfold runSett
  grind (splits := 20) [State.Governed, EffGov, OutGov, RvGov, State.modSett_gov, rvFinish_gov]

theorem execSettCoreInstruction_gov (w : W32) (s : State) (hs : s.Governed) : OutGov (execSettCoreInstruction w s) := by
  unfold execSettCoreInstruction
  grind (splits := 20) [State.Governed, EffGov, OutGov, RvGov, runSett_gov, rvExec_gov]

theorem State.fetchStop_gov (s : State) (d : Nat) (k : Nat) (e : Stop) (hs : s.Governed) : (State.fetchStop s d k e).Governed := by
  unfold State.fetchStop
  grind (splits := 20) [State.Governed, EffGov, OutGov, RvGov, State.killSlot_gov, State.modSett_gov]

theorem State.settFetch_gov (s : State) (d : Nat) (k : Nat) (hs : s.Governed) : ∀ so, State.settFetch s d k = .error so → so.Governed := by
  unfold State.settFetch
  grind (splits := 20) [State.Governed, EffGov, OutGov, RvGov, State.modSett_gov, State.fetchStop_gov]

theorem State.settBegin_gov (s : State) (d : Nat) (k : Nat) (hs : s.Governed) : (State.settBegin s d k).Governed := by
  unfold State.settBegin
  grind (splits := 20) [State.Governed, EffGov, OutGov, RvGov, State.modSett_gov, State.countWatch_gov]

theorem State.modSlot_gov (s : State) (d : Nat) (k : Nat) (f : EpSlot → EpSlot) (hs : s.Governed) : (State.modSlot s d k f).Governed := by
  unfold State.modSlot
  grind (splits := 20) [State.Governed, EffGov, OutGov, RvGov, State.modSett_gov]

theorem State.mbPost_gov (s : State) (d : Nat) (k : Nat) (rew : W32) (l : List Byte) (hs : s.Governed) : ∀ so ao, State.mbPost s d k rew l = some (so, ao) → so.Governed := by
  unfold State.mbPost
  grind (splits := 20) [State.Governed, EffGov, OutGov, RvGov, State.stopSlot_gov, State.modSlot_gov]

theorem State.boxWaits_gov (s : State) (d : Nat) (k : Nat) (hs : s.Governed) : (State.boxWaits s d k).Governed := by
  unfold State.boxWaits
  grind (splits := 20) [State.Governed, EffGov, OutGov, RvGov, State.modSett_gov]

theorem State.mbTake_gov (s : State) (d : Nat) (k : Nat) (rd : Nat) (a : W64) (hs : s.Governed) : RvGov (State.mbTake s d k rd a) := by
  unfold State.mbTake
  grind (splits := 20) [State.Governed, EffGov, OutGov, RvGov, State.boxWaits_gov, State.settWrite_gov, State.modSlot_gov, State.putX_gov]

theorem mbCheck_gov (s : State) (d : Nat) (k : Nat) (a : W64) (cause : Nat) (load : Bool) (store : Bool) (f : EpSlot → List Byte → Rv) (hs : s.Governed) (hf : ∀ y0 y1, RvGov (f y0 y1)) : RvGov (mbCheck s d k a cause load store f) := by
  unfold mbCheck
  grind (splits := 20) [State.Governed, EffGov, OutGov, RvGov, State.boxWaits_gov]

theorem execMbRecv_gov (rd : BitVec 5) (rs1 : BitVec 5) (s : State) (hs : s.Governed) : OutGov (execMbRecv rd rs1 s) := by
  unfold execMbRecv
  grind (splits := 20) [State.Governed, EffGov, OutGov, RvGov, runSett_gov, mbCheck_gov, State.mbTake_gov]

theorem execMbSend_gov (rs1 : BitVec 5) (rs2 : BitVec 5) (s : State) (hs : s.Governed) : OutGov (execMbSend rs1 rs2 s) := by
  unfold execMbSend
  grind (splits := 20) [State.Governed, EffGov, OutGov, RvGov, runSett_gov, mbCheck_gov, State.mbPost_gov]

theorem execMbStep_gov (rd : BitVec 5) (rs1 : BitVec 5) (rs2 : BitVec 5) (s : State) (hs : s.Governed) : OutGov (execMbStep rd rs1 rs2 s) := by
  unfold execMbStep
  grind (splits := 20) [State.Governed, EffGov, OutGov, RvGov, runSett_gov, State.modSlot_gov, mbCheck_gov, State.mbTake_gov, State.boxWaits_gov, State.mbPost_gov]

theorem execMbDone_gov (rs1 : BitVec 5) (rs2 : BitVec 5) (s : State) (hs : s.Governed) : OutGov (execMbDone rs1 rs2 s) := by
  unfold execMbDone
  grind (splits := 20) [State.Governed, EffGov, OutGov, RvGov, runSett_gov, mbCheck_gov, State.modSlot_gov]

theorem execMbStat_gov (rd : BitVec 5) (s : State) (hs : s.Governed) : OutGov (execMbStat rd s) := by
  unfold execMbStat
  grind (splits := 20) [State.Governed, EffGov, OutGov, RvGov, runSett_gov, State.putX_gov]

theorem execMbVer_gov (rd : BitVec 5) (s : State) (hs : s.Governed) : OutGov (execMbVer rd s) := by
  unfold execMbVer
  grind (splits := 20) [State.Governed, EffGov, OutGov, RvGov, runSett_gov, State.putX_gov]

end Sys2Proof.Machine
end

