-- ==== Sys2Proof/Laws/GovernedSystem.lean ====
section
/-! SUPPORT. What each operation and meaning keeps of the invariant of the machine, `State.Governed`: the rows of the system. -/

set_option Elab.async false
namespace Sys2Proof.Machine

theorem State.storeRuns_gov (s : State) (part : Nat) (z2 : List (Nat × Nat)) (z3 : List Byte) (hs : s.Governed) : ∀ so, State.storeRuns s part z2 z3 = some so → so.Governed := by
  induction z2 generalizing s z3 with
  | nil => simp only [State.storeRuns]; grind
  | cons a r ih => unfold State.storeRuns; grind [State.writeRun_gov]

theorem State.ckWrite_gov (s : State) (r : Ckpt) (off : Nat) (l : List Byte) (hs : s.Governed) : ∀ so, State.ckWrite s r off l = some so → so.Governed := by
  intro so h
  unfold State.ckWrite at h
  by_cases h1 : r.dkind < 2
  · rw [if_pos h1] at h
    split at h
    · cases h; exact hs
    · cases h
  · rw [if_neg h1] at h
    by_cases h2 : (!s.fabOn) = true
    · rw [if_pos h2] at h; cases h
    · rw [if_neg h2] at h
      by_cases h3 : r.pkg = s.fab.pkgid
      · rw [if_pos h3] at h
        split at h
        · exact State.storeRuns_gov _ _ _ _ hs _ h
        · cases h
      · rw [if_neg h3] at h
        cases h; exact hs

theorem State.ckProgress_gov (s : State) (r : Ckpt) (state : Nat) (fail : Nat) (tdone : Nat) (hs : s.Governed) : (State.ckProgress s r state fail tdone).Governed := getD_gov _ _ hs (State.ckWrite_gov _ _ _ _ hs)

theorem State.setCk_gov (s : State) (k : CkKernel) (hs : s.Governed) : (State.setCk s k).Governed := by
  unfold State.setCk
  grind (splits := 20) [State.Governed, EffGov, OutGov, RvGov]

theorem State.modReq_gov (s : State) (r : Ckpt) (f : Ckpt → Ckpt) (hs : s.Governed) : (State.modReq s r f).Governed := by
  unfold State.modReq
  grind (splits := 20) [State.Governed, EffGov, OutGov, RvGov]

theorem State.dropReq_gov (s : State) (r : Ckpt) (hs : s.Governed) : (State.dropReq s r).Governed := by
  unfold State.dropReq
  grind (splits := 20) [State.Governed, EffGov, OutGov, RvGov]

theorem State.holdCkpt_gov (s : State) (k : Kernel) (hs : s.Governed) : (State.holdCkpt s k).Governed := foldl_gov _ _ _ hs (fun s c h => State.modMember_gov _ _ _ _ h)

theorem State.takeCkpt_gov (s : State) (k : Kernel) (hs : s.Governed) : (State.takeCkpt s k).Governed := foldl_gov _ _ _ hs (fun s c h => State.modMember_gov _ _ _ _ h)

theorem effCkpt_gov (v : WordX) : ∀ w x s, s.Governed → EffGov (effCkpt v w x s) := by
  unfold effCkpt
  grind (splits := 20) [State.Governed, EffGov, OutGov, RvGov, State.ckProgress_gov, State.setCk_gov, State.setS_gov, State.holdCkpt_gov]

theorem execCkpt_gov (v : WordX) (s : State) (hs : s.Governed) : OutGov (execCkpt v s) := by
  unfold execCkpt
  grind (splits := 20) [State.Governed, EffGov, OutGov, RvGov, runP_gov, effCkpt_gov]

theorem execBitmapFreeze_gov (s : State) (hs : s.Governed) : OutGov (execBitmapFreeze s) := by
  unfold execBitmapFreeze
  grind (splits := 20) [State.Governed, EffGov, OutGov, RvGov, State.setCk_gov, State.modReq_gov, State.ckProgress_gov, State.takeCkpt_gov]

theorem State.unprotect_gov (s : State) (l : List Nat) (hs : s.Governed) : (State.unprotect s l).Governed := by
  unfold State.unprotect
  grind (splits := 20) [State.Governed, EffGov, OutGov, RvGov, State.flushDev_gov]

theorem State.ckFailed_gov (s : State) (r : Ckpt) (hs : s.Governed) : (State.ckFailed s r).Governed := by
  unfold State.ckFailed
  grind (splits := 20) [State.Governed, EffGov, OutGov, RvGov, State.ckProgress_gov, State.dropReq_gov]

theorem State.failCk_gov (s : State) (r : Ckpt) (fail : Nat) (hs : s.Governed) : (State.failCk s r fail).Governed := by
  unfold State.failCk
  grind (splits := 20) [State.Governed, EffGov, OutGov, RvGov, State.unprotect_gov, State.modReq_gov, State.setCk_gov, State.post_gov, State.ckFailed_gov]

theorem execCheckpointPageCopy_gov (s : State) (hs : s.Governed) : OutGov (execCheckpointPageCopy s) := by
  unfold execCheckpointPageCopy
  split
  · exact hs
  · split
    · exact hs
    · simp only
      split
      · exact State.failCk_gov _ _ _ hs
      · split
        · exact State.failCk_gov _ _ _ hs
        · split
          · exact State.failCk_gov _ _ _ hs
          · rename_i h1
            have g1 := State.ckWrite_gov _ _ _ _ hs _ h1
            split
            · exact State.failCk_gov _ _ _ hs
            · rename_i h2
              have g2 := State.ckWrite_gov _ _ _ _ g1 _ h2
              exact State.unprotect_gov _ _ (State.modReq_gov _ _ _ g2)

theorem execCopyOnWrite_gov (s : State) (hs : s.Governed) : OutGov (execCopyOnWrite s) := by
  unfold execCopyOnWrite
  grind (splits := 20) [State.Governed, EffGov, OutGov, RvGov, State.saveSide_gov]

theorem State.ckDone_gov (s : State) (r : Ckpt) (hs : s.Governed) : (State.ckDone s r).Governed := by
  unfold State.ckDone
  grind (splits := 20) [State.Governed, EffGov, OutGov, RvGov, State.ckProgress_gov, State.setCk_gov, State.dropReq_gov]

theorem State.ckAnswer_gov (s : State) (p : Packet) (kernel : Nat) (no : Nat) (rejected : Bool) (hs : s.Governed) : (State.ckAnswer s p kernel no rejected).Governed := by
  unfold State.ckAnswer
  grind (splits := 20) [State.Governed, EffGov, OutGov, RvGov, State.dropPkt_gov, State.failCk_gov]

theorem execCheckpointComplete_gov (s : State) (hs : s.Governed) : OutGov (execCheckpointComplete s) := by
  unfold execCheckpointComplete
  grind (splits := 20) [State.Governed, EffGov, OutGov, RvGov, State.failCk_gov, State.ckWrite_gov, State.ckDone_gov, State.modReq_gov]

theorem execCheckpointFailure_gov (s : State) (hs : s.Governed) : OutGov (execCheckpointFailure s) := by
  unfold execCheckpointFailure
  grind (splits := 20) [State.Governed, EffGov, OutGov, RvGov, State.ckFailed_gov, State.failCk_gov]

theorem State.lateFault_gov (s : State) (c : CtxId) (f : Flight) (cause : Nat) (val : W64) (hs : s.Governed) : (State.lateFault s c f cause val).Governed := by
  unfold State.lateFault
  grind (splits := 20) [State.Governed, EffGov, OutGov, RvGov, State.deliverAt_gov, State.modCtx_gov]

theorem State.failAccess_gov (s : State) (c : CtxId) (x : Ctx) (f : Flight) (cause : Nat) (val : W64) (hs : s.Governed) : (State.failAccess s c x f cause val).Governed := by
  unfold State.failAccess
  grind (splits := 20) [State.Governed, EffGov, OutGov, RvGov, State.lateFault_gov, State.modCtx_gov]

theorem State.gotData_gov (s : State) (c : CtxId) (f : Flight) (l : List Byte) (hs : s.Governed) : (State.gotData s c f l).Governed := by
  unfold State.gotData
  grind (splits := 20) [State.Governed, EffGov, OutGov, RvGov, State.modCtx_gov, State.release_gov, State.acquireNow_gov]

theorem State.keepPages_gov (s : State) (c : CtxId) (x : Ctx) (f : Flight) (hs : s.Governed) : (State.keepPages s c x f).Governed := by
  unfold State.keepPages
  grind (splits := 20) [State.Governed, EffGov, OutGov, RvGov, State.keepLeaves_gov]

theorem State.loadG_gov (s : State) (c : CtxId) (f : Flight) (pick : List Byte) (l : List (Nat × Nat)) (hs : s.Governed) : (State.loadG s c f pick l).2.Governed := by
  unfold State.loadG
  simp only
  repeat' split
  all_goals first
    | exact hs
    | exact foldl_gov _ _ _ hs (fun s a h => by grind [State.fillLine_gov])

theorem State.performLoad_gov (s : State) (c : CtxId) (x : Ctx) (f : Flight) (hs : s.Governed) : ∀ so, State.performLoad s c x f = some so → so.Governed := by
  unfold State.performLoad
  have hl : ∀ l, ((s.loadG c f s.inp.data l).2).Governed := fun l => State.loadG_gov _ _ _ _ _ hs
  grind (splits := 20) [State.gotData_gov, State.failAccess_gov]

theorem State.performAt_gov (s : State) (c : CtxId) (x : Ctx) (f : Flight) (perform : State → Flight → Option State) (hs : s.Governed) (hperform : ∀ y0 y1, y0.Governed → ∀ so, perform y0 y1 = some so → so.Governed) : ∀ so, State.performAt s c x f perform = some so → so.Governed := by
  unfold State.performAt
  grind (splits := 20) [State.Governed, EffGov, OutGov, RvGov, State.keepPages_gov, State.failAccess_gov]

theorem State.writeBack_gov (s : State) (c : CtxId) (f : Flight) (l : List Byte) (hs : s.Governed) : (State.writeBack s c f l).Governed := by
  unfold State.writeBack
  grind (splits := 20) [State.Governed, EffGov, OutGov, RvGov, State.modCtx_gov]

theorem State.hostFault_gov (s : State) (c : CtxId) (x : Ctx) (f : Flight) (bit : BitVec 5) (hs : s.Governed) : (State.hostFault s c x f bit).Governed := by
  unfold State.hostFault
  grind (splits := 20) [State.Governed, EffGov, OutGov, RvGov, State.failAccess_gov, State.modWindow_gov]

theorem execLoadDataWrite_gov (s : State) (hs : s.Governed) : OutGov (execLoadDataWrite s) := by
  have hp : ∀ x f, ∀ so, s.performAt s.inp.c x f (fun t g => t.performLoad s.inp.c x g) = some so → so.Governed :=
    fun x f => State.performAt_gov _ _ _ _ _ hs (fun t g ht => State.performLoad_gov _ _ _ _ ht)
  unfold execLoadDataWrite
  simp only
  split
  · exact hs
  · split
    · exact hs
    · split
      · exact State.writeBack_gov _ _ _ _ hs
      · split
        · exact ite_gov (State.lateFault_gov _ _ _ _ _ hs) hs
        · split
          · exact State.hostFault_gov _ _ _ _ _ hs
          · split
            · exact hs
            · split
              · exact hs
              · rename_i h1
                split
                · exact ite_gov (hp _ _ _ h1) (State.writeBack_gov _ _ _ _ (hp _ _ _ h1))
                · exact hp _ _ _ h1

theorem State.atomA_gov (s : State) (d : CtxId) (off : Nat) (o : AtomOp) (hs : s.Governed) : ∀ ao so, State.atomA s d off o = some (ao, so) → so.Governed := by
  unfold State.atomA
  grind (splits := 20) [State.Governed, EffGov, OutGov, RvGov, State.putA_gov]

theorem State.atomG_gov (s : State) (cid : Nat) (r : Role) (pa : Nat) (o : AtomOp) (hs : s.Governed) : (State.atomG s cid r pa o).2.Governed := by
  unfold State.atomG
  grind (splits := 20) [State.Governed, EffGov, OutGov, RvGov, State.modCore_gov, State.writeG_gov]

theorem State.performAtomic_gov (s : State) (c : CtxId) (x : Ctx) (f : Flight) (o : AtomOp) (hs : s.Governed) : ∀ so, State.performAtomic s c x f o = some so → so.Governed := by
  intro so h
  unfold State.performAtomic at h
  simp only at h
  have hb := State.failAccess_gov s c x f cMemory f.va hs
  split at h
  · split at h
    · cases h
    · split at h
      · cases h; exact hb
      · simp only [Option.map_eq_some_iff] at h
        obtain ⟨r, hr, rfl⟩ := h
        exact State.gotData_gov _ _ _ _ (State.atomA_gov _ _ _ _ hs _ _ hr)
  · split at h
    · cases h; exact hb
    · split at h
      · cases h
      · cases h; exact State.gotData_gov _ _ _ _ (State.atomG_gov _ _ _ _ _ hs)
  · cases h; exact State.gotData_gov _ _ _ _ (State.claimIndex_gov _ _ _ hs)
  · cases h

theorem execAtomicPerform_gov (s : State) (hs : s.Governed) : OutGov (execAtomicPerform s) := by
  unfold execAtomicPerform
  simp only
  repeat' split
  all_goals first
    | exact hs
    | exact getD_gov _ _ hs (State.performAt_gov _ _ _ _ _ hs (fun t g ht => State.performAtomic_gov _ _ _ _ _ ht))

theorem State.rejectSto_gov (s : State) (c : CtxId) (hs : s.Governed) : (State.rejectSto s c).Governed := by
  unfold State.rejectSto
  grind (splits := 20) [State.Governed, EffGov, OutGov, RvGov, State.modCtx_gov]

theorem State.sendSto_gov (s : State) (e : StoreEnt) (gid : Nat) (off : Nat) (hs : s.Governed) : (State.sendSto s e gid off).Governed := by
  unfold State.sendSto
  grind (splits := 20) [State.Governed, EffGov, OutGov, RvGov, State.rejectSto_gov]

theorem State.storeParts_gov (s : State) (cid : Nat) (e : StoreEnt) (z3 : List (Nat × Nat)) (z4 : List Byte) (hs : s.Governed) : (State.storeParts s cid e z3 z4).Governed := by
  induction z3 generalizing s z4 with
  | nil => exact hs
  | cons a r ih => exact ih _ _ (State.modCore_gov _ _ _ (State.performG_gov _ _ _ _ hs))

theorem State.publishLog_gov (s : State) (part : Nat) (r : InvRec) (hs : s.Governed) : (State.publishLog s part r).Governed := foldl_gov _ _ _ hs (fun s d h => State.appendLog_gov _ _ _ _ h)

theorem State.performStore_gov (s : State) (e : StoreEnt) (x : Ctx) (hs : s.Governed) : ∀ so, State.performStore s e x = some so → so.Governed := by
  intro so h
  unfold State.performStore at h
  simp only at h
  split at h
  · split at h
    · cases h; exact foldl_gov _ _ _ (State.putA_gov _ _ _ _ hs) (fun s m h => State.putA_gov _ _ _ _ h)
    · cases h; exact State.modCtx_gov _ _ _ hs
  · split at h
    · cases h
    · cases h; exact State.storeParts_gov _ _ _ _ _ hs
  · cases h; exact State.writeWindow_gov _ _ _ _ hs
  · cases h; exact hs
  · cases h; exact State.modCtx_gov _ _ _ hs
  · split at h
    · cases h; exact State.sendSto_gov _ _ _ _ hs
    · cases h
  · split at h
    · cases h; exact hs
    · cases h; exact State.modWindow_gov _ _ _ _ hs
  · split at h
    · cases h; exact State.publishLog_gov _ _ _ hs
    · cases h

theorem execStoreBufferDrain_gov (s : State) (hs : s.Governed) : OutGov (execStoreBufferDrain s) := by
  unfold execStoreBufferDrain
  grind (splits := 20) [State.Governed, EffGov, OutGov, RvGov, State.modCore_gov, State.performStore_gov, State.release_gov]

theorem State.kStore_gov (s : State) (c : CtxId) (x : Ctx) (e : StoreEnt) (hs : s.Governed) : (State.kStore s c x e).Governed := by
  unfold State.kStore
  grind (splits := 20) [State.Governed, EffGov, OutGov, RvGov, State.modCtx_gov, State.putA_gov]

theorem State.kAccess_gov (s : State) (c : CtxId) (x : Ctx) (f : Flight) (hs : s.Governed) : (State.kAccess s c x f).Governed := by
  unfold State.kAccess
  grind (splits := 20) [State.Governed, EffGov, OutGov, RvGov, State.failAccess_gov, State.atomA_gov, State.gotData_gov]

theorem State.kObject_gov (s : State) (w : Who) (x : Ctx) (hs : s.Governed) : (State.kObject s w x).Governed := by
  unfold State.kObject
  grind (splits := 20) [State.Governed, EffGov, OutGov, RvGov, State.modRole_gov, execCbini_gov, execCbclm_gov, execCbpub_gov, execCbtak_gov, execCbrel_gov, execDqini_gov, execDqpsh_gov, execDqpop_gov, execDqstl_gov]

theorem execClusterMessagePerform_gov (s : State) (hs : s.Governed) : OutGov (execClusterMessagePerform s) := by
  unfold execClusterMessagePerform
  grind (splits := 20) [State.Governed, EffGov, OutGov, RvGov, State.kObject_gov, State.kStore_gov, State.kAccess_gov]

theorem State.serve_gov (s : State) (key : W16) (va : Nat) (op : InboundOp) (hs : s.Governed) : ∀ lo so, State.serve s key va op = .ok lo so → so.Governed := by
  intro lo so h
  unfold State.serve at h
  split at h
  · cases h
  · split at h
    · split at h <;> cases h
      exact hs
    · split at h <;> cases h
      exact storePages_gov _ _ _ _ _ hs _ (by assumption)
    · simp only at h
      repeat' split at h
      all_goals first
        | (injection h; done)
        | (injection h with _ h; subst h; exact State.writeG_gov _ _ _ _ hs)

theorem State.acked_gov (s : State) (c : CtxId) (rejected : Bool) (hs : s.Governed) : (State.acked s c rejected).Governed := by
  unfold State.acked
  grind (splits := 20) [State.Governed, EffGov, OutGov, RvGov, State.modCtx_gov]

theorem State.endF_gov (s : State) (p : Packet) (id : Nat) (r : Except Nat (List Byte)) (hs : s.Governed) : (State.endF s p id r).Governed := by
  unfold State.endF
  grind (splits := 20) [State.Governed, EffGov, OutGov, RvGov, State.dropPkt_gov, State.gotData_gov, State.modCtx_gov, State.failAccess_gov]

theorem State.loopback_gov (s : State) (p : Packet) (hs : s.Governed) : (State.loopback s p).Governed := by
  unfold State.loopback
  simp only
  repeat' split
  all_goals first
    | exact hs
    | exact (State.serve_gov s _ _ _ hs _ _ ‹_› :)
    | exact State.dropPkt_gov _ _ hs
    | exact State.endF_gov _ _ _ _ hs
    | exact State.endF_gov _ _ _ _ (State.serve_gov s _ _ _ hs _ _ ‹_›)

theorem execFAccessArrival_gov (s : State) (hs : s.Governed) : OutGov (execFAccessArrival s) := by
  unfold execFAccessArrival
  repeat' split
  all_goals first
    | exact hs
    | exact State.loopback_gov _ _ hs
    | exact State.endF_gov _ _ _ _ hs
    | exact State.goltikIn_gov _ _ _ _ _ hs
    | exact State.serve_gov s _ _ _ hs _ _ (by assumption)

theorem State.engineAnswer_gov (s : State) (p : Packet) (store : Bool) (acc : Nat) (rejected : Bool) (hs : s.Governed) : (State.engineAnswer s p store acc rejected).Governed := by
  unfold State.engineAnswer
  grind (splits := 20) [State.Governed, EffGov, OutGov, RvGov, State.dropPkt_gov, State.modCtx_gov]

theorem execStfAcknowledgement_gov (s : State) (hs : s.Governed) : OutGov (execStfAcknowledgement s) := by
  unfold execStfAcknowledgement
  grind (splits := 20) [State.Governed, EffGov, OutGov, RvGov, State.engineAnswer_gov, State.ckAnswer_gov, State.acked_gov, State.dropPkt_gov]

theorem State.dropSto_gov (s : State) (tag : Nat) (hs : s.Governed) : (State.dropSto s tag).Governed := by
  unfold State.dropSto
  grind (splits := 20) [State.Governed, EffGov, OutGov, RvGov]

theorem State.stoCrc_gov (s : State) (tag : Nat) (hs : s.Governed) : (State.stoCrc s tag).Governed := by
  unfold State.stoCrc
  grind (splits := 20) [State.Governed, EffGov, OutGov, RvGov, State.rejectSto_gov, State.dropSto_gov]

theorem execPacketCrcFailure_gov (s : State) (hs : s.Governed) : OutGov (execPacketCrcFailure s) := by
  unfold execPacketCrcFailure
  grind (splits := 20) [State.Governed, EffGov, OutGov, RvGov, State.stoCrc_gov, State.endF_gov, State.post_gov, State.dropPkt_gov, State.acked_gov]

theorem execLinkCrcRetry_gov (s : State) (hs : s.Governed) : OutGov (execLinkCrcRetry s) := by
  unfold execLinkCrcRetry
  grind (splits := 20) [State.Governed, EffGov, OutGov, RvGov]

theorem execLdhCompletion_gov (s : State) (hs : s.Governed) : OutGov (execLdhCompletion s) := by
  unfold execLdhCompletion
  grind (splits := 20) [State.Governed, EffGov, OutGov, RvGov, State.gotData_gov, State.hostFault_gov]

theorem execCompletionTimeout_gov (s : State) (hs : s.Governed) : OutGov (execCompletionTimeout s) := by
  unfold execCompletionTimeout
  grind (splits := 20) [State.Governed, EffGov, OutGov, RvGov, State.hostFault_gov]

theorem execTranslationWalk_gov (s : State) (hs : s.Governed) : OutGov (execTranslationWalk s) := by
  unfold execTranslationWalk
  grind (splits := 20) [State.Governed, EffGov, OutGov, RvGov, State.modCore_gov, State.raise_gov]

theorem State.fsts_gov (s : State) (fop : Byte) (err : Nat) (hs : s.Governed) : (State.fsts s fop err).Governed := by
  unfold State.fsts
  grind (splits := 20) [State.Governed, EffGov, OutGov, RvGov]

theorem State.request_gov (s : State) (fop : Byte) (checks : List (Bool × Nat)) (f : Fabric → Fabric) (hs : s.Governed) : (State.request s fop checks f).Governed := by
  unfold State.request
  grind (splits := 20) [State.Governed, EffGov, OutGov, RvGov, State.fsts_gov]

theorem execSetid_gov (s : State) (hs : s.Governed) : OutGov (execSetid s) := by
  unfold execSetid
  grind (splits := 20) [State.Governed, EffGov, OutGov, RvGov, State.request_gov]

theorem execRoute_gov (s : State) (hs : s.Governed) : OutGov (execRoute s) := by
  unfold execRoute
  grind (splits := 20) [State.Governed, EffGov, OutGov, RvGov, State.request_gov]

theorem State.clearG_gov (s : State) (pa : Nat) (n : Nat) (hs : s.Governed) : (State.clearG s pa n).Governed := by
  unfold State.clearG
  have := State.saveSide_gov s (pageOf pa) hs
  exact ite_gov hs ⟨Mem.filter_wf _ this.1, this.2⟩

theorem execGinst_gov (s : State) (hs : s.Governed) : OutGov (execGinst s) := by
  unfold execGinst
  extract_lets a gid wlog memb part va pages bad t
  have ht : t.Governed := State.request_gov _ _ _ _ hs
  split
  · exact ht
  · exact foldl_gov _ _ _ ht (fun s p h => State.clearG_gov _ _ _ h)

theorem execGrem_gov (s : State) (hs : s.Governed) : OutGov (execGrem s) := by
  unfold execGrem
  grind (splits := 20) [State.Governed, EffGov, OutGov, RvGov, State.request_gov]

theorem execSeq_gov (s : State) (hs : s.Governed) : OutGov (execSeq s) := by
  unfold execSeq
  grind (splits := 20) [State.Governed, EffGov, OutGov, RvGov, State.request_gov]

theorem execKey_gov (s : State) (hs : s.Governed) : OutGov (execKey s) := by
  unfold execKey
  grind (splits := 20) [State.Governed, EffGov, OutGov, RvGov, State.request_gov]

theorem State.modGroup_gov (s : State) (gid : Nat) (f : Group → Group) (hs : s.Governed) : (State.modGroup s gid f).Governed := by
  unfold State.modGroup
  grind (splits := 20) [State.Governed, EffGov, OutGov, RvGov]

theorem State.modSeq_gov (s : State) (gid : Nat) (f : Sequencer → Sequencer) (hs : s.Governed) : (State.modSeq s gid f).Governed := by
  unfold State.modSeq
  grind (splits := 20) [State.Governed, EffGov, OutGov, RvGov]

theorem State.modSto_gov (s : State) (tag : Nat) (f : StoOut → StoOut) (hs : s.Governed) : (State.modSto s tag f).Governed := by
  unfold State.modSto
  grind (splits := 20) [State.Governed, EffGov, OutGov, RvGov]

theorem State.stamp_gov (s : State) (q : Sequencer) (pkg : Nat) (cid : Nat) (tag : Nat) (off : Nat) (l : List Byte) (hs : s.Governed) : (State.stamp s q pkg cid tag off l).Governed := by
  unfold State.stamp
  grind (splits := 20) [State.Governed, EffGov, OutGov, RvGov, State.modGroup_gov, State.modSeq_gov]

theorem execStoStamp_gov (s : State) (hs : s.Governed) : OutGov (execStoStamp s) := by
  unfold execStoStamp
  grind (splits := 20) [State.Governed, EffGov, OutGov, RvGov, State.rejectSto_gov, State.dropSto_gov, State.modSto_gov, State.stamp_gov]

theorem State.applyStore_gov (s : State) (gid : Nat) (pkg : Nat) (tag : Nat) (off : Nat) (l : List Byte) (hs : s.Governed) : (State.applyStore s gid pkg tag off l).Governed := by
  unfold State.applyStore
  split
  · exact hs
  · rename_i g _
    have h1 := foldl_fst_gov (g.parts off l.length) (fun (r : State × List Byte) p => (r.1.performDev p.1 (g.va + off) (r.2.take p.2), r.2.drop p.2)) (s, l) hs
      (fun p a h => State.performDev_gov _ _ _ _ h)
    exact ite_gov (State.modSto_gov _ _ _ (State.modGroup_gov _ _ _ h1)) (State.modGroup_gov _ _ _ h1)

theorem State.stampedIn_gov (s : State) (gid : Nat) (n : Nat) (e : Stamped) (hs : s.Governed) : (State.stampedIn s gid n e).Governed := by
  unfold State.stampedIn
  grind (splits := 20) [State.Governed, EffGov, OutGov, RvGov, State.modGroup_gov, State.modSto_gov]

theorem execStampedStoreApply_gov (s : State) (hs : s.Governed) : OutGov (execStampedStoreApply s) := by
  unfold execStampedStoreApply
  grind (splits := 20) [State.Governed, EffGov, OutGov, RvGov, State.stampedIn_gov, State.applyStore_gov]

theorem execStampAcknowledgement_gov (s : State) (hs : s.Governed) : OutGov (execStampAcknowledgement s) := by
  unfold execStampAcknowledgement
  grind (splits := 20) [State.Governed, EffGov, OutGov, RvGov, State.rejectSto_gov, State.dropSto_gov, State.modSeq_gov]

theorem State.settle_gov (s : State) (gid : Nat) (hs : s.Governed) : (State.settle s gid).Governed := foldl_gov _ _ _ hs (fun s o h => ite_gov (State.dropSto_gov _ _ h) (State.rejectSto_gov _ _ (State.dropSto_gov _ _ h)))

theorem execGroupReFormation_gov (s : State) (hs : s.Governed) : OutGov (execGroupReFormation s) := by
  unfold execGroupReFormation
  split
  · exact State.modGroup_gov _ _ _ hs
  · simp only
    have h1 := State.modSeq_gov s s.inp.gid
    split
    · exact h1 _ hs
    · split
      · exact hs
      · exact State.modGroup_gov _ _ _ (State.settle_gov _ _ (foldl_gov _ _ _ (h1 _ hs) (fun s e h => State.applyStore_gov _ _ _ _ _ _ h)))

theorem State.pick_gov {α : Type} (s : State) (l : List α) (hs : s.Governed) : ∀ ao so, State.pick s l = some (ao, so) → so.Governed := by
  unfold State.pick
  grind (splits := 20) [State.Governed, EffGov, OutGov, RvGov, State.free_gov]

theorem State.grantFlags_gov (s : State) (reqs : List FlowReq) (hs : s.Governed) : ∀ ao so, State.grantFlags s reqs = some (ao, so) → so.Governed := by
  intro ao so h
  unfold State.grantFlags at h
  refine foldl_opt_gov _ _ _ ?_ ?_ (ao, so) h
  · rintro _ ⟨⟩; exact hs
  · intro o a ih p hp
    split at hp
    · cases hp
    · simp only at hp
      split at hp
      · cases hp; have := ih _ rfl; exact this
      · split at hp
        · cases hp
          exact State.pick_gov _ _ (ih _ rfl) _ _ (by assumption)
        · cases hp

theorem State.grantFlow_gov (s : State) (k : Kernel) (mine : List Flow) (sets : List FlagSet) (r : FlowReq) (hs : s.Governed) : ∀ ao so, State.grantFlow s k mine sets r = some (ao, so) → so.Governed := by
  intro ao so h
  unfold State.grantFlow at h
  simp only at h
  split at h
  · rename_i hp1
    split at h
    · rename_i hp2
      simp only [Option.map_eq_some_iff] at h
      obtain ⟨e, _, he⟩ := h
      cases he
      have g1 := State.pick_gov _ _ hs _ _ hp1
      have g2 := State.pick_gov _ _ g1 _ _ hp2
      exact g2
    · cases h
  · cases h

theorem State.grantFlows_gov (s : State) (k : Kernel) (reqs : List FlowReq) (hs : s.Governed) : ∀ ao so, State.grantFlows s k reqs = some (ao, so) → so.Governed := by
  intro ao so h
  unfold State.grantFlows at h
  split at h
  · cases h
  · rename_i h0
    simp only [Option.map_eq_some_iff] at h
    obtain ⟨e, he, h⟩ := h
    cases h
    refine foldl_opt_gov _ _ _ ?_ ?_ e he
    · rintro _ ⟨⟩; exact State.grantFlags_gov _ _ hs _ _ h0
    · intro o a ih p hp
      split at hp
      · cases hp
      · simp only [Option.map_eq_some_iff] at hp
        obtain ⟨q, hq, rfl⟩ := hp
        exact State.grantFlow_gov _ _ _ _ _ (ih _ rfl) _ _ hq

theorem State.placeLeaf_gov (s : State) (r : RNode) (n : Node) (pref : List Nat) (hs : s.Governed) : ∀ so, State.placeLeaf s r n pref = .ok so → so.Governed := by
  intro so h
  unfold State.placeLeaf at h
  simp only at h
  split at h
  · split at h
    · cases h
    · split at h
      · cases h
      · rename_i hb
        split at h
        · cases h
        · split at h
          · cases h
          · cases h
            simp only [Option.bind_eq_some_iff] at hb
            obtain ⟨a, _, ha⟩ := hb
            have g := State.grantFlows_gov _ _ _ hs _ _ ha
            exact g
  · cases h
  · cases h

theorem State.placeAll_gov (s : State) (pref : List Nat) (z2 : Nat) (z3 : List (RNode × Node)) (hs : s.Governed) : ∀ so, State.placeAll s pref z2 z3 = .ok so → so.Governed := by
  induction z3 generalizing s z2 with
  | nil => rintro so ⟨⟩; exact hs
  | cons a l ih =>
    obtain ⟨r, n⟩ := a
    intro so h
    unfold State.placeAll at h
    split at h
    · exact ih _ _ hs _ h
    · split at h
      · cases h
      · exact ih _ _ (State.placeLeaf_gov _ _ _ _ hs _ ‹_›) _ h

theorem State.rejectTree_gov (s : State) (q : LQueue) (l : List (RNode × Node)) (bad : Nat) (code : Nat) (hs : s.Governed) : (State.rejectTree s q l bad code).Governed := by
  unfold State.rejectTree
  simp only
  have h1 : ∀ (l : List (RNode × Node)) (a : RNode × Node → Nat) (b : RNode × Node → List Byte) (s : State), s.Governed →
      (l.foldl (fun (s : State) e => s.tryWrite q.part (a e) (b e)) s).Governed :=
    fun l a b s hs => foldl_gov _ _ _ hs (fun s e h => State.tryWrite_gov _ _ _ _ h)
  refine ite_gov ?_ ?_
  · exact foldl_gov _ _ _ (h1 _ _ _ _ hs) (fun s e h => State.tryWrite_gov _ _ _ _ h)
  · exact foldl_gov _ _ _ (h1 _ _ _ _ hs) (fun s e h => State.tryWrite_gov _ _ _ _ h)

theorem State.acceptTree_gov (s : State) (q : LQueue) (ns : List Node) (leaf : Option Node) (hs : s.Governed) : (State.acceptTree s q ns leaf).Governed := by
  have hw : ∀ (l : List Node) (s : State), s.Governed → (l.foldl (fun (s : State) n => s.tryWrite q.part (n.rcb + 0x28) (bytesN n.status 8)) s).Governed :=
    fun l s h => foldl_gov _ _ _ h (fun s e h => State.tryWrite_gov _ _ _ _ h)
  unfold State.acceptTree
  simp only
  refine foldl_gov _ _ _ (hw _ _ ?_) (fun s e h => endNode_gov _ _ _ _ _ h)
  split
  · exact State.modNode_gov _ _ _ hs
  · exact hs

theorem State.admitTree_gov (s : State) (q : LQueue) (a : Nat) (who : Option Appender) (noCkpt : Bool) (pref : List Nat) (hs : s.Governed) : ∀ so, State.admitTree s q a who noCkpt pref = some so → so.Governed := by
  unfold State.admitTree
  grind (splits := 20) [State.Governed, EffGov, OutGov, RvGov, State.rejectTree_gov, State.placeAll_gov, State.acceptTree_gov]

theorem State.passEntry_gov (s : State) (q : LQueue) (hs : s.Governed) : (State.passEntry s q).Governed := by
  unfold State.passEntry
  grind (splits := 20) [State.Governed, EffGov, OutGov, RvGov, State.modQueue_gov, State.tryWrite_gov]

theorem State.withGoltik_gov (s : State) (hs : s.Governed) : (State.withGoltik s).Governed := by
  unfold State.withGoltik
  grind (splits := 20) [State.Governed, EffGov, OutGov, RvGov, State.setGoltik_gov]

theorem execAdmission_gov (s0 : State) (hs0 : s0.Governed) : OutGov (execAdmission s0) := by
  unfold execAdmission
  grind (splits := 20) [State.Governed, EffGov, OutGov, RvGov, State.withGoltik_gov, State.passEntry_gov, State.admitTree_gov]

theorem execResidueMismatch_gov (s : State) (hs : s.Governed) : OutGov (execResidueMismatch s) := by
  unfold execResidueMismatch
  grind (splits := 20) [State.Governed, EffGov, OutGov, RvGov, State.modCtx_gov, State.retireCore_gov, State.post_gov]

theorem State.poisonAt_gov (s : State) (z1 : MemSite) (hs : s.Governed) : (State.poisonAt s z1).Governed := by
  unfold State.poisonAt
  grind (splits := 20) [State.Governed, EffGov, OutGov, RvGov, State.modCore_gov, State.modCtx_gov, State.modSett_gov]

theorem execUncorrectableMemoryError_gov (s : State) (hs : s.Governed) : OutGov (execUncorrectableMemoryError s) := by
  unfold execUncorrectableMemoryError
  grind (splits := 20) [State.Governed, EffGov, OutGov, RvGov, State.raise_gov, State.poisonAt_gov]

theorem State.scrubAt_gov (s : State) (z1 : MemSite) (hs : s.Governed) : (State.scrubAt s z1).Governed := by
  unfold State.scrubAt
  grind (splits := 20) [State.Governed, EffGov, OutGov, RvGov, State.post_gov]

theorem execScrub_gov (s : State) (hs : s.Governed) : OutGov (execScrub s) := by
  unfold execScrub
  grind (splits := 20) [State.Governed, EffGov, OutGov, RvGov, State.scrubAt_gov]

theorem execSchedulerDivergence_gov (s : State) (hs : s.Governed) : OutGov (execSchedulerDivergence s) := by
  unfold execSchedulerDivergence
  grind (splits := 20) [State.Governed, EffGov, OutGov, RvGov, State.post_gov, State.modDie_gov]

theorem execSchedulerReload_gov (s : State) (hs : s.Governed) : OutGov (execSchedulerReload s) := by
  unfold execSchedulerReload
  grind (splits := 20) [State.Governed, EffGov, OutGov, RvGov, State.modDie_gov]

theorem execControllerHandOver_gov (s : State) (hs : s.Governed) : OutGov (execControllerHandOver s) := by
  unfold execControllerHandOver
  grind (splits := 20) [State.Governed, EffGov, OutGov, RvGov, State.post_gov]

theorem State.failStack_gov (s : State) (m : Nat) (hs : s.Governed) : (State.failStack s m).Governed := by
  unfold State.failStack
  grind (splits := 20) [State.Governed, EffGov, OutGov, RvGov, State.forcePass_gov, State.publish_gov, State.post_gov]

theorem execStackFailure_gov (s : State) (hs : s.Governed) : OutGov (execStackFailure s) := by
  unfold execStackFailure
  grind (splits := 20) [State.Governed, EffGov, OutGov, RvGov, State.failStack_gov]

theorem State.loseLink_gov (s : State) (port : Nat) (hs : s.Governed) : (State.loseLink s port).Governed := by
  unfold State.loseLink
  simp only
  refine foldl_gov _ _ _ hs (fun s e h => ?_)
  split
  · exact State.hostFault_gov _ _ _ _ _ h
  · exact h

theorem State.setOffsets_gov (s : State) (l : List OffsetEntry) (hs : s.Governed) : (State.setOffsets s l).Governed := by
  unfold State.setOffsets
  grind (splits := 20) [State.Governed, EffGov, OutGov, RvGov]

theorem State.loseDie_gov (s : State) (d : Nat) (hs : s.Governed) : (State.loseDie s d).Governed := by
  unfold State.loseDie
  split
  · exact hs
  · exact State.publish_gov _ (State.forcePass_gov _ _ (State.modDie_gov _ _ _
      (foldl_gov _ _ _ (State.post_gov _ _ _ _ _ hs) (fun s c h => State.retireCore_gov _ _ h))))

theorem State.moveReference_gov (s : State) (hs : s.Governed) : (State.moveReference s).Governed := by
  unfold State.moveReference
  grind (splits := 20) [State.Governed, EffGov, OutGov, RvGov]

theorem execClockLoss_gov (s : State) (hs : s.Governed) : OutGov (execClockLoss s) := by
  unfold execClockLoss
  grind (splits := 20) [State.Governed, EffGov, OutGov, RvGov, State.loseDie_gov, State.failStack_gov, State.post_gov, State.loseLink_gov, State.publish_gov, State.setOffsets_gov, State.moveReference_gov]

theorem execTimeSlew_gov (s : State) (hs : s.Governed) : OutGov (execTimeSlew s) := by
  unfold execTimeSlew
  grind (splits := 20) [State.Governed, EffGov, OutGov, RvGov]

theorem execOffsetPublication_gov (s : State) (hs : s.Governed) : OutGov (execOffsetPublication s) := by
  unfold execOffsetPublication
  grind (splits := 20) [State.Governed, EffGov, OutGov, RvGov, State.publish_gov, State.setOffsets_gov]

theorem State.joinPart_gov (s : State) (i : Nat) (ds : List Nat) (hs : s.Governed) : (State.joinPart s i ds).Governed := by
  unfold State.joinPart
  simp only
  refine foldl_gov _ _ _ hs (fun t e h => ?_)
  have := State.modDie_gov t e (fun k => { k with ivlt := (s.part i).ivlt, log := [] }) h
  exact this

theorem State.openPart_gov (s : State) (i : Nat) (hs : s.Governed) : (State.openPart s i).Governed := by
  unfold State.openPart
  refine foldl_gov _ _ _ (State.modPart_gov _ _ _ hs) (fun s d h => ?_)
  have := State.modDie_gov s d (fun k => { k with ivlt := 0, log := [] }) h
  exact this

theorem execPartitionDescriptorWrite_gov (s : State) (hs : s.Governed) : OutGov (execPartitionDescriptorWrite s) := by
  unfold execPartitionDescriptorWrite
  grind (splits := 20) [State.Governed, EffGov, OutGov, RvGov, State.modPart_gov, State.publish_gov, State.openPart_gov, State.joinPart_gov]

theorem State.bootFail_gov (s : State) (code : Nat) (hs : s.Governed) : (State.bootFail s code).Governed := by
  unfold State.bootFail
  grind (splits := 20) [State.Governed, EffGov, OutGov, RvGov]

theorem State.bootDies_gov (s : State) (b : BootResult) (hs : s.Governed) : (State.bootDies s b).Governed := by
  unfold State.bootDies
  grind (splits := 20) [State.Governed, EffGov, OutGov, RvGov]

theorem State.loadFirmware_gov (s : State) (b : BootResult) (at_ : Nat) (l : List Byte) (hs : s.Governed) : (State.loadFirmware s b at_ l).Governed := by
  unfold State.loadFirmware
  grind (splits := 20) [State.Governed, EffGov, OutGov, RvGov]

theorem State.bootPublish_gov (s : State) (b : BootResult) (hs : s.Governed) : (State.bootPublish s b).Governed := by
  unfold State.bootPublish
  refine State.publish_gov _ ?_
  have : ∀ (t : State) (l : List OffsetEntry) (h : HostSt), t.Governed → h.dbgm = t.host.dbgm → h.nores = t.host.nores →
      h.noscrb = t.host.noscrb → State.Governed { t.setOffsets l with host := h } := by
    intro t l h ht h1 h2 h3
    unfold State.Governed
    rw [h1, h2, h3]
    exact State.setOffsets_gov t l ht
  exact this _ _ _ hs rfl rfl rfl

theorem State.bootQueue_gov (s : State) (word : Nat) (d : List Byte) (hs : s.Governed) : (State.bootQueue s word d).Governed := by
  have h : ∀ f, (s.modQueue 0 f).hbm = s.hbm ∧ (s.modQueue 0 f).power = s.power := by
    intro f
    unfold State.modQueue
    split
    · exact ⟨rfl, rfl⟩
    · split <;> exact ⟨rfl, rfl⟩
  have h2 : ∀ f, Keeping (s.modQueue 0 f).hbm (s.modQueue 0 f).power s.host.dbgm s.host.nores s.host.noscrb := by
    intro f
    rw [(h f).1, (h f).2]
    exact hs
  unfold State.bootQueue
  exact h2 _

theorem State.powerOn_gov (s : State) (hs : s.Governed) : (State.powerOn s).Governed := by
  have hp : State.reset.power.inRange = true := by decide
  exact ⟨rfl, hp, fun h => by cases h⟩

theorem execPowerOnReset_gov (s0 : State) (hs0 : s0.Governed) : OutGov (execPowerOnReset s0) := by
  unfold execPowerOnReset
  grind (splits := 20) [State.Governed, EffGov, OutGov, RvGov, State.powerOn_gov, State.bootFail_gov, State.bootDies_gov, State.loadFirmware_gov, State.bootQueue_gov, State.bootPublish_gov]

theorem execStandbyRequest_gov (s : State) (hs : s.Governed) : OutGov (execStandbyRequest s) := by
  unfold execStandbyRequest
  grind (splits := 20) [State.Governed, EffGov, OutGov, RvGov]

theorem execStandbyExit_gov (s : State) (hs : s.Governed) : OutGov (execStandbyExit s) := by
  have hb : ∀ (s : State) (b : BootResult) (l : List Nat), s.Governed →
      (l.foldl (fun (s : State) m => s.post m 9 m 0) (s.bootPublish b)).Governed :=
    fun s b l h => foldl_gov _ _ _ (State.bootPublish_gov _ _ h) (fun s m h => State.post_gov _ _ _ _ _ h)
  have hq : ∀ (s t : State), t.Governed → s.hbm = t.hbm → s.power = t.power → s.host.dbgm = t.host.dbgm →
      s.host.nores = t.host.nores → s.host.noscrb = t.host.noscrb → s.Governed := by
    intro s t ht h1 h2 h3 h4 h5
    unfold State.Governed
    rw [h1, h2, h3, h4, h5]
    exact ht
  unfold execStandbyExit
  extract_lets b bad hh s1 t s2 hk s3
  have h1 : s1.Governed := hs
  have ht : t.Governed := State.loadFirmware_gov _ _ _ _ (State.bootDies_gov _ _ h1)
  have h2 : s2.Governed := hb _ _ _ ht
  have h3 : s3.Governed := hq s3 s2 h2 rfl rfl rfl rfl rfl
  split
  · exact hs
  · repeat' split
    · exact State.bootFail_gov _ _ h1
    · exact State.bootFail_gov _ _ (State.bootDies_gov _ _ h1)
    · exact State.bootFail_gov _ _ (State.bootDies_gov _ _ h1)
    · exact State.writeDirectory_gov _ _ _ _ h3

theorem execDebugModeEnter_gov (s : State) (hs : s.Governed) : OutGov (execDebugModeEnter s) := by
  unfold execDebugModeEnter
  split
  · rename_i h
    exact State.publish_gov _ ⟨hs.1, hs.2.1, fun _ => h⟩
  · exact State.post_gov _ _ _ _ _ ⟨hs.1, hs.2.1, fun _ => rfl⟩

theorem execDebugModeExit_gov (s : State) (hs : s.Governed) : OutGov (execDebugModeExit s) := State.publish_gov _ ⟨hs.1, hs.2.1, fun h => by cases h⟩

theorem State.mailDone_gov (s : State) (cause : Nat) (hs : s.Governed) : (State.mailDone s cause).Governed := by
  unfold State.mailDone
  grind (splits := 20) [State.Governed, EffGov, OutGov, RvGov]

theorem State.mailSwr_gov (s : State) (c : CtxId) (id : W64) (n : Nat) (r : Role) (v : W64) (hs : s.Governed) :
    (State.mailSwr s c id n r v).Governed := by
  have h := swrContext_gov s mailWho c id n r v hs
  unfold State.mailSwr
  split <;> simp_all only [EffGov] <;> first
    | exact State.mailDone_gov _ _ ‹_›
    | assumption

theorem State.dropMail_gov (s : State) (c : CtxId) (hs : s.Governed) : (State.dropMail s c).Governed := by
  unfold State.dropMail
  grind (splits := 20) [State.Governed, EffGov, OutGov, RvGov, State.modCtx_gov]

theorem State.mailbox_gov (s : State) (op : Nat) (cmd : W64) (id : W64) (val : W64) (hs : s.Governed) : (State.mailbox s op cmd id val).Governed := by
  unfold State.mailbox
  grind (splits := 20) [State.Governed, EffGov, OutGov, RvGov, State.mailDone_gov, State.debug_gov, State.mailSwr_gov, writeCoreSpecial_gov]

theorem State.mail_gov (s : State) (op : Nat) (hs : s.Governed) : (State.mail s op).Governed := by
  unfold State.mail
  grind (splits := 20) [State.Governed, EffGov, OutGov, RvGov, State.mailbox_gov, State.dropMail_gov]

theorem execDebugMailboxSrd_gov (s : State) (hs : s.Governed) : OutGov (execDebugMailboxSrd s) := by
  unfold execDebugMailboxSrd
  grind (splits := 20) [State.Governed, EffGov, OutGov, RvGov, State.mail_gov]

theorem execDebugMailboxSwr_gov (s : State) (hs : s.Governed) : OutGov (execDebugMailboxSwr s) := by
  unfold execDebugMailboxSwr
  grind (splits := 20) [State.Governed, EffGov, OutGov, RvGov, State.mail_gov]

theorem execDebugMailboxDbgh_gov (s : State) (hs : s.Governed) : OutGov (execDebugMailboxDbgh s) := by
  unfold execDebugMailboxDbgh
  grind (splits := 20) [State.Governed, EffGov, OutGov, RvGov, State.mail_gov]

theorem execLinkDown_gov (s : State) (hs : s.Governed) : OutGov (execLinkDown s) := by
  unfold execLinkDown
  grind (splits := 20) [State.Governed, EffGov, OutGov, RvGov, State.loseLink_gov]

theorem execPortReset_gov (s : State) (hs : s.Governed) : OutGov (execPortReset s) := by
  unfold execPortReset
  grind (splits := 20) [State.Governed, EffGov, OutGov, RvGov, State.loseLink_gov]

theorem execLinkUp_gov (s : State) (hs : s.Governed) : OutGov (execLinkUp s) := by
  unfold execLinkUp
  grind (splits := 20) [State.Governed, EffGov, OutGov, RvGov]

theorem execVfFlr_gov (s : State) (hs : s.Governed) : OutGov (execVfFlr s) := by
  unfold execVfFlr
  simp only
  refine State.modWindow_gov _ _ _ _ (foldl_gov _ _ _ (foldl_gov _ _ _ hs (fun s k h => ?_)) (fun s q h => ?_))
  · exact ite_gov (State.endDomain_gov _ _ _ h) h
  · exact ite_gov (State.writeDirectory_gov _ _ _ _ h) h

theorem execPfFlr_gov (s : State) (hs : s.Governed) : OutGov (execPfFlr s) := by
  unfold execPfFlr
  grind (splits := 20) [State.Governed, EffGov, OutGov, RvGov]

theorem execBoundaryScan_gov (s : State) (hs : s.Governed) : OutGov (execBoundaryScan s) := by
  unfold execBoundaryScan
  grind (splits := 20) [State.Governed, EffGov, OutGov, RvGov]

theorem State.writeWin_gov (s : State) (o : Nat) (l : List Byte) (hs : s.Governed) : (State.writeWin s o l).Governed := by
  unfold State.writeWin
  grind (splits := 20) [State.Governed, EffGov, OutGov, RvGov, State.modWindow_gov]

theorem State.barWrite_gov (s : State) (fn : Nat) (o : Nat) (l : List Byte) (hs : s.Governed) : (State.barWrite s fn o l).Governed := by
  unfold State.barWrite
  grind (splits := 20) [State.Governed, EffGov, OutGov, RvGov, State.writeQueueReg_gov, State.writeWin_gov]

theorem execSpecialRegisterWrite_gov (s : State) (hs : s.Governed) : OutGov (execSpecialRegisterWrite s) := by
  unfold execSpecialRegisterWrite
  grind (splits := 20) [State.Governed, EffGov, OutGov, RvGov, State.put_gov, State.barWrite_gov]

theorem execHostWrite_gov (s : State) (hs : s.Governed) : OutGov (execHostWrite s) := by
  unfold execHostWrite
  grind (splits := 20) [State.Governed, EffGov, OutGov, RvGov, storePages_gov]

theorem State.stage_gov (s : State) (k : Kernel) (c : CtxId) (x : Ctx) (far : Nat) (data : List Byte) (hs : s.Governed) : (State.stage s k c x far data).2.Governed := by
  have ht : ∀ (l : List (CtxId × Ctx)) (s : State), s.Governed → (l.foldl (fun (s : State) g => s.setCtx g.1 g.2) s).Governed :=
    fun l s h => foldl_gov _ _ _ h (fun s e h => State.setCtx_gov _ _ _ h)
  unfold State.stage
  split
  · exact hs
  · exact runUnits_gov _ _ _ _ _ _ _ (State.setCtx_gov _ _ _ (ht _ _ hs))

theorem execStagingTransfer_gov (s : State) (hs : s.Governed) : OutGov (execStagingTransfer s) := by
  unfold execStagingTransfer
  simp only
  repeat' split
  all_goals first
    | exact hs
    | exact State.endDomain_gov _ _ _ (State.modKernel_gov _ _ _ (State.stage_gov _ _ _ _ _ _ hs))
    | exact State.modKernel_gov _ _ _ (State.stage_gov _ _ _ _ _ _ hs)

theorem State.stampStart_gov (z0 : Nat) (z1 : State) (z2 : Nat) (hz1 : z1.Governed) : (State.stampStart z0 z1 z2).Governed := by
  induction z0 generalizing z1 z2 with
  | zero => exact hz1
  | succ n ih =>
    unfold State.stampStart
    simp only
    split
    · exact hz1
    · split
      · exact ih _ _ (State.modNode_gov _ _ _ hz1)
      · exact State.modNode_gov _ _ _ hz1

theorem State.placeNew_gov (s : State) (c : CtxId) (x : Ctx) (hs : s.Governed) : (State.placeNew s c x).Governed := by
  unfold State.placeNew
  grind (splits := 20) [State.Governed, EffGov, OutGov, RvGov, State.place_gov]

theorem State.issue_gov (s : State) (k : Kernel) (hs : s.Governed) : (State.issue s k).Governed := by
  unfold State.issue
  simp only
  have h1 := foldl_gov k.grant.zipIdx (fun (s : State) e => (s.placeNew e.1 (s.startOn k e.2 e.1)).acquireNow e.1.cid 3) s hs
    (fun s e h => State.acquireNow_gov _ _ _ (State.placeNew_gov _ _ _ h))
  exact State.stepStart_gov _ _ _ (foldl_gov _ _ _ (State.stampStart_gov _ _ _ (State.modKernel_gov _ _ _ h1)) (fun s d h => State.modDie_gov _ _ _ h))

theorem State.resumeMember_gov (s : State) (k : Kernel) (c : CtxId) (hs : s.Governed) : (State.resumeMember s k c).Governed := by
  unfold State.resumeMember
  grind (splits := 20) [State.Governed, EffGov, OutGov, RvGov, State.restore_gov]

theorem execKernelIssue_gov (s : State) (hs : s.Governed) : OutGov (execKernelIssue s) := by
  unfold execKernelIssue
  repeat' split
  all_goals first
    | exact hs
    | exact State.issue_gov _ _ hs
    | exact foldl_gov _ _ _ hs (fun s c h => State.resumeMember_gov _ _ _ h)

theorem execKernelAging_gov (s : State) (hs : s.Governed) : OutGov (execKernelAging s) := by
  unfold execKernelAging
  grind (splits := 20) [State.Governed, EffGov, OutGov, RvGov, State.modKernel_gov]

theorem State.preemptCtx_gov (s : State) (j : Kernel) (c : CtxId) (hs : s.Governed) : (State.preemptCtx s j c).Governed := by
  unfold State.preemptCtx
  grind (splits := 20) [State.Governed, EffGov, OutGov, RvGov, State.stopVictim_gov, State.setCtx_gov]

theorem execPreEmption_gov (s : State) (hs : s.Governed) : OutGov (execPreEmption s) := by
  unfold execPreEmption
  simp only
  split
  · exact hs
  · split
    · exact hs
    · exact foldl_gov _ _ _ hs (fun s j h => foldl_gov _ _ _ h (fun s c h => State.preemptCtx_gov _ _ _ h))

theorem execStorageClaim_gov (s : State) (hs : s.Governed) : OutGov (execStorageClaim s) := by
  unfold execStorageClaim
  simp only
  repeat' split
  all_goals first
    | exact hs
    | exact State.modCore_gov _ _ _ (State.setCtx_gov _ _ _ (State.dropLoads_gov _ _ _ (State.writeImage_gov _ _ _ _ _ hs _ ‹_›)))

theorem execHarvestPlacement_gov (s : State) (hs : s.Governed) : OutGov (execHarvestPlacement s) := by
  unfold execHarvestPlacement
  grind (splits := 20) [State.Governed, EffGov, OutGov, RvGov, State.modKernel_gov, State.issue_gov]

theorem execRevocation_gov (s : State) (hs : s.Governed) : OutGov (execRevocation s) := by
  unfold execRevocation
  grind (splits := 20) [State.Governed, EffGov, OutGov, RvGov, State.revoke_gov]

theorem execHarvestUnpark_gov (s : State) (hs : s.Governed) : OutGov (execHarvestUnpark s) := by
  unfold execHarvestUnpark
  grind (splits := 20) [State.Governed, EffGov, OutGov, RvGov, State.unpark_gov, State.restore_gov]

theorem execKernelEnd_gov (s : State) (hs : s.Governed) : OutGov (execKernelEnd s) := by
  unfold execKernelEnd
  grind (splits := 20) [State.Governed, EffGov, OutGov, RvGov, State.endKernel_gov]

theorem execThawDeferralEnd_gov (s : State) (hs : s.Governed) : OutGov (execThawDeferralEnd s) := by
  unfold execThawDeferralEnd
  grind (splits := 20) [State.Governed, EffGov, OutGov, RvGov, State.modCore_gov]

theorem State.govern_gov (s : State) (g : Nat) (f : PowerGroup → PowerGroup) (hs : s.Governed)
    (hf : ∀ p : PowerGroup, p.inRange = true → (f p).inRange = true) : (State.govern s g f).Governed :=   State.publish_gov _ (State.modGroupP_gov _ _ _ (State.rollAll_gov _ hs) hf)

theorem execLimiterWindow_gov (s0 : State) (hs0 : s0.Governed) : OutGov (execLimiterWindow s0) := by
  have h := State.rollAll_gov s0 hs0
  unfold execLimiterWindow
  simp only
  exact ite_gov (State.publish_gov _ (State.modGroupP_gov _ _ _ h (fun p hp => hp)))
    (ite_gov (State.publish_gov _ (State.modGroupP_gov _ _ _ h (fun p hp => hp))) h)

theorem execBallastLimitExpiry_gov (s : State) (hs : s.Governed) : OutGov (execBallastLimitExpiry s) := by
  unfold execBallastLimitExpiry
  simp only
  split
  · exact hs
  · split
    · exact State.govern_gov _ _ _ (State.free_gov s hs) (fun p hp => hp)
    · exact State.govern_gov _ _ _ hs (fun p hp => hp)

theorem execDroopAlarm_gov (s : State) (hs : s.Governed) : OutGov (execDroopAlarm s) := by
  unfold execDroopAlarm
  exact State.govern_gov _ _ _ hs (fun p hp => hp)

theorem execDroopRecovery_gov (s : State) (hs : s.Governed) : OutGov (execDroopRecovery s) := ite_gov hs (State.govern_gov _ _ _ hs (fun p hp => hp))

theorem execOverCurrent_gov (s : State) (hs : s.Governed) : OutGov (execOverCurrent s) := by
  unfold execOverCurrent
  exact State.govern_gov _ _ _ hs (fun p hp => hp)

theorem execOverCurrentClear_gov (s : State) (hs : s.Governed) : OutGov (execOverCurrentClear s) := by
  unfold execOverCurrentClear
  exact State.govern_gov _ _ _ hs (fun p hp => hp)

theorem execThermalTrip_gov (s : State) (hs : s.Governed) : OutGov (execThermalTrip s) := by
  unfold execThermalTrip
  exact State.govern_gov _ _ _ hs (fun p hp => hp)

theorem execThermalTripClear_gov (s : State) (hs : s.Governed) : OutGov (execThermalTripClear s) := by
  unfold execThermalTripClear
  exact State.govern_gov _ _ _ hs (fun p hp => hp)

theorem execCoarseCapWindow_gov (s : State) (hs : s.Governed) : OutGov (execCoarseCapWindow s) := by
  unfold execCoarseCapWindow
  exact State.govern_gov _ _ _ hs (fun p hp => hp)

theorem execCadreqUpdate_gov (s : State) (hs : s.Governed) : OutGov (execCadreqUpdate s) := by
  unfold execCadreqUpdate
  refine State.govern_gov _ _ _ hs (fun p hp => ?_)
  simp only [PowerGroup.inRange, Bool.and_eq_true, decide_eq_true_eq] at hp ⊢
  split
  · rename_i h
    exact ⟨⟨hp.1.1, h.1.1⟩, h.1.2⟩
  · exact hp

theorem execPowerTableWrite_gov (s : State) (hs : s.Governed) : OutGov (execPowerTableWrite s) := by
  have hw : ∀ lo hi n o, lo ≤ o ∧ o ≤ hi → lo ≤ within lo hi n o ∧ within lo hi n o ≤ hi := by
    intro lo hi n o h
    unfold within
    split
    · assumption
    · exact h
  unfold execPowerTableWrite
  simp only
  split
  · have hr := State.rollAll_gov s hs
    refine State.publish_gov _ ⟨hr.1, ?_, hr.2.2⟩
    have h := hs.2.1
    unfold Power.inRange at h
    simp only [Bool.and_eq_true, decide_eq_true_eq, List.all_eq_true] at h
    obtain ⟨⟨⟨⟨⟨⟨⟨⟨⟨⟨⟨h1, h2⟩, h3⟩, h4⟩, h5⟩, h6⟩, h7⟩, h8⟩, h9⟩, h10⟩, h11⟩, h12⟩ := h
    unfold Power.inRange State.writePower
    simp only [Bool.and_eq_true, decide_eq_true_eq, List.all_eq_true]
    refine ⟨⟨⟨⟨⟨⟨⟨⟨⟨⟨⟨(hw 0 _ _ _ ⟨Nat.zero_le _, h1⟩).2, by omega⟩, (hw _ _ _ _ ⟨h3, h4⟩).1⟩, (hw _ _ _ _ ⟨h3, h4⟩).2⟩, (hw _ _ _ _ ⟨h5, h6⟩).1⟩, (hw _ _ _ _ ⟨h5, h6⟩).2⟩, (hw _ _ _ _ ⟨h7, h8⟩).1⟩, (hw _ _ _ _ ⟨h7, h8⟩).2⟩, (hw 0 _ _ _ ⟨Nat.zero_le _, h9⟩).2⟩, ?_⟩, ?_⟩, ?_⟩
    · split
      · simp
      · exact h10
    · split
      · rename_i h
        simp only [isOrder, List.all_eq_true] at h
        exact h
      · exact h11
    · intro x hx
      rw [Vector.mem_toList_iff, Vector.mem_ofFn] at hx
      obtain ⟨g, rfl⟩ := hx
      have hg := h12 (s.power.groups[g]) (by simp)
      unfold PowerGroup.inRange at hg ⊢
      simp only [Bool.and_eq_true, decide_eq_true_eq] at hg ⊢
      obtain ⟨⟨⟨⟨⟨g1, g2⟩, g3⟩, g4⟩, g5⟩, g6⟩ := hg
      exact ⟨⟨⟨⟨⟨(hw _ _ _ _ ⟨g1, g2⟩).1, (hw _ _ _ _ ⟨g1, g2⟩).2⟩, (hw _ _ _ _ ⟨g3, g4⟩).1⟩, (hw _ _ _ _ ⟨g3, g4⟩).2⟩, g5⟩, g6⟩
  · exact hs

theorem State.begin_gov (s : State) (hs : s.Governed) : (State.begin s).Governed := by
  unfold State.begin
  grind (splits := 20) [State.Governed, EffGov, OutGov, RvGov, State.elapse_gov]

theorem State.withFetchWord_gov (s : State) (nbits : Nat) (w : Nat) (hs : s.Governed) : (State.withFetchWord s nbits w).Governed := by
  unfold State.withFetchWord
  grind (splits := 20) [State.Governed, EffGov, OutGov, RvGov]

end Sys2Proof.Machine
end

