-- ==== Sys2Proof/Laws/PerInstr.lean ====
section
/-! SUPPORT. The statements that are made of every instruction, one lemma per constructor. -/

namespace Sys2Proof.Laws

/-- The word of a well-formed instruction decodes to it. -/
def RoundTrip.Statement (i : Instr) : Prop := ∀ w, encodeWord i = some w → WellFormed i → decodeWord w = i

theorem RoundTrip.nop (v : WordS) : RoundTrip.Statement (.nop v) := by
  intro w h _
  obtain rfl := Option.some.inj h
  unfold decodeWord
  rw [(getS_putS _ v).2]
  show decodeClass0 _ = _
  unfold decodeClass0
  rw [(getS_putS _ v).2]
  exact congrArg Instr.nop (getS_putS _ v).1
theorem RoundTrip.halt (v : WordS) : RoundTrip.Statement (.halt v) := by
  intro w h _
  obtain rfl := Option.some.inj h
  unfold decodeWord
  rw [(getS_putS _ v).2]
  show decodeClass0 _ = _
  unfold decodeClass0
  rw [(getS_putS _ v).2]
  exact congrArg Instr.halt (getS_putS _ v).1
theorem RoundTrip.qpt (v : WordS) : RoundTrip.Statement (.qpt v) := by
  intro w h _
  obtain rfl := Option.some.inj h
  unfold decodeWord
  rw [(getS_putS _ v).2]
  show decodeClass0 _ = _
  unfold decodeClass0
  rw [(getS_putS _ v).2]
  exact congrArg Instr.qpt (getS_putS _ v).1
theorem RoundTrip.br (v : WordB) : RoundTrip.Statement (.br v) := by
  intro w h _
  obtain rfl := Option.some.inj h
  unfold decodeWord
  rw [(getB_putB _ v).2]
  show decodeClass0 _ = _
  unfold decodeClass0
  rw [(getB_putB _ v).2]
  exact congrArg Instr.br (getB_putB _ v).1
theorem RoundTrip.brp (v : WordB) : RoundTrip.Statement (.brp v) := by
  intro w h _
  obtain rfl := Option.some.inj h
  unfold decodeWord
  rw [(getB_putB _ v).2]
  show decodeClass0 _ = _
  unfold decodeClass0
  rw [(getB_putB _ v).2]
  exact congrArg Instr.brp (getB_putB _ v).1
theorem RoundTrip.call (v : WordB) : RoundTrip.Statement (.call v) := by
  intro w h _
  obtain rfl := Option.some.inj h
  unfold decodeWord
  rw [(getB_putB _ v).2]
  show decodeClass0 _ = _
  unfold decodeClass0
  rw [(getB_putB _ v).2]
  exact congrArg Instr.call (getB_putB _ v).1
theorem RoundTrip.ret (v : WordS) : RoundTrip.Statement (.ret v) := by
  intro w h _
  obtain rfl := Option.some.inj h
  unfold decodeWord
  rw [(getS_putS _ v).2]
  show decodeClass0 _ = _
  unfold decodeClass0
  rw [(getS_putS _ v).2]
  exact congrArg Instr.ret (getS_putS _ v).1
theorem RoundTrip.loop (v : WordB) : RoundTrip.Statement (.loop v) := by
  intro w h _
  obtain rfl := Option.some.inj h
  unfold decodeWord
  rw [(getB_putB _ v).2]
  show decodeClass0 _ = _
  unfold decodeClass0
  rw [(getB_putB _ v).2]
  exact congrArg Instr.loop (getB_putB _ v).1
theorem RoundTrip.next (v : WordB) : RoundTrip.Statement (.next v) := by
  intro w h _
  obtain rfl := Option.some.inj h
  unfold decodeWord
  rw [(getB_putB _ v).2]
  show decodeClass0 _ = _
  unfold decodeClass0
  rw [(getB_putB _ v).2]
  exact congrArg Instr.next (getB_putB _ v).1
theorem RoundTrip.bqs (v : WordS) : RoundTrip.Statement (.bqs v) := by
  intro w h _
  obtain rfl := Option.some.inj h
  unfold decodeWord
  rw [(getS_putS _ v).2]
  show decodeClass0 _ = _
  unfold decodeClass0
  rw [(getS_putS _ v).2]
  exact congrArg Instr.bqs (getS_putS _ v).1
theorem RoundTrip.bqr (v : WordS) : RoundTrip.Statement (.bqr v) := by
  intro w h _
  obtain rfl := Option.some.inj h
  unfold decodeWord
  rw [(getS_putS _ v).2]
  show decodeClass0 _ = _
  unfold decodeClass0
  rw [(getS_putS _ v).2]
  exact congrArg Instr.bqr (getS_putS _ v).1
theorem RoundTrip.waitc (v : WordS) : RoundTrip.Statement (.waitc v) := by
  intro w h _
  obtain rfl := Option.some.inj h
  unfold decodeWord
  rw [(getS_putS _ v).2]
  show decodeClass0 _ = _
  unfold decodeClass0
  rw [(getS_putS _ v).2]
  exact congrArg Instr.waitc (getS_putS _ v).1
theorem RoundTrip.yld (v : WordS) : RoundTrip.Statement (.yld v) := by
  intro w h _
  obtain rfl := Option.some.inj h
  unfold decodeWord
  rw [(getS_putS _ v).2]
  show decodeClass0 _ = _
  unfold decodeClass0
  rw [(getS_putS _ v).2]
  exact congrArg Instr.yld (getS_putS _ v).1
theorem RoundTrip.trap (v : WordS) : RoundTrip.Statement (.trap v) := by
  intro w h _
  obtain rfl := Option.some.inj h
  unfold decodeWord
  rw [(getS_putS _ v).2]
  show decodeClass0 _ = _
  unfold decodeClass0
  rw [(getS_putS _ v).2]
  exact congrArg Instr.trap (getS_putS _ v).1
theorem RoundTrip.bkpt (v : WordS) : RoundTrip.Statement (.bkpt v) := by
  intro w h _
  obtain rfl := Option.some.inj h
  unfold decodeWord
  rw [(getS_putS _ v).2]
  show decodeClass0 _ = _
  unfold decodeClass0
  rw [(getS_putS _ v).2]
  exact congrArg Instr.bkpt (getS_putS _ v).1
theorem RoundTrip.hint (n : BitVec 4) (v : HintWord) : RoundTrip.Statement (.hint n v) := by
  intro w h _
  obtain rfl := Option.some.inj h
  obtain ⟨h1, h2, _⟩ := getHint_putHint n v
  exact (decodeWord_hint _ _ (opcOf_putHint n v)).trans (by rw [show BitVec.extractLsb' 80 4 (putHint n v) = n from h2, h1])
theorem RoundTrip.ldp (v : WordS) : RoundTrip.Statement (.ldp v) := by
  intro w h _
  obtain rfl := Option.some.inj h
  unfold decodeWord
  rw [(getS_putS _ v).2]
  show decodeClass0 _ = _
  unfold decodeClass0
  rw [(getS_putS _ v).2]
  exact congrArg Instr.ldp (getS_putS _ v).1
theorem RoundTrip.add (v : WordS) : RoundTrip.Statement (.add v) := by
  intro w h _
  obtain rfl := Option.some.inj h
  unfold decodeWord
  rw [(getS_putS _ v).2]
  show decodeClass0 _ = _
  unfold decodeClass0
  rw [(getS_putS _ v).2]
  exact congrArg Instr.add (getS_putS _ v).1
theorem RoundTrip.sub (v : WordS) : RoundTrip.Statement (.sub v) := by
  intro w h _
  obtain rfl := Option.some.inj h
  unfold decodeWord
  rw [(getS_putS _ v).2]
  show decodeClass0 _ = _
  unfold decodeClass0
  rw [(getS_putS _ v).2]
  exact congrArg Instr.sub (getS_putS _ v).1
theorem RoundTrip.mul (v : WordS) : RoundTrip.Statement (.mul v) := by
  intro w h _
  obtain rfl := Option.some.inj h
  unfold decodeWord
  rw [(getS_putS _ v).2]
  show decodeClass0 _ = _
  unfold decodeClass0
  rw [(getS_putS _ v).2]
  exact congrArg Instr.mul (getS_putS _ v).1
theorem RoundTrip.mulh (v : WordS) : RoundTrip.Statement (.mulh v) := by
  intro w h _
  obtain rfl := Option.some.inj h
  unfold decodeWord
  rw [(getS_putS _ v).2]
  show decodeClass0 _ = _
  unfold decodeClass0
  rw [(getS_putS _ v).2]
  exact congrArg Instr.mulh (getS_putS _ v).1
theorem RoundTrip.mulhn (v : WordS) : RoundTrip.Statement (.mulhn v) := by
  intro w h _
  obtain rfl := Option.some.inj h
  unfold decodeWord
  rw [(getS_putS _ v).2]
  show decodeClass0 _ = _
  unfold decodeClass0
  rw [(getS_putS _ v).2]
  exact congrArg Instr.mulhn (getS_putS _ v).1
theorem RoundTrip.div (v : WordS) : RoundTrip.Statement (.div v) := by
  intro w h _
  obtain rfl := Option.some.inj h
  unfold decodeWord
  rw [(getS_putS _ v).2]
  show decodeClass0 _ = _
  unfold decodeClass0
  rw [(getS_putS _ v).2]
  exact congrArg Instr.div (getS_putS _ v).1
theorem RoundTrip.divn (v : WordS) : RoundTrip.Statement (.divn v) := by
  intro w h _
  obtain rfl := Option.some.inj h
  unfold decodeWord
  rw [(getS_putS _ v).2]
  show decodeClass0 _ = _
  unfold decodeClass0
  rw [(getS_putS _ v).2]
  exact congrArg Instr.divn (getS_putS _ v).1
theorem RoundTrip.rem (v : WordS) : RoundTrip.Statement (.rem v) := by
  intro w h _
  obtain rfl := Option.some.inj h
  unfold decodeWord
  rw [(getS_putS _ v).2]
  show decodeClass0 _ = _
  unfold decodeClass0
  rw [(getS_putS _ v).2]
  exact congrArg Instr.rem (getS_putS _ v).1
theorem RoundTrip.remn (v : WordS) : RoundTrip.Statement (.remn v) := by
  intro w h _
  obtain rfl := Option.some.inj h
  unfold decodeWord
  rw [(getS_putS _ v).2]
  show decodeClass0 _ = _
  unfold decodeClass0
  rw [(getS_putS _ v).2]
  exact congrArg Instr.remn (getS_putS _ v).1
theorem RoundTrip.and (v : WordS) : RoundTrip.Statement (.and v) := by
  intro w h _
  obtain rfl := Option.some.inj h
  unfold decodeWord
  rw [(getS_putS _ v).2]
  show decodeClass0 _ = _
  unfold decodeClass0
  rw [(getS_putS _ v).2]
  exact congrArg Instr.and (getS_putS _ v).1
theorem RoundTrip.or (v : WordS) : RoundTrip.Statement (.or v) := by
  intro w h _
  obtain rfl := Option.some.inj h
  unfold decodeWord
  rw [(getS_putS _ v).2]
  show decodeClass0 _ = _
  unfold decodeClass0
  rw [(getS_putS _ v).2]
  exact congrArg Instr.or (getS_putS _ v).1
theorem RoundTrip.xor (v : WordS) : RoundTrip.Statement (.xor v) := by
  intro w h _
  obtain rfl := Option.some.inj h
  unfold decodeWord
  rw [(getS_putS _ v).2]
  show decodeClass0 _ = _
  unfold decodeClass0
  rw [(getS_putS _ v).2]
  exact congrArg Instr.xor (getS_putS _ v).1
theorem RoundTrip.andn (v : WordS) : RoundTrip.Statement (.andn v) := by
  intro w h _
  obtain rfl := Option.some.inj h
  unfold decodeWord
  rw [(getS_putS _ v).2]
  show decodeClass0 _ = _
  unfold decodeClass0
  rw [(getS_putS _ v).2]
  exact congrArg Instr.andn (getS_putS _ v).1
theorem RoundTrip.orn (v : WordS) : RoundTrip.Statement (.orn v) := by
  intro w h _
  obtain rfl := Option.some.inj h
  unfold decodeWord
  rw [(getS_putS _ v).2]
  show decodeClass0 _ = _
  unfold decodeClass0
  rw [(getS_putS _ v).2]
  exact congrArg Instr.orn (getS_putS _ v).1
theorem RoundTrip.shl (v : WordS) : RoundTrip.Statement (.shl v) := by
  intro w h _
  obtain rfl := Option.some.inj h
  unfold decodeWord
  rw [(getS_putS _ v).2]
  show decodeClass0 _ = _
  unfold decodeClass0
  rw [(getS_putS _ v).2]
  exact congrArg Instr.shl (getS_putS _ v).1
theorem RoundTrip.shr (v : WordS) : RoundTrip.Statement (.shr v) := by
  intro w h _
  obtain rfl := Option.some.inj h
  unfold decodeWord
  rw [(getS_putS _ v).2]
  show decodeClass0 _ = _
  unfold decodeClass0
  rw [(getS_putS _ v).2]
  exact congrArg Instr.shr (getS_putS _ v).1
theorem RoundTrip.sra (v : WordS) : RoundTrip.Statement (.sra v) := by
  intro w h _
  obtain rfl := Option.some.inj h
  unfold decodeWord
  rw [(getS_putS _ v).2]
  show decodeClass0 _ = _
  unfold decodeClass0
  rw [(getS_putS _ v).2]
  exact congrArg Instr.sra (getS_putS _ v).1
theorem RoundTrip.rotl (v : WordS) : RoundTrip.Statement (.rotl v) := by
  intro w h _
  obtain rfl := Option.some.inj h
  unfold decodeWord
  rw [(getS_putS _ v).2]
  show decodeClass0 _ = _
  unfold decodeClass0
  rw [(getS_putS _ v).2]
  exact congrArg Instr.rotl (getS_putS _ v).1
theorem RoundTrip.min (v : WordS) : RoundTrip.Statement (.min v) := by
  intro w h _
  obtain rfl := Option.some.inj h
  unfold decodeWord
  rw [(getS_putS _ v).2]
  show decodeClass0 _ = _
  unfold decodeClass0
  rw [(getS_putS _ v).2]
  exact congrArg Instr.min (getS_putS _ v).1
theorem RoundTrip.max (v : WordS) : RoundTrip.Statement (.max v) := by
  intro w h _
  obtain rfl := Option.some.inj h
  unfold decodeWord
  rw [(getS_putS _ v).2]
  show decodeClass0 _ = _
  unfold decodeClass0
  rw [(getS_putS _ v).2]
  exact congrArg Instr.max (getS_putS _ v).1
theorem RoundTrip.minn (v : WordS) : RoundTrip.Statement (.minn v) := by
  intro w h _
  obtain rfl := Option.some.inj h
  unfold decodeWord
  rw [(getS_putS _ v).2]
  show decodeClass0 _ = _
  unfold decodeClass0
  rw [(getS_putS _ v).2]
  exact congrArg Instr.minn (getS_putS _ v).1
theorem RoundTrip.maxn (v : WordS) : RoundTrip.Statement (.maxn v) := by
  intro w h _
  obtain rfl := Option.some.inj h
  unfold decodeWord
  rw [(getS_putS _ v).2]
  show decodeClass0 _ = _
  unfold decodeClass0
  rw [(getS_putS _ v).2]
  exact congrArg Instr.maxn (getS_putS _ v).1
theorem RoundTrip.clz (v : WordS) : RoundTrip.Statement (.clz v) := by
  intro w h _
  obtain rfl := Option.some.inj h
  unfold decodeWord
  rw [(getS_putS _ v).2]
  show decodeClass0 _ = _
  unfold decodeClass0
  rw [(getS_putS _ v).2]
  exact congrArg Instr.clz (getS_putS _ v).1
theorem RoundTrip.ctz (v : WordS) : RoundTrip.Statement (.ctz v) := by
  intro w h _
  obtain rfl := Option.some.inj h
  unfold decodeWord
  rw [(getS_putS _ v).2]
  show decodeClass0 _ = _
  unfold decodeClass0
  rw [(getS_putS _ v).2]
  exact congrArg Instr.ctz (getS_putS _ v).1
theorem RoundTrip.popc (v : WordS) : RoundTrip.Statement (.popc v) := by
  intro w h _
  obtain rfl := Option.some.inj h
  unfold decodeWord
  rw [(getS_putS _ v).2]
  show decodeClass0 _ = _
  unfold decodeClass0
  rw [(getS_putS _ v).2]
  exact congrArg Instr.popc (getS_putS _ v).1
theorem RoundTrip.brev (v : WordS) : RoundTrip.Statement (.brev v) := by
  intro w h _
  obtain rfl := Option.some.inj h
  unfold decodeWord
  rw [(getS_putS _ v).2]
  show decodeClass0 _ = _
  unfold decodeClass0
  rw [(getS_putS _ v).2]
  exact congrArg Instr.brev (getS_putS _ v).1
theorem RoundTrip.bswap (v : WordS) : RoundTrip.Statement (.bswap v) := by
  intro w h _
  obtain rfl := Option.some.inj h
  unfold decodeWord
  rw [(getS_putS _ v).2]
  show decodeClass0 _ = _
  unfold decodeClass0
  rw [(getS_putS _ v).2]
  exact congrArg Instr.bswap (getS_putS _ v).1
theorem RoundTrip.sext (v : WordS) : RoundTrip.Statement (.sext v) := by
  intro w h _
  obtain rfl := Option.some.inj h
  unfold decodeWord
  rw [(getS_putS _ v).2]
  show decodeClass0 _ = _
  unfold decodeClass0
  rw [(getS_putS _ v).2]
  exact congrArg Instr.sext (getS_putS _ v).1
theorem RoundTrip.zext (v : WordS) : RoundTrip.Statement (.zext v) := by
  intro w h _
  obtain rfl := Option.some.inj h
  unfold decodeWord
  rw [(getS_putS _ v).2]
  show decodeClass0 _ = _
  unfold decodeClass0
  rw [(getS_putS _ v).2]
  exact congrArg Instr.zext (getS_putS _ v).1
theorem RoundTrip.bfx (v : WordS) : RoundTrip.Statement (.bfx v) := by
  intro w h _
  obtain rfl := Option.some.inj h
  unfold decodeWord
  rw [(getS_putS _ v).2]
  show decodeClass0 _ = _
  unfold decodeClass0
  rw [(getS_putS _ v).2]
  exact congrArg Instr.bfx (getS_putS _ v).1
theorem RoundTrip.bfi (v : WordS) : RoundTrip.Statement (.bfi v) := by
  intro w h _
  obtain rfl := Option.some.inj h
  unfold decodeWord
  rw [(getS_putS _ v).2]
  show decodeClass0 _ = _
  unfold decodeClass0
  rw [(getS_putS _ v).2]
  exact congrArg Instr.bfi (getS_putS _ v).1
theorem RoundTrip.sel (v : WordS) : RoundTrip.Statement (.sel v) := by
  intro w h _
  obtain rfl := Option.some.inj h
  unfold decodeWord
  rw [(getS_putS _ v).2]
  show decodeClass0 _ = _
  unfold decodeClass0
  rw [(getS_putS _ v).2]
  exact congrArg Instr.sel (getS_putS _ v).1
theorem RoundTrip.lim (v : WordS) : RoundTrip.Statement (.lim v) := by
  intro w h _
  obtain rfl := Option.some.inj h
  unfold decodeWord
  rw [(getS_putS _ v).2]
  show decodeClass0 _ = _
  unfold decodeClass0
  rw [(getS_putS _ v).2]
  exact congrArg Instr.lim (getS_putS _ v).1
theorem RoundTrip.limh (v : WordS) : RoundTrip.Statement (.limh v) := by
  intro w h _
  obtain rfl := Option.some.inj h
  unfold decodeWord
  rw [(getS_putS _ v).2]
  show decodeClass0 _ = _
  unfold decodeClass0
  rw [(getS_putS _ v).2]
  exact congrArg Instr.limh (getS_putS _ v).1
theorem RoundTrip.lea (v : WordS) : RoundTrip.Statement (.lea v) := by
  intro w h _
  obtain rfl := Option.some.inj h
  unfold decodeWord
  rw [(getS_putS _ v).2]
  show decodeClass0 _ = _
  unfold decodeClass0
  rw [(getS_putS _ v).2]
  exact congrArg Instr.lea (getS_putS _ v).1
theorem RoundTrip.cmp (v : WordS) : RoundTrip.Statement (.cmp v) := by
  intro w h _
  obtain rfl := Option.some.inj h
  unfold decodeWord
  rw [(getS_putS _ v).2]
  show decodeClass0 _ = _
  unfold decodeClass0
  rw [(getS_putS _ v).2]
  exact congrArg Instr.cmp (getS_putS _ v).1
theorem RoundTrip.plog (v : WordS) : RoundTrip.Statement (.plog v) := by
  intro w h _
  obtain rfl := Option.some.inj h
  unfold decodeWord
  rw [(getS_putS _ v).2]
  show decodeClass0 _ = _
  unfold decodeClass0
  rw [(getS_putS _ v).2]
  exact congrArg Instr.plog (getS_putS _ v).1
theorem RoundTrip.pmov (v : WordS) : RoundTrip.Statement (.pmov v) := by
  intro w h _
  obtain rfl := Option.some.inj h
  unfold decodeWord
  rw [(getS_putS _ v).2]
  show decodeClass0 _ = _
  unfold decodeClass0
  rw [(getS_putS _ v).2]
  exact congrArg Instr.pmov (getS_putS _ v).1
theorem RoundTrip.mfs (v : WordS) : RoundTrip.Statement (.mfs v) := by
  intro w h _
  obtain rfl := Option.some.inj h
  unfold decodeWord
  rw [(getS_putS _ v).2]
  show decodeClass0 _ = _
  unfold decodeClass0
  rw [(getS_putS _ v).2]
  exact congrArg Instr.mfs (getS_putS _ v).1
theorem RoundTrip.mts (v : WordS) : RoundTrip.Statement (.mts v) := by
  intro w h _
  obtain rfl := Option.some.inj h
  unfold decodeWord
  rw [(getS_putS _ v).2]
  show decodeClass0 _ = _
  unfold decodeClass0
  rw [(getS_putS _ v).2]
  exact congrArg Instr.mts (getS_putS _ v).1
theorem RoundTrip.vadd (v : WordV) : RoundTrip.Statement (.vadd v) := by
  intro w h _
  obtain rfl := Option.some.inj h
  unfold decodeWord
  rw [(getV_putV _ v).2]
  show decodeClass1 _ = _
  unfold decodeClass1
  rw [(getV_putV _ v).2]
  exact congrArg Instr.vadd (getV_putV _ v).1
theorem RoundTrip.vsub (v : WordV) : RoundTrip.Statement (.vsub v) := by
  intro w h _
  obtain rfl := Option.some.inj h
  unfold decodeWord
  rw [(getV_putV _ v).2]
  show decodeClass1 _ = _
  unfold decodeClass1
  rw [(getV_putV _ v).2]
  exact congrArg Instr.vsub (getV_putV _ v).1
theorem RoundTrip.vmul (v : WordV) : RoundTrip.Statement (.vmul v) := by
  intro w h _
  obtain rfl := Option.some.inj h
  unfold decodeWord
  rw [(getV_putV _ v).2]
  show decodeClass1 _ = _
  unfold decodeClass1
  rw [(getV_putV _ v).2]
  exact congrArg Instr.vmul (getV_putV _ v).1
theorem RoundTrip.vfma (v : WordV) : RoundTrip.Statement (.vfma v) := by
  intro w h _
  obtain rfl := Option.some.inj h
  unfold decodeWord
  rw [(getV_putV _ v).2]
  show decodeClass1 _ = _
  unfold decodeClass1
  rw [(getV_putV _ v).2]
  exact congrArg Instr.vfma (getV_putV _ v).1
theorem RoundTrip.vfms (v : WordV) : RoundTrip.Statement (.vfms v) := by
  intro w h _
  obtain rfl := Option.some.inj h
  unfold decodeWord
  rw [(getV_putV _ v).2]
  show decodeClass1 _ = _
  unfold decodeClass1
  rw [(getV_putV _ v).2]
  exact congrArg Instr.vfms (getV_putV _ v).1
theorem RoundTrip.vfnma (v : WordV) : RoundTrip.Statement (.vfnma v) := by
  intro w h _
  obtain rfl := Option.some.inj h
  unfold decodeWord
  rw [(getV_putV _ v).2]
  show decodeClass1 _ = _
  unfold decodeClass1
  rw [(getV_putV _ v).2]
  exact congrArg Instr.vfnma (getV_putV _ v).1
theorem RoundTrip.vmin (v : WordV) : RoundTrip.Statement (.vmin v) := by
  intro w h _
  obtain rfl := Option.some.inj h
  unfold decodeWord
  rw [(getV_putV _ v).2]
  show decodeClass1 _ = _
  unfold decodeClass1
  rw [(getV_putV _ v).2]
  exact congrArg Instr.vmin (getV_putV _ v).1
theorem RoundTrip.vmax (v : WordV) : RoundTrip.Statement (.vmax v) := by
  intro w h _
  obtain rfl := Option.some.inj h
  unfold decodeWord
  rw [(getV_putV _ v).2]
  show decodeClass1 _ = _
  unfold decodeClass1
  rw [(getV_putV _ v).2]
  exact congrArg Instr.vmax (getV_putV _ v).1
theorem RoundTrip.vabs (v : WordV) : RoundTrip.Statement (.vabs v) := by
  intro w h _
  obtain rfl := Option.some.inj h
  unfold decodeWord
  rw [(getV_putV _ v).2]
  show decodeClass1 _ = _
  unfold decodeClass1
  rw [(getV_putV _ v).2]
  exact congrArg Instr.vabs (getV_putV _ v).1
theorem RoundTrip.vneg (v : WordV) : RoundTrip.Statement (.vneg v) := by
  intro w h _
  obtain rfl := Option.some.inj h
  unfold decodeWord
  rw [(getV_putV _ v).2]
  show decodeClass1 _ = _
  unfold decodeClass1
  rw [(getV_putV _ v).2]
  exact congrArg Instr.vneg (getV_putV _ v).1
theorem RoundTrip.vdiv (v : WordV) : RoundTrip.Statement (.vdiv v) := by
  intro w h _
  obtain rfl := Option.some.inj h
  unfold decodeWord
  rw [(getV_putV _ v).2]
  show decodeClass1 _ = _
  unfold decodeClass1
  rw [(getV_putV _ v).2]
  exact congrArg Instr.vdiv (getV_putV _ v).1
theorem RoundTrip.vsqrt (v : WordV) : RoundTrip.Statement (.vsqrt v) := by
  intro w h _
  obtain rfl := Option.some.inj h
  unfold decodeWord
  rw [(getV_putV _ v).2]
  show decodeClass1 _ = _
  unfold decodeClass1
  rw [(getV_putV _ v).2]
  exact congrArg Instr.vsqrt (getV_putV _ v).1
theorem RoundTrip.vrcp (v : WordV) : RoundTrip.Statement (.vrcp v) := by
  intro w h _
  obtain rfl := Option.some.inj h
  unfold decodeWord
  rw [(getV_putV _ v).2]
  show decodeClass1 _ = _
  unfold decodeClass1
  rw [(getV_putV _ v).2]
  exact congrArg Instr.vrcp (getV_putV _ v).1
theorem RoundTrip.vrsq (v : WordV) : RoundTrip.Statement (.vrsq v) := by
  intro w h _
  obtain rfl := Option.some.inj h
  unfold decodeWord
  rw [(getV_putV _ v).2]
  show decodeClass1 _ = _
  unfold decodeClass1
  rw [(getV_putV _ v).2]
  exact congrArg Instr.vrsq (getV_putV _ v).1
theorem RoundTrip.vexp2 (v : WordV) : RoundTrip.Statement (.vexp2 v) := by
  intro w h _
  obtain rfl := Option.some.inj h
  unfold decodeWord
  rw [(getV_putV _ v).2]
  show decodeClass1 _ = _
  unfold decodeClass1
  rw [(getV_putV _ v).2]
  exact congrArg Instr.vexp2 (getV_putV _ v).1
theorem RoundTrip.vlog2 (v : WordV) : RoundTrip.Statement (.vlog2 v) := by
  intro w h _
  obtain rfl := Option.some.inj h
  unfold decodeWord
  rw [(getV_putV _ v).2]
  show decodeClass1 _ = _
  unfold decodeClass1
  rw [(getV_putV _ v).2]
  exact congrArg Instr.vlog2 (getV_putV _ v).1
theorem RoundTrip.viadd (v : WordV) : RoundTrip.Statement (.viadd v) := by
  intro w h _
  obtain rfl := Option.some.inj h
  unfold decodeWord
  rw [(getV_putV _ v).2]
  show decodeClass1 _ = _
  unfold decodeClass1
  rw [(getV_putV _ v).2]
  exact congrArg Instr.viadd (getV_putV _ v).1
theorem RoundTrip.visub (v : WordV) : RoundTrip.Statement (.visub v) := by
  intro w h _
  obtain rfl := Option.some.inj h
  unfold decodeWord
  rw [(getV_putV _ v).2]
  show decodeClass1 _ = _
  unfold decodeClass1
  rw [(getV_putV _ v).2]
  exact congrArg Instr.visub (getV_putV _ v).1
theorem RoundTrip.vimul (v : WordV) : RoundTrip.Statement (.vimul v) := by
  intro w h _
  obtain rfl := Option.some.inj h
  unfold decodeWord
  rw [(getV_putV _ v).2]
  show decodeClass1 _ = _
  unfold decodeClass1
  rw [(getV_putV _ v).2]
  exact congrArg Instr.vimul (getV_putV _ v).1
theorem RoundTrip.vimad (v : WordV) : RoundTrip.Statement (.vimad v) := by
  intro w h _
  obtain rfl := Option.some.inj h
  unfold decodeWord
  rw [(getV_putV _ v).2]
  show decodeClass1 _ = _
  unfold decodeClass1
  rw [(getV_putV _ v).2]
  exact congrArg Instr.vimad (getV_putV _ v).1
theorem RoundTrip.vimulh (v : WordV) : RoundTrip.Statement (.vimulh v) := by
  intro w h _
  obtain rfl := Option.some.inj h
  unfold decodeWord
  rw [(getV_putV _ v).2]
  show decodeClass1 _ = _
  unfold decodeClass1
  rw [(getV_putV _ v).2]
  exact congrArg Instr.vimulh (getV_putV _ v).1
theorem RoundTrip.vsadd (v : WordV) : RoundTrip.Statement (.vsadd v) := by
  intro w h _
  obtain rfl := Option.some.inj h
  unfold decodeWord
  rw [(getV_putV _ v).2]
  show decodeClass1 _ = _
  unfold decodeClass1
  rw [(getV_putV _ v).2]
  exact congrArg Instr.vsadd (getV_putV _ v).1
theorem RoundTrip.vssub (v : WordV) : RoundTrip.Statement (.vssub v) := by
  intro w h _
  obtain rfl := Option.some.inj h
  unfold decodeWord
  rw [(getV_putV _ v).2]
  show decodeClass1 _ = _
  unfold decodeClass1
  rw [(getV_putV _ v).2]
  exact congrArg Instr.vssub (getV_putV _ v).1
theorem RoundTrip.vimin (v : WordV) : RoundTrip.Statement (.vimin v) := by
  intro w h _
  obtain rfl := Option.some.inj h
  unfold decodeWord
  rw [(getV_putV _ v).2]
  show decodeClass1 _ = _
  unfold decodeClass1
  rw [(getV_putV _ v).2]
  exact congrArg Instr.vimin (getV_putV _ v).1
theorem RoundTrip.vimax (v : WordV) : RoundTrip.Statement (.vimax v) := by
  intro w h _
  obtain rfl := Option.some.inj h
  unfold decodeWord
  rw [(getV_putV _ v).2]
  show decodeClass1 _ = _
  unfold decodeClass1
  rw [(getV_putV _ v).2]
  exact congrArg Instr.vimax (getV_putV _ v).1
theorem RoundTrip.viabs (v : WordV) : RoundTrip.Statement (.viabs v) := by
  intro w h _
  obtain rfl := Option.some.inj h
  unfold decodeWord
  rw [(getV_putV _ v).2]
  show decodeClass1 _ = _
  unfold decodeClass1
  rw [(getV_putV _ v).2]
  exact congrArg Instr.viabs (getV_putV _ v).1
theorem RoundTrip.vshl (v : WordV) : RoundTrip.Statement (.vshl v) := by
  intro w h _
  obtain rfl := Option.some.inj h
  unfold decodeWord
  rw [(getV_putV _ v).2]
  show decodeClass1 _ = _
  unfold decodeClass1
  rw [(getV_putV _ v).2]
  exact congrArg Instr.vshl (getV_putV _ v).1
theorem RoundTrip.vshr (v : WordV) : RoundTrip.Statement (.vshr v) := by
  intro w h _
  obtain rfl := Option.some.inj h
  unfold decodeWord
  rw [(getV_putV _ v).2]
  show decodeClass1 _ = _
  unfold decodeClass1
  rw [(getV_putV _ v).2]
  exact congrArg Instr.vshr (getV_putV _ v).1
theorem RoundTrip.vsra (v : WordV) : RoundTrip.Statement (.vsra v) := by
  intro w h _
  obtain rfl := Option.some.inj h
  unfold decodeWord
  rw [(getV_putV _ v).2]
  show decodeClass1 _ = _
  unfold decodeClass1
  rw [(getV_putV _ v).2]
  exact congrArg Instr.vsra (getV_putV _ v).1
theorem RoundTrip.vand (v : WordV) : RoundTrip.Statement (.vand v) := by
  intro w h _
  obtain rfl := Option.some.inj h
  unfold decodeWord
  rw [(getV_putV _ v).2]
  show decodeClass1 _ = _
  unfold decodeClass1
  rw [(getV_putV _ v).2]
  exact congrArg Instr.vand (getV_putV _ v).1
theorem RoundTrip.vor (v : WordV) : RoundTrip.Statement (.vor v) := by
  intro w h _
  obtain rfl := Option.some.inj h
  unfold decodeWord
  rw [(getV_putV _ v).2]
  show decodeClass1 _ = _
  unfold decodeClass1
  rw [(getV_putV _ v).2]
  exact congrArg Instr.vor (getV_putV _ v).1
theorem RoundTrip.vxor (v : WordV) : RoundTrip.Statement (.vxor v) := by
  intro w h _
  obtain rfl := Option.some.inj h
  unfold decodeWord
  rw [(getV_putV _ v).2]
  show decodeClass1 _ = _
  unfold decodeClass1
  rw [(getV_putV _ v).2]
  exact congrArg Instr.vxor (getV_putV _ v).1
theorem RoundTrip.vpopc (v : WordV) : RoundTrip.Statement (.vpopc v) := by
  intro w h _
  obtain rfl := Option.some.inj h
  unfold decodeWord
  rw [(getV_putV _ v).2]
  show decodeClass1 _ = _
  unfold decodeClass1
  rw [(getV_putV _ v).2]
  exact congrArg Instr.vpopc (getV_putV _ v).1
theorem RoundTrip.vclz (v : WordV) : RoundTrip.Statement (.vclz v) := by
  intro w h _
  obtain rfl := Option.some.inj h
  unfold decodeWord
  rw [(getV_putV _ v).2]
  show decodeClass1 _ = _
  unfold decodeClass1
  rw [(getV_putV _ v).2]
  exact congrArg Instr.vclz (getV_putV _ v).1
theorem RoundTrip.vcmp (v : WordV) : RoundTrip.Statement (.vcmp v) := by
  intro w h _
  obtain rfl := Option.some.inj h
  unfold decodeWord
  rw [(getV_putV _ v).2]
  show decodeClass1 _ = _
  unfold decodeClass1
  rw [(getV_putV _ v).2]
  exact congrArg Instr.vcmp (getV_putV _ v).1
theorem RoundTrip.vicmp (v : WordV) : RoundTrip.Statement (.vicmp v) := by
  intro w h _
  obtain rfl := Option.some.inj h
  unfold decodeWord
  rw [(getV_putV _ v).2]
  show decodeClass1 _ = _
  unfold decodeClass1
  rw [(getV_putV _ v).2]
  exact congrArg Instr.vicmp (getV_putV _ v).1
theorem RoundTrip.vsel (v : WordV) : RoundTrip.Statement (.vsel v) := by
  intro w h _
  obtain rfl := Option.some.inj h
  unfold decodeWord
  rw [(getV_putV _ v).2]
  show decodeClass1 _ = _
  unfold decodeClass1
  rw [(getV_putV _ v).2]
  exact congrArg Instr.vsel (getV_putV _ v).1
theorem RoundTrip.vcvt (v : WordV) : RoundTrip.Statement (.vcvt v) := by
  intro w h _
  obtain rfl := Option.some.inj h
  unfold decodeWord
  rw [(getV_putV _ v).2]
  show decodeClass1 _ = _
  unfold decodeClass1
  rw [(getV_putV _ v).2]
  exact congrArg Instr.vcvt (getV_putV _ v).1
theorem RoundTrip.vpack (v : WordV) : RoundTrip.Statement (.vpack v) := by
  intro w h _
  obtain rfl := Option.some.inj h
  unfold decodeWord
  rw [(getV_putV _ v).2]
  show decodeClass1 _ = _
  unfold decodeClass1
  rw [(getV_putV _ v).2]
  exact congrArg Instr.vpack (getV_putV _ v).1
theorem RoundTrip.vunpk (v : WordV) : RoundTrip.Statement (.vunpk v) := by
  intro w h _
  obtain rfl := Option.some.inj h
  unfold decodeWord
  rw [(getV_putV _ v).2]
  show decodeClass1 _ = _
  unfold decodeClass1
  rw [(getV_putV _ v).2]
  exact congrArg Instr.vunpk (getV_putV _ v).1
theorem RoundTrip.vqbfp (v : WordV) : RoundTrip.Statement (.vqbfp v) := by
  intro w h _
  obtain rfl := Option.some.inj h
  unfold decodeWord
  rw [(getV_putV _ v).2]
  show decodeClass1 _ = _
  unfold decodeClass1
  rw [(getV_putV _ v).2]
  exact congrArg Instr.vqbfp (getV_putV _ v).1
theorem RoundTrip.vdqbfp (v : WordV) : RoundTrip.Statement (.vdqbfp v) := by
  intro w h _
  obtain rfl := Option.some.inj h
  unfold decodeWord
  rw [(getV_putV _ v).2]
  show decodeClass1 _ = _
  unfold decodeClass1
  rw [(getV_putV _ v).2]
  exact congrArg Instr.vdqbfp (getV_putV _ v).1
theorem RoundTrip.vmov (v : WordV) : RoundTrip.Statement (.vmov v) := by
  intro w h _
  obtain rfl := Option.some.inj h
  unfold decodeWord
  rw [(getV_putV _ v).2]
  show decodeClass1 _ = _
  unfold decodeClass1
  rw [(getV_putV _ v).2]
  exact congrArg Instr.vmov (getV_putV _ v).1
theorem RoundTrip.vins (v : WordV) : RoundTrip.Statement (.vins v) := by
  intro w h _
  obtain rfl := Option.some.inj h
  unfold decodeWord
  rw [(getV_putV _ v).2]
  show decodeClass1 _ = _
  unfold decodeClass1
  rw [(getV_putV _ v).2]
  exact congrArg Instr.vins (getV_putV _ v).1
theorem RoundTrip.vext (v : WordV) : RoundTrip.Statement (.vext v) := by
  intro w h _
  obtain rfl := Option.some.inj h
  unfold decodeWord
  rw [(getV_putV _ v).2]
  show decodeClass1 _ = _
  unfold decodeClass1
  rw [(getV_putV _ v).2]
  exact congrArg Instr.vext (getV_putV _ v).1
theorem RoundTrip.vperm (v : WordV) : RoundTrip.Statement (.vperm v) := by
  intro w h _
  obtain rfl := Option.some.inj h
  unfold decodeWord
  rw [(getV_putV _ v).2]
  show decodeClass1 _ = _
  unfold decodeClass1
  rw [(getV_putV _ v).2]
  exact congrArg Instr.vperm (getV_putV _ v).1
theorem RoundTrip.vrot (v : WordV) : RoundTrip.Statement (.vrot v) := by
  intro w h _
  obtain rfl := Option.some.inj h
  unfold decodeWord
  rw [(getV_putV _ v).2]
  show decodeClass1 _ = _
  unfold decodeClass1
  rw [(getV_putV _ v).2]
  exact congrArg Instr.vrot (getV_putV _ v).1
theorem RoundTrip.vcmpr (v : WordV) : RoundTrip.Statement (.vcmpr v) := by
  intro w h _
  obtain rfl := Option.some.inj h
  unfold decodeWord
  rw [(getV_putV _ v).2]
  show decodeClass1 _ = _
  unfold decodeClass1
  rw [(getV_putV _ v).2]
  exact congrArg Instr.vcmpr (getV_putV _ v).1
theorem RoundTrip.vexpd (v : WordV) : RoundTrip.Statement (.vexpd v) := by
  intro w h _
  obtain rfl := Option.some.inj h
  unfold decodeWord
  rw [(getV_putV _ v).2]
  show decodeClass1 _ = _
  unfold decodeClass1
  rw [(getV_putV _ v).2]
  exact congrArg Instr.vexpd (getV_putV _ v).1
theorem RoundTrip.vred (v : WordV) : RoundTrip.Statement (.vred v) := by
  intro w h _
  obtain rfl := Option.some.inj h
  unfold decodeWord
  rw [(getV_putV _ v).2]
  show decodeClass1 _ = _
  unfold decodeClass1
  rw [(getV_putV _ v).2]
  exact congrArg Instr.vred (getV_putV _ v).1
theorem RoundTrip.vscan (v : WordV) : RoundTrip.Statement (.vscan v) := by
  intro w h _
  obtain rfl := Option.some.inj h
  unfold decodeWord
  rw [(getV_putV _ v).2]
  show decodeClass1 _ = _
  unfold decodeClass1
  rw [(getV_putV _ v).2]
  exact congrArg Instr.vscan (getV_putV _ v).1
theorem RoundTrip.varg (v : WordV) : RoundTrip.Statement (.varg v) := by
  intro w h _
  obtain rfl := Option.some.inj h
  unfold decodeWord
  rw [(getV_putV _ v).2]
  show decodeClass1 _ = _
  unfold decodeClass1
  rw [(getV_putV _ v).2]
  exact congrArg Instr.varg (getV_putV _ v).1
theorem RoundTrip.ldl (v : WordM) : RoundTrip.Statement (.ldl v) := by
  intro w h _
  obtain rfl := Option.some.inj h
  unfold decodeWord
  rw [(getM_putM _ v).2]
  show decodeClass2 _ = _
  unfold decodeClass2
  rw [(getM_putM _ v).2]
  exact congrArg Instr.ldl (getM_putM _ v).1
theorem RoundTrip.stl (v : WordM) : RoundTrip.Statement (.stl v) := by
  intro w h _
  obtain rfl := Option.some.inj h
  unfold decodeWord
  rw [(getM_putM _ v).2]
  show decodeClass2 _ = _
  unfold decodeClass2
  rw [(getM_putM _ v).2]
  exact congrArg Instr.stl (getM_putM _ v).1
theorem RoundTrip.ldlx (v : WordM) : RoundTrip.Statement (.ldlx v) := by
  intro w h _
  obtain rfl := Option.some.inj h
  unfold decodeWord
  rw [(getM_putM _ v).2]
  show decodeClass2 _ = _
  unfold decodeClass2
  rw [(getM_putM _ v).2]
  exact congrArg Instr.ldlx (getM_putM _ v).1
theorem RoundTrip.stlx (v : WordM) : RoundTrip.Statement (.stlx v) := by
  intro w h _
  obtain rfl := Option.some.inj h
  unfold decodeWord
  rw [(getM_putM _ v).2]
  show decodeClass2 _ = _
  unfold decodeClass2
  rw [(getM_putM _ v).2]
  exact congrArg Instr.stlx (getM_putM _ v).1
theorem RoundTrip.ldk (v : WordM) : RoundTrip.Statement (.ldk v) := by
  intro w h _
  obtain rfl := Option.some.inj h
  unfold decodeWord
  rw [(getM_putM _ v).2]
  show decodeClass2 _ = _
  unfold decodeClass2
  rw [(getM_putM _ v).2]
  exact congrArg Instr.ldk (getM_putM _ v).1
theorem RoundTrip.stk (v : WordM) : RoundTrip.Statement (.stk v) := by
  intro w h _
  obtain rfl := Option.some.inj h
  unfold decodeWord
  rw [(getM_putM _ v).2]
  show decodeClass2 _ = _
  unfold decodeClass2
  rw [(getM_putM _ v).2]
  exact congrArg Instr.stk (getM_putM _ v).1
theorem RoundTrip.ldg (v : WordM) : RoundTrip.Statement (.ldg v) := by
  intro w h _
  obtain rfl := Option.some.inj h
  unfold decodeWord
  rw [(getM_putM _ v).2]
  show decodeClass2 _ = _
  unfold decodeClass2
  rw [(getM_putM _ v).2]
  exact congrArg Instr.ldg (getM_putM _ v).1
theorem RoundTrip.stg (v : WordM) : RoundTrip.Statement (.stg v) := by
  intro w h _
  obtain rfl := Option.some.inj h
  unfold decodeWord
  rw [(getM_putM _ v).2]
  show decodeClass2 _ = _
  unfold decodeClass2
  rw [(getM_putM _ v).2]
  exact congrArg Instr.stg (getM_putM _ v).1
theorem RoundTrip.pfg (v : WordM) : RoundTrip.Statement (.pfg v) := by
  intro w h _
  obtain rfl := Option.some.inj h
  unfold decodeWord
  rw [(getM_putM _ v).2]
  show decodeClass2 _ = _
  unfold decodeClass2
  rw [(getM_putM _ v).2]
  exact congrArg Instr.pfg (getM_putM _ v).1
theorem RoundTrip.ldf (v : WordM) : RoundTrip.Statement (.ldf v) := by
  intro w h _
  obtain rfl := Option.some.inj h
  unfold decodeWord
  rw [(getM_putM _ v).2]
  show decodeClass2 _ = _
  unfold decodeClass2
  rw [(getM_putM _ v).2]
  exact congrArg Instr.ldf (getM_putM _ v).1
theorem RoundTrip.stf (v : WordM) : RoundTrip.Statement (.stf v) := by
  intro w h _
  obtain rfl := Option.some.inj h
  unfold decodeWord
  rw [(getM_putM _ v).2]
  show decodeClass2 _ = _
  unfold decodeClass2
  rw [(getM_putM _ v).2]
  exact congrArg Instr.stf (getM_putM _ v).1
theorem RoundTrip.ldo (v : WordM) : RoundTrip.Statement (.ldo v) := by
  intro w h _
  obtain rfl := Option.some.inj h
  unfold decodeWord
  rw [(getM_putM _ v).2]
  show decodeClass2 _ = _
  unfold decodeClass2
  rw [(getM_putM _ v).2]
  exact congrArg Instr.ldo (getM_putM _ v).1
theorem RoundTrip.sto (v : WordM) : RoundTrip.Statement (.sto v) := by
  intro w h _
  obtain rfl := Option.some.inj h
  unfold decodeWord
  rw [(getM_putM _ v).2]
  show decodeClass2 _ = _
  unfold decodeClass2
  rw [(getM_putM _ v).2]
  exact congrArg Instr.sto (getM_putM _ v).1
theorem RoundTrip.oseq (v : WordM) : RoundTrip.Statement (.oseq v) := by
  intro w h _
  obtain rfl := Option.some.inj h
  unfold decodeWord
  rw [(getM_putM _ v).2]
  show decodeClass2 _ = _
  unfold decodeClass2
  rw [(getM_putM _ v).2]
  exact congrArg Instr.oseq (getM_putM _ v).1
theorem RoundTrip.owt (v : WordM) : RoundTrip.Statement (.owt v) := by
  intro w h _
  obtain rfl := Option.some.inj h
  unfold decodeWord
  rw [(getM_putM _ v).2]
  show decodeClass2 _ = _
  unfold decodeClass2
  rw [(getM_putM _ v).2]
  exact congrArg Instr.owt (getM_putM _ v).1
theorem RoundTrip.ldh (v : WordM) : RoundTrip.Statement (.ldh v) := by
  intro w h _
  obtain rfl := Option.some.inj h
  unfold decodeWord
  rw [(getM_putM _ v).2]
  show decodeClass2 _ = _
  unfold decodeClass2
  rw [(getM_putM _ v).2]
  exact congrArg Instr.ldh (getM_putM _ v).1
theorem RoundTrip.sth (v : WordM) : RoundTrip.Statement (.sth v) := by
  intro w h _
  obtain rfl := Option.some.inj h
  unfold decodeWord
  rw [(getM_putM _ v).2]
  show decodeClass2 _ = _
  unfold decodeClass2
  rw [(getM_putM _ v).2]
  exact congrArg Instr.sth (getM_putM _ v).1
theorem RoundTrip.atl (v : WordM) : RoundTrip.Statement (.atl v) := by
  intro w h _
  obtain rfl := Option.some.inj h
  unfold decodeWord
  rw [(getM_putM _ v).2]
  show decodeClass2 _ = _
  unfold decodeClass2
  rw [(getM_putM _ v).2]
  exact congrArg Instr.atl (getM_putM _ v).1
theorem RoundTrip.atk (v : WordM) : RoundTrip.Statement (.atk v) := by
  intro w h _
  obtain rfl := Option.some.inj h
  unfold decodeWord
  rw [(getM_putM _ v).2]
  show decodeClass2 _ = _
  unfold decodeClass2
  rw [(getM_putM _ v).2]
  exact congrArg Instr.atk (getM_putM _ v).1
theorem RoundTrip.atg (v : WordM) : RoundTrip.Statement (.atg v) := by
  intro w h _
  obtain rfl := Option.some.inj h
  unfold decodeWord
  rw [(getM_putM _ v).2]
  show decodeClass2 _ = _
  unfold decodeClass2
  rw [(getM_putM _ v).2]
  exact congrArg Instr.atg (getM_putM _ v).1
theorem RoundTrip.atf (v : WordM) : RoundTrip.Statement (.atf v) := by
  intro w h _
  obtain rfl := Option.some.inj h
  unfold decodeWord
  rw [(getM_putM _ v).2]
  show decodeClass2 _ = _
  unfold decodeClass2
  rw [(getM_putM _ v).2]
  exact congrArg Instr.atf (getM_putM _ v).1
theorem RoundTrip.fence (v : WordM) : RoundTrip.Statement (.fence v) := by
  intro w h _
  obtain rfl := Option.some.inj h
  unfold decodeWord
  rw [(getM_putM _ v).2]
  show decodeClass2 _ = _
  unfold decodeClass2
  rw [(getM_putM _ v).2]
  exact congrArg Instr.fence (getM_putM _ v).1
theorem RoundTrip.phase (v : WordM) : RoundTrip.Statement (.phase v) := by
  intro w h _
  obtain rfl := Option.some.inj h
  unfold decodeWord
  rw [(getM_putM _ v).2]
  show decodeClass2 _ = _
  unfold decodeClass2
  rw [(getM_putM _ v).2]
  exact congrArg Instr.phase (getM_putM _ v).1
theorem RoundTrip.cbini (v : WordM) : RoundTrip.Statement (.cbini v) := by
  intro w h _
  obtain rfl := Option.some.inj h
  unfold decodeWord
  rw [(getM_putM _ v).2]
  show decodeClass2 _ = _
  unfold decodeClass2
  rw [(getM_putM _ v).2]
  exact congrArg Instr.cbini (getM_putM _ v).1
theorem RoundTrip.cbclm (v : WordM) : RoundTrip.Statement (.cbclm v) := by
  intro w h _
  obtain rfl := Option.some.inj h
  unfold decodeWord
  rw [(getM_putM _ v).2]
  show decodeClass2 _ = _
  unfold decodeClass2
  rw [(getM_putM _ v).2]
  exact congrArg Instr.cbclm (getM_putM _ v).1
theorem RoundTrip.cbpub (v : WordM) : RoundTrip.Statement (.cbpub v) := by
  intro w h _
  obtain rfl := Option.some.inj h
  unfold decodeWord
  rw [(getM_putM _ v).2]
  show decodeClass2 _ = _
  unfold decodeClass2
  rw [(getM_putM _ v).2]
  exact congrArg Instr.cbpub (getM_putM _ v).1
theorem RoundTrip.cbtak (v : WordM) : RoundTrip.Statement (.cbtak v) := by
  intro w h _
  obtain rfl := Option.some.inj h
  unfold decodeWord
  rw [(getM_putM _ v).2]
  show decodeClass2 _ = _
  unfold decodeClass2
  rw [(getM_putM _ v).2]
  exact congrArg Instr.cbtak (getM_putM _ v).1
theorem RoundTrip.cbrel (v : WordM) : RoundTrip.Statement (.cbrel v) := by
  intro w h _
  obtain rfl := Option.some.inj h
  unfold decodeWord
  rw [(getM_putM _ v).2]
  show decodeClass2 _ = _
  unfold decodeClass2
  rw [(getM_putM _ v).2]
  exact congrArg Instr.cbrel (getM_putM _ v).1
theorem RoundTrip.dqini (v : WordM) : RoundTrip.Statement (.dqini v) := by
  intro w h _
  obtain rfl := Option.some.inj h
  unfold decodeWord
  rw [(getM_putM _ v).2]
  show decodeClass2 _ = _
  unfold decodeClass2
  rw [(getM_putM _ v).2]
  exact congrArg Instr.dqini (getM_putM _ v).1
theorem RoundTrip.dqpsh (v : WordM) : RoundTrip.Statement (.dqpsh v) := by
  intro w h _
  obtain rfl := Option.some.inj h
  unfold decodeWord
  rw [(getM_putM _ v).2]
  show decodeClass2 _ = _
  unfold decodeClass2
  rw [(getM_putM _ v).2]
  exact congrArg Instr.dqpsh (getM_putM _ v).1
theorem RoundTrip.dqpop (v : WordM) : RoundTrip.Statement (.dqpop v) := by
  intro w h _
  obtain rfl := Option.some.inj h
  unfold decodeWord
  rw [(getM_putM _ v).2]
  show decodeClass2 _ = _
  unfold decodeClass2
  rw [(getM_putM _ v).2]
  exact congrArg Instr.dqpop (getM_putM _ v).1
theorem RoundTrip.dqstl (v : WordM) : RoundTrip.Statement (.dqstl v) := by
  intro w h _
  obtain rfl := Option.some.inj h
  unfold decodeWord
  rw [(getM_putM _ v).2]
  show decodeClass2 _ = _
  unfold decodeClass2
  rw [(getM_putM _ v).2]
  exact congrArg Instr.dqstl (getM_putM _ v).1
theorem RoundTrip.bara (v : WordM) : RoundTrip.Statement (.bara v) := by
  intro w h _
  obtain rfl := Option.some.inj h
  unfold decodeWord
  rw [(getM_putM _ v).2]
  show decodeClass2 _ = _
  unfold decodeClass2
  rw [(getM_putM _ v).2]
  exact congrArg Instr.bara (getM_putM _ v).1
theorem RoundTrip.barw (v : WordM) : RoundTrip.Statement (.barw v) := by
  intro w h _
  obtain rfl := Option.some.inj h
  unfold decodeWord
  rw [(getM_putM _ v).2]
  show decodeClass2 _ = _
  unfold decodeClass2
  rw [(getM_putM _ v).2]
  exact congrArg Instr.barw (getM_putM _ v).1
theorem RoundTrip.bar (v : WordM) : RoundTrip.Statement (.bar v) := by
  intro w h _
  obtain rfl := Option.some.inj h
  unfold decodeWord
  rw [(getM_putM _ v).2]
  show decodeClass2 _ = _
  unfold decodeClass2
  rw [(getM_putM _ v).2]
  exact congrArg Instr.bar (getM_putM _ v).1
theorem RoundTrip.bidb (v : WordM) : RoundTrip.Statement (.bidb v) := by
  intro w h _
  obtain rfl := Option.some.inj h
  unfold decodeWord
  rw [(getM_putM _ v).2]
  show decodeClass2 _ = _
  unfold decodeClass2
  rw [(getM_putM _ v).2]
  exact congrArg Instr.bidb (getM_putM _ v).1
theorem RoundTrip.bida (v : WordM) : RoundTrip.Statement (.bida v) := by
  intro w h _
  obtain rfl := Option.some.inj h
  unfold decodeWord
  rw [(getM_putM _ v).2]
  show decodeClass2 _ = _
  unfold decodeClass2
  rw [(getM_putM _ v).2]
  exact congrArg Instr.bida (getM_putM _ v).1
theorem RoundTrip.qcnt (v : WordM) : RoundTrip.Statement (.qcnt v) := by
  intro w h _
  obtain rfl := Option.some.inj h
  unfold decodeWord
  rw [(getM_putM _ v).2]
  show decodeClass2 _ = _
  unfold decodeClass2
  rw [(getM_putM _ v).2]
  exact congrArg Instr.qcnt (getM_putM _ v).1
theorem RoundTrip.qclr (v : WordM) : RoundTrip.Statement (.qclr v) := by
  intro w h _
  obtain rfl := Option.some.inj h
  unfold decodeWord
  rw [(getM_putM _ v).2]
  show decodeClass2 _ = _
  unfold decodeClass2
  rw [(getM_putM _ v).2]
  exact congrArg Instr.qclr (getM_putM _ v).1
theorem RoundTrip.qbnd (v : WordM) : RoundTrip.Statement (.qbnd v) := by
  intro w h _
  obtain rfl := Option.some.inj h
  unfold decodeWord
  rw [(getM_putM _ v).2]
  show decodeClass2 _ = _
  unfold decodeClass2
  rw [(getM_putM _ v).2]
  exact congrArg Instr.qbnd (getM_putM _ v).1
theorem RoundTrip.tktry (v : WordM) : RoundTrip.Statement (.tktry v) := by
  intro w h _
  obtain rfl := Option.some.inj h
  unfold decodeWord
  rw [(getM_putM _ v).2]
  show decodeClass2 _ = _
  unfold decodeClass2
  rw [(getM_putM _ v).2]
  exact congrArg Instr.tktry (getM_putM _ v).1
theorem RoundTrip.wlapp (v : WordM) : RoundTrip.Statement (.wlapp v) := by
  intro w h _
  obtain rfl := Option.some.inj h
  unfold decodeWord
  rw [(getM_putM _ v).2]
  show decodeClass2 _ = _
  unfold decodeClass2
  rw [(getM_putM _ v).2]
  exact congrArg Instr.wlapp (getM_putM _ v).1
theorem RoundTrip.wltak (v : WordM) : RoundTrip.Statement (.wltak v) := by
  intro w h _
  obtain rfl := Option.some.inj h
  unfold decodeWord
  rw [(getM_putM _ v).2]
  show decodeClass2 _ = _
  unfold decodeClass2
  rw [(getM_putM _ v).2]
  exact congrArg Instr.wltak (getM_putM _ v).1
theorem RoundTrip.wlidl (v : WordM) : RoundTrip.Statement (.wlidl v) := by
  intro w h _
  obtain rfl := Option.some.inj h
  unfold decodeWord
  rw [(getM_putM _ v).2]
  show decodeClass2 _ = _
  unfold decodeClass2
  rw [(getM_putM _ v).2]
  exact congrArg Instr.wlidl (getM_putM _ v).1
theorem RoundTrip.trmw (v : WordM) : RoundTrip.Statement (.trmw v) := by
  intro w h _
  obtain rfl := Option.some.inj h
  unfold decodeWord
  rw [(getM_putM _ v).2]
  show decodeClass2 _ = _
  unfold decodeClass2
  rw [(getM_putM _ v).2]
  exact congrArg Instr.trmw (getM_putM _ v).1
theorem RoundTrip.lease (v : WordX) : RoundTrip.Statement (.lease v) := by
  intro w h _
  obtain rfl := Option.some.inj h
  unfold decodeWord
  rw [(getX_putX _ v).2]
  show decodeClass3 _ = _
  unfold decodeClass3
  rw [(getX_putX _ v).2]
  exact congrArg Instr.lease (getX_putX _ v).1
theorem RoundTrip.ulease (v : WordX) : RoundTrip.Statement (.ulease v) := by
  intro w h _
  obtain rfl := Option.some.inj h
  unfold decodeWord
  rw [(getX_putX _ v).2]
  show decodeClass3 _ = _
  unfold decodeClass3
  rw [(getX_putX _ v).2]
  exact congrArg Instr.ulease (getX_putX _ v).1
theorem RoundTrip.wload (v : WordX) : RoundTrip.Statement (.wload v) := by
  intro w h _
  obtain rfl := Option.some.inj h
  unfold decodeWord
  rw [(getX_putX _ v).2]
  show decodeClass3 _ = _
  unfold decodeClass3
  rw [(getX_putX _ v).2]
  exact congrArg Instr.wload (getX_putX _ v).1
theorem RoundTrip.wswp (v : WordX) : RoundTrip.Statement (.wswp v) := by
  intro w h _
  obtain rfl := Option.some.inj h
  unfold decodeWord
  rw [(getX_putX _ v).2]
  show decodeClass3 _ = _
  unfold decodeClass3
  rw [(getX_putX _ v).2]
  exact congrArg Instr.wswp (getX_putX _ v).1
theorem RoundTrip.ashp (v : WordX) : RoundTrip.Statement (.ashp v) := by
  intro w h _
  obtain rfl := Option.some.inj h
  unfold decodeWord
  rw [(getX_putX _ v).2]
  show decodeClass3 _ = _
  unfold decodeClass3
  rw [(getX_putX _ v).2]
  exact congrArg Instr.ashp (getX_putX _ v).1
theorem RoundTrip.mma (v : WordX) : RoundTrip.Statement (.mma v) := by
  intro w h _
  obtain rfl := Option.some.inj h
  unfold decodeWord
  rw [(getX_putX _ v).2]
  show decodeClass3 _ = _
  unfold decodeClass3
  rw [(getX_putX _ v).2]
  exact congrArg Instr.mma (getX_putX _ v).1
theorem RoundTrip.mmaz (v : WordX) : RoundTrip.Statement (.mmaz v) := by
  intro w h _
  obtain rfl := Option.some.inj h
  unfold decodeWord
  rw [(getX_putX _ v).2]
  show decodeClass3 _ = _
  unfold decodeClass3
  rw [(getX_putX _ v).2]
  exact congrArg Instr.mmaz (getX_putX _ v).1
theorem RoundTrip.mmai (v : WordX) : RoundTrip.Statement (.mmai v) := by
  intro w h _
  obtain rfl := Option.some.inj h
  unfold decodeWord
  rw [(getX_putX _ v).2]
  show decodeClass3 _ = _
  unfold decodeClass3
  rw [(getX_putX _ v).2]
  exact congrArg Instr.mmai (getX_putX _ v).1
theorem RoundTrip.epi (v : WordX) : RoundTrip.Statement (.epi v) := by
  intro w h _
  obtain rfl := Option.some.inj h
  unfold decodeWord
  rw [(getX_putX _ v).2]
  show decodeClass3 _ = _
  unfold decodeClass3
  rw [(getX_putX _ v).2]
  exact congrArg Instr.epi (getX_putX _ v).1
theorem RoundTrip.epicf (v : WordX) : RoundTrip.Statement (.epicf v) := by
  intro w h _
  obtain rfl := Option.some.inj h
  unfold decodeWord
  rw [(getX_putX _ v).2]
  show decodeClass3 _ = _
  unfold decodeClass3
  rw [(getX_putX _ v).2]
  exact congrArg Instr.epicf (getX_putX _ v).1
theorem RoundTrip.zrd (v : WordX) : RoundTrip.Statement (.zrd v) := by
  intro w h _
  obtain rfl := Option.some.inj h
  unfold decodeWord
  rw [(getX_putX _ v).2]
  show decodeClass3 _ = _
  unfold decodeClass3
  rw [(getX_putX _ v).2]
  exact congrArg Instr.zrd (getX_putX _ v).1
theorem RoundTrip.zwr (v : WordX) : RoundTrip.Statement (.zwr v) := by
  intro w h _
  obtain rfl := Option.some.inj h
  unfold decodeWord
  rw [(getX_putX _ v).2]
  show decodeClass3 _ = _
  unfold decodeClass3
  rw [(getX_putX _ v).2]
  exact congrArg Instr.zwr (getX_putX _ v).1
theorem RoundTrip.zclr (v : WordX) : RoundTrip.Statement (.zclr v) := by
  intro w h _
  obtain rfl := Option.some.inj h
  unfold decodeWord
  rw [(getX_putX _ v).2]
  show decodeClass3 _ = _
  unfold decodeClass3
  rw [(getX_putX _ v).2]
  exact congrArg Instr.zclr (getX_putX _ v).1
theorem RoundTrip.cpyi (v : WordX) : RoundTrip.Statement (.cpyi v) := by
  intro w h _
  obtain rfl := Option.some.inj h
  unfold decodeWord
  rw [(getX_putX _ v).2]
  show decodeClass3 _ = _
  unfold decodeClass3
  rw [(getX_putX _ v).2]
  exact congrArg Instr.cpyi (getX_putX _ v).1
theorem RoundTrip.cpyo (v : WordX) : RoundTrip.Statement (.cpyo v) := by
  intro w h _
  obtain rfl := Option.some.inj h
  unfold decodeWord
  rw [(getX_putX _ v).2]
  show decodeClass3 _ = _
  unfold decodeClass3
  rw [(getX_putX _ v).2]
  exact congrArg Instr.cpyo (getX_putX _ v).1
theorem RoundTrip.gthi (v : WordX) : RoundTrip.Statement (.gthi v) := by
  intro w h _
  obtain rfl := Option.some.inj h
  unfold decodeWord
  rw [(getX_putX _ v).2]
  show decodeClass3 _ = _
  unfold decodeClass3
  rw [(getX_putX _ v).2]
  exact congrArg Instr.gthi (getX_putX _ v).1
theorem RoundTrip.scto (v : WordX) : RoundTrip.Statement (.scto v) := by
  intro w h _
  obtain rfl := Option.some.inj h
  unfold decodeWord
  rw [(getX_putX _ v).2]
  show decodeClass3 _ = _
  unfold decodeClass3
  rw [(getX_putX _ v).2]
  exact congrArg Instr.scto (getX_putX _ v).1
theorem RoundTrip.echk (v : WordX) : RoundTrip.Statement (.echk v) := by
  intro w h _
  obtain rfl := Option.some.inj h
  unfold decodeWord
  rw [(getX_putX _ v).2]
  show decodeClass3 _ = _
  unfold decodeClass3
  rw [(getX_putX _ v).2]
  exact congrArg Instr.echk (getX_putX _ v).1
theorem RoundTrip.cvwt (v : WordX) : RoundTrip.Statement (.cvwt v) := by
  intro w h _
  obtain rfl := Option.some.inj h
  unfold decodeWord
  rw [(getX_putX _ v).2]
  show decodeClass3 _ = _
  unfold decodeClass3
  rw [(getX_putX _ v).2]
  exact congrArg Instr.cvwt (getX_putX _ v).1
theorem RoundTrip.cvts (v : WordX) : RoundTrip.Statement (.cvts v) := by
  intro w h _
  obtain rfl := Option.some.inj h
  unfold decodeWord
  rw [(getX_putX _ v).2]
  show decodeClass3 _ = _
  unfold decodeClass3
  rw [(getX_putX _ v).2]
  exact congrArg Instr.cvts (getX_putX _ v).1
theorem RoundTrip.cvcl (v : WordX) : RoundTrip.Statement (.cvcl v) := by
  intro w h _
  obtain rfl := Option.some.inj h
  unfold decodeWord
  rw [(getX_putX _ v).2]
  show decodeClass3 _ = _
  unfold decodeClass3
  rw [(getX_putX _ v).2]
  exact congrArg Instr.cvcl (getX_putX _ v).1
theorem RoundTrip.cvinf (v : WordX) : RoundTrip.Statement (.cvinf v) := by
  intro w h _
  obtain rfl := Option.some.inj h
  unfold decodeWord
  rw [(getX_putX _ v).2]
  show decodeClass3 _ = _
  unfold decodeClass3
  rw [(getX_putX _ v).2]
  exact congrArg Instr.cvinf (getX_putX _ v).1
theorem RoundTrip.cvtim (v : WordX) : RoundTrip.Statement (.cvtim v) := by
  intro w h _
  obtain rfl := Option.some.inj h
  unfold decodeWord
  rw [(getX_putX _ v).2]
  show decodeClass3 _ = _
  unfold decodeClass3
  rw [(getX_putX _ v).2]
  exact congrArg Instr.cvtim (getX_putX _ v).1
theorem RoundTrip.mbsnd (v : WordX) : RoundTrip.Statement (.mbsnd v) := by
  intro w h _
  obtain rfl := Option.some.inj h
  unfold decodeWord
  rw [(getX_putX _ v).2]
  show decodeClass3 _ = _
  unfold decodeClass3
  rw [(getX_putX _ v).2]
  exact congrArg Instr.mbsnd (getX_putX _ v).1
theorem RoundTrip.mbrcv (v : WordX) : RoundTrip.Statement (.mbrcv v) := by
  intro w h _
  obtain rfl := Option.some.inj h
  unfold decodeWord
  rw [(getX_putX _ v).2]
  show decodeClass3 _ = _
  unfold decodeClass3
  rw [(getX_putX _ v).2]
  exact congrArg Instr.mbrcv (getX_putX _ v).1
theorem RoundTrip.mbsta (v : WordX) : RoundTrip.Statement (.mbsta v) := by
  intro w h _
  obtain rfl := Option.some.inj h
  unfold decodeWord
  rw [(getX_putX _ v).2]
  show decodeClass3 _ = _
  unfold decodeClass3
  rw [(getX_putX _ v).2]
  exact congrArg Instr.mbsta (getX_putX _ v).1
theorem RoundTrip.srd (v : WordX) : RoundTrip.Statement (.srd v) := by
  intro w h _
  obtain rfl := Option.some.inj h
  unfold decodeWord
  rw [(getX_putX _ v).2]
  show decodeClass3 _ = _
  unfold decodeClass3
  rw [(getX_putX _ v).2]
  exact congrArg Instr.srd (getX_putX _ v).1
theorem RoundTrip.swr (v : WordX) : RoundTrip.Statement (.swr v) := by
  intro w h _
  obtain rfl := Option.some.inj h
  unfold decodeWord
  rw [(getX_putX _ v).2]
  show decodeClass3 _ = _
  unfold decodeClass3
  rw [(getX_putX _ v).2]
  exact congrArg Instr.swr (getX_putX _ v).1
theorem RoundTrip.eret (v : WordX) : RoundTrip.Statement (.eret v) := by
  intro w h _
  obtain rfl := Option.some.inj h
  unfold decodeWord
  rw [(getX_putX _ v).2]
  show decodeClass3 _ = _
  unfold decodeClass3
  rw [(getX_putX _ v).2]
  exact congrArg Instr.eret (getX_putX _ v).1
theorem RoundTrip.invl (v : WordX) : RoundTrip.Statement (.invl v) := by
  intro w h _
  obtain rfl := Option.some.inj h
  unfold decodeWord
  rw [(getX_putX _ v).2]
  show decodeClass3 _ = _
  unfold decodeClass3
  rw [(getX_putX _ v).2]
  exact congrArg Instr.invl (getX_putX _ v).1
theorem RoundTrip.inva (v : WordX) : RoundTrip.Statement (.inva v) := by
  intro w h _
  obtain rfl := Option.some.inj h
  unfold decodeWord
  rw [(getX_putX _ v).2]
  show decodeClass3 _ = _
  unfold decodeClass3
  rw [(getX_putX _ v).2]
  exact congrArg Instr.inva (getX_putX _ v).1
theorem RoundTrip.stbw (v : WordX) : RoundTrip.Statement (.stbw v) := by
  intro w h _
  obtain rfl := Option.some.inj h
  unfold decodeWord
  rw [(getX_putX _ v).2]
  show decodeClass3 _ = _
  unfold decodeClass3
  rw [(getX_putX _ v).2]
  exact congrArg Instr.stbw (getX_putX _ v).1
theorem RoundTrip.stbr (v : WordX) : RoundTrip.Statement (.stbr v) := by
  intro w h _
  obtain rfl := Option.some.inj h
  unfold decodeWord
  rw [(getX_putX _ v).2]
  show decodeClass3 _ = _
  unfold decodeClass3
  rw [(getX_putX _ v).2]
  exact congrArg Instr.stbr (getX_putX _ v).1
theorem RoundTrip.ctxsv (v : WordX) : RoundTrip.Statement (.ctxsv v) := by
  intro w h _
  obtain rfl := Option.some.inj h
  unfold decodeWord
  rw [(getX_putX _ v).2]
  show decodeClass3 _ = _
  unfold decodeClass3
  rw [(getX_putX _ v).2]
  exact congrArg Instr.ctxsv (getX_putX _ v).1
theorem RoundTrip.ctxld (v : WordX) : RoundTrip.Statement (.ctxld v) := by
  intro w h _
  obtain rfl := Option.some.inj h
  unfold decodeWord
  rw [(getX_putX _ v).2]
  show decodeClass3 _ = _
  unfold decodeClass3
  rw [(getX_putX _ v).2]
  exact congrArg Instr.ctxld (getX_putX _ v).1
theorem RoundTrip.park (v : WordX) : RoundTrip.Statement (.park v) := by
  intro w h _
  obtain rfl := Option.some.inj h
  unfold decodeWord
  rw [(getX_putX _ v).2]
  show decodeClass3 _ = _
  unfold decodeClass3
  rw [(getX_putX _ v).2]
  exact congrArg Instr.park (getX_putX _ v).1
theorem RoundTrip.unpark (v : WordX) : RoundTrip.Statement (.unpark v) := by
  intro w h _
  obtain rfl := Option.some.inj h
  unfold decodeWord
  rw [(getX_putX _ v).2]
  show decodeClass3 _ = _
  unfold decodeClass3
  rw [(getX_putX _ v).2]
  exact congrArg Instr.unpark (getX_putX _ v).1
theorem RoundTrip.retire (v : WordX) : RoundTrip.Statement (.retire v) := by
  intro w h _
  obtain rfl := Option.some.inj h
  unfold decodeWord
  rw [(getX_putX _ v).2]
  show decodeClass3 _ = _
  unfold decodeClass3
  rw [(getX_putX _ v).2]
  exact congrArg Instr.retire (getX_putX _ v).1
theorem RoundTrip.dbgh (v : WordX) : RoundTrip.Statement (.dbgh v) := by
  intro w h _
  obtain rfl := Option.some.inj h
  unfold decodeWord
  rw [(getX_putX _ v).2]
  show decodeClass3 _ = _
  unfold decodeClass3
  rw [(getX_putX _ v).2]
  exact congrArg Instr.dbgh (getX_putX _ v).1
theorem RoundTrip.idle (v : WordX) : RoundTrip.Statement (.idle v) := by
  intro w h _
  obtain rfl := Option.some.inj h
  unfold decodeWord
  rw [(getX_putX _ v).2]
  show decodeClass3 _ = _
  unfold decodeClass3
  rw [(getX_putX _ v).2]
  exact congrArg Instr.idle (getX_putX _ v).1
theorem RoundTrip.ckpt (v : WordX) : RoundTrip.Statement (.ckpt v) := by
  intro w h _
  obtain rfl := Option.some.inj h
  unfold decodeWord
  rw [(getX_putX _ v).2]
  show decodeClass3 _ = _
  unfold decodeClass3
  rw [(getX_putX _ v).2]
  exact congrArg Instr.ckpt (getX_putX _ v).1
theorem RoundTrip.spare (v : WordX) : RoundTrip.Statement (.spare v) := by
  intro w h _
  obtain rfl := Option.some.inj h
  unfold decodeWord
  rw [(getX_putX _ v).2]
  show decodeClass3 _ = _
  unfold decodeClass3
  rw [(getX_putX _ v).2]
  exact congrArg Instr.spare (getX_putX _ v).1
theorem RoundTrip.mbRecv (rd rs1 : BitVec 5) : RoundTrip.Statement (.mbRecv rd rs1) := fun _ h => nomatch h
theorem RoundTrip.mbSend (rs1 rs2 : BitVec 5) : RoundTrip.Statement (.mbSend rs1 rs2) := fun _ h => nomatch h
theorem RoundTrip.mbStep (rd rs1 rs2 : BitVec 5) : RoundTrip.Statement (.mbStep rd rs1 rs2) := fun _ h => nomatch h
theorem RoundTrip.mbDone (rs1 rs2 : BitVec 5) : RoundTrip.Statement (.mbDone rs1 rs2) := fun _ h => nomatch h
theorem RoundTrip.mbStat (rd : BitVec 5) : RoundTrip.Statement (.mbStat rd) := fun _ h => nomatch h
theorem RoundTrip.mbVer (rd : BitVec 5) : RoundTrip.Statement (.mbVer rd) := fun _ h => nomatch h
theorem RoundTrip.unassignedOpcode (v : Word96) : RoundTrip.Statement (.unassignedOpcode v) :=
  fun _ _ h => nomatch (show some Violation.opcode = none from h)
theorem RoundTrip.settCoreInstruction (w : W32) : RoundTrip.Statement (.settCoreInstruction w) := fun _ h => nomatch h
theorem RoundTrip.trapRecordPendingAppend : RoundTrip.Statement (.trapRecordPendingAppend) := fun _ h => nomatch h
theorem RoundTrip.loadDataWrite : RoundTrip.Statement (.loadDataWrite) := fun _ h => nomatch h
theorem RoundTrip.storeBufferDrain : RoundTrip.Statement (.storeBufferDrain) := fun _ h => nomatch h
theorem RoundTrip.atomicPerform : RoundTrip.Statement (.atomicPerform) := fun _ h => nomatch h
theorem RoundTrip.clusterMessagePerform : RoundTrip.Statement (.clusterMessagePerform) := fun _ h => nomatch h
theorem RoundTrip.stfAcknowledgement : RoundTrip.Statement (.stfAcknowledgement) := fun _ h => nomatch h
theorem RoundTrip.fAccessArrival : RoundTrip.Statement (.fAccessArrival) := fun _ h => nomatch h
theorem RoundTrip.ldhCompletion : RoundTrip.Statement (.ldhCompletion) := fun _ h => nomatch h
theorem RoundTrip.completionTimeout : RoundTrip.Statement (.completionTimeout) := fun _ h => nomatch h
theorem RoundTrip.translationWalk : RoundTrip.Statement (.translationWalk) := fun _ h => nomatch h
theorem RoundTrip.invalidationApply : RoundTrip.Statement (.invalidationApply) := fun _ h => nomatch h
theorem RoundTrip.engineCommandBegin : RoundTrip.Statement (.engineCommandBegin) := fun _ h => nomatch h
theorem RoundTrip.engineCommandCompletion : RoundTrip.Statement (.engineCommandCompletion) := fun _ h => nomatch h
theorem RoundTrip.copyFaultFreeze : RoundTrip.Statement (.copyFaultFreeze) := fun _ h => nomatch h
theorem RoundTrip.frzRelease : RoundTrip.Statement (.frzRelease) := fun _ h => nomatch h
theorem RoundTrip.arrayCompletionPush : RoundTrip.Statement (.arrayCompletionPush) := fun _ h => nomatch h
theorem RoundTrip.wloadTileCopy : RoundTrip.Statement (.wloadTileCopy) := fun _ h => nomatch h
theorem RoundTrip.wswpExchange : RoundTrip.Statement (.wswpExchange) := fun _ h => nomatch h
theorem RoundTrip.planeInjection : RoundTrip.Statement (.planeInjection) := fun _ h => nomatch h
theorem RoundTrip.arrayRowComplete : RoundTrip.Statement (.arrayRowComplete) := fun _ h => nomatch h
theorem RoundTrip.epilogueRow : RoundTrip.Statement (.epilogueRow) := fun _ h => nomatch h
theorem RoundTrip.zDirectExecute : RoundTrip.Statement (.zDirectExecute) := fun _ h => nomatch h
theorem RoundTrip.bandPowerUp : RoundTrip.Statement (.bandPowerUp) := fun _ h => nomatch h
theorem RoundTrip.leaseHandover : RoundTrip.Statement (.leaseHandover) := fun _ h => nomatch h
theorem RoundTrip.barrierRelease : RoundTrip.Statement (.barrierRelease) := fun _ h => nomatch h
theorem RoundTrip.phaseBarrierRelease : RoundTrip.Statement (.phaseBarrierRelease) := fun _ h => nomatch h
theorem RoundTrip.selfDeadlock : RoundTrip.Statement (.selfDeadlock) := fun _ h => nomatch h
theorem RoundTrip.waitTimeout : RoundTrip.Statement (.waitTimeout) := fun _ h => nomatch h
theorem RoundTrip.holdOffOverrun : RoundTrip.Statement (.holdOffOverrun) := fun _ h => nomatch h
theorem RoundTrip.detectionWave : RoundTrip.Statement (.detectionWave) := fun _ h => nomatch h
theorem RoundTrip.slotLoad : RoundTrip.Statement (.slotLoad) := fun _ h => nomatch h
theorem RoundTrip.slotAdd : RoundTrip.Statement (.slotAdd) := fun _ h => nomatch h
theorem RoundTrip.slotCopy : RoundTrip.Statement (.slotCopy) := fun _ h => nomatch h
theorem RoundTrip.slotEmpty : RoundTrip.Statement (.slotEmpty) := fun _ h => nomatch h
theorem RoundTrip.slotEmptyAdd : RoundTrip.Statement (.slotEmptyAdd) := fun _ h => nomatch h
theorem RoundTrip.slotPassThrough : RoundTrip.Statement (.slotPassThrough) := fun _ h => nomatch h
theorem RoundTrip.endedFlowEmpty : RoundTrip.Statement (.endedFlowEmpty) := fun _ h => nomatch h
theorem RoundTrip.bestEffortReserve : RoundTrip.Statement (.bestEffortReserve) := fun _ h => nomatch h
theorem RoundTrip.bestEffortInject : RoundTrip.Statement (.bestEffortInject) := fun _ h => nomatch h
theorem RoundTrip.bestEffortDeliver : RoundTrip.Statement (.bestEffortDeliver) := fun _ h => nomatch h
theorem RoundTrip.stoStamp : RoundTrip.Statement (.stoStamp) := fun _ h => nomatch h
theorem RoundTrip.stampedStoreApply : RoundTrip.Statement (.stampedStoreApply) := fun _ h => nomatch h
theorem RoundTrip.stampAcknowledgement : RoundTrip.Statement (.stampAcknowledgement) := fun _ h => nomatch h
theorem RoundTrip.groupReFormation : RoundTrip.Statement (.groupReFormation) := fun _ h => nomatch h
theorem RoundTrip.setid : RoundTrip.Statement (.setid) := fun _ h => nomatch h
theorem RoundTrip.route : RoundTrip.Statement (.route) := fun _ h => nomatch h
theorem RoundTrip.ginst : RoundTrip.Statement (.ginst) := fun _ h => nomatch h
theorem RoundTrip.grem : RoundTrip.Statement (.grem) := fun _ h => nomatch h
theorem RoundTrip.seq : RoundTrip.Statement (.seq) := fun _ h => nomatch h
theorem RoundTrip.key : RoundTrip.Statement (.key) := fun _ h => nomatch h
theorem RoundTrip.packetCrcFailure : RoundTrip.Statement (.packetCrcFailure) := fun _ h => nomatch h
theorem RoundTrip.linkCrcRetry : RoundTrip.Statement (.linkCrcRetry) := fun _ h => nomatch h
theorem RoundTrip.windowViolation : RoundTrip.Statement (.windowViolation) := fun _ h => nomatch h
theorem RoundTrip.stepWatchdogExpiry : RoundTrip.Statement (.stepWatchdogExpiry) := fun _ h => nomatch h
theorem RoundTrip.kjkill : RoundTrip.Statement (.kjkill) := fun _ h => nomatch h
theorem RoundTrip.openSet : RoundTrip.Statement (.openSet) := fun _ h => nomatch h
theorem RoundTrip.openClear : RoundTrip.Statement (.openClear) := fun _ h => nomatch h
theorem RoundTrip.settCsrWrite : RoundTrip.Statement (.settCsrWrite) := fun _ h => nomatch h
theorem RoundTrip.queueRegister : RoundTrip.Statement (.queueRegister) := fun _ h => nomatch h
theorem RoundTrip.queueClose : RoundTrip.Statement (.queueClose) := fun _ h => nomatch h
theorem RoundTrip.tailWrite : RoundTrip.Statement (.tailWrite) := fun _ h => nomatch h
theorem RoundTrip.claim : RoundTrip.Statement (.claim) := fun _ h => nomatch h
theorem RoundTrip.publ : RoundTrip.Statement (.publ) := fun _ h => nomatch h
theorem RoundTrip.admission : RoundTrip.Statement (.admission) := fun _ h => nomatch h
theorem RoundTrip.leaderHandOver : RoundTrip.Statement (.leaderHandOver) := fun _ h => nomatch h
theorem RoundTrip.stagingTransfer : RoundTrip.Statement (.stagingTransfer) := fun _ h => nomatch h
theorem RoundTrip.kernelIssue : RoundTrip.Statement (.kernelIssue) := fun _ h => nomatch h
theorem RoundTrip.kernelAging : RoundTrip.Statement (.kernelAging) := fun _ h => nomatch h
theorem RoundTrip.preEmption : RoundTrip.Statement (.preEmption) := fun _ h => nomatch h
theorem RoundTrip.storageClaim : RoundTrip.Statement (.storageClaim) := fun _ h => nomatch h
theorem RoundTrip.harvestPlacement : RoundTrip.Statement (.harvestPlacement) := fun _ h => nomatch h
theorem RoundTrip.revocation : RoundTrip.Statement (.revocation) := fun _ h => nomatch h
theorem RoundTrip.harvestUnpark : RoundTrip.Statement (.harvestUnpark) := fun _ h => nomatch h
theorem RoundTrip.kernelEnd : RoundTrip.Statement (.kernelEnd) := fun _ h => nomatch h
theorem RoundTrip.seedWrite : RoundTrip.Statement (.seedWrite) := fun _ h => nomatch h
theorem RoundTrip.winWrite : RoundTrip.Statement (.winWrite) := fun _ h => nomatch h
theorem RoundTrip.wlimmaxWrite : RoundTrip.Statement (.wlimmaxWrite) := fun _ h => nomatch h
theorem RoundTrip.passThroughWrite : RoundTrip.Statement (.passThroughWrite) := fun _ h => nomatch h
theorem RoundTrip.specialRegisterWrite : RoundTrip.Statement (.specialRegisterWrite) := fun _ h => nomatch h
theorem RoundTrip.residueMismatch : RoundTrip.Statement (.residueMismatch) := fun _ h => nomatch h
theorem RoundTrip.uncorrectableMemoryError : RoundTrip.Statement (.uncorrectableMemoryError) := fun _ h => nomatch h
theorem RoundTrip.scrub : RoundTrip.Statement (.scrub) := fun _ h => nomatch h
theorem RoundTrip.schedulerDivergence : RoundTrip.Statement (.schedulerDivergence) := fun _ h => nomatch h
theorem RoundTrip.schedulerReload : RoundTrip.Statement (.schedulerReload) := fun _ h => nomatch h
theorem RoundTrip.controllerHandOver : RoundTrip.Statement (.controllerHandOver) := fun _ h => nomatch h
theorem RoundTrip.clockLoss : RoundTrip.Statement (.clockLoss) := fun _ h => nomatch h
theorem RoundTrip.stackFailure : RoundTrip.Statement (.stackFailure) := fun _ h => nomatch h
theorem RoundTrip.timeSlew : RoundTrip.Statement (.timeSlew) := fun _ h => nomatch h
theorem RoundTrip.offsetPublication : RoundTrip.Statement (.offsetPublication) := fun _ h => nomatch h
theorem RoundTrip.bitmapFreeze : RoundTrip.Statement (.bitmapFreeze) := fun _ h => nomatch h
theorem RoundTrip.checkpointPageCopy : RoundTrip.Statement (.checkpointPageCopy) := fun _ h => nomatch h
theorem RoundTrip.copyOnWrite : RoundTrip.Statement (.copyOnWrite) := fun _ h => nomatch h
theorem RoundTrip.checkpointComplete : RoundTrip.Statement (.checkpointComplete) := fun _ h => nomatch h
theorem RoundTrip.checkpointFailure : RoundTrip.Statement (.checkpointFailure) := fun _ h => nomatch h
theorem RoundTrip.thawDeferralEnd : RoundTrip.Statement (.thawDeferralEnd) := fun _ h => nomatch h
theorem RoundTrip.limiterWindow : RoundTrip.Statement (.limiterWindow) := fun _ h => nomatch h
theorem RoundTrip.ballastLimitExpiry : RoundTrip.Statement (.ballastLimitExpiry) := fun _ h => nomatch h
theorem RoundTrip.droopAlarm : RoundTrip.Statement (.droopAlarm) := fun _ h => nomatch h
theorem RoundTrip.droopRecovery : RoundTrip.Statement (.droopRecovery) := fun _ h => nomatch h
theorem RoundTrip.overCurrent : RoundTrip.Statement (.overCurrent) := fun _ h => nomatch h
theorem RoundTrip.thermalTrip : RoundTrip.Statement (.thermalTrip) := fun _ h => nomatch h
theorem RoundTrip.coarseCapWindow : RoundTrip.Statement (.coarseCapWindow) := fun _ h => nomatch h
theorem RoundTrip.cadreqUpdate : RoundTrip.Statement (.cadreqUpdate) := fun _ h => nomatch h
theorem RoundTrip.powerTableWrite : RoundTrip.Statement (.powerTableWrite) := fun _ h => nomatch h
theorem RoundTrip.partitionDescriptorWrite : RoundTrip.Statement (.partitionDescriptorWrite) := fun _ h => nomatch h
theorem RoundTrip.standbyRequest : RoundTrip.Statement (.standbyRequest) := fun _ h => nomatch h
theorem RoundTrip.standbyExit : RoundTrip.Statement (.standbyExit) := fun _ h => nomatch h
theorem RoundTrip.debugModeEnter : RoundTrip.Statement (.debugModeEnter) := fun _ h => nomatch h
theorem RoundTrip.debugModeExit : RoundTrip.Statement (.debugModeExit) := fun _ h => nomatch h
theorem RoundTrip.debugMailboxSrd : RoundTrip.Statement (.debugMailboxSrd) := fun _ h => nomatch h
theorem RoundTrip.debugMailboxSwr : RoundTrip.Statement (.debugMailboxSwr) := fun _ h => nomatch h
theorem RoundTrip.debugMailboxDbgh : RoundTrip.Statement (.debugMailboxDbgh) := fun _ h => nomatch h
theorem RoundTrip.powerOnReset : RoundTrip.Statement (.powerOnReset) := fun _ h => nomatch h
theorem RoundTrip.portReset : RoundTrip.Statement (.portReset) := fun _ h => nomatch h
theorem RoundTrip.linkDown : RoundTrip.Statement (.linkDown) := fun _ h => nomatch h
theorem RoundTrip.vfFlr : RoundTrip.Statement (.vfFlr) := fun _ h => nomatch h
theorem RoundTrip.pfFlr : RoundTrip.Statement (.pfFlr) := fun _ h => nomatch h
theorem RoundTrip.waitcClockReached : RoundTrip.Statement (.waitcClockReached) := fun _ h => nomatch h
theorem RoundTrip.yieldEnd : RoundTrip.Statement (.yieldEnd) := fun _ h => nomatch h
theorem RoundTrip.idleCycleLimit : RoundTrip.Statement (.idleCycleLimit) := fun _ h => nomatch h
theorem RoundTrip.overCurrentClear : RoundTrip.Statement (.overCurrentClear) := fun _ h => nomatch h
theorem RoundTrip.thermalTripClear : RoundTrip.Statement (.thermalTripClear) := fun _ h => nomatch h
theorem RoundTrip.linkUp : RoundTrip.Statement (.linkUp) := fun _ h => nomatch h
theorem RoundTrip.boundaryScan : RoundTrip.Statement (.boundaryScan) := fun _ h => nomatch h
theorem RoundTrip.hostWrite : RoundTrip.Statement (.hostWrite) := fun _ h => nomatch h

end Sys2Proof.Laws
end

