-- ==== Sys2Proof/Laws/Queue.lean ====
section
/-! SUPPORT. What the reservation of q-register entries for waiting commands leaves unchanged (R199, R202, R245). -/

namespace Sys2Proof.Machine

theorem Ctx.reserveOwed_acmds_length (x : Ctx) (q : Nat) : (x.reserveOwed q).acmds.length = x.acmds.length := by
  unfold Ctx.reserveOwed
  split
  · simp [List.length_map]
  · split
    · split <;> rfl
    · rfl

theorem Ctx.reserveOwed_nextId (x : Ctx) (q : Nat) : (x.reserveOwed q).nextId = x.nextId := by
  unfold Ctx.reserveOwed
  split
  · rfl
  · split
    · split <;> rfl
    · rfl

/-- What every reservation keeps, the filling of a q-register keeps. -/
theorem Ctx.settleQ_keeps {α : Type} (f : Ctx → α) (h : ∀ x q, f (Ctx.reserveOwed x q) = f x) (x : Ctx) (q : Nat) :
    f (x.settleQ q) = f x := by
  unfold Ctx.settleQ
  generalize List.range 8 = l
  induction l generalizing x with
  | nil => rfl
  | cons _ l ih =>
    rw [List.foldl_cons, ih]
    split
    · exact h x q
    · rfl

@[simp] theorem Ctx.settleQ_acmds_length (x : Ctx) (q : Nat) : (x.settleQ q).acmds.length = x.acmds.length :=
  Ctx.settleQ_keeps (fun y => y.acmds.length) Ctx.reserveOwed_acmds_length x q
@[simp] theorem Ctx.settleQ_nextId (x : Ctx) (q : Nat) : (x.settleQ q).nextId = x.nextId :=
  Ctx.settleQ_keeps Ctx.nextId Ctx.reserveOwed_nextId x q
@[simp] theorem Ctx.qReserve_acmds_length (x : Ctx) (q : Nat) : (x.qReserve q).acmds.length = x.acmds.length := by
  rw [← x.settleQ_acmds_length q]
  unfold Ctx.qReserve
  generalize x.settleQ q = y
  rfl

/-- Where nothing is owed to a q-register, nothing is reserved. -/
theorem Ctx.settleQ_idle (x : Ctx) (q : Nat) (h : x.reserveOwed q = x) : x.settleQ q = x := by
  unfold Ctx.settleQ
  generalize List.range 8 = l
  induction l with
  | nil => rfl
  | cons _ l ih => rw [List.foldl_cons, h]; simpa using ih

end Sys2Proof.Machine
end

