-- ==== Sys2Proof/Laws/State.lean ====
section
/-! SUPPORT. The named updates of State: each field they leave, and what they make of the part they change. -/

namespace Sys2Proof.Machine

/-! ## Lists by key -/

@[simp] theorem aget_aset_same {κ α : Type} [DecidableEq κ] (l : List (κ × α)) (k : κ) (v : α) : aget (aset l k v) k = some v := by
  induction l with
  | nil => simp [aset, aget]
  | cons e l ih => by_cases h : e.1 = k <;> simp [aset, aget, h, ih]

@[simp] theorem aget_aset_other {κ α : Type} [DecidableEq κ] (l : List (κ × α)) (k k' : κ) (v : α) (h : k' ≠ k) :
    aget (aset l k v) k' = aget l k' := by
  induction l with
  | nil => simp [aset, aget, Ne.symm h]
  | cons e l ih =>
    by_cases h1 : e.1 = k
    · simp [aset, aget, h1, Ne.symm h]
    · by_cases h2 : e.1 = k' <;> simp_all [aset, aget]

@[simp] theorem aset_aset {κ α : Type} [DecidableEq κ] (l : List (κ × α)) (k : κ) (u v : α) : aset (aset l k u) k v = aset l k v := by
  induction l with
  | nil => simp [aset]
  | cons e l ih => by_cases h : e.1 = k <;> simp [aset, h, ih]

theorem aset_eq {κ α : Type} [DecidableEq κ] (l : List (κ × α)) (k : κ) (v : α) (h : aget l k = some v) : aset l k v = l := by
  induction l with
  | nil => simp [aget] at h
  | cons e l ih =>
    by_cases h1 : e.1 = k
    · obtain ⟨a, b⟩ := e; simp [aget] at h h1; simp_all [aset]
    · obtain ⟨a, b⟩ := e; simp at h1; simp [aget, h1] at h; simp [aset, h1, ih h]

/-! ## Contexts -/

@[simp] theorem State.ctx_setCtx (s : State) (c : CtxId) (x : Ctx) : (s.setCtx c x).ctx c = some x := aget_aset_same _ _ _

@[simp] theorem State.ctx_setCtx_other (s : State) (c d : CtxId) (x : Ctx) (h : d ≠ c) : (s.setCtx c x).ctx d = s.ctx d :=
  aget_aset_other _ _ _ _ h

@[simp] theorem State.setCtx_setCtx (s : State) (c : CtxId) (x y : Ctx) : (s.setCtx c x).setCtx c y = s.setCtx c y := by
  simp [State.setCtx]

theorem State.setCtx_eq (s : State) (c : CtxId) (x : Ctx) (h : s.ctx c = some x) : s.setCtx c x = s := by
  simp [State.setCtx, aset_eq _ _ _ h]

theorem State.modCtx_eq (s : State) (c : CtxId) (x : Ctx) (f : Ctx → Ctx) (h : s.ctx c = some x) :
    s.modCtx c f = s.setCtx c (f x) := by
  simp [State.modCtx, h]

theorem State.modCtx_none (s : State) (c : CtxId) (f : Ctx → Ctx) (h : s.ctx c = none) : s.modCtx c f = s := by
  simp [State.modCtx, h]

@[simp] theorem State.modCtx_ctx_other (s : State) (c d : CtxId) (f : Ctx → Ctx) (h : d ≠ c) : (s.modCtx c f).ctx d = s.ctx d := by
  unfold State.modCtx; split
  · rfl
  · exact State.ctx_setCtx_other _ _ _ _ h

@[simp] theorem State.modRole_ctx_other (s : State) (w : Who) (d : CtxId) (f : RoleSt → RoleSt) (h : d ≠ w.c) :
    (s.modRole w f).ctx d = s.ctx d := State.modCtx_ctx_other _ _ _ _ h

theorem State.modRole_eq (s : State) (w : Who) (x : Ctx) (f : RoleSt → RoleSt) (h : s.ctx w.c = some x) :
    s.modRole w f = s.setCtx w.c (x.setRole w.r (f (x.role w.r))) := State.modCtx_eq _ _ _ _ h

@[simp] theorem Ctx.role_setRole (x : Ctx) (r : Role) (v : RoleSt) : (x.setRole r v).role r = v := by cases r <;> rfl

@[simp] theorem Ctx.role_setRole_other (x : Ctx) (r q : Role) (v : RoleSt) (h : q ≠ r) : (x.setRole r v).role q = x.role q := by
  cases r <;> cases q <;> first | rfl | exact absurd rfl h

@[simp] theorem Ctx.setRole_setRole (x : Ctx) (r : Role) (u v : RoleSt) : (x.setRole r u).setRole r v = x.setRole r v := by
  cases r <;> rfl

@[simp] theorem Ctx.setRole_role (x : Ctx) (r : Role) : x.setRole r (x.role r) = x := by cases r <;> rfl

/-! ## Cores, dies, partitions, queues -/

@[simp] theorem State.core_modCore (s : State) (c : Nat) (f : Core → Core) : (s.modCore c f).core c = f (s.core c) := by
  simp [State.core, State.modCore]

@[simp] theorem State.core_modCore_other (s : State) (c d : Nat) (f : Core → Core) (h : d ≠ c) :
    (s.modCore c f).core d = s.core d := by
  simp [State.core, State.modCore, h]

@[simp] theorem State.die_modDie (s : State) (d : Nat) (f : Die → Die) : (s.modDie d f).die d = f (s.die d) := by
  simp [State.die, State.modDie]

@[simp] theorem State.die_modDie_other (s : State) (d e : Nat) (f : Die → Die) (h : e ≠ d) : (s.modDie d f).die e = s.die e := by
  simp [State.die, State.modDie, h]

@[simp] theorem State.part_modPart (s : State) (p : Nat) (f : Partition → Partition) : (s.modPart p f).part p = f (s.part p) := by
  simp [State.part, State.modPart]

@[simp] theorem State.part_modPart_other (s : State) (p q : Nat) (f : Partition → Partition) (h : q ≠ p) :
    (s.modPart p f).part q = s.part q := by
  simp [State.part, State.modPart, h]

/-! ## The fields that each update leaves -/

@[simp] theorem State.setCtx_agenda (s : State) (c : CtxId) (x : Ctx) : (s.setCtx c x).agenda = s.agenda := rfl
@[simp] theorem State.setCtx_turn (s : State) (c : CtxId) (x : Ctx) : (s.setCtx c x).turn = s.turn := rfl
@[simp] theorem State.setCtx_rr (s : State) (c : CtxId) (x : Ctx) : (s.setCtx c x).rr = s.rr := rfl
@[simp] theorem State.setCtx_inp (s : State) (c : CtxId) (x : Ctx) : (s.setCtx c x).inp = s.inp := rfl
@[simp] theorem State.setCtx_freeIx (s : State) (c : CtxId) (x : Ctx) : (s.setCtx c x).freeIx = s.freeIx := rfl
@[simp] theorem State.setCtx_ranks (s : State) (c : CtxId) (x : Ctx) : (s.setCtx c x).ranks = s.ranks := rfl
@[simp] theorem State.setCtx_stops (s : State) (c : CtxId) (x : Ctx) : (s.setCtx c x).stops = s.stops := rfl
@[simp] theorem State.setCtx_cycles (s : State) (c : CtxId) (x : Ctx) : (s.setCtx c x).cycles = s.cycles := rfl
@[simp] theorem State.setCtx_time2 (s : State) (c : CtxId) (x : Ctx) : (s.setCtx c x).time2 = s.time2 := rfl
@[simp] theorem State.setCtx_ringStart (s : State) (c : CtxId) (x : Ctx) : (s.setCtx c x).ringStart = s.ringStart := rfl
@[simp] theorem State.setCtx_coreStart (s : State) (c : CtxId) (x : Ctx) : (s.setCtx c x).coreStart = s.coreStart := rfl
@[simp] theorem State.setCtx_away (s : State) (c : CtxId) (x : Ctx) : (s.setCtx c x).away = s.away := rfl
@[simp] theorem State.setCtx_images (s : State) (c : CtxId) (x : Ctx) : (s.setCtx c x).images = s.images := rfl
@[simp] theorem State.setCtx_cores (s : State) (c : CtxId) (x : Ctx) : (s.setCtx c x).cores = s.cores := rfl
@[simp] theorem State.setCtx_dies (s : State) (c : CtxId) (x : Ctx) : (s.setCtx c x).dies = s.dies := rfl
@[simp] theorem State.setCtx_regions (s : State) (c : CtxId) (x : Ctx) : (s.setCtx c x).regions = s.regions := rfl
@[simp] theorem State.setCtx_kernels (s : State) (c : CtxId) (x : Ctx) : (s.setCtx c x).kernels = s.kernels := rfl
@[simp] theorem State.setCtx_nextKernel (s : State) (c : CtxId) (x : Ctx) : (s.setCtx c x).nextKernel = s.nextKernel := rfl
@[simp] theorem State.setCtx_nodes (s : State) (c : CtxId) (x : Ctx) : (s.setCtx c x).nodes = s.nodes := rfl
@[simp] theorem State.setCtx_nextNode (s : State) (c : CtxId) (x : Ctx) : (s.setCtx c x).nextNode = s.nextNode := rfl
@[simp] theorem State.setCtx_queues (s : State) (c : CtxId) (x : Ctx) : (s.setCtx c x).queues = s.queues := rfl
@[simp] theorem State.setCtx_parts (s : State) (c : CtxId) (x : Ctx) : (s.setCtx c x).parts = s.parts := rfl
@[simp] theorem State.setCtx_hbm (s : State) (c : CtxId) (x : Ctx) : (s.setCtx c x).hbm = s.hbm := rfl
@[simp] theorem State.setCtx_hist (s : State) (c : CtxId) (x : Ctx) : (s.setCtx c x).hist = s.hist := rfl
@[simp] theorem State.setCtx_poison (s : State) (c : CtxId) (x : Ctx) : (s.setCtx c x).poison = s.poison := rfl
@[simp] theorem State.setCtx_poisonS (s : State) (c : CtxId) (x : Ctx) : (s.setCtx c x).poisonS = s.poisonS := rfl
@[simp] theorem State.setCtx_liveStacks (s : State) (c : CtxId) (x : Ctx) : (s.setCtx c x).liveStacks = s.liveStacks := rfl
@[simp] theorem State.setCtx_failedStacks (s : State) (c : CtxId) (x : Ctx) : (s.setCtx c x).failedStacks = s.failedStacks := rfl
@[simp] theorem State.setCtx_passThrough (s : State) (c : CtxId) (x : Ctx) : (s.setCtx c x).passThrough = s.passThrough := rfl
@[simp] theorem State.setCtx_passForced (s : State) (c : CtxId) (x : Ctx) : (s.setCtx c x).passForced = s.passForced := rfl
@[simp] theorem State.setCtx_info (s : State) (c : CtxId) (x : Ctx) : (s.setCtx c x).info = s.info := rfl
@[simp] theorem State.setCtx_ring (s : State) (c : CtxId) (x : Ctx) : (s.setCtx c x).ring = s.ring := rfl
@[simp] theorem State.setCtx_fab (s : State) (c : CtxId) (x : Ctx) : (s.setCtx c x).fab = s.fab := rfl
@[simp] theorem State.setCtx_sett (s : State) (c : CtxId) (x : Ctx) : (s.setCtx c x).sett = s.sett := rfl
@[simp] theorem State.setCtx_ck (s : State) (c : CtxId) (x : Ctx) : (s.setCtx c x).ck = s.ck := rfl
@[simp] theorem State.setCtx_power (s : State) (c : CtxId) (x : Ctx) : (s.setCtx c x).power = s.power := rfl
@[simp] theorem State.setCtx_host (s : State) (c : CtxId) (x : Ctx) : (s.setCtx c x).host = s.host := rfl
@[simp] theorem State.setCtx_eastControl (s : State) (c : CtxId) (x : Ctx) : (s.setCtx c x).eastControl = s.eastControl := rfl

@[simp] theorem State.modCtx_agenda (s : State) (c : CtxId) (f : Ctx → Ctx) : (s.modCtx c f).agenda = s.agenda := by unfold State.modCtx; split <;> rfl
@[simp] theorem State.modCtx_turn (s : State) (c : CtxId) (f : Ctx → Ctx) : (s.modCtx c f).turn = s.turn := by unfold State.modCtx; split <;> rfl
@[simp] theorem State.modCtx_rr (s : State) (c : CtxId) (f : Ctx → Ctx) : (s.modCtx c f).rr = s.rr := by unfold State.modCtx; split <;> rfl
@[simp] theorem State.modCtx_inp (s : State) (c : CtxId) (f : Ctx → Ctx) : (s.modCtx c f).inp = s.inp := by unfold State.modCtx; split <;> rfl
@[simp] theorem State.modCtx_freeIx (s : State) (c : CtxId) (f : Ctx → Ctx) : (s.modCtx c f).freeIx = s.freeIx := by unfold State.modCtx; split <;> rfl
@[simp] theorem State.modCtx_ranks (s : State) (c : CtxId) (f : Ctx → Ctx) : (s.modCtx c f).ranks = s.ranks := by unfold State.modCtx; split <;> rfl
@[simp] theorem State.modCtx_stops (s : State) (c : CtxId) (f : Ctx → Ctx) : (s.modCtx c f).stops = s.stops := by unfold State.modCtx; split <;> rfl
@[simp] theorem State.modCtx_cycles (s : State) (c : CtxId) (f : Ctx → Ctx) : (s.modCtx c f).cycles = s.cycles := by unfold State.modCtx; split <;> rfl
@[simp] theorem State.modCtx_time2 (s : State) (c : CtxId) (f : Ctx → Ctx) : (s.modCtx c f).time2 = s.time2 := by unfold State.modCtx; split <;> rfl
@[simp] theorem State.modCtx_ringStart (s : State) (c : CtxId) (f : Ctx → Ctx) : (s.modCtx c f).ringStart = s.ringStart := by unfold State.modCtx; split <;> rfl
@[simp] theorem State.modCtx_coreStart (s : State) (c : CtxId) (f : Ctx → Ctx) : (s.modCtx c f).coreStart = s.coreStart := by unfold State.modCtx; split <;> rfl
@[simp] theorem State.modCtx_away (s : State) (c : CtxId) (f : Ctx → Ctx) : (s.modCtx c f).away = s.away := by unfold State.modCtx; split <;> rfl
@[simp] theorem State.modCtx_images (s : State) (c : CtxId) (f : Ctx → Ctx) : (s.modCtx c f).images = s.images := by unfold State.modCtx; split <;> rfl
@[simp] theorem State.modCtx_cores (s : State) (c : CtxId) (f : Ctx → Ctx) : (s.modCtx c f).cores = s.cores := by unfold State.modCtx; split <;> rfl
@[simp] theorem State.modCtx_dies (s : State) (c : CtxId) (f : Ctx → Ctx) : (s.modCtx c f).dies = s.dies := by unfold State.modCtx; split <;> rfl
@[simp] theorem State.modCtx_regions (s : State) (c : CtxId) (f : Ctx → Ctx) : (s.modCtx c f).regions = s.regions := by unfold State.modCtx; split <;> rfl
@[simp] theorem State.modCtx_kernels (s : State) (c : CtxId) (f : Ctx → Ctx) : (s.modCtx c f).kernels = s.kernels := by unfold State.modCtx; split <;> rfl
@[simp] theorem State.modCtx_nextKernel (s : State) (c : CtxId) (f : Ctx → Ctx) : (s.modCtx c f).nextKernel = s.nextKernel := by unfold State.modCtx; split <;> rfl
@[simp] theorem State.modCtx_nodes (s : State) (c : CtxId) (f : Ctx → Ctx) : (s.modCtx c f).nodes = s.nodes := by unfold State.modCtx; split <;> rfl
@[simp] theorem State.modCtx_nextNode (s : State) (c : CtxId) (f : Ctx → Ctx) : (s.modCtx c f).nextNode = s.nextNode := by unfold State.modCtx; split <;> rfl
@[simp] theorem State.modCtx_queues (s : State) (c : CtxId) (f : Ctx → Ctx) : (s.modCtx c f).queues = s.queues := by unfold State.modCtx; split <;> rfl
@[simp] theorem State.modCtx_parts (s : State) (c : CtxId) (f : Ctx → Ctx) : (s.modCtx c f).parts = s.parts := by unfold State.modCtx; split <;> rfl
@[simp] theorem State.modCtx_hbm (s : State) (c : CtxId) (f : Ctx → Ctx) : (s.modCtx c f).hbm = s.hbm := by unfold State.modCtx; split <;> rfl
@[simp] theorem State.modCtx_hist (s : State) (c : CtxId) (f : Ctx → Ctx) : (s.modCtx c f).hist = s.hist := by unfold State.modCtx; split <;> rfl
@[simp] theorem State.modCtx_poison (s : State) (c : CtxId) (f : Ctx → Ctx) : (s.modCtx c f).poison = s.poison := by unfold State.modCtx; split <;> rfl
@[simp] theorem State.modCtx_poisonS (s : State) (c : CtxId) (f : Ctx → Ctx) : (s.modCtx c f).poisonS = s.poisonS := by unfold State.modCtx; split <;> rfl
@[simp] theorem State.modCtx_liveStacks (s : State) (c : CtxId) (f : Ctx → Ctx) : (s.modCtx c f).liveStacks = s.liveStacks := by unfold State.modCtx; split <;> rfl
@[simp] theorem State.modCtx_failedStacks (s : State) (c : CtxId) (f : Ctx → Ctx) : (s.modCtx c f).failedStacks = s.failedStacks := by unfold State.modCtx; split <;> rfl
@[simp] theorem State.modCtx_passThrough (s : State) (c : CtxId) (f : Ctx → Ctx) : (s.modCtx c f).passThrough = s.passThrough := by unfold State.modCtx; split <;> rfl
@[simp] theorem State.modCtx_passForced (s : State) (c : CtxId) (f : Ctx → Ctx) : (s.modCtx c f).passForced = s.passForced := by unfold State.modCtx; split <;> rfl
@[simp] theorem State.modCtx_info (s : State) (c : CtxId) (f : Ctx → Ctx) : (s.modCtx c f).info = s.info := by unfold State.modCtx; split <;> rfl
@[simp] theorem State.modCtx_ring (s : State) (c : CtxId) (f : Ctx → Ctx) : (s.modCtx c f).ring = s.ring := by unfold State.modCtx; split <;> rfl
@[simp] theorem State.modCtx_fab (s : State) (c : CtxId) (f : Ctx → Ctx) : (s.modCtx c f).fab = s.fab := by unfold State.modCtx; split <;> rfl
@[simp] theorem State.modCtx_sett (s : State) (c : CtxId) (f : Ctx → Ctx) : (s.modCtx c f).sett = s.sett := by unfold State.modCtx; split <;> rfl
@[simp] theorem State.modCtx_ck (s : State) (c : CtxId) (f : Ctx → Ctx) : (s.modCtx c f).ck = s.ck := by unfold State.modCtx; split <;> rfl
@[simp] theorem State.modCtx_power (s : State) (c : CtxId) (f : Ctx → Ctx) : (s.modCtx c f).power = s.power := by unfold State.modCtx; split <;> rfl
@[simp] theorem State.modCtx_host (s : State) (c : CtxId) (f : Ctx → Ctx) : (s.modCtx c f).host = s.host := by unfold State.modCtx; split <;> rfl
@[simp] theorem State.modCtx_eastControl (s : State) (c : CtxId) (f : Ctx → Ctx) : (s.modCtx c f).eastControl = s.eastControl := by unfold State.modCtx; split <;> rfl

@[simp] theorem State.modRole_agenda (s : State) (w : Who) (f : RoleSt → RoleSt) : (s.modRole w f).agenda = s.agenda := by simp [State.modRole]
@[simp] theorem State.modRole_turn (s : State) (w : Who) (f : RoleSt → RoleSt) : (s.modRole w f).turn = s.turn := by simp [State.modRole]
@[simp] theorem State.modRole_rr (s : State) (w : Who) (f : RoleSt → RoleSt) : (s.modRole w f).rr = s.rr := by simp [State.modRole]
@[simp] theorem State.modRole_inp (s : State) (w : Who) (f : RoleSt → RoleSt) : (s.modRole w f).inp = s.inp := by simp [State.modRole]
@[simp] theorem State.modRole_freeIx (s : State) (w : Who) (f : RoleSt → RoleSt) : (s.modRole w f).freeIx = s.freeIx := by simp [State.modRole]
@[simp] theorem State.modRole_ranks (s : State) (w : Who) (f : RoleSt → RoleSt) : (s.modRole w f).ranks = s.ranks := by simp [State.modRole]
@[simp] theorem State.modRole_stops (s : State) (w : Who) (f : RoleSt → RoleSt) : (s.modRole w f).stops = s.stops := by simp [State.modRole]
@[simp] theorem State.modRole_cycles (s : State) (w : Who) (f : RoleSt → RoleSt) : (s.modRole w f).cycles = s.cycles := by simp [State.modRole]
@[simp] theorem State.modRole_time2 (s : State) (w : Who) (f : RoleSt → RoleSt) : (s.modRole w f).time2 = s.time2 := by simp [State.modRole]
@[simp] theorem State.modRole_ringStart (s : State) (w : Who) (f : RoleSt → RoleSt) : (s.modRole w f).ringStart = s.ringStart := by simp [State.modRole]
@[simp] theorem State.modRole_coreStart (s : State) (w : Who) (f : RoleSt → RoleSt) : (s.modRole w f).coreStart = s.coreStart := by simp [State.modRole]
@[simp] theorem State.modRole_away (s : State) (w : Who) (f : RoleSt → RoleSt) : (s.modRole w f).away = s.away := by simp [State.modRole]
@[simp] theorem State.modRole_images (s : State) (w : Who) (f : RoleSt → RoleSt) : (s.modRole w f).images = s.images := by simp [State.modRole]
@[simp] theorem State.modRole_cores (s : State) (w : Who) (f : RoleSt → RoleSt) : (s.modRole w f).cores = s.cores := by simp [State.modRole]
@[simp] theorem State.modRole_dies (s : State) (w : Who) (f : RoleSt → RoleSt) : (s.modRole w f).dies = s.dies := by simp [State.modRole]
@[simp] theorem State.modRole_regions (s : State) (w : Who) (f : RoleSt → RoleSt) : (s.modRole w f).regions = s.regions := by simp [State.modRole]
@[simp] theorem State.modRole_kernels (s : State) (w : Who) (f : RoleSt → RoleSt) : (s.modRole w f).kernels = s.kernels := by simp [State.modRole]
@[simp] theorem State.modRole_nextKernel (s : State) (w : Who) (f : RoleSt → RoleSt) : (s.modRole w f).nextKernel = s.nextKernel := by simp [State.modRole]
@[simp] theorem State.modRole_nodes (s : State) (w : Who) (f : RoleSt → RoleSt) : (s.modRole w f).nodes = s.nodes := by simp [State.modRole]
@[simp] theorem State.modRole_nextNode (s : State) (w : Who) (f : RoleSt → RoleSt) : (s.modRole w f).nextNode = s.nextNode := by simp [State.modRole]
@[simp] theorem State.modRole_queues (s : State) (w : Who) (f : RoleSt → RoleSt) : (s.modRole w f).queues = s.queues := by simp [State.modRole]
@[simp] theorem State.modRole_parts (s : State) (w : Who) (f : RoleSt → RoleSt) : (s.modRole w f).parts = s.parts := by simp [State.modRole]
@[simp] theorem State.modRole_hbm (s : State) (w : Who) (f : RoleSt → RoleSt) : (s.modRole w f).hbm = s.hbm := by simp [State.modRole]
@[simp] theorem State.modRole_hist (s : State) (w : Who) (f : RoleSt → RoleSt) : (s.modRole w f).hist = s.hist := by simp [State.modRole]
@[simp] theorem State.modRole_poison (s : State) (w : Who) (f : RoleSt → RoleSt) : (s.modRole w f).poison = s.poison := by simp [State.modRole]
@[simp] theorem State.modRole_poisonS (s : State) (w : Who) (f : RoleSt → RoleSt) : (s.modRole w f).poisonS = s.poisonS := by simp [State.modRole]
@[simp] theorem State.modRole_liveStacks (s : State) (w : Who) (f : RoleSt → RoleSt) : (s.modRole w f).liveStacks = s.liveStacks := by simp [State.modRole]
@[simp] theorem State.modRole_failedStacks (s : State) (w : Who) (f : RoleSt → RoleSt) : (s.modRole w f).failedStacks = s.failedStacks := by simp [State.modRole]
@[simp] theorem State.modRole_passThrough (s : State) (w : Who) (f : RoleSt → RoleSt) : (s.modRole w f).passThrough = s.passThrough := by simp [State.modRole]
@[simp] theorem State.modRole_passForced (s : State) (w : Who) (f : RoleSt → RoleSt) : (s.modRole w f).passForced = s.passForced := by simp [State.modRole]
@[simp] theorem State.modRole_info (s : State) (w : Who) (f : RoleSt → RoleSt) : (s.modRole w f).info = s.info := by simp [State.modRole]
@[simp] theorem State.modRole_ring (s : State) (w : Who) (f : RoleSt → RoleSt) : (s.modRole w f).ring = s.ring := by simp [State.modRole]
@[simp] theorem State.modRole_fab (s : State) (w : Who) (f : RoleSt → RoleSt) : (s.modRole w f).fab = s.fab := by simp [State.modRole]
@[simp] theorem State.modRole_sett (s : State) (w : Who) (f : RoleSt → RoleSt) : (s.modRole w f).sett = s.sett := by simp [State.modRole]
@[simp] theorem State.modRole_ck (s : State) (w : Who) (f : RoleSt → RoleSt) : (s.modRole w f).ck = s.ck := by simp [State.modRole]
@[simp] theorem State.modRole_power (s : State) (w : Who) (f : RoleSt → RoleSt) : (s.modRole w f).power = s.power := by simp [State.modRole]
@[simp] theorem State.modRole_host (s : State) (w : Who) (f : RoleSt → RoleSt) : (s.modRole w f).host = s.host := by simp [State.modRole]
@[simp] theorem State.modRole_eastControl (s : State) (w : Who) (f : RoleSt → RoleSt) : (s.modRole w f).eastControl = s.eastControl := by simp [State.modRole]

@[simp] theorem State.setS_agenda (s : State) (w : Who) (n : Nat) (v : W64) : (s.setS w n v).agenda = s.agenda := by simp [State.setS]
@[simp] theorem State.setS_turn (s : State) (w : Who) (n : Nat) (v : W64) : (s.setS w n v).turn = s.turn := by simp [State.setS]
@[simp] theorem State.setS_rr (s : State) (w : Who) (n : Nat) (v : W64) : (s.setS w n v).rr = s.rr := by simp [State.setS]
@[simp] theorem State.setS_inp (s : State) (w : Who) (n : Nat) (v : W64) : (s.setS w n v).inp = s.inp := by simp [State.setS]
@[simp] theorem State.setS_freeIx (s : State) (w : Who) (n : Nat) (v : W64) : (s.setS w n v).freeIx = s.freeIx := by simp [State.setS]
@[simp] theorem State.setS_ranks (s : State) (w : Who) (n : Nat) (v : W64) : (s.setS w n v).ranks = s.ranks := by simp [State.setS]
@[simp] theorem State.setS_stops (s : State) (w : Who) (n : Nat) (v : W64) : (s.setS w n v).stops = s.stops := by simp [State.setS]
@[simp] theorem State.setS_cycles (s : State) (w : Who) (n : Nat) (v : W64) : (s.setS w n v).cycles = s.cycles := by simp [State.setS]
@[simp] theorem State.setS_time2 (s : State) (w : Who) (n : Nat) (v : W64) : (s.setS w n v).time2 = s.time2 := by simp [State.setS]
@[simp] theorem State.setS_ringStart (s : State) (w : Who) (n : Nat) (v : W64) : (s.setS w n v).ringStart = s.ringStart := by simp [State.setS]
@[simp] theorem State.setS_coreStart (s : State) (w : Who) (n : Nat) (v : W64) : (s.setS w n v).coreStart = s.coreStart := by simp [State.setS]
@[simp] theorem State.setS_away (s : State) (w : Who) (n : Nat) (v : W64) : (s.setS w n v).away = s.away := by simp [State.setS]
@[simp] theorem State.setS_images (s : State) (w : Who) (n : Nat) (v : W64) : (s.setS w n v).images = s.images := by simp [State.setS]
@[simp] theorem State.setS_cores (s : State) (w : Who) (n : Nat) (v : W64) : (s.setS w n v).cores = s.cores := by simp [State.setS]
@[simp] theorem State.setS_dies (s : State) (w : Who) (n : Nat) (v : W64) : (s.setS w n v).dies = s.dies := by simp [State.setS]
@[simp] theorem State.setS_regions (s : State) (w : Who) (n : Nat) (v : W64) : (s.setS w n v).regions = s.regions := by simp [State.setS]
@[simp] theorem State.setS_kernels (s : State) (w : Who) (n : Nat) (v : W64) : (s.setS w n v).kernels = s.kernels := by simp [State.setS]
@[simp] theorem State.setS_nextKernel (s : State) (w : Who) (n : Nat) (v : W64) : (s.setS w n v).nextKernel = s.nextKernel := by simp [State.setS]
@[simp] theorem State.setS_nodes (s : State) (w : Who) (n : Nat) (v : W64) : (s.setS w n v).nodes = s.nodes := by simp [State.setS]
@[simp] theorem State.setS_nextNode (s : State) (w : Who) (n : Nat) (v : W64) : (s.setS w n v).nextNode = s.nextNode := by simp [State.setS]
@[simp] theorem State.setS_queues (s : State) (w : Who) (n : Nat) (v : W64) : (s.setS w n v).queues = s.queues := by simp [State.setS]
@[simp] theorem State.setS_parts (s : State) (w : Who) (n : Nat) (v : W64) : (s.setS w n v).parts = s.parts := by simp [State.setS]
@[simp] theorem State.setS_hbm (s : State) (w : Who) (n : Nat) (v : W64) : (s.setS w n v).hbm = s.hbm := by simp [State.setS]
@[simp] theorem State.setS_hist (s : State) (w : Who) (n : Nat) (v : W64) : (s.setS w n v).hist = s.hist := by simp [State.setS]
@[simp] theorem State.setS_poison (s : State) (w : Who) (n : Nat) (v : W64) : (s.setS w n v).poison = s.poison := by simp [State.setS]
@[simp] theorem State.setS_poisonS (s : State) (w : Who) (n : Nat) (v : W64) : (s.setS w n v).poisonS = s.poisonS := by simp [State.setS]
@[simp] theorem State.setS_liveStacks (s : State) (w : Who) (n : Nat) (v : W64) : (s.setS w n v).liveStacks = s.liveStacks := by simp [State.setS]
@[simp] theorem State.setS_failedStacks (s : State) (w : Who) (n : Nat) (v : W64) : (s.setS w n v).failedStacks = s.failedStacks := by simp [State.setS]
@[simp] theorem State.setS_passThrough (s : State) (w : Who) (n : Nat) (v : W64) : (s.setS w n v).passThrough = s.passThrough := by simp [State.setS]
@[simp] theorem State.setS_passForced (s : State) (w : Who) (n : Nat) (v : W64) : (s.setS w n v).passForced = s.passForced := by simp [State.setS]
@[simp] theorem State.setS_info (s : State) (w : Who) (n : Nat) (v : W64) : (s.setS w n v).info = s.info := by simp [State.setS]
@[simp] theorem State.setS_ring (s : State) (w : Who) (n : Nat) (v : W64) : (s.setS w n v).ring = s.ring := by simp [State.setS]
@[simp] theorem State.setS_fab (s : State) (w : Who) (n : Nat) (v : W64) : (s.setS w n v).fab = s.fab := by simp [State.setS]
@[simp] theorem State.setS_sett (s : State) (w : Who) (n : Nat) (v : W64) : (s.setS w n v).sett = s.sett := by simp [State.setS]
@[simp] theorem State.setS_ck (s : State) (w : Who) (n : Nat) (v : W64) : (s.setS w n v).ck = s.ck := by simp [State.setS]
@[simp] theorem State.setS_power (s : State) (w : Who) (n : Nat) (v : W64) : (s.setS w n v).power = s.power := by simp [State.setS]
@[simp] theorem State.setS_host (s : State) (w : Who) (n : Nat) (v : W64) : (s.setS w n v).host = s.host := by simp [State.setS]
@[simp] theorem State.setS_eastControl (s : State) (w : Who) (n : Nat) (v : W64) : (s.setS w n v).eastControl = s.eastControl := by simp [State.setS]

@[simp] theorem State.setP_agenda (s : State) (w : Who) (n : Nat) (v : Bool) : (s.setP w n v).agenda = s.agenda := by simp [State.setP]
@[simp] theorem State.setP_turn (s : State) (w : Who) (n : Nat) (v : Bool) : (s.setP w n v).turn = s.turn := by simp [State.setP]
@[simp] theorem State.setP_rr (s : State) (w : Who) (n : Nat) (v : Bool) : (s.setP w n v).rr = s.rr := by simp [State.setP]
@[simp] theorem State.setP_inp (s : State) (w : Who) (n : Nat) (v : Bool) : (s.setP w n v).inp = s.inp := by simp [State.setP]
@[simp] theorem State.setP_freeIx (s : State) (w : Who) (n : Nat) (v : Bool) : (s.setP w n v).freeIx = s.freeIx := by simp [State.setP]
@[simp] theorem State.setP_ranks (s : State) (w : Who) (n : Nat) (v : Bool) : (s.setP w n v).ranks = s.ranks := by simp [State.setP]
@[simp] theorem State.setP_stops (s : State) (w : Who) (n : Nat) (v : Bool) : (s.setP w n v).stops = s.stops := by simp [State.setP]
@[simp] theorem State.setP_cycles (s : State) (w : Who) (n : Nat) (v : Bool) : (s.setP w n v).cycles = s.cycles := by simp [State.setP]
@[simp] theorem State.setP_time2 (s : State) (w : Who) (n : Nat) (v : Bool) : (s.setP w n v).time2 = s.time2 := by simp [State.setP]
@[simp] theorem State.setP_ringStart (s : State) (w : Who) (n : Nat) (v : Bool) : (s.setP w n v).ringStart = s.ringStart := by simp [State.setP]
@[simp] theorem State.setP_coreStart (s : State) (w : Who) (n : Nat) (v : Bool) : (s.setP w n v).coreStart = s.coreStart := by simp [State.setP]
@[simp] theorem State.setP_away (s : State) (w : Who) (n : Nat) (v : Bool) : (s.setP w n v).away = s.away := by simp [State.setP]
@[simp] theorem State.setP_images (s : State) (w : Who) (n : Nat) (v : Bool) : (s.setP w n v).images = s.images := by simp [State.setP]
@[simp] theorem State.setP_cores (s : State) (w : Who) (n : Nat) (v : Bool) : (s.setP w n v).cores = s.cores := by simp [State.setP]
@[simp] theorem State.setP_dies (s : State) (w : Who) (n : Nat) (v : Bool) : (s.setP w n v).dies = s.dies := by simp [State.setP]
@[simp] theorem State.setP_regions (s : State) (w : Who) (n : Nat) (v : Bool) : (s.setP w n v).regions = s.regions := by simp [State.setP]
@[simp] theorem State.setP_kernels (s : State) (w : Who) (n : Nat) (v : Bool) : (s.setP w n v).kernels = s.kernels := by simp [State.setP]
@[simp] theorem State.setP_nextKernel (s : State) (w : Who) (n : Nat) (v : Bool) : (s.setP w n v).nextKernel = s.nextKernel := by simp [State.setP]
@[simp] theorem State.setP_nodes (s : State) (w : Who) (n : Nat) (v : Bool) : (s.setP w n v).nodes = s.nodes := by simp [State.setP]
@[simp] theorem State.setP_nextNode (s : State) (w : Who) (n : Nat) (v : Bool) : (s.setP w n v).nextNode = s.nextNode := by simp [State.setP]
@[simp] theorem State.setP_queues (s : State) (w : Who) (n : Nat) (v : Bool) : (s.setP w n v).queues = s.queues := by simp [State.setP]
@[simp] theorem State.setP_parts (s : State) (w : Who) (n : Nat) (v : Bool) : (s.setP w n v).parts = s.parts := by simp [State.setP]
@[simp] theorem State.setP_hbm (s : State) (w : Who) (n : Nat) (v : Bool) : (s.setP w n v).hbm = s.hbm := by simp [State.setP]
@[simp] theorem State.setP_hist (s : State) (w : Who) (n : Nat) (v : Bool) : (s.setP w n v).hist = s.hist := by simp [State.setP]
@[simp] theorem State.setP_poison (s : State) (w : Who) (n : Nat) (v : Bool) : (s.setP w n v).poison = s.poison := by simp [State.setP]
@[simp] theorem State.setP_poisonS (s : State) (w : Who) (n : Nat) (v : Bool) : (s.setP w n v).poisonS = s.poisonS := by simp [State.setP]
@[simp] theorem State.setP_liveStacks (s : State) (w : Who) (n : Nat) (v : Bool) : (s.setP w n v).liveStacks = s.liveStacks := by simp [State.setP]
@[simp] theorem State.setP_failedStacks (s : State) (w : Who) (n : Nat) (v : Bool) : (s.setP w n v).failedStacks = s.failedStacks := by simp [State.setP]
@[simp] theorem State.setP_passThrough (s : State) (w : Who) (n : Nat) (v : Bool) : (s.setP w n v).passThrough = s.passThrough := by simp [State.setP]
@[simp] theorem State.setP_passForced (s : State) (w : Who) (n : Nat) (v : Bool) : (s.setP w n v).passForced = s.passForced := by simp [State.setP]
@[simp] theorem State.setP_info (s : State) (w : Who) (n : Nat) (v : Bool) : (s.setP w n v).info = s.info := by simp [State.setP]
@[simp] theorem State.setP_ring (s : State) (w : Who) (n : Nat) (v : Bool) : (s.setP w n v).ring = s.ring := by simp [State.setP]
@[simp] theorem State.setP_fab (s : State) (w : Who) (n : Nat) (v : Bool) : (s.setP w n v).fab = s.fab := by simp [State.setP]
@[simp] theorem State.setP_sett (s : State) (w : Who) (n : Nat) (v : Bool) : (s.setP w n v).sett = s.sett := by simp [State.setP]
@[simp] theorem State.setP_ck (s : State) (w : Who) (n : Nat) (v : Bool) : (s.setP w n v).ck = s.ck := by simp [State.setP]
@[simp] theorem State.setP_power (s : State) (w : Who) (n : Nat) (v : Bool) : (s.setP w n v).power = s.power := by simp [State.setP]
@[simp] theorem State.setP_host (s : State) (w : Who) (n : Nat) (v : Bool) : (s.setP w n v).host = s.host := by simp [State.setP]
@[simp] theorem State.setP_eastControl (s : State) (w : Who) (n : Nat) (v : Bool) : (s.setP w n v).eastControl = s.eastControl := by simp [State.setP]

@[simp] theorem State.orFlags_agenda (s : State) (w : Who) (v : BitVec 5) : (s.orFlags w v).agenda = s.agenda := by simp [State.orFlags]
@[simp] theorem State.orFlags_turn (s : State) (w : Who) (v : BitVec 5) : (s.orFlags w v).turn = s.turn := by simp [State.orFlags]
@[simp] theorem State.orFlags_rr (s : State) (w : Who) (v : BitVec 5) : (s.orFlags w v).rr = s.rr := by simp [State.orFlags]
@[simp] theorem State.orFlags_inp (s : State) (w : Who) (v : BitVec 5) : (s.orFlags w v).inp = s.inp := by simp [State.orFlags]
@[simp] theorem State.orFlags_freeIx (s : State) (w : Who) (v : BitVec 5) : (s.orFlags w v).freeIx = s.freeIx := by simp [State.orFlags]
@[simp] theorem State.orFlags_ranks (s : State) (w : Who) (v : BitVec 5) : (s.orFlags w v).ranks = s.ranks := by simp [State.orFlags]
@[simp] theorem State.orFlags_stops (s : State) (w : Who) (v : BitVec 5) : (s.orFlags w v).stops = s.stops := by simp [State.orFlags]
@[simp] theorem State.orFlags_cycles (s : State) (w : Who) (v : BitVec 5) : (s.orFlags w v).cycles = s.cycles := by simp [State.orFlags]
@[simp] theorem State.orFlags_time2 (s : State) (w : Who) (v : BitVec 5) : (s.orFlags w v).time2 = s.time2 := by simp [State.orFlags]
@[simp] theorem State.orFlags_ringStart (s : State) (w : Who) (v : BitVec 5) : (s.orFlags w v).ringStart = s.ringStart := by simp [State.orFlags]
@[simp] theorem State.orFlags_coreStart (s : State) (w : Who) (v : BitVec 5) : (s.orFlags w v).coreStart = s.coreStart := by simp [State.orFlags]
@[simp] theorem State.orFlags_away (s : State) (w : Who) (v : BitVec 5) : (s.orFlags w v).away = s.away := by simp [State.orFlags]
@[simp] theorem State.orFlags_images (s : State) (w : Who) (v : BitVec 5) : (s.orFlags w v).images = s.images := by simp [State.orFlags]
@[simp] theorem State.orFlags_cores (s : State) (w : Who) (v : BitVec 5) : (s.orFlags w v).cores = s.cores := by simp [State.orFlags]
@[simp] theorem State.orFlags_dies (s : State) (w : Who) (v : BitVec 5) : (s.orFlags w v).dies = s.dies := by simp [State.orFlags]
@[simp] theorem State.orFlags_regions (s : State) (w : Who) (v : BitVec 5) : (s.orFlags w v).regions = s.regions := by simp [State.orFlags]
@[simp] theorem State.orFlags_kernels (s : State) (w : Who) (v : BitVec 5) : (s.orFlags w v).kernels = s.kernels := by simp [State.orFlags]
@[simp] theorem State.orFlags_nextKernel (s : State) (w : Who) (v : BitVec 5) : (s.orFlags w v).nextKernel = s.nextKernel := by simp [State.orFlags]
@[simp] theorem State.orFlags_nodes (s : State) (w : Who) (v : BitVec 5) : (s.orFlags w v).nodes = s.nodes := by simp [State.orFlags]
@[simp] theorem State.orFlags_nextNode (s : State) (w : Who) (v : BitVec 5) : (s.orFlags w v).nextNode = s.nextNode := by simp [State.orFlags]
@[simp] theorem State.orFlags_queues (s : State) (w : Who) (v : BitVec 5) : (s.orFlags w v).queues = s.queues := by simp [State.orFlags]
@[simp] theorem State.orFlags_parts (s : State) (w : Who) (v : BitVec 5) : (s.orFlags w v).parts = s.parts := by simp [State.orFlags]
@[simp] theorem State.orFlags_hbm (s : State) (w : Who) (v : BitVec 5) : (s.orFlags w v).hbm = s.hbm := by simp [State.orFlags]
@[simp] theorem State.orFlags_hist (s : State) (w : Who) (v : BitVec 5) : (s.orFlags w v).hist = s.hist := by simp [State.orFlags]
@[simp] theorem State.orFlags_poison (s : State) (w : Who) (v : BitVec 5) : (s.orFlags w v).poison = s.poison := by simp [State.orFlags]
@[simp] theorem State.orFlags_poisonS (s : State) (w : Who) (v : BitVec 5) : (s.orFlags w v).poisonS = s.poisonS := by simp [State.orFlags]
@[simp] theorem State.orFlags_liveStacks (s : State) (w : Who) (v : BitVec 5) : (s.orFlags w v).liveStacks = s.liveStacks := by simp [State.orFlags]
@[simp] theorem State.orFlags_failedStacks (s : State) (w : Who) (v : BitVec 5) : (s.orFlags w v).failedStacks = s.failedStacks := by simp [State.orFlags]
@[simp] theorem State.orFlags_passThrough (s : State) (w : Who) (v : BitVec 5) : (s.orFlags w v).passThrough = s.passThrough := by simp [State.orFlags]
@[simp] theorem State.orFlags_passForced (s : State) (w : Who) (v : BitVec 5) : (s.orFlags w v).passForced = s.passForced := by simp [State.orFlags]
@[simp] theorem State.orFlags_info (s : State) (w : Who) (v : BitVec 5) : (s.orFlags w v).info = s.info := by simp [State.orFlags]
@[simp] theorem State.orFlags_ring (s : State) (w : Who) (v : BitVec 5) : (s.orFlags w v).ring = s.ring := by simp [State.orFlags]
@[simp] theorem State.orFlags_fab (s : State) (w : Who) (v : BitVec 5) : (s.orFlags w v).fab = s.fab := by simp [State.orFlags]
@[simp] theorem State.orFlags_sett (s : State) (w : Who) (v : BitVec 5) : (s.orFlags w v).sett = s.sett := by simp [State.orFlags]
@[simp] theorem State.orFlags_ck (s : State) (w : Who) (v : BitVec 5) : (s.orFlags w v).ck = s.ck := by simp [State.orFlags]
@[simp] theorem State.orFlags_power (s : State) (w : Who) (v : BitVec 5) : (s.orFlags w v).power = s.power := by simp [State.orFlags]
@[simp] theorem State.orFlags_host (s : State) (w : Who) (v : BitVec 5) : (s.orFlags w v).host = s.host := by simp [State.orFlags]
@[simp] theorem State.orFlags_eastControl (s : State) (w : Who) (v : BitVec 5) : (s.orFlags w v).eastControl = s.eastControl := by simp [State.orFlags]

@[simp] theorem State.modCore_agenda (s : State) (c : Nat) (f : Core → Core) : (s.modCore c f).agenda = s.agenda := rfl
@[simp] theorem State.modCore_turn (s : State) (c : Nat) (f : Core → Core) : (s.modCore c f).turn = s.turn := rfl
@[simp] theorem State.modCore_rr (s : State) (c : Nat) (f : Core → Core) : (s.modCore c f).rr = s.rr := rfl
@[simp] theorem State.modCore_inp (s : State) (c : Nat) (f : Core → Core) : (s.modCore c f).inp = s.inp := rfl
@[simp] theorem State.modCore_freeIx (s : State) (c : Nat) (f : Core → Core) : (s.modCore c f).freeIx = s.freeIx := rfl
@[simp] theorem State.modCore_ranks (s : State) (c : Nat) (f : Core → Core) : (s.modCore c f).ranks = s.ranks := rfl
@[simp] theorem State.modCore_stops (s : State) (c : Nat) (f : Core → Core) : (s.modCore c f).stops = s.stops := rfl
@[simp] theorem State.modCore_cycles (s : State) (c : Nat) (f : Core → Core) : (s.modCore c f).cycles = s.cycles := rfl
@[simp] theorem State.modCore_time2 (s : State) (c : Nat) (f : Core → Core) : (s.modCore c f).time2 = s.time2 := rfl
@[simp] theorem State.modCore_ringStart (s : State) (c : Nat) (f : Core → Core) : (s.modCore c f).ringStart = s.ringStart := rfl
@[simp] theorem State.modCore_coreStart (s : State) (c : Nat) (f : Core → Core) : (s.modCore c f).coreStart = s.coreStart := rfl
@[simp] theorem State.modCore_ctxs (s : State) (c : Nat) (f : Core → Core) : (s.modCore c f).ctxs = s.ctxs := rfl
@[simp] theorem State.modCore_away (s : State) (c : Nat) (f : Core → Core) : (s.modCore c f).away = s.away := rfl
@[simp] theorem State.modCore_images (s : State) (c : Nat) (f : Core → Core) : (s.modCore c f).images = s.images := rfl
@[simp] theorem State.modCore_dies (s : State) (c : Nat) (f : Core → Core) : (s.modCore c f).dies = s.dies := rfl
@[simp] theorem State.modCore_regions (s : State) (c : Nat) (f : Core → Core) : (s.modCore c f).regions = s.regions := rfl
@[simp] theorem State.modCore_kernels (s : State) (c : Nat) (f : Core → Core) : (s.modCore c f).kernels = s.kernels := rfl
@[simp] theorem State.modCore_nextKernel (s : State) (c : Nat) (f : Core → Core) : (s.modCore c f).nextKernel = s.nextKernel := rfl
@[simp] theorem State.modCore_nodes (s : State) (c : Nat) (f : Core → Core) : (s.modCore c f).nodes = s.nodes := rfl
@[simp] theorem State.modCore_nextNode (s : State) (c : Nat) (f : Core → Core) : (s.modCore c f).nextNode = s.nextNode := rfl
@[simp] theorem State.modCore_queues (s : State) (c : Nat) (f : Core → Core) : (s.modCore c f).queues = s.queues := rfl
@[simp] theorem State.modCore_parts (s : State) (c : Nat) (f : Core → Core) : (s.modCore c f).parts = s.parts := rfl
@[simp] theorem State.modCore_hbm (s : State) (c : Nat) (f : Core → Core) : (s.modCore c f).hbm = s.hbm := rfl
@[simp] theorem State.modCore_hist (s : State) (c : Nat) (f : Core → Core) : (s.modCore c f).hist = s.hist := rfl
@[simp] theorem State.modCore_poison (s : State) (c : Nat) (f : Core → Core) : (s.modCore c f).poison = s.poison := rfl
@[simp] theorem State.modCore_poisonS (s : State) (c : Nat) (f : Core → Core) : (s.modCore c f).poisonS = s.poisonS := rfl
@[simp] theorem State.modCore_liveStacks (s : State) (c : Nat) (f : Core → Core) : (s.modCore c f).liveStacks = s.liveStacks := rfl
@[simp] theorem State.modCore_failedStacks (s : State) (c : Nat) (f : Core → Core) : (s.modCore c f).failedStacks = s.failedStacks := rfl
@[simp] theorem State.modCore_passThrough (s : State) (c : Nat) (f : Core → Core) : (s.modCore c f).passThrough = s.passThrough := rfl
@[simp] theorem State.modCore_passForced (s : State) (c : Nat) (f : Core → Core) : (s.modCore c f).passForced = s.passForced := rfl
@[simp] theorem State.modCore_info (s : State) (c : Nat) (f : Core → Core) : (s.modCore c f).info = s.info := rfl
@[simp] theorem State.modCore_ring (s : State) (c : Nat) (f : Core → Core) : (s.modCore c f).ring = s.ring := rfl
@[simp] theorem State.modCore_fab (s : State) (c : Nat) (f : Core → Core) : (s.modCore c f).fab = s.fab := rfl
@[simp] theorem State.modCore_sett (s : State) (c : Nat) (f : Core → Core) : (s.modCore c f).sett = s.sett := rfl
@[simp] theorem State.modCore_ck (s : State) (c : Nat) (f : Core → Core) : (s.modCore c f).ck = s.ck := rfl
@[simp] theorem State.modCore_power (s : State) (c : Nat) (f : Core → Core) : (s.modCore c f).power = s.power := rfl
@[simp] theorem State.modCore_host (s : State) (c : Nat) (f : Core → Core) : (s.modCore c f).host = s.host := rfl
@[simp] theorem State.modCore_eastControl (s : State) (c : Nat) (f : Core → Core) : (s.modCore c f).eastControl = s.eastControl := rfl

@[simp] theorem State.modDie_agenda (s : State) (d : Nat) (f : Die → Die) : (s.modDie d f).agenda = s.agenda := rfl
@[simp] theorem State.modDie_turn (s : State) (d : Nat) (f : Die → Die) : (s.modDie d f).turn = s.turn := rfl
@[simp] theorem State.modDie_rr (s : State) (d : Nat) (f : Die → Die) : (s.modDie d f).rr = s.rr := rfl
@[simp] theorem State.modDie_inp (s : State) (d : Nat) (f : Die → Die) : (s.modDie d f).inp = s.inp := rfl
@[simp] theorem State.modDie_freeIx (s : State) (d : Nat) (f : Die → Die) : (s.modDie d f).freeIx = s.freeIx := rfl
@[simp] theorem State.modDie_ranks (s : State) (d : Nat) (f : Die → Die) : (s.modDie d f).ranks = s.ranks := rfl
@[simp] theorem State.modDie_stops (s : State) (d : Nat) (f : Die → Die) : (s.modDie d f).stops = s.stops := rfl
@[simp] theorem State.modDie_cycles (s : State) (d : Nat) (f : Die → Die) : (s.modDie d f).cycles = s.cycles := rfl
@[simp] theorem State.modDie_time2 (s : State) (d : Nat) (f : Die → Die) : (s.modDie d f).time2 = s.time2 := rfl
@[simp] theorem State.modDie_ringStart (s : State) (d : Nat) (f : Die → Die) : (s.modDie d f).ringStart = s.ringStart := rfl
@[simp] theorem State.modDie_coreStart (s : State) (d : Nat) (f : Die → Die) : (s.modDie d f).coreStart = s.coreStart := rfl
@[simp] theorem State.modDie_ctxs (s : State) (d : Nat) (f : Die → Die) : (s.modDie d f).ctxs = s.ctxs := rfl
@[simp] theorem State.modDie_away (s : State) (d : Nat) (f : Die → Die) : (s.modDie d f).away = s.away := rfl
@[simp] theorem State.modDie_images (s : State) (d : Nat) (f : Die → Die) : (s.modDie d f).images = s.images := rfl
@[simp] theorem State.modDie_cores (s : State) (d : Nat) (f : Die → Die) : (s.modDie d f).cores = s.cores := rfl
@[simp] theorem State.modDie_regions (s : State) (d : Nat) (f : Die → Die) : (s.modDie d f).regions = s.regions := rfl
@[simp] theorem State.modDie_kernels (s : State) (d : Nat) (f : Die → Die) : (s.modDie d f).kernels = s.kernels := rfl
@[simp] theorem State.modDie_nextKernel (s : State) (d : Nat) (f : Die → Die) : (s.modDie d f).nextKernel = s.nextKernel := rfl
@[simp] theorem State.modDie_nodes (s : State) (d : Nat) (f : Die → Die) : (s.modDie d f).nodes = s.nodes := rfl
@[simp] theorem State.modDie_nextNode (s : State) (d : Nat) (f : Die → Die) : (s.modDie d f).nextNode = s.nextNode := rfl
@[simp] theorem State.modDie_queues (s : State) (d : Nat) (f : Die → Die) : (s.modDie d f).queues = s.queues := rfl
@[simp] theorem State.modDie_parts (s : State) (d : Nat) (f : Die → Die) : (s.modDie d f).parts = s.parts := rfl
@[simp] theorem State.modDie_hbm (s : State) (d : Nat) (f : Die → Die) : (s.modDie d f).hbm = s.hbm := rfl
@[simp] theorem State.modDie_hist (s : State) (d : Nat) (f : Die → Die) : (s.modDie d f).hist = s.hist := rfl
@[simp] theorem State.modDie_poison (s : State) (d : Nat) (f : Die → Die) : (s.modDie d f).poison = s.poison := rfl
@[simp] theorem State.modDie_poisonS (s : State) (d : Nat) (f : Die → Die) : (s.modDie d f).poisonS = s.poisonS := rfl
@[simp] theorem State.modDie_liveStacks (s : State) (d : Nat) (f : Die → Die) : (s.modDie d f).liveStacks = s.liveStacks := rfl
@[simp] theorem State.modDie_failedStacks (s : State) (d : Nat) (f : Die → Die) : (s.modDie d f).failedStacks = s.failedStacks := rfl
@[simp] theorem State.modDie_passThrough (s : State) (d : Nat) (f : Die → Die) : (s.modDie d f).passThrough = s.passThrough := rfl
@[simp] theorem State.modDie_passForced (s : State) (d : Nat) (f : Die → Die) : (s.modDie d f).passForced = s.passForced := rfl
@[simp] theorem State.modDie_info (s : State) (d : Nat) (f : Die → Die) : (s.modDie d f).info = s.info := rfl
@[simp] theorem State.modDie_ring (s : State) (d : Nat) (f : Die → Die) : (s.modDie d f).ring = s.ring := rfl
@[simp] theorem State.modDie_fab (s : State) (d : Nat) (f : Die → Die) : (s.modDie d f).fab = s.fab := rfl
@[simp] theorem State.modDie_sett (s : State) (d : Nat) (f : Die → Die) : (s.modDie d f).sett = s.sett := rfl
@[simp] theorem State.modDie_ck (s : State) (d : Nat) (f : Die → Die) : (s.modDie d f).ck = s.ck := rfl
@[simp] theorem State.modDie_power (s : State) (d : Nat) (f : Die → Die) : (s.modDie d f).power = s.power := rfl
@[simp] theorem State.modDie_host (s : State) (d : Nat) (f : Die → Die) : (s.modDie d f).host = s.host := rfl
@[simp] theorem State.modDie_eastControl (s : State) (d : Nat) (f : Die → Die) : (s.modDie d f).eastControl = s.eastControl := rfl

@[simp] theorem State.modTrapQ_agenda (s : State) (d p : Nat) (f : TrapQ → TrapQ) : (s.modTrapQ d p f).agenda = s.agenda := rfl
@[simp] theorem State.modTrapQ_turn (s : State) (d p : Nat) (f : TrapQ → TrapQ) : (s.modTrapQ d p f).turn = s.turn := rfl
@[simp] theorem State.modTrapQ_rr (s : State) (d p : Nat) (f : TrapQ → TrapQ) : (s.modTrapQ d p f).rr = s.rr := rfl
@[simp] theorem State.modTrapQ_inp (s : State) (d p : Nat) (f : TrapQ → TrapQ) : (s.modTrapQ d p f).inp = s.inp := rfl
@[simp] theorem State.modTrapQ_freeIx (s : State) (d p : Nat) (f : TrapQ → TrapQ) : (s.modTrapQ d p f).freeIx = s.freeIx := rfl
@[simp] theorem State.modTrapQ_ranks (s : State) (d p : Nat) (f : TrapQ → TrapQ) : (s.modTrapQ d p f).ranks = s.ranks := rfl
@[simp] theorem State.modTrapQ_stops (s : State) (d p : Nat) (f : TrapQ → TrapQ) : (s.modTrapQ d p f).stops = s.stops := rfl
@[simp] theorem State.modTrapQ_cycles (s : State) (d p : Nat) (f : TrapQ → TrapQ) : (s.modTrapQ d p f).cycles = s.cycles := rfl
@[simp] theorem State.modTrapQ_time2 (s : State) (d p : Nat) (f : TrapQ → TrapQ) : (s.modTrapQ d p f).time2 = s.time2 := rfl
@[simp] theorem State.modTrapQ_ringStart (s : State) (d p : Nat) (f : TrapQ → TrapQ) : (s.modTrapQ d p f).ringStart = s.ringStart := rfl
@[simp] theorem State.modTrapQ_coreStart (s : State) (d p : Nat) (f : TrapQ → TrapQ) : (s.modTrapQ d p f).coreStart = s.coreStart := rfl
@[simp] theorem State.modTrapQ_ctxs (s : State) (d p : Nat) (f : TrapQ → TrapQ) : (s.modTrapQ d p f).ctxs = s.ctxs := rfl
@[simp] theorem State.modTrapQ_away (s : State) (d p : Nat) (f : TrapQ → TrapQ) : (s.modTrapQ d p f).away = s.away := rfl
@[simp] theorem State.modTrapQ_images (s : State) (d p : Nat) (f : TrapQ → TrapQ) : (s.modTrapQ d p f).images = s.images := rfl
@[simp] theorem State.modTrapQ_cores (s : State) (d p : Nat) (f : TrapQ → TrapQ) : (s.modTrapQ d p f).cores = s.cores := rfl
@[simp] theorem State.modTrapQ_regions (s : State) (d p : Nat) (f : TrapQ → TrapQ) : (s.modTrapQ d p f).regions = s.regions := rfl
@[simp] theorem State.modTrapQ_kernels (s : State) (d p : Nat) (f : TrapQ → TrapQ) : (s.modTrapQ d p f).kernels = s.kernels := rfl
@[simp] theorem State.modTrapQ_nextKernel (s : State) (d p : Nat) (f : TrapQ → TrapQ) : (s.modTrapQ d p f).nextKernel = s.nextKernel := rfl
@[simp] theorem State.modTrapQ_nodes (s : State) (d p : Nat) (f : TrapQ → TrapQ) : (s.modTrapQ d p f).nodes = s.nodes := rfl
@[simp] theorem State.modTrapQ_nextNode (s : State) (d p : Nat) (f : TrapQ → TrapQ) : (s.modTrapQ d p f).nextNode = s.nextNode := rfl
@[simp] theorem State.modTrapQ_queues (s : State) (d p : Nat) (f : TrapQ → TrapQ) : (s.modTrapQ d p f).queues = s.queues := rfl
@[simp] theorem State.modTrapQ_parts (s : State) (d p : Nat) (f : TrapQ → TrapQ) : (s.modTrapQ d p f).parts = s.parts := rfl
@[simp] theorem State.modTrapQ_hbm (s : State) (d p : Nat) (f : TrapQ → TrapQ) : (s.modTrapQ d p f).hbm = s.hbm := rfl
@[simp] theorem State.modTrapQ_hist (s : State) (d p : Nat) (f : TrapQ → TrapQ) : (s.modTrapQ d p f).hist = s.hist := rfl
@[simp] theorem State.modTrapQ_poison (s : State) (d p : Nat) (f : TrapQ → TrapQ) : (s.modTrapQ d p f).poison = s.poison := rfl
@[simp] theorem State.modTrapQ_poisonS (s : State) (d p : Nat) (f : TrapQ → TrapQ) : (s.modTrapQ d p f).poisonS = s.poisonS := rfl
@[simp] theorem State.modTrapQ_liveStacks (s : State) (d p : Nat) (f : TrapQ → TrapQ) : (s.modTrapQ d p f).liveStacks = s.liveStacks := rfl
@[simp] theorem State.modTrapQ_failedStacks (s : State) (d p : Nat) (f : TrapQ → TrapQ) : (s.modTrapQ d p f).failedStacks = s.failedStacks := rfl
@[simp] theorem State.modTrapQ_passThrough (s : State) (d p : Nat) (f : TrapQ → TrapQ) : (s.modTrapQ d p f).passThrough = s.passThrough := rfl
@[simp] theorem State.modTrapQ_passForced (s : State) (d p : Nat) (f : TrapQ → TrapQ) : (s.modTrapQ d p f).passForced = s.passForced := rfl
@[simp] theorem State.modTrapQ_info (s : State) (d p : Nat) (f : TrapQ → TrapQ) : (s.modTrapQ d p f).info = s.info := rfl
@[simp] theorem State.modTrapQ_ring (s : State) (d p : Nat) (f : TrapQ → TrapQ) : (s.modTrapQ d p f).ring = s.ring := rfl
@[simp] theorem State.modTrapQ_fab (s : State) (d p : Nat) (f : TrapQ → TrapQ) : (s.modTrapQ d p f).fab = s.fab := rfl
@[simp] theorem State.modTrapQ_sett (s : State) (d p : Nat) (f : TrapQ → TrapQ) : (s.modTrapQ d p f).sett = s.sett := rfl
@[simp] theorem State.modTrapQ_ck (s : State) (d p : Nat) (f : TrapQ → TrapQ) : (s.modTrapQ d p f).ck = s.ck := rfl
@[simp] theorem State.modTrapQ_power (s : State) (d p : Nat) (f : TrapQ → TrapQ) : (s.modTrapQ d p f).power = s.power := rfl
@[simp] theorem State.modTrapQ_host (s : State) (d p : Nat) (f : TrapQ → TrapQ) : (s.modTrapQ d p f).host = s.host := rfl
@[simp] theorem State.modTrapQ_eastControl (s : State) (d p : Nat) (f : TrapQ → TrapQ) : (s.modTrapQ d p f).eastControl = s.eastControl := rfl

@[simp] theorem State.modPart_agenda (s : State) (p : Nat) (f : Partition → Partition) : (s.modPart p f).agenda = s.agenda := rfl
@[simp] theorem State.modPart_turn (s : State) (p : Nat) (f : Partition → Partition) : (s.modPart p f).turn = s.turn := rfl
@[simp] theorem State.modPart_rr (s : State) (p : Nat) (f : Partition → Partition) : (s.modPart p f).rr = s.rr := rfl
@[simp] theorem State.modPart_inp (s : State) (p : Nat) (f : Partition → Partition) : (s.modPart p f).inp = s.inp := rfl
@[simp] theorem State.modPart_freeIx (s : State) (p : Nat) (f : Partition → Partition) : (s.modPart p f).freeIx = s.freeIx := rfl
@[simp] theorem State.modPart_ranks (s : State) (p : Nat) (f : Partition → Partition) : (s.modPart p f).ranks = s.ranks := rfl
@[simp] theorem State.modPart_stops (s : State) (p : Nat) (f : Partition → Partition) : (s.modPart p f).stops = s.stops := rfl
@[simp] theorem State.modPart_cycles (s : State) (p : Nat) (f : Partition → Partition) : (s.modPart p f).cycles = s.cycles := rfl
@[simp] theorem State.modPart_time2 (s : State) (p : Nat) (f : Partition → Partition) : (s.modPart p f).time2 = s.time2 := rfl
@[simp] theorem State.modPart_ringStart (s : State) (p : Nat) (f : Partition → Partition) : (s.modPart p f).ringStart = s.ringStart := rfl
@[simp] theorem State.modPart_coreStart (s : State) (p : Nat) (f : Partition → Partition) : (s.modPart p f).coreStart = s.coreStart := rfl
@[simp] theorem State.modPart_ctxs (s : State) (p : Nat) (f : Partition → Partition) : (s.modPart p f).ctxs = s.ctxs := rfl
@[simp] theorem State.modPart_away (s : State) (p : Nat) (f : Partition → Partition) : (s.modPart p f).away = s.away := rfl
@[simp] theorem State.modPart_images (s : State) (p : Nat) (f : Partition → Partition) : (s.modPart p f).images = s.images := rfl
@[simp] theorem State.modPart_cores (s : State) (p : Nat) (f : Partition → Partition) : (s.modPart p f).cores = s.cores := rfl
@[simp] theorem State.modPart_dies (s : State) (p : Nat) (f : Partition → Partition) : (s.modPart p f).dies = s.dies := rfl
@[simp] theorem State.modPart_regions (s : State) (p : Nat) (f : Partition → Partition) : (s.modPart p f).regions = s.regions := rfl
@[simp] theorem State.modPart_kernels (s : State) (p : Nat) (f : Partition → Partition) : (s.modPart p f).kernels = s.kernels := rfl
@[simp] theorem State.modPart_nextKernel (s : State) (p : Nat) (f : Partition → Partition) : (s.modPart p f).nextKernel = s.nextKernel := rfl
@[simp] theorem State.modPart_nodes (s : State) (p : Nat) (f : Partition → Partition) : (s.modPart p f).nodes = s.nodes := rfl
@[simp] theorem State.modPart_nextNode (s : State) (p : Nat) (f : Partition → Partition) : (s.modPart p f).nextNode = s.nextNode := rfl
@[simp] theorem State.modPart_queues (s : State) (p : Nat) (f : Partition → Partition) : (s.modPart p f).queues = s.queues := rfl
@[simp] theorem State.modPart_hbm (s : State) (p : Nat) (f : Partition → Partition) : (s.modPart p f).hbm = s.hbm := rfl
@[simp] theorem State.modPart_hist (s : State) (p : Nat) (f : Partition → Partition) : (s.modPart p f).hist = s.hist := rfl
@[simp] theorem State.modPart_poison (s : State) (p : Nat) (f : Partition → Partition) : (s.modPart p f).poison = s.poison := rfl
@[simp] theorem State.modPart_poisonS (s : State) (p : Nat) (f : Partition → Partition) : (s.modPart p f).poisonS = s.poisonS := rfl
@[simp] theorem State.modPart_liveStacks (s : State) (p : Nat) (f : Partition → Partition) : (s.modPart p f).liveStacks = s.liveStacks := rfl
@[simp] theorem State.modPart_failedStacks (s : State) (p : Nat) (f : Partition → Partition) : (s.modPart p f).failedStacks = s.failedStacks := rfl
@[simp] theorem State.modPart_passThrough (s : State) (p : Nat) (f : Partition → Partition) : (s.modPart p f).passThrough = s.passThrough := rfl
@[simp] theorem State.modPart_passForced (s : State) (p : Nat) (f : Partition → Partition) : (s.modPart p f).passForced = s.passForced := rfl
@[simp] theorem State.modPart_info (s : State) (p : Nat) (f : Partition → Partition) : (s.modPart p f).info = s.info := rfl
@[simp] theorem State.modPart_ring (s : State) (p : Nat) (f : Partition → Partition) : (s.modPart p f).ring = s.ring := rfl
@[simp] theorem State.modPart_fab (s : State) (p : Nat) (f : Partition → Partition) : (s.modPart p f).fab = s.fab := rfl
@[simp] theorem State.modPart_sett (s : State) (p : Nat) (f : Partition → Partition) : (s.modPart p f).sett = s.sett := rfl
@[simp] theorem State.modPart_ck (s : State) (p : Nat) (f : Partition → Partition) : (s.modPart p f).ck = s.ck := rfl
@[simp] theorem State.modPart_power (s : State) (p : Nat) (f : Partition → Partition) : (s.modPart p f).power = s.power := rfl
@[simp] theorem State.modPart_host (s : State) (p : Nat) (f : Partition → Partition) : (s.modPart p f).host = s.host := rfl
@[simp] theorem State.modPart_eastControl (s : State) (p : Nat) (f : Partition → Partition) : (s.modPart p f).eastControl = s.eastControl := rfl

@[simp] theorem State.modKernel_agenda (s : State) (k : Nat) (f : Kernel → Kernel) : (s.modKernel k f).agenda = s.agenda := rfl
@[simp] theorem State.modKernel_turn (s : State) (k : Nat) (f : Kernel → Kernel) : (s.modKernel k f).turn = s.turn := rfl
@[simp] theorem State.modKernel_rr (s : State) (k : Nat) (f : Kernel → Kernel) : (s.modKernel k f).rr = s.rr := rfl
@[simp] theorem State.modKernel_inp (s : State) (k : Nat) (f : Kernel → Kernel) : (s.modKernel k f).inp = s.inp := rfl
@[simp] theorem State.modKernel_freeIx (s : State) (k : Nat) (f : Kernel → Kernel) : (s.modKernel k f).freeIx = s.freeIx := rfl
@[simp] theorem State.modKernel_ranks (s : State) (k : Nat) (f : Kernel → Kernel) : (s.modKernel k f).ranks = s.ranks := rfl
@[simp] theorem State.modKernel_stops (s : State) (k : Nat) (f : Kernel → Kernel) : (s.modKernel k f).stops = s.stops := rfl
@[simp] theorem State.modKernel_cycles (s : State) (k : Nat) (f : Kernel → Kernel) : (s.modKernel k f).cycles = s.cycles := rfl
@[simp] theorem State.modKernel_time2 (s : State) (k : Nat) (f : Kernel → Kernel) : (s.modKernel k f).time2 = s.time2 := rfl
@[simp] theorem State.modKernel_ringStart (s : State) (k : Nat) (f : Kernel → Kernel) : (s.modKernel k f).ringStart = s.ringStart := rfl
@[simp] theorem State.modKernel_coreStart (s : State) (k : Nat) (f : Kernel → Kernel) : (s.modKernel k f).coreStart = s.coreStart := rfl
@[simp] theorem State.modKernel_ctxs (s : State) (k : Nat) (f : Kernel → Kernel) : (s.modKernel k f).ctxs = s.ctxs := rfl
@[simp] theorem State.modKernel_away (s : State) (k : Nat) (f : Kernel → Kernel) : (s.modKernel k f).away = s.away := rfl
@[simp] theorem State.modKernel_images (s : State) (k : Nat) (f : Kernel → Kernel) : (s.modKernel k f).images = s.images := rfl
@[simp] theorem State.modKernel_cores (s : State) (k : Nat) (f : Kernel → Kernel) : (s.modKernel k f).cores = s.cores := rfl
@[simp] theorem State.modKernel_dies (s : State) (k : Nat) (f : Kernel → Kernel) : (s.modKernel k f).dies = s.dies := rfl
@[simp] theorem State.modKernel_regions (s : State) (k : Nat) (f : Kernel → Kernel) : (s.modKernel k f).regions = s.regions := rfl
@[simp] theorem State.modKernel_nextKernel (s : State) (k : Nat) (f : Kernel → Kernel) : (s.modKernel k f).nextKernel = s.nextKernel := rfl
@[simp] theorem State.modKernel_nodes (s : State) (k : Nat) (f : Kernel → Kernel) : (s.modKernel k f).nodes = s.nodes := rfl
@[simp] theorem State.modKernel_nextNode (s : State) (k : Nat) (f : Kernel → Kernel) : (s.modKernel k f).nextNode = s.nextNode := rfl
@[simp] theorem State.modKernel_queues (s : State) (k : Nat) (f : Kernel → Kernel) : (s.modKernel k f).queues = s.queues := rfl
@[simp] theorem State.modKernel_parts (s : State) (k : Nat) (f : Kernel → Kernel) : (s.modKernel k f).parts = s.parts := rfl
@[simp] theorem State.modKernel_hbm (s : State) (k : Nat) (f : Kernel → Kernel) : (s.modKernel k f).hbm = s.hbm := rfl
@[simp] theorem State.modKernel_hist (s : State) (k : Nat) (f : Kernel → Kernel) : (s.modKernel k f).hist = s.hist := rfl
@[simp] theorem State.modKernel_poison (s : State) (k : Nat) (f : Kernel → Kernel) : (s.modKernel k f).poison = s.poison := rfl
@[simp] theorem State.modKernel_poisonS (s : State) (k : Nat) (f : Kernel → Kernel) : (s.modKernel k f).poisonS = s.poisonS := rfl
@[simp] theorem State.modKernel_liveStacks (s : State) (k : Nat) (f : Kernel → Kernel) : (s.modKernel k f).liveStacks = s.liveStacks := rfl
@[simp] theorem State.modKernel_failedStacks (s : State) (k : Nat) (f : Kernel → Kernel) : (s.modKernel k f).failedStacks = s.failedStacks := rfl
@[simp] theorem State.modKernel_passThrough (s : State) (k : Nat) (f : Kernel → Kernel) : (s.modKernel k f).passThrough = s.passThrough := rfl
@[simp] theorem State.modKernel_passForced (s : State) (k : Nat) (f : Kernel → Kernel) : (s.modKernel k f).passForced = s.passForced := rfl
@[simp] theorem State.modKernel_info (s : State) (k : Nat) (f : Kernel → Kernel) : (s.modKernel k f).info = s.info := rfl
@[simp] theorem State.modKernel_ring (s : State) (k : Nat) (f : Kernel → Kernel) : (s.modKernel k f).ring = s.ring := rfl
@[simp] theorem State.modKernel_fab (s : State) (k : Nat) (f : Kernel → Kernel) : (s.modKernel k f).fab = s.fab := rfl
@[simp] theorem State.modKernel_sett (s : State) (k : Nat) (f : Kernel → Kernel) : (s.modKernel k f).sett = s.sett := rfl
@[simp] theorem State.modKernel_ck (s : State) (k : Nat) (f : Kernel → Kernel) : (s.modKernel k f).ck = s.ck := rfl
@[simp] theorem State.modKernel_power (s : State) (k : Nat) (f : Kernel → Kernel) : (s.modKernel k f).power = s.power := rfl
@[simp] theorem State.modKernel_host (s : State) (k : Nat) (f : Kernel → Kernel) : (s.modKernel k f).host = s.host := rfl
@[simp] theorem State.modKernel_eastControl (s : State) (k : Nat) (f : Kernel → Kernel) : (s.modKernel k f).eastControl = s.eastControl := rfl

@[simp] theorem State.modNode_agenda (s : State) (n : Nat) (f : Node → Node) : (s.modNode n f).agenda = s.agenda := rfl
@[simp] theorem State.modNode_turn (s : State) (n : Nat) (f : Node → Node) : (s.modNode n f).turn = s.turn := rfl
@[simp] theorem State.modNode_rr (s : State) (n : Nat) (f : Node → Node) : (s.modNode n f).rr = s.rr := rfl
@[simp] theorem State.modNode_inp (s : State) (n : Nat) (f : Node → Node) : (s.modNode n f).inp = s.inp := rfl
@[simp] theorem State.modNode_freeIx (s : State) (n : Nat) (f : Node → Node) : (s.modNode n f).freeIx = s.freeIx := rfl
@[simp] theorem State.modNode_ranks (s : State) (n : Nat) (f : Node → Node) : (s.modNode n f).ranks = s.ranks := rfl
@[simp] theorem State.modNode_stops (s : State) (n : Nat) (f : Node → Node) : (s.modNode n f).stops = s.stops := rfl
@[simp] theorem State.modNode_cycles (s : State) (n : Nat) (f : Node → Node) : (s.modNode n f).cycles = s.cycles := rfl
@[simp] theorem State.modNode_time2 (s : State) (n : Nat) (f : Node → Node) : (s.modNode n f).time2 = s.time2 := rfl
@[simp] theorem State.modNode_ringStart (s : State) (n : Nat) (f : Node → Node) : (s.modNode n f).ringStart = s.ringStart := rfl
@[simp] theorem State.modNode_coreStart (s : State) (n : Nat) (f : Node → Node) : (s.modNode n f).coreStart = s.coreStart := rfl
@[simp] theorem State.modNode_ctxs (s : State) (n : Nat) (f : Node → Node) : (s.modNode n f).ctxs = s.ctxs := rfl
@[simp] theorem State.modNode_away (s : State) (n : Nat) (f : Node → Node) : (s.modNode n f).away = s.away := rfl
@[simp] theorem State.modNode_images (s : State) (n : Nat) (f : Node → Node) : (s.modNode n f).images = s.images := rfl
@[simp] theorem State.modNode_cores (s : State) (n : Nat) (f : Node → Node) : (s.modNode n f).cores = s.cores := rfl
@[simp] theorem State.modNode_dies (s : State) (n : Nat) (f : Node → Node) : (s.modNode n f).dies = s.dies := rfl
@[simp] theorem State.modNode_regions (s : State) (n : Nat) (f : Node → Node) : (s.modNode n f).regions = s.regions := rfl
@[simp] theorem State.modNode_kernels (s : State) (n : Nat) (f : Node → Node) : (s.modNode n f).kernels = s.kernels := rfl
@[simp] theorem State.modNode_nextKernel (s : State) (n : Nat) (f : Node → Node) : (s.modNode n f).nextKernel = s.nextKernel := rfl
@[simp] theorem State.modNode_nextNode (s : State) (n : Nat) (f : Node → Node) : (s.modNode n f).nextNode = s.nextNode := rfl
@[simp] theorem State.modNode_queues (s : State) (n : Nat) (f : Node → Node) : (s.modNode n f).queues = s.queues := rfl
@[simp] theorem State.modNode_parts (s : State) (n : Nat) (f : Node → Node) : (s.modNode n f).parts = s.parts := rfl
@[simp] theorem State.modNode_hbm (s : State) (n : Nat) (f : Node → Node) : (s.modNode n f).hbm = s.hbm := rfl
@[simp] theorem State.modNode_hist (s : State) (n : Nat) (f : Node → Node) : (s.modNode n f).hist = s.hist := rfl
@[simp] theorem State.modNode_poison (s : State) (n : Nat) (f : Node → Node) : (s.modNode n f).poison = s.poison := rfl
@[simp] theorem State.modNode_poisonS (s : State) (n : Nat) (f : Node → Node) : (s.modNode n f).poisonS = s.poisonS := rfl
@[simp] theorem State.modNode_liveStacks (s : State) (n : Nat) (f : Node → Node) : (s.modNode n f).liveStacks = s.liveStacks := rfl
@[simp] theorem State.modNode_failedStacks (s : State) (n : Nat) (f : Node → Node) : (s.modNode n f).failedStacks = s.failedStacks := rfl
@[simp] theorem State.modNode_passThrough (s : State) (n : Nat) (f : Node → Node) : (s.modNode n f).passThrough = s.passThrough := rfl
@[simp] theorem State.modNode_passForced (s : State) (n : Nat) (f : Node → Node) : (s.modNode n f).passForced = s.passForced := rfl
@[simp] theorem State.modNode_info (s : State) (n : Nat) (f : Node → Node) : (s.modNode n f).info = s.info := rfl
@[simp] theorem State.modNode_ring (s : State) (n : Nat) (f : Node → Node) : (s.modNode n f).ring = s.ring := rfl
@[simp] theorem State.modNode_fab (s : State) (n : Nat) (f : Node → Node) : (s.modNode n f).fab = s.fab := rfl
@[simp] theorem State.modNode_sett (s : State) (n : Nat) (f : Node → Node) : (s.modNode n f).sett = s.sett := rfl
@[simp] theorem State.modNode_ck (s : State) (n : Nat) (f : Node → Node) : (s.modNode n f).ck = s.ck := rfl
@[simp] theorem State.modNode_power (s : State) (n : Nat) (f : Node → Node) : (s.modNode n f).power = s.power := rfl
@[simp] theorem State.modNode_host (s : State) (n : Nat) (f : Node → Node) : (s.modNode n f).host = s.host := rfl
@[simp] theorem State.modNode_eastControl (s : State) (n : Nat) (f : Node → Node) : (s.modNode n f).eastControl = s.eastControl := rfl

@[simp] theorem State.modQueue_agenda (s : State) (q : Nat) (f : LQueue → LQueue) : (s.modQueue q f).agenda = s.agenda := by unfold State.modQueue; split <;> (try split) <;> rfl
@[simp] theorem State.modQueue_turn (s : State) (q : Nat) (f : LQueue → LQueue) : (s.modQueue q f).turn = s.turn := by unfold State.modQueue; split <;> (try split) <;> rfl
@[simp] theorem State.modQueue_rr (s : State) (q : Nat) (f : LQueue → LQueue) : (s.modQueue q f).rr = s.rr := by unfold State.modQueue; split <;> (try split) <;> rfl
@[simp] theorem State.modQueue_inp (s : State) (q : Nat) (f : LQueue → LQueue) : (s.modQueue q f).inp = s.inp := by unfold State.modQueue; split <;> (try split) <;> rfl
@[simp] theorem State.modQueue_freeIx (s : State) (q : Nat) (f : LQueue → LQueue) : (s.modQueue q f).freeIx = s.freeIx := by unfold State.modQueue; split <;> (try split) <;> rfl
@[simp] theorem State.modQueue_ranks (s : State) (q : Nat) (f : LQueue → LQueue) : (s.modQueue q f).ranks = s.ranks := by unfold State.modQueue; split <;> (try split) <;> rfl
@[simp] theorem State.modQueue_stops (s : State) (q : Nat) (f : LQueue → LQueue) : (s.modQueue q f).stops = s.stops := by unfold State.modQueue; split <;> (try split) <;> rfl
@[simp] theorem State.modQueue_cycles (s : State) (q : Nat) (f : LQueue → LQueue) : (s.modQueue q f).cycles = s.cycles := by unfold State.modQueue; split <;> (try split) <;> rfl
@[simp] theorem State.modQueue_time2 (s : State) (q : Nat) (f : LQueue → LQueue) : (s.modQueue q f).time2 = s.time2 := by unfold State.modQueue; split <;> (try split) <;> rfl
@[simp] theorem State.modQueue_ringStart (s : State) (q : Nat) (f : LQueue → LQueue) : (s.modQueue q f).ringStart = s.ringStart := by unfold State.modQueue; split <;> (try split) <;> rfl
@[simp] theorem State.modQueue_coreStart (s : State) (q : Nat) (f : LQueue → LQueue) : (s.modQueue q f).coreStart = s.coreStart := by unfold State.modQueue; split <;> (try split) <;> rfl
@[simp] theorem State.modQueue_ctxs (s : State) (q : Nat) (f : LQueue → LQueue) : (s.modQueue q f).ctxs = s.ctxs := by unfold State.modQueue; split <;> (try split) <;> rfl
@[simp] theorem State.modQueue_away (s : State) (q : Nat) (f : LQueue → LQueue) : (s.modQueue q f).away = s.away := by unfold State.modQueue; split <;> (try split) <;> rfl
@[simp] theorem State.modQueue_images (s : State) (q : Nat) (f : LQueue → LQueue) : (s.modQueue q f).images = s.images := by unfold State.modQueue; split <;> (try split) <;> rfl
@[simp] theorem State.modQueue_cores (s : State) (q : Nat) (f : LQueue → LQueue) : (s.modQueue q f).cores = s.cores := by unfold State.modQueue; split <;> (try split) <;> rfl
@[simp] theorem State.modQueue_dies (s : State) (q : Nat) (f : LQueue → LQueue) : (s.modQueue q f).dies = s.dies := by unfold State.modQueue; split <;> (try split) <;> rfl
@[simp] theorem State.modQueue_regions (s : State) (q : Nat) (f : LQueue → LQueue) : (s.modQueue q f).regions = s.regions := by unfold State.modQueue; split <;> (try split) <;> rfl
@[simp] theorem State.modQueue_kernels (s : State) (q : Nat) (f : LQueue → LQueue) : (s.modQueue q f).kernels = s.kernels := by unfold State.modQueue; split <;> (try split) <;> rfl
@[simp] theorem State.modQueue_nextKernel (s : State) (q : Nat) (f : LQueue → LQueue) : (s.modQueue q f).nextKernel = s.nextKernel := by unfold State.modQueue; split <;> (try split) <;> rfl
@[simp] theorem State.modQueue_nodes (s : State) (q : Nat) (f : LQueue → LQueue) : (s.modQueue q f).nodes = s.nodes := by unfold State.modQueue; split <;> (try split) <;> rfl
@[simp] theorem State.modQueue_nextNode (s : State) (q : Nat) (f : LQueue → LQueue) : (s.modQueue q f).nextNode = s.nextNode := by unfold State.modQueue; split <;> (try split) <;> rfl
@[simp] theorem State.modQueue_parts (s : State) (q : Nat) (f : LQueue → LQueue) : (s.modQueue q f).parts = s.parts := by unfold State.modQueue; split <;> (try split) <;> rfl
@[simp] theorem State.modQueue_hbm (s : State) (q : Nat) (f : LQueue → LQueue) : (s.modQueue q f).hbm = s.hbm := by unfold State.modQueue; split <;> (try split) <;> rfl
@[simp] theorem State.modQueue_hist (s : State) (q : Nat) (f : LQueue → LQueue) : (s.modQueue q f).hist = s.hist := by unfold State.modQueue; split <;> (try split) <;> rfl
@[simp] theorem State.modQueue_poison (s : State) (q : Nat) (f : LQueue → LQueue) : (s.modQueue q f).poison = s.poison := by unfold State.modQueue; split <;> (try split) <;> rfl
@[simp] theorem State.modQueue_poisonS (s : State) (q : Nat) (f : LQueue → LQueue) : (s.modQueue q f).poisonS = s.poisonS := by unfold State.modQueue; split <;> (try split) <;> rfl
@[simp] theorem State.modQueue_liveStacks (s : State) (q : Nat) (f : LQueue → LQueue) : (s.modQueue q f).liveStacks = s.liveStacks := by unfold State.modQueue; split <;> (try split) <;> rfl
@[simp] theorem State.modQueue_failedStacks (s : State) (q : Nat) (f : LQueue → LQueue) : (s.modQueue q f).failedStacks = s.failedStacks := by unfold State.modQueue; split <;> (try split) <;> rfl
@[simp] theorem State.modQueue_passThrough (s : State) (q : Nat) (f : LQueue → LQueue) : (s.modQueue q f).passThrough = s.passThrough := by unfold State.modQueue; split <;> (try split) <;> rfl
@[simp] theorem State.modQueue_passForced (s : State) (q : Nat) (f : LQueue → LQueue) : (s.modQueue q f).passForced = s.passForced := by unfold State.modQueue; split <;> (try split) <;> rfl
@[simp] theorem State.modQueue_info (s : State) (q : Nat) (f : LQueue → LQueue) : (s.modQueue q f).info = s.info := by unfold State.modQueue; split <;> (try split) <;> rfl
@[simp] theorem State.modQueue_ring (s : State) (q : Nat) (f : LQueue → LQueue) : (s.modQueue q f).ring = s.ring := by unfold State.modQueue; split <;> (try split) <;> rfl
@[simp] theorem State.modQueue_fab (s : State) (q : Nat) (f : LQueue → LQueue) : (s.modQueue q f).fab = s.fab := by unfold State.modQueue; split <;> (try split) <;> rfl
@[simp] theorem State.modQueue_sett (s : State) (q : Nat) (f : LQueue → LQueue) : (s.modQueue q f).sett = s.sett := by unfold State.modQueue; split <;> (try split) <;> rfl
@[simp] theorem State.modQueue_ck (s : State) (q : Nat) (f : LQueue → LQueue) : (s.modQueue q f).ck = s.ck := by unfold State.modQueue; split <;> (try split) <;> rfl
@[simp] theorem State.modQueue_power (s : State) (q : Nat) (f : LQueue → LQueue) : (s.modQueue q f).power = s.power := by unfold State.modQueue; split <;> (try split) <;> rfl
@[simp] theorem State.modQueue_host (s : State) (q : Nat) (f : LQueue → LQueue) : (s.modQueue q f).host = s.host := by unfold State.modQueue; split <;> (try split) <;> rfl
@[simp] theorem State.modQueue_eastControl (s : State) (q : Nat) (f : LQueue → LQueue) : (s.modQueue q f).eastControl = s.eastControl := by unfold State.modQueue; split <;> (try split) <;> rfl

@[simp] theorem State.modWindow_agenda (s : State) (p k : Nat) (f : HostWin → HostWin) : (s.modWindow p k f).agenda = s.agenda := rfl
@[simp] theorem State.modWindow_turn (s : State) (p k : Nat) (f : HostWin → HostWin) : (s.modWindow p k f).turn = s.turn := rfl
@[simp] theorem State.modWindow_rr (s : State) (p k : Nat) (f : HostWin → HostWin) : (s.modWindow p k f).rr = s.rr := rfl
@[simp] theorem State.modWindow_inp (s : State) (p k : Nat) (f : HostWin → HostWin) : (s.modWindow p k f).inp = s.inp := rfl
@[simp] theorem State.modWindow_freeIx (s : State) (p k : Nat) (f : HostWin → HostWin) : (s.modWindow p k f).freeIx = s.freeIx := rfl
@[simp] theorem State.modWindow_ranks (s : State) (p k : Nat) (f : HostWin → HostWin) : (s.modWindow p k f).ranks = s.ranks := rfl
@[simp] theorem State.modWindow_stops (s : State) (p k : Nat) (f : HostWin → HostWin) : (s.modWindow p k f).stops = s.stops := rfl
@[simp] theorem State.modWindow_cycles (s : State) (p k : Nat) (f : HostWin → HostWin) : (s.modWindow p k f).cycles = s.cycles := rfl
@[simp] theorem State.modWindow_time2 (s : State) (p k : Nat) (f : HostWin → HostWin) : (s.modWindow p k f).time2 = s.time2 := rfl
@[simp] theorem State.modWindow_ringStart (s : State) (p k : Nat) (f : HostWin → HostWin) : (s.modWindow p k f).ringStart = s.ringStart := rfl
@[simp] theorem State.modWindow_coreStart (s : State) (p k : Nat) (f : HostWin → HostWin) : (s.modWindow p k f).coreStart = s.coreStart := rfl
@[simp] theorem State.modWindow_ctxs (s : State) (p k : Nat) (f : HostWin → HostWin) : (s.modWindow p k f).ctxs = s.ctxs := rfl
@[simp] theorem State.modWindow_away (s : State) (p k : Nat) (f : HostWin → HostWin) : (s.modWindow p k f).away = s.away := rfl
@[simp] theorem State.modWindow_images (s : State) (p k : Nat) (f : HostWin → HostWin) : (s.modWindow p k f).images = s.images := rfl
@[simp] theorem State.modWindow_cores (s : State) (p k : Nat) (f : HostWin → HostWin) : (s.modWindow p k f).cores = s.cores := rfl
@[simp] theorem State.modWindow_dies (s : State) (p k : Nat) (f : HostWin → HostWin) : (s.modWindow p k f).dies = s.dies := rfl
@[simp] theorem State.modWindow_regions (s : State) (p k : Nat) (f : HostWin → HostWin) : (s.modWindow p k f).regions = s.regions := rfl
@[simp] theorem State.modWindow_kernels (s : State) (p k : Nat) (f : HostWin → HostWin) : (s.modWindow p k f).kernels = s.kernels := rfl
@[simp] theorem State.modWindow_nextKernel (s : State) (p k : Nat) (f : HostWin → HostWin) : (s.modWindow p k f).nextKernel = s.nextKernel := rfl
@[simp] theorem State.modWindow_nodes (s : State) (p k : Nat) (f : HostWin → HostWin) : (s.modWindow p k f).nodes = s.nodes := rfl
@[simp] theorem State.modWindow_nextNode (s : State) (p k : Nat) (f : HostWin → HostWin) : (s.modWindow p k f).nextNode = s.nextNode := rfl
@[simp] theorem State.modWindow_queues (s : State) (p k : Nat) (f : HostWin → HostWin) : (s.modWindow p k f).queues = s.queues := rfl
@[simp] theorem State.modWindow_parts (s : State) (p k : Nat) (f : HostWin → HostWin) : (s.modWindow p k f).parts = s.parts := rfl
@[simp] theorem State.modWindow_hbm (s : State) (p k : Nat) (f : HostWin → HostWin) : (s.modWindow p k f).hbm = s.hbm := rfl
@[simp] theorem State.modWindow_hist (s : State) (p k : Nat) (f : HostWin → HostWin) : (s.modWindow p k f).hist = s.hist := rfl
@[simp] theorem State.modWindow_poison (s : State) (p k : Nat) (f : HostWin → HostWin) : (s.modWindow p k f).poison = s.poison := rfl
@[simp] theorem State.modWindow_poisonS (s : State) (p k : Nat) (f : HostWin → HostWin) : (s.modWindow p k f).poisonS = s.poisonS := rfl
@[simp] theorem State.modWindow_liveStacks (s : State) (p k : Nat) (f : HostWin → HostWin) : (s.modWindow p k f).liveStacks = s.liveStacks := rfl
@[simp] theorem State.modWindow_failedStacks (s : State) (p k : Nat) (f : HostWin → HostWin) : (s.modWindow p k f).failedStacks = s.failedStacks := rfl
@[simp] theorem State.modWindow_passThrough (s : State) (p k : Nat) (f : HostWin → HostWin) : (s.modWindow p k f).passThrough = s.passThrough := rfl
@[simp] theorem State.modWindow_passForced (s : State) (p k : Nat) (f : HostWin → HostWin) : (s.modWindow p k f).passForced = s.passForced := rfl
@[simp] theorem State.modWindow_info (s : State) (p k : Nat) (f : HostWin → HostWin) : (s.modWindow p k f).info = s.info := rfl
@[simp] theorem State.modWindow_ring (s : State) (p k : Nat) (f : HostWin → HostWin) : (s.modWindow p k f).ring = s.ring := rfl
@[simp] theorem State.modWindow_fab (s : State) (p k : Nat) (f : HostWin → HostWin) : (s.modWindow p k f).fab = s.fab := rfl
@[simp] theorem State.modWindow_sett (s : State) (p k : Nat) (f : HostWin → HostWin) : (s.modWindow p k f).sett = s.sett := rfl
@[simp] theorem State.modWindow_ck (s : State) (p k : Nat) (f : HostWin → HostWin) : (s.modWindow p k f).ck = s.ck := rfl
@[simp] theorem State.modWindow_power (s : State) (p k : Nat) (f : HostWin → HostWin) : (s.modWindow p k f).power = s.power := rfl
@[simp] theorem State.modWindow_eastControl (s : State) (p k : Nat) (f : HostWin → HostWin) : (s.modWindow p k f).eastControl = s.eastControl := rfl

@[simp] theorem State.modGroupP_agenda (s : State) (g : Nat) (f : PowerGroup → PowerGroup) : (s.modGroupP g f).agenda = s.agenda := rfl
@[simp] theorem State.modGroupP_turn (s : State) (g : Nat) (f : PowerGroup → PowerGroup) : (s.modGroupP g f).turn = s.turn := rfl
@[simp] theorem State.modGroupP_rr (s : State) (g : Nat) (f : PowerGroup → PowerGroup) : (s.modGroupP g f).rr = s.rr := rfl
@[simp] theorem State.modGroupP_inp (s : State) (g : Nat) (f : PowerGroup → PowerGroup) : (s.modGroupP g f).inp = s.inp := rfl
@[simp] theorem State.modGroupP_freeIx (s : State) (g : Nat) (f : PowerGroup → PowerGroup) : (s.modGroupP g f).freeIx = s.freeIx := rfl
@[simp] theorem State.modGroupP_ranks (s : State) (g : Nat) (f : PowerGroup → PowerGroup) : (s.modGroupP g f).ranks = s.ranks := rfl
@[simp] theorem State.modGroupP_stops (s : State) (g : Nat) (f : PowerGroup → PowerGroup) : (s.modGroupP g f).stops = s.stops := rfl
@[simp] theorem State.modGroupP_cycles (s : State) (g : Nat) (f : PowerGroup → PowerGroup) : (s.modGroupP g f).cycles = s.cycles := rfl
@[simp] theorem State.modGroupP_time2 (s : State) (g : Nat) (f : PowerGroup → PowerGroup) : (s.modGroupP g f).time2 = s.time2 := rfl
@[simp] theorem State.modGroupP_ringStart (s : State) (g : Nat) (f : PowerGroup → PowerGroup) : (s.modGroupP g f).ringStart = s.ringStart := rfl
@[simp] theorem State.modGroupP_coreStart (s : State) (g : Nat) (f : PowerGroup → PowerGroup) : (s.modGroupP g f).coreStart = s.coreStart := rfl
@[simp] theorem State.modGroupP_ctxs (s : State) (g : Nat) (f : PowerGroup → PowerGroup) : (s.modGroupP g f).ctxs = s.ctxs := rfl
@[simp] theorem State.modGroupP_away (s : State) (g : Nat) (f : PowerGroup → PowerGroup) : (s.modGroupP g f).away = s.away := rfl
@[simp] theorem State.modGroupP_images (s : State) (g : Nat) (f : PowerGroup → PowerGroup) : (s.modGroupP g f).images = s.images := rfl
@[simp] theorem State.modGroupP_cores (s : State) (g : Nat) (f : PowerGroup → PowerGroup) : (s.modGroupP g f).cores = s.cores := rfl
@[simp] theorem State.modGroupP_dies (s : State) (g : Nat) (f : PowerGroup → PowerGroup) : (s.modGroupP g f).dies = s.dies := rfl
@[simp] theorem State.modGroupP_regions (s : State) (g : Nat) (f : PowerGroup → PowerGroup) : (s.modGroupP g f).regions = s.regions := rfl
@[simp] theorem State.modGroupP_kernels (s : State) (g : Nat) (f : PowerGroup → PowerGroup) : (s.modGroupP g f).kernels = s.kernels := rfl
@[simp] theorem State.modGroupP_nextKernel (s : State) (g : Nat) (f : PowerGroup → PowerGroup) : (s.modGroupP g f).nextKernel = s.nextKernel := rfl
@[simp] theorem State.modGroupP_nodes (s : State) (g : Nat) (f : PowerGroup → PowerGroup) : (s.modGroupP g f).nodes = s.nodes := rfl
@[simp] theorem State.modGroupP_nextNode (s : State) (g : Nat) (f : PowerGroup → PowerGroup) : (s.modGroupP g f).nextNode = s.nextNode := rfl
@[simp] theorem State.modGroupP_queues (s : State) (g : Nat) (f : PowerGroup → PowerGroup) : (s.modGroupP g f).queues = s.queues := rfl
@[simp] theorem State.modGroupP_parts (s : State) (g : Nat) (f : PowerGroup → PowerGroup) : (s.modGroupP g f).parts = s.parts := rfl
@[simp] theorem State.modGroupP_hbm (s : State) (g : Nat) (f : PowerGroup → PowerGroup) : (s.modGroupP g f).hbm = s.hbm := rfl
@[simp] theorem State.modGroupP_hist (s : State) (g : Nat) (f : PowerGroup → PowerGroup) : (s.modGroupP g f).hist = s.hist := rfl
@[simp] theorem State.modGroupP_poison (s : State) (g : Nat) (f : PowerGroup → PowerGroup) : (s.modGroupP g f).poison = s.poison := rfl
@[simp] theorem State.modGroupP_poisonS (s : State) (g : Nat) (f : PowerGroup → PowerGroup) : (s.modGroupP g f).poisonS = s.poisonS := rfl
@[simp] theorem State.modGroupP_liveStacks (s : State) (g : Nat) (f : PowerGroup → PowerGroup) : (s.modGroupP g f).liveStacks = s.liveStacks := rfl
@[simp] theorem State.modGroupP_failedStacks (s : State) (g : Nat) (f : PowerGroup → PowerGroup) : (s.modGroupP g f).failedStacks = s.failedStacks := rfl
@[simp] theorem State.modGroupP_passThrough (s : State) (g : Nat) (f : PowerGroup → PowerGroup) : (s.modGroupP g f).passThrough = s.passThrough := rfl
@[simp] theorem State.modGroupP_passForced (s : State) (g : Nat) (f : PowerGroup → PowerGroup) : (s.modGroupP g f).passForced = s.passForced := rfl
@[simp] theorem State.modGroupP_info (s : State) (g : Nat) (f : PowerGroup → PowerGroup) : (s.modGroupP g f).info = s.info := rfl
@[simp] theorem State.modGroupP_ring (s : State) (g : Nat) (f : PowerGroup → PowerGroup) : (s.modGroupP g f).ring = s.ring := rfl
@[simp] theorem State.modGroupP_fab (s : State) (g : Nat) (f : PowerGroup → PowerGroup) : (s.modGroupP g f).fab = s.fab := rfl
@[simp] theorem State.modGroupP_sett (s : State) (g : Nat) (f : PowerGroup → PowerGroup) : (s.modGroupP g f).sett = s.sett := rfl
@[simp] theorem State.modGroupP_ck (s : State) (g : Nat) (f : PowerGroup → PowerGroup) : (s.modGroupP g f).ck = s.ck := rfl
@[simp] theorem State.modGroupP_host (s : State) (g : Nat) (f : PowerGroup → PowerGroup) : (s.modGroupP g f).host = s.host := rfl
@[simp] theorem State.modGroupP_eastControl (s : State) (g : Nat) (f : PowerGroup → PowerGroup) : (s.modGroupP g f).eastControl = s.eastControl := rfl

@[simp] theorem State.publish_agenda (s : State) : (s.publish).agenda = s.agenda := by unfold State.publish; split <;> rfl
@[simp] theorem State.publish_turn (s : State) : (s.publish).turn = s.turn := by unfold State.publish; split <;> rfl
@[simp] theorem State.publish_rr (s : State) : (s.publish).rr = s.rr := by unfold State.publish; split <;> rfl
@[simp] theorem State.publish_inp (s : State) : (s.publish).inp = s.inp := by unfold State.publish; split <;> rfl
@[simp] theorem State.publish_freeIx (s : State) : (s.publish).freeIx = s.freeIx := by unfold State.publish; split <;> rfl
@[simp] theorem State.publish_ranks (s : State) : (s.publish).ranks = s.ranks := by unfold State.publish; split <;> rfl
@[simp] theorem State.publish_stops (s : State) : (s.publish).stops = s.stops := by unfold State.publish; split <;> rfl
@[simp] theorem State.publish_cycles (s : State) : (s.publish).cycles = s.cycles := by unfold State.publish; split <;> rfl
@[simp] theorem State.publish_time2 (s : State) : (s.publish).time2 = s.time2 := by unfold State.publish; split <;> rfl
@[simp] theorem State.publish_ringStart (s : State) : (s.publish).ringStart = s.ringStart := by unfold State.publish; split <;> rfl
@[simp] theorem State.publish_coreStart (s : State) : (s.publish).coreStart = s.coreStart := by unfold State.publish; split <;> rfl
@[simp] theorem State.publish_ctxs (s : State) : (s.publish).ctxs = s.ctxs := by unfold State.publish; split <;> rfl
@[simp] theorem State.publish_away (s : State) : (s.publish).away = s.away := by unfold State.publish; split <;> rfl
@[simp] theorem State.publish_images (s : State) : (s.publish).images = s.images := by unfold State.publish; split <;> rfl
@[simp] theorem State.publish_cores (s : State) : (s.publish).cores = s.cores := by unfold State.publish; split <;> rfl
@[simp] theorem State.publish_dies (s : State) : (s.publish).dies = s.dies := by unfold State.publish; split <;> rfl
@[simp] theorem State.publish_regions (s : State) : (s.publish).regions = s.regions := by unfold State.publish; split <;> rfl
@[simp] theorem State.publish_kernels (s : State) : (s.publish).kernels = s.kernels := by unfold State.publish; split <;> rfl
@[simp] theorem State.publish_nextKernel (s : State) : (s.publish).nextKernel = s.nextKernel := by unfold State.publish; split <;> rfl
@[simp] theorem State.publish_nodes (s : State) : (s.publish).nodes = s.nodes := by unfold State.publish; split <;> rfl
@[simp] theorem State.publish_nextNode (s : State) : (s.publish).nextNode = s.nextNode := by unfold State.publish; split <;> rfl
@[simp] theorem State.publish_queues (s : State) : (s.publish).queues = s.queues := by unfold State.publish; split <;> rfl
@[simp] theorem State.publish_parts (s : State) : (s.publish).parts = s.parts := by unfold State.publish; split <;> rfl
@[simp] theorem State.publish_hbm (s : State) : (s.publish).hbm = s.hbm := by unfold State.publish; split <;> rfl
@[simp] theorem State.publish_hist (s : State) : (s.publish).hist = s.hist := by unfold State.publish; split <;> rfl
@[simp] theorem State.publish_poison (s : State) : (s.publish).poison = s.poison := by unfold State.publish; split <;> rfl
@[simp] theorem State.publish_poisonS (s : State) : (s.publish).poisonS = s.poisonS := by unfold State.publish; split <;> rfl
@[simp] theorem State.publish_liveStacks (s : State) : (s.publish).liveStacks = s.liveStacks := by unfold State.publish; split <;> rfl
@[simp] theorem State.publish_failedStacks (s : State) : (s.publish).failedStacks = s.failedStacks := by unfold State.publish; split <;> rfl
@[simp] theorem State.publish_passThrough (s : State) : (s.publish).passThrough = s.passThrough := by unfold State.publish; split <;> rfl
@[simp] theorem State.publish_passForced (s : State) : (s.publish).passForced = s.passForced := by unfold State.publish; split <;> rfl
@[simp] theorem State.publish_ring (s : State) : (s.publish).ring = s.ring := by unfold State.publish; split <;> rfl
@[simp] theorem State.publish_fab (s : State) : (s.publish).fab = s.fab := by unfold State.publish; split <;> rfl
@[simp] theorem State.publish_sett (s : State) : (s.publish).sett = s.sett := by unfold State.publish; split <;> rfl
@[simp] theorem State.publish_ck (s : State) : (s.publish).ck = s.ck := by unfold State.publish; split <;> rfl
@[simp] theorem State.publish_power (s : State) : (s.publish).power = s.power := by unfold State.publish; split <;> rfl
@[simp] theorem State.publish_host (s : State) : (s.publish).host = s.host := by unfold State.publish; split <;> rfl
@[simp] theorem State.publish_eastControl (s : State) : (s.publish).eastControl = s.eastControl := by unfold State.publish; split <;> rfl

end Sys2Proof.Machine
end

