-- ==== Sys2Proof/Laws/Run.lean ====
section
/-! SUPPORT. What the wrapper of Machine/Operands.lean makes of an effect when a role issues with nothing in its way: one
lemma for each kind of effect. -/

namespace Sys2Proof.Machine

/-- Time goes by: the agenda, the turn and the operands of the step stand, and the cycles count on. -/
theorem State.elapse_eqs (s : State) (n : Nat) :
    (s.elapse n).turn = s.turn ∧ (s.elapse n).agenda = s.agenda ∧ (s.elapse n).inp = s.inp ∧
      (s.elapse n).cycles = s.cycles + n := by
  unfold State.elapse State.goltikOut State.tick
  refine ⟨?_, ?_, ?_, ?_⟩ <;> (repeat' split) <;> simp_all

@[simp] theorem State.elapse_turn (s : State) (n : Nat) : (s.elapse n).turn = s.turn := (State.elapse_eqs s n).1
@[simp] theorem State.elapse_agenda (s : State) (n : Nat) : (s.elapse n).agenda = s.agenda := (State.elapse_eqs s n).2.1
@[simp] theorem State.elapse_inp (s : State) (n : Nat) : (s.elapse n).inp = s.inp := (State.elapse_eqs s n).2.2.1
@[simp] theorem State.elapse_cycles (s : State) (n : Nat) : (s.elapse n).cycles = s.cycles + n := (State.elapse_eqs s n).2.2.2

variable {i : Instr} {f : Frame} {e : Effect} {s s2 : State} {w : Who} {x : Ctx} {dest : Pos}

theorem Ctx.setTok_role (x : Ctx) (q n : Nat) (r : Role) : (x.setTok q n).role r = x.role r := by cases r <;> rfl

theorem Ctx.popToks_role (l : List Nat) (x : Ctx) (r : Role) : (x.popToks l).role r = x.role r := by
  induction l generalizing x with
  | nil => rfl
  | cons a l ih => exact (ih _).trans (Ctx.setTok_role _ _ _ _)

/-- Pops leave the program counter. -/
@[simp] theorem Frame.popped_pc (f : Frame) (w : Who) (x : Ctx) : ((f.popped w x).role w.r).pc = (x.role w.r).pc := by
  unfold Frame.popped
  simp only []
  split
  · rfl
  · split <;> simp [Ctx.popToks_role]

/-- An acquire at core scope only raises the core's floor to what its releases cover (R178). -/
theorem State.acquire_core (s : State) (c : Nat) :
    s.acquire c 0 = s.modCore c (fun k => { k with floor := Nat.max k.floor k.rel }) := by
  simp [State.acquire, State.acquireNow]

@[simp] theorem popped_ctx (f : Frame) (s : State) (w : Who) (x : Ctx) (h : s.ctx w.c = some x) :
    (s.popped f w x).ctx w.c = some (f.popped w x) := by
  unfold State.popped
  split
  · rename_i he; simp [Frame.popped, he, h]
  · split
    · simp
    · rw [State.acquire_core]; exact State.ctx_setCtx _ _ _

/-- What can retire retires. -/
theorem retireAs_eq {r : Rest} (hx : s.ctx w.c = some x) (h : canRetire f s w x r) :
    s2.retireAs w (s.textOf x) r (if f.whole = true then some (f.kept w x s) else none) = s2.retire w r := by
  cases hf : f.whole
  · simp [State.retireAs]
  · have hk : (f.kept w x s).ctx w.c = some (if f.try_.isSome then x else f.popped w x) := by
      unfold Frame.kept; split <;> simp [hx]
    simp [State.retireAs, hk, h hf]

/-- Without a push that waits, no FIFO that the word names is full. -/
theorem pushHeld_room {k : Core} {tok : BitVec 4} (h : pushHeld k x w tok = false) :
    ((tokPushes w.r tok).any fun q => decide (8 ≤ x.tok q.2)) = false := by
  unfold pushHeld at h
  cases hp : tokPushes w.r tok with
  | nil => rfl
  | cons a l => simp_all; exact h.2.2

/-- The wrapper reaches the effect. -/
theorem Issues.runWord_eq (h : Issues i f s w x) : runWord i f e s = .next (runTail f f.isA w (s.textOf x) (x.role w.r) s
    (s.popped f w x) x (e w (f.popped w x) (s.popped f w x))) := by
  have hm : (!(x.role w.r).popped && (tokPops w.r f.tok).any (fun q => x.tok q == 0)) = false := by
    rcases h.pops with hp | hp
    · simp [hp]
    · simp only [Bool.and_eq_false_iff]; exact .inr (by simpa using hp)
  have hf : (f.try_.isSome && (tokPushes w.r f.tok).any (fun q => decide (8 ≤ x.tok q.2))) = false := by
    cases hi : f.try_.isSome
    · simp
    · simpa using pushHeld_room (h.pushes hi)
  have h1 : ¬ (f.role.toNat ≠ Role.code w.r ∧ (!f.isA) = true) := by
    rcases h.tag with ht | ht <;> simp [ht]
  have hA : (f.role == 0b11#2) = f.isA := rfl
  rw [runWord, h.turn]
  simp only [h.ctx, runRole, hA]
  rw [if_neg h1, h.legal]
  simp only [h.guard, if_true]
  rw [if_neg, if_neg, hm, hf]
  · simp only [Bool.false_eq_true, or_self, if_false, Bool.not_true, h.data]
  · rintro ⟨ha, hd⟩; simp [(h.agree ha).2.1] at hd
  · rintro ⟨ha, hd⟩; simp [(h.agree ha).1] at hd

theorem Issues.not_diverges (h : Issues i f s w x) : ¬ (f.isA = true ∧ diverges x w.r = true) := by
  rintro ⟨ha, hd⟩; simp [(h.agree ha).2.2] at hd

/-- The `sp` of runTail. -/
theorem kept_eq (f : Frame) (w : Who) (x : Ctx) (s : State) :
    (if f.whole = true then some (if f.try_.isSome = true then s else s.popped f w x) else none) =
      if f.whole = true then some (f.kept w x s) else none := rfl

theorem Issues.done (h : Issues i f s w x) (g : Falls f s w x dest) (he : e w (f.popped w x) (s.popped f w x) = .done s2)
    (hc : s2.calm w.c.cid) : runWord i f e s = .next (f.finish w (x.role w.r).pc dest none s2) := by
  have hp := h.pushes
  have hr := fun s2 => retireAs_eq (s2 := s2) h.ctx g.room
  rw [h.runWord_eq, he]
  simp only [runTail, if_neg h.not_diverges, retireNext, g.next, g.count, kept_eq, hr, Frame.finish, Frame.tried,
    show (s2.core w.c.cid).applying = false from hc]
  cases ht : f.try_ <;> simp_all

theorem Issues.load {id : Nat} (h : Issues i f s w x) (g : Falls f s w x dest)
    (he : e w (f.popped w x) (s.popped f w x) = .load id s2) :
    runWord i f e s = .next (f.finish w (x.role w.r).pc dest (some id) s2) := by
  rw [h.runWord_eq, he]
  simp only [runTail, retireNext, g.next]
  rw [show countFull (x.role w.r) (restOf f.tok (some id) (x.role w.r).pc dest false false f.isA).enter
    (restOf f.tok (some id) (x.role w.r).pc dest false false f.isA).exit = false from g.count]; rfl

theorem Issues.fault {c : Nat} {v : W64} (h : Issues i f s w x) (he : e w (f.popped w x) (s.popped f w x) = .fault c v) :
    runWord i f e s = .next (s.raise w c v) := by
  rw [h.runWord_eq, he]
  simp only [runTail]
  rw [if_neg]; rintro ⟨ha, hd, _⟩; simp [(h.agree ha).2.2] at hd

theorem retireTo_lands {call ret : Bool} (hx : s.ctx w.c = some x) (g : Lands f s w x dest call ret) :
    retireTo s s2 w (s.textOf x) (x.role w.r) f.tok dest call ret f.isA (if f.whole = true then some (f.kept w x s) else none) =
      s2.retire w (restOf f.tok none (x.role w.r).pc dest call ret f.isA) := by
  have h1 : (!f.isA && intervalOf (s.textOf x) dest != intervalOf (s.textOf x) (x.role w.r).pc) = false := by
    cases ha : f.isA
    · simp [g.interval ha]
    · simp
  simp [retireTo, h1, g.code, g.count, retireAs_eq hx g.room]

theorem Issues.goto {ret : Bool} (h : Issues i f s w x) (g : Lands f s w x dest false ret)
    (he : e w (f.popped w x) (s.popped f w x) = .goto dest ret s2) :
    runWord i f e s = .next (s2.retire w (restOf f.tok none (x.role w.r).pc dest false ret f.isA)) := by
  rw [h.runWord_eq, he]
  simp only [runTail, if_neg h.not_diverges, kept_eq, retireTo_lands h.ctx g]

theorem Issues.call (h : Issues i f s w x) (g : Lands f s w x dest true false)
    (he : e w (f.popped w x) (s.popped f w x) = .call dest s2) :
    runWord i f e s = .next (s2.retire w (restOf f.tok none (x.role w.r).pc dest true false f.isA)) := by
  rw [h.runWord_eq, he]
  simp only [runTail, kept_eq, retireTo_lands h.ctx g]

theorem Issues.stay (h : Issues i f s w x)
    (g : canRetire f s w x ⟨f.tok, none, (x.role w.r).pc, none, none, if f.isA then some (x.role w.r).pc else none⟩) (he : e w (f.popped w x) (s.popped f w x) = .stay s2) :
    runWord i f e s = .next (s2.retire w
      ⟨f.tok, none, (x.role w.r).pc, none, none, if f.isA then some (x.role w.r).pc else none⟩) := by
  rw [h.runWord_eq, he]
  simp only [runTail, if_neg h.not_diverges, kept_eq, retireAs_eq h.ctx g]

theorem Issues.final (h : Issues i f s w x) (he : e w (f.popped w x) (s.popped f w x) = .final s2) :
    runWord i f e s = .next s2 := by
  rw [h.runWord_eq, he]
  simp only [runTail, if_neg h.not_diverges]

theorem Issues.wait {k : Wait} (h : Issues i f s w x) (ht : f.try_ = none) (he : e w (f.popped w x) (s.popped f w x) = .wait k) :
    runWord i f e s = .next ((s.popped f w x).waitOn w k) := by
  rw [h.runWord_eq, he]
  simp only [runTail, if_neg h.not_diverges, ht]

theorem Issues.waitIn {k : Wait} (h : Issues i f s w x) (he : e w (f.popped w x) (s.popped f w x) = .waitIn k s2) :
    runWord i f e s = .next (s2.waitOn w k) := by
  rw [h.runWord_eq, he]
  simp only [runTail]

end Sys2Proof.Machine
end

