-- ==== Sys2Proof/Laws/Retire.lean ====
section
/-! SUPPORT. Everything that retiring an instruction can do: it goes on with the role's own bookkeeping, the token counts and
the WIN in force, and leaves the rest of the machine. -/

namespace Sys2Proof.Machine

/-- What retirement leaves of a role. -/
structure RoleSt.Kept (v r : RoleSt) : Prop where
  sregs : v.sregs = r.sregs
  preds : v.preds = r.preds
  loops : v.loops = r.loops
  ret : v.ret = r.ret
  flg : v.flg = r.flg
  halted : v.halted = r.halted
  active : v.active = r.active
  dbgHalt : v.dbgHalt = r.dbgHalt

theorem RoleSt.Kept.refl (r : RoleSt) : r.Kept r := ⟨rfl, rfl, rfl, rfl, rfl, rfl, rfl, rfl⟩

/-- What retirement by role `r` leaves of a context: all but that role, the token counts, the WIN in force, and the roles that an SWR
of one of its specials still awaits. -/
structure Ctx.Kept (y x : Ctx) (r : Role) : Prop where
  eq : y = { x.setRole r (y.role r) with toks := y.toks, winGov := y.winGov, swr := y.swr }
  role : (y.role r).Kept (x.role r)

/-- Pushes change the token counts only. -/
theorem Ctx.push_eq (x : Ctx) (r : Role) (t : BitVec 4) : ∃ l, (x.push r t).1 = { x with toks := l } := by
  unfold Ctx.push
  have : ∀ (l : List (Nat × Nat)) (p : Ctx × BitVec 4), (∃ k, p.1 = { x with toks := k }) →
      ∃ k, (l.foldl (fun (p : Ctx × BitVec 4) (e : Nat × Nat) =>
        if p.1.tok e.2 < 8 then (p.1.setTok e.2 (p.1.tok e.2 + 1), p.2 &&& ~~~(1#4 <<< e.1)) else p) p).1 = { x with toks := k } := by
    intro l
    induction l with
    | nil => exact fun p h => h
    | cons a l ih =>
      rintro p ⟨k, h⟩
      rw [List.foldl_cons]
      apply ih
      split
      · exact ⟨_, by rw [h]; rfl⟩
      · exact ⟨k, h⟩
  exact this _ _ ⟨_, rfl⟩

/-- A role that does not wait begins to. -/
theorem waitOn_new (s : State) (w : Who) (x : Ctx) (k : Wait) (h : s.ctx w.c = some x) (hk : (x.role w.r).wait = none) :
    s.waitOn w k = s.setCtx w.c (x.setRole w.r
      { x.role w.r with wait := some k, seen := if k.deadlock then x.shared else [] }) := by
  simp only [State.waitOn, h]
  rw [if_neg (by simp [hk]), State.modRole_eq _ _ _ _ h]

theorem commit_kept (x : Ctx) (r : Role) (t : Rest) : (x.commit r t).Kept x r := by
  unfold Ctx.commit
  by_cases h : r = .c ∧ t.aAt.isSome
  · simp only [h, and_self, if_true]
    obtain ⟨rfl, _⟩ := h
    exact ⟨rfl, ⟨rfl, rfl, rfl, rfl, rfl, rfl, rfl, rfl⟩⟩
  · simp only [if_neg h]
    constructor
    · cases r <;> rfl
    · cases r <;> exact ⟨rfl, rfl, rfl, rfl, rfl, rfl, rfl, rfl⟩

/-- A committed role does not wait. -/
theorem commit_wait (x : Ctx) (r : Role) (t : Rest) : ((x.commit r t).role r).wait = none := by
  unfold Ctx.commit
  by_cases h : r = .c ∧ t.aAt.isSome
  · simp only [h, and_self, if_true]
    obtain ⟨rfl, _⟩ := h
    rfl
  · simp only [if_neg h]; cases r <;> rfl

theorem setRole_kept (x y : Ctx) (r : Role) (v : RoleSt) (h : v.Kept (y.role r)) (hy : y.Kept x r) : (y.setRole r v).Kept x r := by
  have hr := hy.role
  constructor
  · have := hy.eq
    rw [this]
    cases r <;> rfl
  · rw [Ctx.role_setRole]
    exact ⟨h.sregs.trans hr.sregs, h.preds.trans hr.preds, h.loops.trans hr.loops, h.ret.trans hr.ret, h.flg.trans hr.flg,
      h.halted.trans hr.halted, h.active.trans hr.active, h.dbgHalt.trans hr.dbgHalt⟩

theorem Ctx.Kept.refl (x : Ctx) (r : Role) : x.Kept x r := ⟨by cases r <;> rfl, RoleSt.Kept.refl _⟩

theorem Ctx.Kept.trans {z y x : Ctx} {r : Role} (h : z.Kept y r) (g : y.Kept x r) : z.Kept x r := by
  have hr := h.role
  have gr := g.role
  constructor
  · rw [h.eq, g.eq]
    cases r <;> rfl
  · exact ⟨hr.sregs.trans gr.sregs, hr.preds.trans gr.preds, hr.loops.trans gr.loops, hr.ret.trans gr.ret, hr.flg.trans gr.flg,
      hr.halted.trans gr.halted, hr.active.trans gr.active, hr.dbgHalt.trans gr.dbgHalt⟩

theorem toks_kept (x : Ctx) (r : Role) (l : Vector Nat 4) : Ctx.Kept { x with toks := l } x r := by
  cases r <;> exact ⟨rfl, RoleSt.Kept.refl _⟩

/-- Retiring changes one context, and of it the role's bookkeeping, the token counts and the WIN in force only. -/
theorem retire_kept (s : State) (w : Who) (x : Ctx) (t : Rest) (h : s.ctx w.c = some x) :
    ∃ y, s.retire w t = s.setCtx w.c y ∧ y.Kept x w.r := by
  have hv : ∀ (y : Ctx) (k : Wait) (s1 : State), (y.role w.r).wait = none → s1 = s.setCtx w.c y → y.Kept x w.r →
      ∃ z, s1.waitOn w k = s.setCtx w.c z ∧ z.Kept x w.r := by
    intro y k s1 hw hs hy
    subst hs
    refine ⟨y.setRole w.r { y.role w.r with wait := some k, seen := if k.deadlock then y.shared else [] }, ?_, ?_⟩
    · rw [waitOn_new _ _ y _ (State.ctx_setCtx _ _ _) hw, State.setCtx_setCtx]
    · exact setRole_kept x y w.r _ ⟨rfl, rfl, rfl, rfl, rfl, rfl, rfl, rfl⟩ hy
  unfold State.retire
  rw [State.modRole_eq _ _ _ _ h]
  generalize hx1 : x.setRole w.r { x.role w.r with rest := some t, wait := none } = x1
  have k1 : x1.Kept x w.r := by
    rw [← hx1]; exact setRole_kept x x w.r _ ⟨rfl, rfl, rfl, rfl, rfl, rfl, rfl, rfl⟩ (Ctx.Kept.refl _ _)
  have r1 : x1.role w.r = { x.role w.r with rest := some t, wait := none } := by rw [← hx1]; simp
  have w1 : (x1.role w.r).wait = none := by rw [r1]
  simp only [State.finishRest, State.ctx_setCtx, r1]
  split
  · exact hv x1 _ _ w1 rfl k1
  · split
    · exact hv x1 _ _ w1 rfl k1
    · generalize hp : (if (!(tokPushes w.r t.push).isEmpty) = true then x1.push w.r t.push else (x1, t.push)) = p
      have hk : p.1.Kept x w.r ∧ (p.1.role w.r).wait = none := by
        rw [← hp]
        split
        · obtain ⟨l, hl⟩ := Ctx.push_eq x1 w.r t.push
          rw [hl]
          exact ⟨(toks_kept x1 w.r _).trans k1, by cases hr : w.r <;> rw [hr] at w1 <;> exact w1⟩
        · exact ⟨k1, w1⟩
      have k2 : (p.1.setRole w.r { p.1.role w.r with rest := some { t with push := p.2, flight := none } }).Kept x w.r :=
        setRole_kept x p.1 w.r _ ⟨rfl, rfl, rfl, rfl, rfl, rfl, rfl, rfl⟩ hk.1
      have w2 : ((p.1.setRole w.r { p.1.role w.r with rest := some { t with push := p.2, flight := none } }).role w.r).wait = none := by
        rw [Ctx.role_setRole]; exact hk.2
      simp only [State.setCtx_setCtx]
      split
      · exact hv _ _ _ w2 rfl k2
      · have fin : ∃ z, s.setCtx w.c ((p.1.setRole w.r { p.1.role w.r with
            rest := some { t with push := p.2, flight := none } }).commit w.r { t with push := p.2, flight := none }) =
            s.setCtx w.c z ∧ z.Kept x w.r := ⟨_, rfl, (commit_kept _ _ _).trans k2⟩
        split
        · split
          · exact hv _ _ _ w2 rfl k2
          · exact fin
        · exact fin

/-- Pushes that have room are all made. -/
theorem push_all (x : Ctx) (r : Role) (t : BitVec 4) (h : ∀ q ∈ tokPushes r t, x.tok q.2 < 8) :
    tokPushes r (x.push r t).2 = [] := by
  have h2 : ∀ n, (x.setTok 1 n).tok 2 = x.tok 2 := fun n => by simp [Ctx.tok, Ctx.setTok]
  have hb : ∀ (t : BitVec 4) (i j : Fin 3), bitAt (t &&& ~~~(1#4 <<< i.val)) j.val = (bitAt t j.val && i != j) := by decide
  have e1 := fun t => hb t 1 1
  have e2 := fun t => hb t 2 2
  have e3 := fun t => hb t 1 2
  have e4 := fun t => hb t 2 1
  simp only [Fin.val_one, Fin.val_two] at e1 e2 e3 e4
  cases r <;> cases h1 : bitAt t 2 <;> cases h3 : bitAt t 1 <;>
    simp_all [Ctx.push, tokPushes]

/-- What holds a section's entry is read from the other roles and from the role's own entries. -/
theorem sectionHeld_eq (t : List Section) (x y : Ctx) (r : Role) (m : Nat) (h : ∀ q, q ≠ r → y.role q = x.role q)
    (he : (y.role r).entries = (x.role r).entries) : sectionHeld t y r m = sectionHeld t x r m := by
  unfold sectionHeld
  split
  · rfl
  · congr 1
    funext ⟨q, n⟩
    by_cases hq : q = r
    · simp [hq]
    · simp only [h q hq, he]

/-- An instruction whose retirement waits for nothing commits at once. -/
theorem retire_commits (s : State) (w : Who) (x : Ctx) (t : Rest) (h : s.ctx w.c = some x) (hf : t.flight = none)
    (hr : retireWait (s.core w.c.cid) (s.textOf x) x w t = none) :
    ∃ y, s.retire w t = s.setCtx w.c y ∧ y.Kept x w.r ∧ (y.role w.r).wait = none := by
  unfold State.retire
  rw [State.modRole_eq _ _ _ _ h]
  generalize hx1 : x.setRole w.r { x.role w.r with rest := some t, wait := none } = x1
  have k1 : x1.Kept x w.r := by
    rw [← hx1]; exact setRole_kept x x w.r _ ⟨rfl, rfl, rfl, rfl, rfl, rfl, rfl, rfl⟩ (Ctx.Kept.refl _ _)
  have r1 : (x1.role w.r).rest = some t := by rw [← hx1]; simp
  have o1 : ∀ q, q ≠ w.r → x1.role q = x.role q := by
    intro q hq; rw [← hx1]; exact Ctx.role_setRole_other _ _ _ _ hq
  have e1 : (x1.role w.r).entries = (x.role w.r).entries := by rw [← hx1]; simp
  have d1 : lDrained (s.core w.c.cid) x1 w = lDrained (s.core w.c.cid) x w := by rw [← hx1]; cases w.r <;> rfl
  have t1 : ∀ q, x1.tok q = x.tok q := by intro q; rw [← hx1]; cases w.r <;> rfl
  have u1 : s.textOf x1 = s.textOf x := by rw [← hx1]; cases w.r <;> rfl
  simp only [retireWait] at hr
  split at hr
  · simp at hr
  · rename_i hd
    split at hr
    · simp at hr
    · rename_i ha
      have hall : ∀ q ∈ tokPushes w.r t.push, x1.tok q.2 < 8 := by
        intro q hq; rw [t1]; simp at ha; exact ha q.1 q.2 hq
      generalize hp : (if (!(tokPushes w.r t.push).isEmpty) = true then x1.push w.r t.push else (x1, t.push)) = p
      have hk : (∃ l, p.1 = { x1 with toks := l }) ∧ tokPushes w.r p.2 = [] := by
        rw [← hp]
        split
        · exact ⟨Ctx.push_eq x1 w.r t.push, push_all x1 w.r t.push hall⟩
        · rename_i hn
          exact ⟨⟨x1.toks, rfl⟩, by simpa using hn⟩
      obtain ⟨⟨l, hl⟩, hn⟩ := hk
      have kp : p.1.Kept x w.r := by rw [hl]; exact (toks_kept x1 w.r l).trans k1
      have op : ∀ q, p.1.role q = x1.role q := by intro q; rw [hl]; cases q <;> rfl
      have k2 : (p.1.setRole w.r { p.1.role w.r with rest := some { t with push := p.2, flight := none } }).Kept x w.r :=
        setRole_kept x p.1 w.r _ ⟨rfl, rfl, rfl, rfl, rfl, rfl, rfl, rfl⟩ kp
      have fin : ∀ u : Rest, ∃ z, (s.setCtx w.c x1).setCtx w.c ((p.1.setRole w.r { p.1.role w.r with
          rest := some { t with push := p.2, flight := none } }).commit w.r u) = s.setCtx w.c z ∧ z.Kept x w.r ∧
          (z.role w.r).wait = none := by
        intro u
        exact ⟨_, State.setCtx_setCtx _ _ _ _, (commit_kept _ _ _).trans k2, commit_wait _ _ _⟩
      simp only [State.finishRest, State.ctx_setCtx, r1, hp, show ∀ n, (s.setCtx w.c x1).core n = s.core n from fun _ => rfl, d1, hf]
      rw [if_neg (by simp [awaits]), if_neg (by simpa using hd)]
      simp only [hn, List.isEmpty_nil, Bool.not_true, Bool.false_eq_true, if_false, State.setCtx_setCtx] at fin ⊢
      split
      · rename_i m hm
        rw [hm] at hr
        rw [if_neg]
        · exact fin _
        · have hs : sectionHeld (s.textOf x) x w.r m = false := by
            cases hh : sectionHeld (s.textOf x) x w.r m
            · rfl
            · simp [hh] at hr
          rw [show (s.setCtx w.c x1).textOf x1 = s.textOf x from u1, sectionHeld_eq _ x _ _ _ _ _, hs]
          · simp
          · intro q hq; rw [Ctx.role_setRole_other _ _ _ _ hq, op, o1 q hq]
          · rw [Ctx.role_setRole]; show (p.1.role w.r).entries = _; rw [op, e1]
      · exact fin _

theorem popToks_kept (x : Ctx) (r : Role) (l : List Nat) : (x.popToks l).Kept x r := by
  induction l generalizing x with
  | nil => exact Ctx.Kept.refl x r
  | cons a l ih => exact (ih _).trans (toks_kept x r _)

/-- Token pops change one context, as retirement does. -/
theorem popped_kept (f : Frame) (w : Who) (x : Ctx) : (f.popped w x).Kept x w.r := by
  unfold Frame.popped
  simp only []
  split
  · exact Ctx.Kept.refl x w.r
  · refine setRole_kept _ _ _ _ ⟨rfl, rfl, rfl, rfl, rfl, rfl, rfl, rfl⟩ ?_
    split
    · exact Ctx.Kept.refl x w.r
    · exact popToks_kept x w.r _

theorem Ctx.Kept.dbgen {y x : Ctx} {r : Role} (h : y.Kept x r) : y.dbgen = x.dbgen := by
  rw [h.eq]; cases r <;> rfl

theorem Ctx.Kept.state {y x : Ctx} {r : Role} (h : y.Kept x r) : y.state = x.state := by
  rw [h.eq]; cases r <;> rfl

/-- Pops leave the text. -/
@[simp] theorem popped_textOf (f : Frame) (s : State) (w : Who) (x : Ctx) (h : s.ctx w.c = some x) :
    (s.popped f w x).textOf (f.popped w x) = s.textOf x := by
  have hk : (f.popped w x).kernel = x.kernel := by rw [(popped_kept f w x).eq]; cases w.r <;> rfl
  unfold State.popped
  split
  · simp only [State.textOf, hk]
  · split
    · simp only [State.textOf, hk]; rfl
    · rw [State.acquire_core]; simp only [State.textOf, hk]; rfl

/-- A trap raised after the effect of a context that runs on. -/
theorem Issues.trap {i : Instr} {f : Frame} {e : Effect} {s : State} {w : Who} {x : Ctx} {dest : Pos} {c code : Nat}
    (h : Issues i f s w x) (g : Falls f s w x dest) (ht : f.try_ = none) (hw : f.whole = true) (hr : x.state = .run)
    (he : e w (f.popped w x) (s.popped f w x) = .trap c code (s.popped f w x)) :
    runWord i f e s = .next ((f.finish w (x.role w.r).pc dest none (s.popped f w x)).deliver w.c (Role.code w.r) c code 0 true) := by
  rw [h.runWord_eq, he]
  have hp := popped_ctx f s w x h.ctx
  obtain ⟨y, hy, ky, wy⟩ := retire_commits (s.popped f w x) w _ (restOf f.tok none (x.role w.r).pc dest false false f.isA)
    hp rfl (by
      have := g.room hw
      simp only [Frame.kept, ht, Option.isSome_none, Bool.false_eq_true, if_false] at this
      rw [popped_textOf f s w x h.ctx]; exact this)
  simp only [runTail, if_neg h.not_diverges, kept_eq, retireNext, g.next]
  rw [g.count]
  simp only [Bool.false_eq_true, if_false, retireAs_eq h.ctx g.room, hy, State.ctx_setCtx, Frame.finish, Frame.tried, ht]
  rw [ky.state, (popped_kept _ _ _).state, hr, wy]
  simp

end Sys2Proof.Machine
end

