-- ==== Sys2Proof/Tests/Slice0.lean ====
section
/-! SUPPORT. Tests of the model, each on a small state, with expected results from the spec's words; and for each statement of
Obligations.lean that has hypotheses, states and operands that meet them. -/

set_option Elab.async false

namespace Sys2Proof.Tests

open Sys2Proof Sys2Proof.Machine

/-! ## Small states -/

def c0 : CtxId := ⟨0, 0⟩
def wL : Who := ⟨c0, .l⟩
def wC : Who := ⟨c0, .c⟩
def wS : Who := ⟨c0, .s⟩

/-- A context of the kernel with the budgets that most tests need. -/
def x0 : Ctx := { kernel := 0, abud := 4096, wbud := 4096, zbud := 4096 }
/-- One context on CID 0 of a live die, of a kernel with one code section of four words, its role `r` about to move. Partition 0
maps its first GiB at physical 0, writable, and the core's cache holds the leaf; group 1 has a replica window of 4 KiB, port 0 is up
and its host window has 4 KiB. -/
def st (r : Role) (x : Ctx) : State :=
  { State.reset with
    turn := .role c0 r, ctxs := [(c0, x)], kernels := [fetchKernel 0 0], dies := [(0, { live := true })]
    cores := [(0, { tcache := [⟨0, 0, 0x40000000, 0, true, false⟩] })]
    parts := [(0, { valid := true, plen := 0x80000000 })], hbm := [(0, 1), (1, 0x10), (0x1000, 7)]
    fab := { groups := [{ gid := 1, wlog := 12, memb := 1, part := 0, va := 0x100000, pages := [⟨0x100000, 0x100000, 65536, true⟩],
                          seqSwitch := 0, applied := 5 }]
             routes := [⟨0, true, 0, []⟩, ⟨9, true, 0, []⟩] }
    liveStacks := [0]
    host := { State.reset.host with step := 6, link0 := true, wins := [((0, 0), { len := 4096 })] } }

/-- The state that an outcome goes on with. -/
def next (o : Host.Outcome State Fault Refusal) : State :=
  match o with
  | .next s => s
  | _ => State.reset
/-- Its context on CID 0. -/
def ctxOf (o : Host.Outcome State Fault Refusal) : Ctx := ((next o).ctx c0).getD { kernel := 99 }

/-- What `Issues` asks beside the turn and the context, as a computation. -/
def issuesB (i : Instr) (f : Frame) (s : State) (w : Who) (x : Ctx) : Bool :=
  (f.role.toNat == Role.code w.r || f.isA) && (decodeFault i f.priv f.codes x).isNone &&
    (!f.isA || ((x.role w.r).ret.isEmpty && !slipHeld x w.r && !diverges x w.r)) &&
    ((x.role w.r).popped || (tokPops w.r f.tok).all (fun q => x.tok q != 0)) &&
    (f.try_.isNone || !pushHeld (s.core w.c.cid) x w f.tok) && guardOn (x.role w.r) f.guard &&
    !busy x w.r f.codes
/-- `canRetire`, as a computation. -/
def roomB (f : Frame) (s : State) (w : Who) (x : Ctx) (e : Rest) : Bool :=
  !f.whole || (retireWait ((f.kept w x s).core w.c.cid) (s.textOf x) (if f.try_.isSome then x else f.popped w x) w e).isNone
theorem room_of {f s w x e} (h : roomB f s w x e = true) : canRetire f s w x e := by
  intro hf
  rw [roomB, hf] at h
  exact Option.isNone_iff_eq_none.1 h
def fallsB (f : Frame) (s : State) (w : Who) (x : Ctx) (dest : Pos) : Bool :=
  decide (fallThrough (s.textOf x) (x.role w.r).pc = some dest) &&
    roomB f s w x (restOf f.tok none (x.role w.r).pc dest false false f.isA) &&
    !countFull (x.role w.r) (restOf f.tok none (x.role w.r).pc dest false false f.isA).enter
      (restOf f.tok none (x.role w.r).pc dest false false f.isA).exit

theorem issues_of {i f s w x} (ht : s.turn = .role w.c w.r) (hc : s.ctx w.c = some x) (h : issuesB i f s w x = true) :
    Issues i f s w x := by
  simp only [issuesB, Bool.and_eq_true, Bool.or_eq_true, Bool.not_eq_true', beq_iff_eq] at h
  obtain ⟨⟨⟨⟨⟨⟨h1, h2⟩, h3⟩, h4⟩, h5⟩, h6⟩, h7⟩ := h
  refine ⟨ht, hc, h1, by simpa using h2, ?_, ?_, ?_, h6, h7⟩
  · intro ha
    rcases h3 with h3 | h3
    · rw [ha] at h3; cases h3
    · exact ⟨by simpa using h3.1.1, h3.1.2, h3.2⟩
  · rcases h4 with h4 | h4
    · exact .inl h4
    · exact .inr (by simpa using h4)
  · intro hs
    rcases h5 with h5 | h5
    · cases ht : f.try_ <;> rw [ht] at h5 hs <;> simp at h5 hs
    · simpa using h5

theorem falls_of {f s w x dest} (h : fallsB f s w x dest = true) : Falls f s w x dest := by
  simp only [fallsB, Bool.and_eq_true, decide_eq_true_eq, Bool.not_eq_true'] at h
  exact ⟨h.1.1, room_of h.1.2, h.2⟩

/-- Some state and role issue `i`, which falls through, and meet `pre`: the hypotheses of `Starts`. -/
def MeetsS (i : Instr) (f : Frame) (pre : Who → Ctx → State → Prop) : Prop :=
  ∃ s w x dest, Issues i f s w x ∧ Falls f s w x dest ∧ pre w (f.popped w x) (s.popped f w x)
theorem meetsS {i f pre} (s : State) (w : Who) (x : Ctx) (ht : s.turn = .role w.c w.r) (hc : s.ctx w.c = some x)
    (h : (issuesB i f s w x && fallsB f s w x ⟨0, 1⟩) = true) (hp : pre w (f.popped w x) (s.popped f w x)) : MeetsS i f pre := by
  rw [Bool.and_eq_true] at h
  exact ⟨s, w, x, _, issues_of ht hc h.1, falls_of h.2, hp⟩
/-- And the effect `eff` has no access to wait for: the hypotheses of `Completes`. -/
def Meets (i : Instr) (f : Frame) (pre : Who → Ctx → State → Prop) (eff : Who → Ctx → State → State) : Prop :=
  ∃ s w x dest, Issues i f s w x ∧ Falls f s w x dest ∧ pre w (f.popped w x) (s.popped f w x) ∧
    (eff w (f.popped w x) (s.popped f w x)).calm w.c.cid
theorem meets {i f pre eff} (s : State) (w : Who) (x : Ctx) (ht : s.turn = .role w.c w.r) (hc : s.ctx w.c = some x)
    (h : (issuesB i f s w x && fallsB f s w x ⟨0, 1⟩) = true) (hp : pre w (f.popped w x) (s.popped f w x))
    (hk : ((eff w (f.popped w x) (s.popped f w x)).core w.c.cid).applying = false := by decide +kernel) : Meets i f pre eff := by
  rw [Bool.and_eq_true] at h
  exact ⟨s, w, x, _, issues_of ht hc h.1, falls_of h.2, hp, hk⟩
/-- The hypotheses of `Answers` and `Raises`. -/
def MeetsA (i : Instr) (f : Frame) (pre : Who → Ctx → State → Prop) : Prop :=
  ∃ s w x, Issues i f s w x ∧ pre w (f.popped w x) (s.popped f w x)
theorem meetsA {i f pre} (s : State) (w : Who) (x : Ctx) (ht : s.turn = .role w.c w.r) (hc : s.ctx w.c = some x)
    (h : issuesB i f s w x = true) (hp : pre w (f.popped w x) (s.popped f w x)) : MeetsA i f pre :=
  ⟨s, w, x, issues_of ht hc h, hp⟩
/-- The hypotheses of `Jumps`. -/
def MeetsJ (i : Instr) (f : Frame) (call ret : Bool) (pre : Who → Ctx → State → Prop) (dest : Who → Ctx → State → Pos) : Prop :=
  ∃ s w x, Issues i f s w x ∧ pre w (f.popped w x) (s.popped f w x) ∧
    Lands f s w x (dest w (f.popped w x) (s.popped f w x)) call ret
def landsB (f : Frame) (s : State) (w : Who) (x : Ctx) (dest : Pos) (call ret : Bool) : Bool :=
  roomB f s w x (restOf f.tok none (x.role w.r).pc dest call ret f.isA) &&
    decide (intervalOf (s.textOf x) dest = intervalOf (s.textOf x) (x.role w.r).pc) && isCode (s.textOf x) dest.sec &&
    !countFull (x.role w.r) (restOf f.tok none (x.role w.r).pc dest call ret f.isA).enter
      (restOf f.tok none (x.role w.r).pc dest call ret f.isA).exit
theorem meetsJ {i f call ret pre dest} (s : State) (w : Who) (x : Ctx) (ht : s.turn = .role w.c w.r) (hc : s.ctx w.c = some x)
    (h : (issuesB i f s w x && landsB f s w x (dest w (f.popped w x) (s.popped f w x)) call ret) = true)
    (hp : pre w (f.popped w x) (s.popped f w x)) : MeetsJ i f call ret pre dest := by
  rw [Bool.and_eq_true] at h
  have h2 := h.2
  simp only [landsB, Bool.and_eq_true, decide_eq_true_eq, Bool.not_eq_true'] at h2
  exact ⟨s, w, x, issues_of ht hc h.1, hp, room_of h2.1.1.1, fun _ => h2.1.1.2, h2.1.2, h2.2⟩

/-! ## Witnesses: the hypotheses of the statements -/

def vS : WordS := ⟨0, 0, 0, 0, 0, 0, 0, 0⟩
def vV : WordV := ⟨0, 0, 0, 0, 0, 0, 0, 0, 0, 0, 0, 0, 0, 0⟩
def vM : WordM := ⟨0, 0, 0, 0, 0, 0, 0, 0, 0, 0, 0⟩
def vB : WordB := ⟨0, 0, 0, 0, 0, 0, 0, 0, 0⟩
def vX : WordX := ⟨0, 0, 0, 0, 0, 0, 0⟩

def isOk {ε α} [DecidableEq α] (x : Except ε α) (a : α) : Bool :=
  match x with
  | .ok b => decide (b = a)
  | _ => false
theorem ok_of {ε α} [DecidableEq α] {x : Except ε α} {a : α} (h : isOk x a = true) : x = .ok a := by
  unfold isOk at h; split at h <;> simp_all
def isErr {ε α} [DecidableEq ε] (x : Except ε α) (a : ε) : Bool :=
  match x with
  | .error b => decide (b = a)
  | _ => false
theorem err_of {ε α} [DecidableEq ε] {x : Except ε α} {a : ε} (h : isErr x a = true) : x = .error a := by
  unfold isErr at h; split at h <;> simp_all
theorem obj_of {s w x v n c y o}
    (h : (match object s w x v n with
      | .ok d z p => decide (d = c) && decide (z = y) && decide (p = o)
      | .stop _ => false) = true) : object s w x v n = .ok c y o := by
  split at h
  · next e => simp only [Bool.and_eq_true, decide_eq_true_eq] at h; rw [e, h.1.1, h.1.2, h.2]
  · cases h
theorem metS {i f pre} [∀ w x s, Decidable (pre w x s)] (s : State) (w : Who) (x : Ctx)
    (h : (issuesB i f s w x && fallsB f s w x ⟨0, 1⟩ && decide (pre w (f.popped w x) (s.popped f w x))) = true := by decide +kernel)
    (ht : s.turn = .role w.c w.r := by rfl) (hc : s.ctx w.c = some x := by rfl) : MeetsS i f pre := by
  rw [Bool.and_eq_true, decide_eq_true_eq] at h
  exact meetsS s w x ht hc h.1 h.2
theorem met {i f pre eff} [∀ w x s, Decidable (pre w x s)] (s : State) (w : Who) (x : Ctx)
    (h : (issuesB i f s w x && fallsB f s w x ⟨0, 1⟩ && decide (pre w (f.popped w x) (s.popped f w x))) = true := by decide +kernel)
    (hk : ((eff w (f.popped w x) (s.popped f w x)).core w.c.cid).applying = false := by decide +kernel)
    (ht : s.turn = .role w.c w.r := by rfl) (hc : s.ctx w.c = some x := by rfl) : Meets i f pre eff := by
  rw [Bool.and_eq_true, decide_eq_true_eq] at h
  exact meets s w x ht hc h.1 h.2 hk
theorem metA {i f pre} [∀ w x s, Decidable (pre w x s)] (s : State) (w : Who) (x : Ctx)
    (h : (issuesB i f s w x && decide (pre w (f.popped w x) (s.popped f w x))) = true := by decide +kernel)
    (ht : s.turn = .role w.c w.r := by rfl) (hc : s.ctx w.c = some x := by rfl) : MeetsA i f pre := by
  rw [Bool.and_eq_true, decide_eq_true_eq] at h
  exact meetsA s w x ht hc h.1 h.2
theorem metJ {i f call ret pre dest} [∀ w x s, Decidable (pre w x s)] (s : State) (w : Who) (x : Ctx)
    (h : (issuesB i f s w x && landsB f s w x (dest w (f.popped w x) (s.popped f w x)) call ret &&
      decide (pre w (f.popped w x) (s.popped f w x))) = true := by decide +kernel)
    (ht : s.turn = .role w.c w.r := by rfl) (hc : s.ctx w.c = some x := by rfl) : MeetsJ i f call ret pre dest := by
  rw [Bool.and_eq_true, decide_eq_true_eq] at h
  exact meetsJ s w x ht hc h.1 h.2
/-- With no condition. -/
theorem plain {i f eff} (r : Role) (x : Ctx)
    (h : (issuesB i f (st r x) ⟨c0, r⟩ x && fallsB f (st r x) ⟨c0, r⟩ x ⟨0, 1⟩) = true := by decide +kernel)
    (hk : ((eff ⟨c0, r⟩ (f.popped ⟨c0, r⟩ x) ((st r x).popped f ⟨c0, r⟩ x)).core 0).applying = false := by decide +kernel) :
    Meets i f anyCtx eff := meets (st r x) ⟨c0, r⟩ x rfl rfl h trivial hk
/-- Its transfer with no condition. -/
theorem plainJ {i f call ret dest} (r : Role) (x : Ctx)
    (h : (issuesB i f (st r x) ⟨c0, r⟩ x && landsB f (st r x) ⟨c0, r⟩ x (dest ⟨c0, r⟩ (f.popped ⟨c0, r⟩ x) ((st r x).popped f ⟨c0, r⟩ x)) call
      ret) = true := by decide +kernel) : MeetsJ i f call ret anyCtx dest := meetsJ (st r x) ⟨c0, r⟩ x rfl rfl h trivial
/-- Some state meets the hypotheses of a `Performs`. -/
def MeetsP (pre : State → Prop) : Prop := ∃ s, pre s
/-- Some Sett core moves and meets those of a `Setts`, `SettJumps` or `SettTraps`. -/
def MeetsT (pre : Nat → Nat → Sett → State → Prop) : Prop :=
  ∃ (s u : State), ∃ d k t, s.turn = .sett d k ∧ u = s.stepped d k ∧ t = u.settCore d k ∧ pre d k t u
theorem metP {pre : State → Prop} (s : State) (h : pre s) : MeetsP pre := ⟨s, h⟩
theorem metPd {pre : State → Prop} [∀ s, Decidable (pre s)] (s : State) (h : decide (pre s) = true := by decide +kernel) : MeetsP pre :=
  ⟨s, of_decide_eq_true h⟩
theorem some_ex {α} {o : Option α} (h : o.isSome = true) : ∃ a, o = some a := Option.isSome_iff_exists.mp h

/-! ## Decoding: each constructor from a word laid out by R76, R81 to R85 with the opcode of R87 -/

def sv : WordS := ⟨1, 6, 5, 34, 62, 19, 0x0A5, 0x123456789ABC⟩
def bv : WordB := ⟨1, 6, 51, 0xABC, 19, 0x103, 0x7E, 0x1234, 0x56789A⟩
def vv : WordV := ⟨1, 6, 5, 34, 62, 19, 7, 9, 1, 0, 1, 10, 3, 0x2DEADBEEF⟩
def mv : WordM := ⟨1, 6, 5, 34, 62, 19, 4, 3, 2, 1, 0x123456789ABC⟩
def xv : WordX := ⟨1, 6, 5, 34, 62, 19, 0x123456789ABCDEF⟩

theorem test_decode_scalar_1 :
    decodeWord 0x5800162FA6A5123456789ABC#96 = .nop sv ∧
    decodeWord 0x5801162FA6A5123456789ABC#96 = .halt sv ∧
    decodeWord 0x5802162FA6A5123456789ABC#96 = .qpt sv ∧
    decodeWord 0x5803CEAF27037E123456789A#96 = .br bv ∧
    decodeWord 0x5804CEAF27037E123456789A#96 = .brp bv ∧
    decodeWord 0x5805CEAF27037E123456789A#96 = .call bv ∧
    decodeWord 0x5806162FA6A5123456789ABC#96 = .ret sv ∧
    decodeWord 0x5807CEAF27037E123456789A#96 = .loop bv ∧
    decodeWord 0x5808CEAF27037E123456789A#96 = .next bv ∧
    decodeWord 0x5809162FA6A5123456789ABC#96 = .bqs sv ∧
    decodeWord 0x580A162FA6A5123456789ABC#96 = .bqr sv ∧
    decodeWord 0x580B162FA6A5123456789ABC#96 = .waitc sv ∧
    decodeWord 0x580C162FA6A5123456789ABC#96 = .yld sv ∧
    decodeWord 0x580D162FA6A5123456789ABC#96 = .trap sv ∧
    decodeWord 0x580E162FA6A5123456789ABC#96 = .bkpt sv ∧
    decodeWord 0x580F162FA6A5123456789ABC#96 = .ldp sv ∧
    decodeWord 0x5810162FA6A5123456789ABC#96 = .add sv ∧
    decodeWord 0x5811162FA6A5123456789ABC#96 = .sub sv ∧
    decodeWord 0x5812162FA6A5123456789ABC#96 = .mul sv ∧
    decodeWord 0x5813162FA6A5123456789ABC#96 = .mulh sv :=
  ⟨rfl, rfl, rfl, rfl, rfl, rfl, rfl, rfl, rfl, rfl, rfl, rfl, rfl, rfl, rfl, rfl, rfl, rfl, rfl, rfl⟩

theorem test_decode_scalar_2 :
    decodeWord 0x5814162FA6A5123456789ABC#96 = .mulhn sv ∧
    decodeWord 0x5815162FA6A5123456789ABC#96 = .div sv ∧
    decodeWord 0x5816162FA6A5123456789ABC#96 = .divn sv ∧
    decodeWord 0x5817162FA6A5123456789ABC#96 = .rem sv ∧
    decodeWord 0x5818162FA6A5123456789ABC#96 = .remn sv ∧
    decodeWord 0x5819162FA6A5123456789ABC#96 = .and sv ∧
    decodeWord 0x581A162FA6A5123456789ABC#96 = .or sv ∧
    decodeWord 0x581B162FA6A5123456789ABC#96 = .xor sv ∧
    decodeWord 0x581C162FA6A5123456789ABC#96 = .andn sv ∧
    decodeWord 0x581D162FA6A5123456789ABC#96 = .orn sv ∧
    decodeWord 0x581E162FA6A5123456789ABC#96 = .shl sv ∧
    decodeWord 0x581F162FA6A5123456789ABC#96 = .shr sv ∧
    decodeWord 0x5820162FA6A5123456789ABC#96 = .sra sv ∧
    decodeWord 0x5821162FA6A5123456789ABC#96 = .rotl sv ∧
    decodeWord 0x5822162FA6A5123456789ABC#96 = .min sv ∧
    decodeWord 0x5823162FA6A5123456789ABC#96 = .max sv ∧
    decodeWord 0x5824162FA6A5123456789ABC#96 = .minn sv ∧
    decodeWord 0x5825162FA6A5123456789ABC#96 = .maxn sv ∧
    decodeWord 0x5826162FA6A5123456789ABC#96 = .clz sv ∧
    decodeWord 0x5827162FA6A5123456789ABC#96 = .ctz sv :=
  ⟨rfl, rfl, rfl, rfl, rfl, rfl, rfl, rfl, rfl, rfl, rfl, rfl, rfl, rfl, rfl, rfl, rfl, rfl, rfl, rfl⟩

theorem test_decode_scalar_3 :
    decodeWord 0x5828162FA6A5123456789ABC#96 = .popc sv ∧
    decodeWord 0x5829162FA6A5123456789ABC#96 = .brev sv ∧
    decodeWord 0x582A162FA6A5123456789ABC#96 = .bswap sv ∧
    decodeWord 0x582B162FA6A5123456789ABC#96 = .sext sv ∧
    decodeWord 0x582C162FA6A5123456789ABC#96 = .zext sv ∧
    decodeWord 0x582D162FA6A5123456789ABC#96 = .bfx sv ∧
    decodeWord 0x582E162FA6A5123456789ABC#96 = .bfi sv ∧
    decodeWord 0x582F162FA6A5123456789ABC#96 = .sel sv ∧
    decodeWord 0x5830162FA6A5123456789ABC#96 = .lim sv ∧
    decodeWord 0x5831162FA6A5123456789ABC#96 = .limh sv ∧
    decodeWord 0x5832162FA6A5123456789ABC#96 = .lea sv ∧
    decodeWord 0x5833162FA6A5123456789ABC#96 = .cmp sv ∧
    decodeWord 0x5834162FA6A5123456789ABC#96 = .plog sv ∧
    decodeWord 0x5835162FA6A5123456789ABC#96 = .pmov sv ∧
    decodeWord 0x5836162FA6A5123456789ABC#96 = .mfs sv ∧
    decodeWord 0x5837162FA6A5123456789ABC#96 = .mts sv :=
  ⟨rfl, rfl, rfl, rfl, rfl, rfl, rfl, rfl, rfl, rfl, rfl, rfl, rfl, rfl, rfl, rfl⟩

theorem test_decode_vector_1 :
    decodeWord 0x5900162FA639354EDEADBEEF#96 = .vadd vv ∧
    decodeWord 0x5901162FA639354EDEADBEEF#96 = .vsub vv ∧
    decodeWord 0x5902162FA639354EDEADBEEF#96 = .vmul vv ∧
    decodeWord 0x5903162FA639354EDEADBEEF#96 = .vfma vv ∧
    decodeWord 0x5904162FA639354EDEADBEEF#96 = .vfms vv ∧
    decodeWord 0x5905162FA639354EDEADBEEF#96 = .vfnma vv ∧
    decodeWord 0x5906162FA639354EDEADBEEF#96 = .vmin vv ∧
    decodeWord 0x5907162FA639354EDEADBEEF#96 = .vmax vv ∧
    decodeWord 0x5908162FA639354EDEADBEEF#96 = .vabs vv ∧
    decodeWord 0x5909162FA639354EDEADBEEF#96 = .vneg vv ∧
    decodeWord 0x590A162FA639354EDEADBEEF#96 = .vdiv vv ∧
    decodeWord 0x590B162FA639354EDEADBEEF#96 = .vsqrt vv ∧
    decodeWord 0x590C162FA639354EDEADBEEF#96 = .vrcp vv ∧
    decodeWord 0x590D162FA639354EDEADBEEF#96 = .vrsq vv ∧
    decodeWord 0x590E162FA639354EDEADBEEF#96 = .vexp2 vv ∧
    decodeWord 0x590F162FA639354EDEADBEEF#96 = .vlog2 vv ∧
    decodeWord 0x5910162FA639354EDEADBEEF#96 = .viadd vv ∧
    decodeWord 0x5911162FA639354EDEADBEEF#96 = .visub vv ∧
    decodeWord 0x5912162FA639354EDEADBEEF#96 = .vimul vv ∧
    decodeWord 0x5913162FA639354EDEADBEEF#96 = .vimad vv :=
  ⟨rfl, rfl, rfl, rfl, rfl, rfl, rfl, rfl, rfl, rfl, rfl, rfl, rfl, rfl, rfl, rfl, rfl, rfl, rfl, rfl⟩

theorem test_decode_vector_2 :
    decodeWord 0x5914162FA639354EDEADBEEF#96 = .vimulh vv ∧
    decodeWord 0x5915162FA639354EDEADBEEF#96 = .vsadd vv ∧
    decodeWord 0x5916162FA639354EDEADBEEF#96 = .vssub vv ∧
    decodeWord 0x5917162FA639354EDEADBEEF#96 = .vimin vv ∧
    decodeWord 0x5918162FA639354EDEADBEEF#96 = .vimax vv ∧
    decodeWord 0x5919162FA639354EDEADBEEF#96 = .viabs vv ∧
    decodeWord 0x591A162FA639354EDEADBEEF#96 = .vshl vv ∧
    decodeWord 0x591B162FA639354EDEADBEEF#96 = .vshr vv ∧
    decodeWord 0x591C162FA639354EDEADBEEF#96 = .vsra vv ∧
    decodeWord 0x591D162FA639354EDEADBEEF#96 = .vand vv ∧
    decodeWord 0x591E162FA639354EDEADBEEF#96 = .vor vv ∧
    decodeWord 0x591F162FA639354EDEADBEEF#96 = .vxor vv ∧
    decodeWord 0x5920162FA639354EDEADBEEF#96 = .vpopc vv ∧
    decodeWord 0x5921162FA639354EDEADBEEF#96 = .vclz vv ∧
    decodeWord 0x5922162FA639354EDEADBEEF#96 = .vcmp vv ∧
    decodeWord 0x5923162FA639354EDEADBEEF#96 = .vicmp vv ∧
    decodeWord 0x5924162FA639354EDEADBEEF#96 = .vsel vv ∧
    decodeWord 0x5925162FA639354EDEADBEEF#96 = .vcvt vv ∧
    decodeWord 0x5926162FA639354EDEADBEEF#96 = .vpack vv ∧
    decodeWord 0x5927162FA639354EDEADBEEF#96 = .vunpk vv :=
  ⟨rfl, rfl, rfl, rfl, rfl, rfl, rfl, rfl, rfl, rfl, rfl, rfl, rfl, rfl, rfl, rfl, rfl, rfl, rfl, rfl⟩

theorem test_decode_vector_3 :
    decodeWord 0x5928162FA639354EDEADBEEF#96 = .vqbfp vv ∧
    decodeWord 0x5929162FA639354EDEADBEEF#96 = .vdqbfp vv ∧
    decodeWord 0x592A162FA639354EDEADBEEF#96 = .vmov vv ∧
    decodeWord 0x592B162FA639354EDEADBEEF#96 = .vins vv ∧
    decodeWord 0x592C162FA639354EDEADBEEF#96 = .vext vv ∧
    decodeWord 0x592D162FA639354EDEADBEEF#96 = .vperm vv ∧
    decodeWord 0x592E162FA639354EDEADBEEF#96 = .vrot vv ∧
    decodeWord 0x592F162FA639354EDEADBEEF#96 = .vcmpr vv ∧
    decodeWord 0x5930162FA639354EDEADBEEF#96 = .vexpd vv ∧
    decodeWord 0x5931162FA639354EDEADBEEF#96 = .vred vv ∧
    decodeWord 0x5932162FA639354EDEADBEEF#96 = .vscan vv ∧
    decodeWord 0x5933162FA639354EDEADBEEF#96 = .varg vv :=
  ⟨rfl, rfl, rfl, rfl, rfl, rfl, rfl, rfl, rfl, rfl, rfl, rfl⟩

theorem test_decode_memory_1 :
    decodeWord 0x5A00162FA739123456789ABC#96 = .ldl mv ∧
    decodeWord 0x5A01162FA739123456789ABC#96 = .stl mv ∧
    decodeWord 0x5A02162FA739123456789ABC#96 = .ldlx mv ∧
    decodeWord 0x5A03162FA739123456789ABC#96 = .stlx mv ∧
    decodeWord 0x5A04162FA739123456789ABC#96 = .ldk mv ∧
    decodeWord 0x5A05162FA739123456789ABC#96 = .stk mv ∧
    decodeWord 0x5A06162FA739123456789ABC#96 = .ldg mv ∧
    decodeWord 0x5A07162FA739123456789ABC#96 = .stg mv ∧
    decodeWord 0x5A08162FA739123456789ABC#96 = .pfg mv ∧
    decodeWord 0x5A09162FA739123456789ABC#96 = .ldf mv ∧
    decodeWord 0x5A0A162FA739123456789ABC#96 = .stf mv ∧
    decodeWord 0x5A0B162FA739123456789ABC#96 = .ldo mv ∧
    decodeWord 0x5A0C162FA739123456789ABC#96 = .sto mv ∧
    decodeWord 0x5A0D162FA739123456789ABC#96 = .oseq mv ∧
    decodeWord 0x5A0E162FA739123456789ABC#96 = .owt mv ∧
    decodeWord 0x5A0F162FA739123456789ABC#96 = .ldh mv ∧
    decodeWord 0x5A10162FA739123456789ABC#96 = .sth mv ∧
    decodeWord 0x5A11162FA739123456789ABC#96 = .atl mv ∧
    decodeWord 0x5A12162FA739123456789ABC#96 = .atk mv ∧
    decodeWord 0x5A13162FA739123456789ABC#96 = .atg mv :=
  ⟨rfl, rfl, rfl, rfl, rfl, rfl, rfl, rfl, rfl, rfl, rfl, rfl, rfl, rfl, rfl, rfl, rfl, rfl, rfl, rfl⟩

theorem test_decode_memory_2 :
    decodeWord 0x5A14162FA739123456789ABC#96 = .atf mv ∧
    decodeWord 0x5A15162FA739123456789ABC#96 = .fence mv ∧
    decodeWord 0x5A16162FA739123456789ABC#96 = .phase mv ∧
    decodeWord 0x5A17162FA739123456789ABC#96 = .cbini mv ∧
    decodeWord 0x5A18162FA739123456789ABC#96 = .cbclm mv ∧
    decodeWord 0x5A19162FA739123456789ABC#96 = .cbpub mv ∧
    decodeWord 0x5A1A162FA739123456789ABC#96 = .cbtak mv ∧
    decodeWord 0x5A1B162FA739123456789ABC#96 = .cbrel mv ∧
    decodeWord 0x5A1C162FA739123456789ABC#96 = .dqini mv ∧
    decodeWord 0x5A1D162FA739123456789ABC#96 = .dqpsh mv ∧
    decodeWord 0x5A1E162FA739123456789ABC#96 = .dqpop mv ∧
    decodeWord 0x5A1F162FA739123456789ABC#96 = .dqstl mv ∧
    decodeWord 0x5A20162FA739123456789ABC#96 = .bara mv ∧
    decodeWord 0x5A21162FA739123456789ABC#96 = .barw mv ∧
    decodeWord 0x5A22162FA739123456789ABC#96 = .bar mv ∧
    decodeWord 0x5A23162FA739123456789ABC#96 = .bidb mv ∧
    decodeWord 0x5A24162FA739123456789ABC#96 = .bida mv ∧
    decodeWord 0x5A25162FA739123456789ABC#96 = .qcnt mv ∧
    decodeWord 0x5A26162FA739123456789ABC#96 = .qclr mv ∧
    decodeWord 0x5A27162FA739123456789ABC#96 = .qbnd mv :=
  ⟨rfl, rfl, rfl, rfl, rfl, rfl, rfl, rfl, rfl, rfl, rfl, rfl, rfl, rfl, rfl, rfl, rfl, rfl, rfl, rfl⟩

theorem test_decode_memory_3 :
    decodeWord 0x5A28162FA739123456789ABC#96 = .tktry mv ∧
    decodeWord 0x5A29162FA739123456789ABC#96 = .wlapp mv ∧
    decodeWord 0x5A2A162FA739123456789ABC#96 = .wltak mv ∧
    decodeWord 0x5A2B162FA739123456789ABC#96 = .wlidl mv ∧
    decodeWord 0x5A2C162FA739123456789ABC#96 = .trmw mv :=
  ⟨rfl, rfl, rfl, rfl, rfl⟩

theorem test_decode_matrix_1 :
    decodeWord 0x5B00162FA723456789ABCDEF#96 = .lease xv ∧
    decodeWord 0x5B01162FA723456789ABCDEF#96 = .ulease xv ∧
    decodeWord 0x5B02162FA723456789ABCDEF#96 = .wload xv ∧
    decodeWord 0x5B03162FA723456789ABCDEF#96 = .wswp xv ∧
    decodeWord 0x5B04162FA723456789ABCDEF#96 = .ashp xv ∧
    decodeWord 0x5B05162FA723456789ABCDEF#96 = .mma xv ∧
    decodeWord 0x5B06162FA723456789ABCDEF#96 = .mmaz xv ∧
    decodeWord 0x5B07162FA723456789ABCDEF#96 = .mmai xv ∧
    decodeWord 0x5B08162FA723456789ABCDEF#96 = .epi xv ∧
    decodeWord 0x5B09162FA723456789ABCDEF#96 = .epicf xv ∧
    decodeWord 0x5B0A162FA723456789ABCDEF#96 = .zrd xv ∧
    decodeWord 0x5B0B162FA723456789ABCDEF#96 = .zwr xv ∧
    decodeWord 0x5B0C162FA723456789ABCDEF#96 = .zclr xv ∧
    decodeWord 0x5B10162FA723456789ABCDEF#96 = .cpyi xv ∧
    decodeWord 0x5B11162FA723456789ABCDEF#96 = .cpyo xv ∧
    decodeWord 0x5B12162FA723456789ABCDEF#96 = .gthi xv ∧
    decodeWord 0x5B13162FA723456789ABCDEF#96 = .scto xv ∧
    decodeWord 0x5B14162FA723456789ABCDEF#96 = .echk xv ∧
    decodeWord 0x5B18162FA723456789ABCDEF#96 = .cvwt xv ∧
    decodeWord 0x5B19162FA723456789ABCDEF#96 = .cvts xv :=
  ⟨rfl, rfl, rfl, rfl, rfl, rfl, rfl, rfl, rfl, rfl, rfl, rfl, rfl, rfl, rfl, rfl, rfl, rfl, rfl, rfl⟩

theorem test_decode_matrix_2 :
    decodeWord 0x5B1A162FA723456789ABCDEF#96 = .cvcl xv ∧
    decodeWord 0x5B1B162FA723456789ABCDEF#96 = .cvinf xv ∧
    decodeWord 0x5B1C162FA723456789ABCDEF#96 = .cvtim xv ∧
    decodeWord 0x5B20162FA723456789ABCDEF#96 = .mbsnd xv ∧
    decodeWord 0x5B21162FA723456789ABCDEF#96 = .mbrcv xv ∧
    decodeWord 0x5B22162FA723456789ABCDEF#96 = .mbsta xv :=
  ⟨rfl, rfl, rfl, rfl, rfl, rfl⟩

theorem test_decode_privileged :
    decodeWord 0x5B80162FA723456789ABCDEF#96 = .srd xv ∧
    decodeWord 0x5B81162FA723456789ABCDEF#96 = .swr xv ∧
    decodeWord 0x5B82162FA723456789ABCDEF#96 = .eret xv ∧
    decodeWord 0x5B83162FA723456789ABCDEF#96 = .invl xv ∧
    decodeWord 0x5B84162FA723456789ABCDEF#96 = .inva xv ∧
    decodeWord 0x5B85162FA723456789ABCDEF#96 = .stbw xv ∧
    decodeWord 0x5B86162FA723456789ABCDEF#96 = .stbr xv ∧
    decodeWord 0x5B87162FA723456789ABCDEF#96 = .ctxsv xv ∧
    decodeWord 0x5B88162FA723456789ABCDEF#96 = .ctxld xv ∧
    decodeWord 0x5B89162FA723456789ABCDEF#96 = .park xv ∧
    decodeWord 0x5B8A162FA723456789ABCDEF#96 = .unpark xv ∧
    decodeWord 0x5B8B162FA723456789ABCDEF#96 = .retire xv ∧
    decodeWord 0x5B8C162FA723456789ABCDEF#96 = .dbgh xv ∧
    decodeWord 0x5B8D162FA723456789ABCDEF#96 = .idle xv ∧
    decodeWord 0x5B8E162FA723456789ABCDEF#96 = .ckpt xv ∧
    decodeWord 0x5B8F162FA723456789ABCDEF#96 = .spare xv :=
  ⟨rfl, rfl, rfl, rfl, rfl, rfl, rfl, rfl, rfl, rfl, rfl, rfl, rfl, rfl, rfl, rfl⟩

/-- Hints (R90), and the ends of each gap of unassigned opcodes (R89). -/
theorem test_decode_hints :
    decodeWord 0x58F0123456789ABCDEF01234#96 = .hint 0 ⟨1, 6, 0x123456789ABCDEF01234⟩ ∧
    decodeWord 0x58F9123456789ABCDEF01234#96 = .hint 9 ⟨1, 6, 0x123456789ABCDEF01234⟩ ∧
    decodeWord 0x58FF123456789ABCDEF01234#96 = .hint 15 ⟨1, 6, 0x123456789ABCDEF01234⟩ :=
  ⟨rfl, rfl, rfl⟩

theorem test_decode_unassigned :
    decodeWord 0x583800000000000000000000#96 = .unassignedOpcode 0x583800000000000000000000#96 ∧
    decodeWord 0x58EF00000000000000000000#96 = .unassignedOpcode 0x58EF00000000000000000000#96 ∧
    decodeWord 0x593400000000000000000000#96 = .unassignedOpcode 0x593400000000000000000000#96 ∧
    decodeWord 0x59FF00000000000000000000#96 = .unassignedOpcode 0x59FF00000000000000000000#96 ∧
    decodeWord 0x5A2D00000000000000000000#96 = .unassignedOpcode 0x5A2D00000000000000000000#96 ∧
    decodeWord 0x5AFF00000000000000000000#96 = .unassignedOpcode 0x5AFF00000000000000000000#96 ∧
    decodeWord 0x5B0D00000000000000000000#96 = .unassignedOpcode 0x5B0D00000000000000000000#96 ∧
    decodeWord 0x5B0F00000000000000000000#96 = .unassignedOpcode 0x5B0F00000000000000000000#96 ∧
    decodeWord 0x5B1500000000000000000000#96 = .unassignedOpcode 0x5B1500000000000000000000#96 ∧
    decodeWord 0x5B1700000000000000000000#96 = .unassignedOpcode 0x5B1700000000000000000000#96 ∧
    decodeWord 0x5B1D00000000000000000000#96 = .unassignedOpcode 0x5B1D00000000000000000000#96 ∧
    decodeWord 0x5B1F00000000000000000000#96 = .unassignedOpcode 0x5B1F00000000000000000000#96 ∧
    decodeWord 0x5B2300000000000000000000#96 = .unassignedOpcode 0x5B2300000000000000000000#96 ∧
    decodeWord 0x5B7F00000000000000000000#96 = .unassignedOpcode 0x5B7F00000000000000000000#96 ∧
    decodeWord 0x5B9000000000000000000000#96 = .unassignedOpcode 0x5B9000000000000000000000#96 ∧
    decodeWord 0x5BFF00000000000000000000#96 = .unassignedOpcode 0x5BFF00000000000000000000#96 :=
  ⟨rfl, rfl, rfl, rfl, rfl, rfl, rfl, rfl, rfl, rfl, rfl, rfl, rfl, rfl, rfl, rfl⟩

/-- The six environment instructions (R318), and words that are none of them: a nonzero funct7, a field that must be zero,
funct3 6, an ADDI. -/
theorem test_decode_sett :
    decodeSettWord 0x0005850B#32 = .mbRecv 10 11 ∧
    decodeSettWord 0x00C5900B#32 = .mbSend 11 12 ∧
    decodeSettWord 0x00C5A50B#32 = .mbStep 10 11 12 ∧
    decodeSettWord 0x00C5B00B#32 = .mbDone 11 12 ∧
    decodeSettWord 0x0000450B#32 = .mbStat 10 ∧
    decodeSettWord 0x0000550B#32 = .mbVer 10 ∧
    decodeSettWord 0x02C5A50B#32 = .settCoreInstruction 0x02C5A50B#32 ∧
    decodeSettWord 0x0015850B#32 = .settCoreInstruction 0x0015850B#32 ∧
    decodeSettWord 0x00C5E50B#32 = .settCoreInstruction 0x00C5E50B#32 ∧
    decodeSettWord 0x00A00513#32 = .settCoreInstruction 0x00A00513#32 :=
  ⟨rfl, rfl, rfl, rfl, rfl, rfl, rfl, rfl, rfl, rfl⟩

/-! ## Decoding: the spec's worked encodings -/

/-- VFMA of the encoding chapter, FENCE.rel.sys, ASHP 0b0001, OWT.acq.sys, CVTS, the guarded MBRCV, STO.w.rel.sys, IDLE, INVL, BAR,
CKPT and CPYI. -/
theorem test_worked_words :
    decode [0, 0, 0, 0, 0, 0x11, 0x28, 0x40, 0x08, 0x8A, 0x03, 0x69] = .ok (.vfma ⟨1, 10, 34, 32, 33, 0, 5, 0, 1, 0, 0, 8, 0, 0⟩, []) ∧
    decodeWord 0x82150000002C000000000000#96 = .fence ⟨2, 0, 0, 0, 0, 0, 0, 2, 3, 0, 0⟩ ∧
    decodeWord 0x430403E00000000000000001#96 = .ashp ⟨1, 0, 0, 62, 0, 0, 1⟩ ∧
    decodeWord 0x020E1050001C000000000000#96 = .owt ⟨0, 0, 4, 5, 0, 0, 0, 1, 3, 0, 0⟩ ∧
    decodeWord 0x4319C8770000000000000000#96 = .cvts ⟨1, 0, 50, 7, 28, 0, 0⟩ ∧
    decodeWord 0x032190202438000000000000#96 = .mbrcv ⟨0, 0, 36, 2, 0, 18, 7 * 2 ^ 51⟩ ∧
    decodeWord 0x820C285240AC000000000000#96 = .sto ⟨2, 0, 10, 5, 9, 0, 2, 2, 3, 0, 0⟩ ∧
    decodeWord 0x838D14000000000000000000#96 = .idle ⟨2, 0, 5, 0, 0, 0, 0⟩ ∧
    decode [0, 0, 0, 0, 0, 0, 0, 0, 0x40, 0x1C, 0x83, 0x83] = .ok (.invl ⟨2, 0, 7, 4, 0, 0, 0⟩, []) ∧
    decode [0, 0, 0, 0, 0, 0, 0, 0, 0, 0x10, 0x22, 0x02] = .ok (.bar ⟨0, 0, 4, 0, 0, 0, 0, 0, 0, 0, 0⟩, []) ∧
    decodeWord 0x838E10518000000000000000#96 = .ckpt ⟨2, 0, 4, 5, 6, 0, 0⟩ ∧
    decodeWord 0x031000600000000000000000#96 = .cpyi ⟨0, 0, 0, 6, 0, 0, 0⟩ :=
  ⟨rfl, rfl, rfl, rfl, rfl, rfl, rfl, rfl, rfl, rfl, rfl, rfl⟩

/-- The MMAZ line of the matrix chapter: ZR 5, NR 1, AT 18. -/
theorem test_worked_mmaz : decodeWord 0x430600300028320000000000#96 = .mmaz ⟨1, 0, 0, 3, 0, 0, 0x28320000000000⟩ ∧
    zrOf ⟨1, 0, 0, 3, 0, 0, 0x28320000000000⟩ = 5 ∧ nrOf ⟨1, 0, 0, 3, 0, 0, 0x28320000000000⟩ = 1 ∧
    typeOf ⟨1, 0, 0, 3, 0, 0, 0x28320000000000⟩ = 18 := ⟨rfl, rfl, rfl, rfl⟩

/-! ## Well-formed instructions: a word that each check of R89 refuses -/

theorem test_wellformed_ok : WellFormed (.add ⟨0, 0, 3, 1, 62, 0, 0, 16⟩) := rfl
/-- An unassigned opcode. -/
theorem test_illformed_opcode : violation (.unassignedOpcode 0) = some .opcode := rfl
/-- CPYI under the C tag. -/
theorem test_illformed_tag : violation (.cpyi ⟨1, 0, 0, 6, 0, 0, 0⟩) = some .tag := rfl
/-- Bit [90] in an L-tagged word (R77). -/
theorem test_illformed_token : violation (.add ⟨0, 1, 3, 1, 2, 0, 0, 0⟩) = some .token := rfl
/-- GP without GE (R80), and a guard under an A tag. -/
theorem test_illformed_guard : violation (.add ⟨0, 0, 3, 1, 2, 2, 0, 0⟩) = some .guard ∧
    violation (.br ⟨3, 0, 0, 0, 16, 0, 0, 0, 0⟩) = some .guard := ⟨rfl, rfl⟩
/-- A predicate as a scalar source, and code 62 twice (R78, R79). -/
theorem test_illformed_operand : violation (.add ⟨0, 0, 3, 48, 2, 0, 0, 0⟩) = some .operand ∧
    violation (.add ⟨0, 0, 3, 62, 62, 0, 0, 1⟩) = some .operand := ⟨rfl, rfl⟩
/-- A modifier that MULH does not define. -/
theorem test_illformed_modifier : violation (.mulh ⟨0, 0, 3, 1, 2, 0, 1, 0⟩) = some .modifier := rfl
/-- A nonzero bit of the immediate of a VADD. -/
theorem test_illformed_reserved : violation (.vadd ⟨1, 0, 35, 32, 33, 0, 0, 0, 0, 0, 0, 8, 0, 1⟩) = some .reserved := rfl

/-- SEXT with width code 3. -/
theorem test_illformed_modifier_value : violation (.sext ⟨0, 0, 3, 1, 0, 0, 3, 0⟩) = some .modifier := rfl

/-! ## The hypotheses of the statements are met -/

/-- The context with the L role as given. -/
def xL (r : RoleSt) : Ctx := { x0 with rl := r }
def xLoop1 : Ctx := xL { loops := #v[⟨1, 1, 0⟩, {}, {}, {}] }
def xLoop2 : Ctx := xL { loops := #v[⟨2, 1, 5⟩, {}, {}, {}] }
def xLoop3 : Ctx := xL { loops := #v[⟨2, 1, 1⟩, {}, {}, {}] }
/-- The C and S roles stand at a quiet point with the L role. -/
def xMeet : Ctx := { x0 with rc := { wait := some .meet }, rs := { wait := some .meet } }
/-- The L role is the last one live. -/
def xLast : Ctx := { x0 with rc := { halted := true }, rs := { halted := true } }

/-- The kernel has a constant pool of 16 bytes in section 1. -/
def sPool : State :=
  { st .l x0 with kernels := [{ fetchKernel 0 0 with text := (fetchKernel 0 0).text ++ [⟨2, 1, [], List.replicate 16 0⟩] }] }

/-- The hypotheses of `Obligations.IntegerResults` are met, clause by clause. -/
theorem witness_IntegerResults :
    (∃ v, Meets (.add v) (frameS v) anyCtx
      (computedF (fun v a b => arith (· + ·) v.mod a b) v)) ∧
    (∃ v, Meets (.sub v) (frameS v) anyCtx
      (computedF (fun v a b => arith (· - ·) v.mod a b) v)) ∧
    (∃ v, Meets (.mul v) (frameS v) anyCtx
      (computedF (fun v a b => arith (· * ·) v.mod a b) v)) ∧
    (∃ v, Meets (.mulh v) (frameS v) anyCtx
      (computed (fun _ a b => BitVec.ofInt 64 (a.toInt * b.toInt / 2 ^ 64)) v)) ∧
    (∃ v, Meets (.mulhn v) (frameS v) anyCtx
      (computed (fun _ a b => BitVec.ofNat 64 (a.toNat * b.toNat / 2 ^ 64)) v)) ∧
    (∃ v, Meets (.div v) (frameS v) anyCtx
      (computed (fun _ a b => if b = 0 then -1 else BitVec.ofInt 64 (a.toInt.tdiv b.toInt)) v)) ∧
    (∃ v, Meets (.divn v) (frameS v) anyCtx
      (computed (fun _ a b => if b = 0 then -1 else a / b) v)) ∧
    (∃ v, Meets (.rem v) (frameS v) anyCtx
      (computed (fun _ a b => if b = 0 then a else BitVec.ofInt 64 (a.toInt.tmod b.toInt)) v)) ∧
    (∃ v, Meets (.remn v) (frameS v) anyCtx
      (computed (fun _ a b => if b = 0 then a else a % b) v)) ∧
    (∃ v, Meets (.and v) (frameS v) anyCtx
      (computed (fun _ a b => a &&& b) v)) ∧
    (∃ v, Meets (.or v) (frameS v) anyCtx
      (computed (fun _ a b => a ||| b) v)) ∧
    (∃ v, Meets (.xor v) (frameS v) anyCtx
      (computed (fun _ a b => a ^^^ b) v)) ∧
    (∃ v, Meets (.andn v) (frameS v) anyCtx
      (computed (fun _ a b => a &&& ~~~b) v)) ∧
    (∃ v, Meets (.orn v) (frameS v) anyCtx
      (computed (fun _ a b => a ||| ~~~b) v)) ∧
    (∃ v, Meets (.shl v) (frameS v) anyCtx
      (computed (fun v a b => if bitAt v.mod 0 then ((a.setWidth 32) <<< (b.toNat % 32)).signExtend 64 else a <<< (b.toNat % 64)) v)) ∧
    (∃ v, Meets (.shr v) (frameS v) anyCtx
      (computed (fun v a b => if bitAt v.mod 0 then ((a.setWidth 32) >>> (b.toNat % 32)).signExtend 64 else a >>> (b.toNat % 64)) v)) ∧
    (∃ v, Meets (.sra v) (frameS v) anyCtx
      (computed (fun v a b =>
    if bitAt v.mod 0 then ((a.setWidth 32).sshiftRight (b.toNat % 32)).signExtend 64 else a.sshiftRight (b.toNat % 64)) v)) ∧
    (∃ v, Meets (.rotl v) (frameS v) anyCtx
      (computed (fun v a b =>
    if bitAt v.mod 0 then ((a.setWidth 32).rotateLeft (b.toNat % 32)).signExtend 64 else a.rotateLeft (b.toNat % 64)) v)) ∧
    (∃ v, Meets (.min v) (frameS v) anyCtx
      (computed (fun _ a b => if a.toInt < b.toInt then a else b) v)) ∧
    (∃ v, Meets (.max v) (frameS v) anyCtx
      (computed (fun _ a b => if b.toInt < a.toInt then a else b) v)) ∧
    (∃ v, Meets (.minn v) (frameS v) anyCtx
      (computed (fun _ a b => if a.toNat < b.toNat then a else b) v)) ∧
    (∃ v, Meets (.maxn v) (frameS v) anyCtx
      (computed (fun _ a b => if b.toNat < a.toNat then a else b) v)) ∧
    (∃ v, Meets (.clz v) (frameS v) anyCtx
      (computed (fun _ a _ => BitVec.ofNat 64 (clzNat 64 a.toNat)) v)) ∧
    (∃ v, Meets (.ctz v) (frameS v) anyCtx
      (computed (fun _ a _ => BitVec.ofNat 64 (ctzNat 64 a.toNat)) v)) ∧
    (∃ v, Meets (.popc v) (frameS v) anyCtx
      (computed (fun _ a _ => BitVec.ofNat 64 (popNat 64 a.toNat)) v)) ∧
    (∃ v, Meets (.brev v) (frameS v) anyCtx
      (computed (fun _ a _ => a.reverse) v)) ∧
    (∃ v, Meets (.bswap v) (frameS v) anyCtx
      (computed (fun _ a _ => wordOfBytes 64 (bytesOf a 8).reverse) v)) ∧
    (∃ v, Meets (.sext v) (frameS v) anyCtx
      (computed (fun v a _ => (a.setWidth (extWidth v.mod)).signExtend 64) v)) ∧
    (∃ v, Meets (.zext v) (frameS v) anyCtx
      (computed (fun v a _ => (a.setWidth (extWidth v.mod)).setWidth 64) v)) ∧
    (∃ v, Meets (.bfx v) (frameS v) anyCtx
      (computed (fun v a _ => if bitAt v.mod 0 then (a.extractLsb' (bfPos v) (bfLen v)).signExtend 64
    else (a.extractLsb' (bfPos v) (bfLen v)).setWidth 64) v)) ∧
    (∃ v, Meets (.bfi v) (frameS v) anyCtx
      (computed (fun v a b => bfi (bfPos v) (bfLen v) a b) v)) ∧
    (∃ v, Meets (.lim v) (frameS v) anyCtx
      (computed (fun v _ _ => imm64 v) v)) ∧
    (∃ v, Meets (.limh v) (frameS v) anyCtx
      (computed (fun v a _ => (field v.imm 0 16 : W16) ++ (field a 0 48 : BitVec 48)) v)) ∧
    (∃ v, Meets (.lea v) (frameS v) anyCtx
      (computed (fun v a b => a + (b <<< (field v.mod 0 3).toNat) + imm64 v) v)) :=
  ⟨⟨vS, plain .l x0⟩,
   ⟨vS, plain .l x0⟩,
   ⟨vS, plain .l x0⟩,
   ⟨vS, plain .l x0⟩,
   ⟨vS, plain .l x0⟩,
   ⟨vS, plain .l x0⟩,
   ⟨vS, plain .l x0⟩,
   ⟨vS, plain .l x0⟩,
   ⟨vS, plain .l x0⟩,
   ⟨vS, plain .l x0⟩,
   ⟨vS, plain .l x0⟩,
   ⟨vS, plain .l x0⟩,
   ⟨vS, plain .l x0⟩,
   ⟨vS, plain .l x0⟩,
   ⟨vS, plain .l x0⟩,
   ⟨vS, plain .l x0⟩,
   ⟨vS, plain .l x0⟩,
   ⟨vS, plain .l x0⟩,
   ⟨vS, plain .l x0⟩,
   ⟨vS, plain .l x0⟩,
   ⟨vS, plain .l x0⟩,
   ⟨vS, plain .l x0⟩,
   ⟨vS, plain .l x0⟩,
   ⟨vS, plain .l x0⟩,
   ⟨vS, plain .l x0⟩,
   ⟨vS, plain .l x0⟩,
   ⟨vS, plain .l x0⟩,
   ⟨vS, plain .l x0⟩,
   ⟨vS, plain .l x0⟩,
   ⟨{ vS with imm := 0x400 }, plain .l x0⟩,
   ⟨{ vS with imm := 0x400 }, plain .l x0⟩,
   ⟨vS, plain .l x0⟩,
   ⟨vS, plain .l x0⟩,
   ⟨vS, plain .l x0⟩⟩

/-- The hypotheses of `Obligations.PredicatesAndSpecials` are met, clause by clause. -/
theorem witness_PredicatesAndSpecials :
    (∃ v, Meets (.cmp v) (frameS v) anyCtx
      (decided (fun v w x => condOf (field v.mod 0 4).toNat (readSrc w x v.a (imm64 v)) (readSrc w x v.b (imm64 v))) v)) ∧
    (∃ v, Meets (.plog v) (frameS v) anyCtx
      (decided (fun v w x =>
    bitAt (field v.mod 0 4) (2 * (readPred w x v.a).toNat + (readPred w x v.b).toNat)) v)) ∧
    (∃ v, Meets (.sel v) (frameS v)
      anyCtx
      (fun w x s => s.setS w v.d.toNat
    (if (x.role w.r).p (field v.mod 0 3).toNat != bitAt v.mod 3 then readSrc w x v.a (imm64 v) else readSrc w x v.b (imm64 v)))) ∧
    (∃ v, Meets (.pmov v) (frameS v)
      anyCtx
      (fun w x s =>
    if bitAt v.mod 0 then
      if isScalar v.d then s.setS w v.d.toNat (((x.role w.r).preds ||| 1).setWidth 64)
      else s.modRole w (fun r => { r with preds := ((readSrc w x v.a (imm64 v)).setWidth 8) ||| 1 })
    else if isPred v.d then s.setP w (v.d.toNat - 48) (readSrc w x v.a (imm64 v) != 0)
    else s.setS w v.d.toNat (if readPred w x v.a then 1 else 0))) ∧
    (∃ v, Meets (.mfs v) (frameS v)
      (fun w x _ => ¬ (v.mod = 0x0B#9 ∧ w.r = .c ∧ flgBusy x = true))
      (fun w x s => s.setS w v.d.toNat (userSpecial s w.c x w.r v.mod.toNat))) ∧
    (∃ v y, Meets (.mts v) (frameS v)
      (fun w x s => setUserSpecial s w.c x w.r v.mod.toNat (readSrc w x v.a (imm64 v)) = some y)
      (fun w _ s => s.setCtx w.c y)) ∧
    (∃ v, MeetsA (.mts v) (frameS v)
      (fun w x s => setUserSpecial s w.c x w.r v.mod.toNat (readSrc w x v.a (imm64 v)) = none)) :=
  ⟨⟨{ vS with d := 49 }, plain .l x0⟩,
   ⟨{ vS with d := 49, a := 48, b := 49 }, plain .l x0⟩,
   ⟨vS, plain .l x0⟩,
   ⟨{ vS with d := 48, mod := 0 }, plain .l x0⟩,
   ⟨{ vS with mod := 0x0B }, met (st .l x0) wL x0⟩,
   ⟨{ vS with mod := 0x0B }, x0, met (st .l x0) wL x0⟩,
   ⟨{ vS with role := 1, a := 62, mod := 0x0C, imm := 65 }, metA (st .c x0) wC x0⟩⟩

/-- The hypotheses of `Obligations.Transfers` are met, clause by clause. -/
theorem witness_Transfers :
    (∃ v, MeetsJ (.br v) (frameB v) false false
      anyCtx
      (fun _ _ _ => targetOf v)) ∧
    (∃ v, MeetsJ (.brp v) (frameB v) false false
      (fun w x _ => readPred w x v.cond ≠ bitAt v.mod 0)
      (fun _ _ _ => targetOf v)) ∧
    (∃ v, Meets (.brp v) (frameB v)
      (fun w x _ => readPred w x v.cond = bitAt v.mod 0)
      (fun _ _ s => s)) ∧
    (∃ v, MeetsJ (.call v) (frameB v) true false
      (fun w x _ => (x.role w.r).ret.length < 16)
      (fun _ _ _ => targetOf v)) ∧
    (∃ v, MeetsA (.call v) (frameB v)
      (fun w x _ => 16 ≤ (x.role w.r).ret.length)) ∧
    (∃ v p l, MeetsJ (.ret v) (frameS v) false true
      (fun w x _ => (x.role w.r).ret = p :: l)
      (fun _ x s => landing (s.textOf x) p)) ∧
    (∃ v, MeetsA (.ret v) (frameS v)
      (fun w x _ => (x.role w.r).ret = [])) ∧
    (∃ v n, Meets (.loop v) (frameB v)
      (fun w x _ => n = (if isImm v.cond then v.count.setWidth 64 else readSrc w x v.cond 0) ∧ 0 < n.toInt)
      (fun w _ s => s.setLoop w (field v.mod 0 2).toNat ⟨n, 1, v.count.toNat⟩)) ∧
    (∃ v, MeetsJ (.loop v) (frameB v) false false
      (fun w x _ => (if isImm v.cond then v.count.setWidth 64 else readSrc w x v.cond 0).toInt ≤ 0)
      (fun _ _ _ => targetOf v)) ∧
    (∃ v l, Meets (.next v) (frameB v)
      (fun w x _ => (x.role w.r).loop (field v.mod 0 2).toNat = l ∧ l.l = 1)
      (fun w _ s => s.setLoop w (field v.mod 0 2).toNat { l with l := 0 })) ∧
    (∃ v l, MeetsJ (.next v) (frameB v) false false
      (fun w x _ => (x.role w.r).loop (field v.mod 0 2).toNat = l ∧ l.l ≠ 1 ∧ l.l ≠ 0 ∧ (l.bnd = 0 ∨ l.trip ≠ l.bnd))
      (fun _ _ _ => targetOf v)) ∧
    (∃ v l, MeetsA (.next v) (frameB v)
      (fun w x _ => (x.role w.r).loop (field v.mod 0 2).toNat = l ∧ (l.l = 0 ∨ (l.l ≠ 1 ∧ l.bnd ≠ 0 ∧ l.trip = l.bnd)))) :=
  ⟨⟨{ vB with tword := 3 }, plainJ .l x0⟩,
   ⟨{ vB with cond := 49, mod := 1, tword := 3 }, metJ (st .l x0) wL x0⟩,
   ⟨{ vB with cond := 49, tword := 3 }, met (st .l x0) wL x0⟩,
   ⟨{ vB with tword := 3 }, metJ (st .l (xL { ret := List.replicate 15 ⟨0, 1⟩ })) wL (xL { ret := List.replicate 15 ⟨0, 1⟩ })⟩,
   ⟨{ vB with tword := 3 }, metA (st .l (xL { ret := List.replicate 16 ⟨0, 1⟩ })) wL (xL { ret := List.replicate 16 ⟨0, 1⟩ })⟩,
   ⟨vS, ⟨0, 2⟩, [], metJ (st .l (xL { ret := [⟨0, 2⟩] })) wL (xL { ret := [⟨0, 2⟩] })⟩,
   ⟨vS, metA (st .l x0) wL x0⟩,
   ⟨{ vB with cond := 62, tword := 3, count := 1 }, 1, met (st .l x0) wL x0⟩,
   ⟨{ vB with tword := 3 }, metJ (st .l x0) wL x0⟩,
   ⟨{ vB with tword := 3 }, ⟨1, 1, 0⟩, met (st .l xLoop1) wL xLoop1⟩,
   ⟨{ vB with tword := 3 }, ⟨2, 1, 5⟩, metJ (st .l xLoop2) wL xLoop2⟩,
   ⟨{ vB with tword := 3 }, ⟨2, 1, 1⟩, metA (st .l xLoop3) wL xLoop3⟩⟩

/-- The hypotheses of `Obligations.WaitsAndStops` are met, clause by clause. -/
theorem witness_WaitsAndStops :
    (∃ v, Meets (.nop v) (frameS v)
      anyCtx
      (fun _ _ s => s)) ∧
    (∃ n v, Meets (.hint n v) ⟨v.role, v.tok, 0, [], false, none, false, true⟩
      anyCtx
      (fun _ _ s => s)) ∧
    (∃ (v : Word96), ∃ (s : State), ∃ (w : Who), ∃ (x : Ctx), s.turn = .role w.c w.r ∧
    s.ctx w.c = some x ∧
    (field v 94 2 = 0b11#2 ∨ (field v 94 2).toNat = Role.code w.r)) ∧
    (∃ v, v.role ≠ 0b11#2 ∧
    Meets (.qpt v) (frameS v)
      anyCtx
      (fun _ _ s => s)) ∧
    (∃ v, ∃ (s : State), ∃ (w : Who), ∃ (x : Ctx), ∃ (dest : Pos), v.role = 0b11#2 ∧
    Issues (.qpt v) (frameS v) s w x ∧
    Falls (frameS v) s w x dest ∧
    v.tok = 0 ∧
    allAt x w.r = true ∧
    x.flights = [] ∧
    (x.async.any (·.isSave) = true → s.saveReady w.c x = true) ∧
    x.queuesEmpty = true) ∧
    (∃ v, ∃ e : Rest, MeetsA (.halt v) (frameS v)
      (fun w x s => othersLive x w.r = true ∧ retireWait (s.core w.c.cid) (s.textOf x) x w e = none ∧
      e = ⟨v.tok, none, (x.role w.r).pc, none, none, if (frameS v).isA then some (x.role w.r).pc else none⟩)) ∧
    (∃ v, MeetsA (.halt v) (frameS v)
      (fun w x s => othersLive x w.r = false ∧ x.drained s w.c = true ∧ x.queuesEmpty = true)) ∧
    (∃ v, MeetsA (.halt v) (frameS v)
      (fun w x s => othersLive x w.r = false ∧ x.drained s w.c = true ∧ x.queuesEmpty = false)) ∧
    (∃ v, ∃ e : BEnt, Meets (.bqs v) (frameTryS v)
      (fun w x _ => x.bf.length < 8 ∧ e = ⟨readPred w x v.a != bitAt v.mod 0, w.r,
      Role.all.filter (fun y => y != w.r && (x.role y).live)⟩)
      (fun w x s => if e.readers = [] then s else s.setCtx w.c { x with bf := x.bf ++ [e] })) ∧
    (∃ v b l, Meets (.bqr v) (frameTryS v)
      (fun w x _ => readBf x.bf w.r = some (b, l))
      (fun w x s => (s.setCtx w.c { x with bf := l }).setP w (v.d.toNat - 48) b)) ∧
    (∃ v, Meets (.waitc v) (frameTryS v)
      (fun w x s => (readSrc w x v.a (imm64 v)).toNat ≤ (waitClock v s w.c).toNat)
      (fun _ _ s => s)) ∧
    (∃ v, Meets (.yld v) (frameS v)
      (fun w x _ => (x.role w.r).yieldLeft = some 0 ∨
      (x.role w.r).yieldLeft = none ∧ readSrc w x v.a (imm64 v) = 0)
      (fun _ _ s => s)) ∧
    (∃ v, MeetsA (.yld v) (frameS v)
      (fun w x _ => (x.role w.r).yieldLeft = none ∧ readSrc w x v.a (imm64 v) ≠ 0)) ∧
    (∃ v, ∃ (s : State), ∃ (w : Who), ∃ (x : Ctx), ∃ (dest : Pos), Issues (.trap v) (frameS v) s w x ∧
    Falls (frameS v) s w x dest ∧
    x.state = .run) ∧
    (∃ v, ∃ (s : State), ∃ (w : Who), ∃ (x : Ctx), ∃ (dest : Pos), Issues (.bkpt v) (frameS v) s w x ∧
    Falls (frameS v) s w x dest ∧
    x.state = .run ∧
    x.dbgen = false) ∧
    (∃ v, MeetsA (.bkpt v) (frameS v)
      (fun _ x _ => x.dbgen = true)) ∧
    (∃ v sec n a, Meets (.ldp v) (frameS v)
      (fun w x s => sectionOf (s.textOf x) (field v.imm 40 8).toNat = some sec ∧ n = 2 ^ (field v.mod 0 2).toNat ∧
      a = (field v.imm 0 32).setWidth 64 + readSrc w x v.a 0 ∧ a.toNat % n = 0 ∧ a.toNat + n ≤ sec.body.length ∧
      x.textBad (field v.imm 40 8).toNat a.toNat n = false)
      (fun w _ s => s.setS w v.d.toNat (if bitAt v.mod 2 then w64 (signed (8 * n) (numAt sec.body a.toNat n))
      else BitVec.ofNat 64 (numAt sec.body a.toNat n)))) :=
  ⟨⟨vS, plain .l x0⟩,
   ⟨0, ⟨0, 0, 5⟩, plain .l x0⟩,
   ⟨0, st .l x0, wL, x0, rfl, rfl, .inr rfl⟩,
   ⟨vS, by decide, plain .l x0⟩,
   ⟨{ vS with role := 3 }, st .l xMeet, wL, xMeet, ⟨0, 1⟩, rfl, issues_of rfl rfl (by decide +kernel), falls_of (by decide +kernel), rfl, by decide +kernel, rfl, by decide +kernel⟩,
   ⟨vS, ⟨0, none, ⟨0, 0⟩, none, none, none⟩, metA (st .l x0) wL x0⟩,
   ⟨vS, metA (st .l xLast) wL xLast⟩,
   ⟨vS, metA (st .l { xLast with toks := #v[1, 0, 0, 0] }) wL { xLast with toks := #v[1, 0, 0, 0] }⟩,
   ⟨{ vS with a := 49 }, ⟨false, .l, [.c, .s]⟩, met (st .l x0) wL x0⟩,
   ⟨{ vS with d := 49 }, true, [], met (st .l { x0 with bf := [⟨true, .c, [.l]⟩] }) wL { x0 with bf := [⟨true, .c, [.l]⟩] }⟩,
   ⟨vS, met (st .l x0) wL x0⟩,
   ⟨vS, met (st .l x0) wL x0⟩,
   ⟨{ vS with a := 62, imm := 4095 }, metA (st .l x0) wL x0⟩,
   ⟨vS, st .l x0, wL, x0, ⟨0, 1⟩, issues_of rfl rfl (by decide +kernel), falls_of (by decide +kernel), rfl⟩,
   ⟨vS, st .l x0, wL, x0, ⟨0, 1⟩, issues_of rfl rfl (by decide +kernel), falls_of (by decide +kernel), rfl, rfl⟩,
   ⟨vS, metA (st .l { x0 with dbgen := true }) wL { x0 with dbgen := true }⟩,
   ⟨{ vS with imm := 0x010000000008#48, mod := 3 }, ⟨2, 1, [], List.replicate 16 0⟩, 8, 8, meets (sPool) wL x0 rfl rfl (by decide +kernel) (by decide +kernel)⟩⟩

/-- Every q-register holds two entries: of lanes 1.0 and of lanes 2. -/
def xq : Ctx :=
  { x0 with qs := Vector.replicate 16 { ents := [{ lanes := some (List.replicate 64 0x3F800000), id := 0 }, { lanes := some (List.replicate 64 2), id := 0 }] } }
/-- A vector word of the C role from q0, q1 and q2 to q3, all lanes. -/
def wq : WordV := { vV with role := 1, d := 35, a := 32, b := 33, c := 34, type := 8 }
def wq1 : WordV := { vV with role := 1, d := 35, a := 32, type := 8 }
def wq2 : WordV := { vV with role := 1, d := 35, a := 32, b := 33, type := 8 }

/-- The hypotheses of `Obligations.VectorFloat` are met, clause by clause. -/
theorem witness_VectorFloat :
    (∃ v, Meets (.vadd v) (frameV v) (vReady v 2)
      (vComputed 2 (floatLanes (fun m a b _ u => fAdd fmtF32 m a b u)) v)) ∧
    (∃ v, Meets (.vsub v) (frameV v) (vReady v 2)
      (vComputed 2 (floatLanes (fun m a b _ u => fAdd fmtF32 m a b.negate u)) v)) ∧
    (∃ v, Meets (.vmul v) (frameV v) (vReady v 2)
      (vComputed 2 (floatLanes (fun m a b _ u => fMul fmtF32 m a b u)) v)) ∧
    (∃ v, Meets (.vfma v) (frameV v) (vReady v 3)
      (vComputed 3 (floatLanes (fun m a b c u => fFma fmtF32 m a b c u)) v)) ∧
    (∃ v, Meets (.vfms v) (frameV v) (vReady v 3)
      (vComputed 3 (floatLanes (fun m a b c u => fFma fmtF32 m a b c.negate u)) v)) ∧
    (∃ v, Meets (.vfnma v) (frameV v) (vReady v 3)
      (vComputed 3 (floatLanes (fun m a b c u => fFma fmtF32 m a.negate b c u)) v)) ∧
    (∃ v, Meets (.vdiv v) (frameV v) (vReady v 2)
      (vComputed 2 (floatLanes (fun m a b _ u => fDiv fmtF32 m a b u)) v)) ∧
    (∃ v, Meets (.vsqrt v) (frameV v) (vReady v 1)
      (vComputed 1 (floatLanes (fun m a _ _ u => fSqrt fmtF32 m a u)) v)) ∧
    (∃ v, Meets (.vmin v) (frameV v) (vReady v 2)
      (vComputed 2 (wordLanes (fun _ a b _ => fPick false a b)) v)) ∧
    (∃ v, Meets (.vmax v) (frameV v) (vReady v 2)
      (vComputed 2 (wordLanes (fun _ a b _ => fPick true a b)) v)) ∧
    (∃ v, Meets (.vabs v) (frameV v) (vReady v 1)
      (vComputed 1 (wordLanes (fun _ a _ _ => fSign (fun x => x &&& 0x7FFFFFFF#32) a)) v)) ∧
    (∃ v, Meets (.vneg v) (frameV v) (vReady v 1)
      (vComputed 1 (wordLanes (fun _ a _ _ => fSign (fun x => x ^^^ 0x80000000#32) a)) v)) ∧
    (∃ v, Meets (.vrcp v) (frameV v) (vReady v 1)
      (vComputed 1 (wordLanes (fun _ a _ _ => Machine.vrcp (f32 a))) v)) ∧
    (∃ v, Meets (.vrsq v) (frameV v) (vReady v 1)
      (vComputed 1 (wordLanes (fun _ a _ _ => Machine.vrsq (f32 a))) v)) ∧
    (∃ v, Meets (.vexp2 v) (frameV v) (vReady v 1)
      (vComputed 1 (wordLanes (fun _ a _ _ => Machine.vexp2 (f32 a))) v)) ∧
    (∃ v, Meets (.vlog2 v) (frameV v) (vReady v 1)
      (vComputed 1 (wordLanes (fun _ a _ _ => Machine.vlog2 (f32 a))) v)) :=
  ⟨⟨wq2, meets (st .c xq) wC xq rfl rfl (by decide +kernel) rfl⟩,
   ⟨wq2, meets (st .c xq) wC xq rfl rfl (by decide +kernel) rfl⟩,
   ⟨wq2, meets (st .c xq) wC xq rfl rfl (by decide +kernel) rfl⟩,
   ⟨wq, meets (st .c xq) wC xq rfl rfl (by decide +kernel) rfl⟩,
   ⟨wq, meets (st .c xq) wC xq rfl rfl (by decide +kernel) rfl⟩,
   ⟨wq, meets (st .c xq) wC xq rfl rfl (by decide +kernel) rfl⟩,
   ⟨wq2, meets (st .c xq) wC xq rfl rfl (by decide +kernel) rfl⟩,
   ⟨wq1, meets (st .c xq) wC xq rfl rfl (by decide +kernel) rfl⟩,
   ⟨wq2, meets (st .c xq) wC xq rfl rfl (by decide +kernel) rfl⟩,
   ⟨wq2, meets (st .c xq) wC xq rfl rfl (by decide +kernel) rfl⟩,
   ⟨wq1, meets (st .c xq) wC xq rfl rfl (by decide +kernel) rfl⟩,
   ⟨wq1, meets (st .c xq) wC xq rfl rfl (by decide +kernel) rfl⟩,
   ⟨wq1, meets (st .c xq) wC xq rfl rfl (by decide +kernel) rfl⟩,
   ⟨wq1, meets (st .c xq) wC xq rfl rfl (by decide +kernel) rfl⟩,
   ⟨wq1, meets (st .c xq) wC xq rfl rfl (by decide +kernel) rfl⟩,
   ⟨wq1, meets (st .c xq) wC xq rfl rfl (by decide +kernel) rfl⟩⟩

/-- The hypotheses of `Obligations.VectorInteger` are met, clause by clause. -/
theorem witness_VectorInteger :
    (∃ v, Meets (.viadd v) (frameV v) (vReady v 2)
      (vComputed 2 (wordLanes (fun _ a b _ => bare (a + b))) v)) ∧
    (∃ v, Meets (.visub v) (frameV v) (vReady v 2)
      (vComputed 2 (wordLanes (fun _ a b _ => bare (a - b))) v)) ∧
    (∃ v, Meets (.vimul v) (frameV v) (vReady v 2)
      (vComputed 2 (wordLanes (fun _ a b _ => bare (a * b))) v)) ∧
    (∃ v, Meets (.vimad v) (frameV v) (vReady v 3)
      (vComputed 3 (wordLanes (fun _ a b c => bare (a * b + c))) v)) ∧
    (∃ v, Meets (.vimulh v) (frameV v) (vReady v 2)
      (vComputed 2 (wordLanes (fun v a b _ => bare (BitVec.ofInt 32 (iVal v a * iVal v b / 2 ^ 32)))) v)) ∧
    (∃ v, Meets (.vsadd v) (frameV v) (vReady v 2)
      (vComputed 2 (wordLanes (fun v a b _ => iSat v (iVal v a + iVal v b))) v)) ∧
    (∃ v, Meets (.vssub v) (frameV v) (vReady v 2)
      (vComputed 2 (wordLanes (fun v a b _ => iSat v (iVal v a - iVal v b))) v)) ∧
    (∃ v, Meets (.vimin v) (frameV v) (vReady v 2)
      (vComputed 2 (wordLanes (fun v a b _ => bare (if iVal v b < iVal v a then b else a))) v)) ∧
    (∃ v, Meets (.vimax v) (frameV v) (vReady v 2)
      (vComputed 2 (wordLanes (fun v a b _ => bare (if iVal v a < iVal v b then b else a))) v)) ∧
    (∃ v, Meets (.viabs v) (frameV v) (vReady v 1)
      (vComputed 1 (wordLanes (fun v a _ _ => iSat v (a.toInt.natAbs : Nat))) v)) ∧
    (∃ v, Meets (.vshl v) (frameV v) (vReady v 2)
      (vComputed 2 (wordLanes (fun _ a b _ => bare (a <<< (b.toNat % 32)))) v)) ∧
    (∃ v, Meets (.vshr v) (frameV v) (vReady v 2)
      (vComputed 2 (wordLanes (fun _ a b _ => bare (a >>> (b.toNat % 32)))) v)) ∧
    (∃ v, Meets (.vsra v) (frameV v) (vReady v 2)
      (vComputed 2 (wordLanes (fun _ a b _ => bare (a.sshiftRight (b.toNat % 32)))) v)) ∧
    (∃ v, Meets (.vand v) (frameV v) (vReady v 2)
      (vComputed 2 (wordLanes (fun _ a b _ => bare (a &&& b))) v)) ∧
    (∃ v, Meets (.vor v) (frameV v) (vReady v 2)
      (vComputed 2 (wordLanes (fun _ a b _ => bare (a ||| b))) v)) ∧
    (∃ v, Meets (.vxor v) (frameV v) (vReady v 2)
      (vComputed 2 (wordLanes (fun _ a b _ => bare (a ^^^ b))) v)) ∧
    (∃ v, Meets (.vpopc v) (frameV v) (vReady v 1)
      (vComputed 1 (wordLanes (fun _ a _ _ => bare (BitVec.ofNat 32 (popNat 32 a.toNat)))) v)) ∧
    (∃ v, Meets (.vclz v) (frameV v) (vReady v 1)
      (vComputed 1 (wordLanes (fun _ a _ _ => bare (BitVec.ofNat 32 (clzNat 32 a.toNat)))) v)) :=
  ⟨⟨{ wq2 with type := 2 }, meets (st .c xq) wC xq rfl rfl (by decide +kernel) rfl⟩,
   ⟨{ wq2 with type := 2 }, meets (st .c xq) wC xq rfl rfl (by decide +kernel) rfl⟩,
   ⟨{ wq2 with type := 2 }, meets (st .c xq) wC xq rfl rfl (by decide +kernel) rfl⟩,
   ⟨{ wq with type := 2 }, meets (st .c xq) wC xq rfl rfl (by decide +kernel) rfl⟩,
   ⟨{ wq2 with type := 2 }, meets (st .c xq) wC xq rfl rfl (by decide +kernel) rfl⟩,
   ⟨{ wq2 with type := 2 }, meets (st .c xq) wC xq rfl rfl (by decide +kernel) rfl⟩,
   ⟨{ wq2 with type := 2 }, meets (st .c xq) wC xq rfl rfl (by decide +kernel) rfl⟩,
   ⟨{ wq2 with type := 2 }, meets (st .c xq) wC xq rfl rfl (by decide +kernel) rfl⟩,
   ⟨{ wq2 with type := 2 }, meets (st .c xq) wC xq rfl rfl (by decide +kernel) rfl⟩,
   ⟨{ wq1 with type := 2 }, meets (st .c xq) wC xq rfl rfl (by decide +kernel) rfl⟩,
   ⟨{ wq2 with type := 6 }, meets (st .c xq) wC xq rfl rfl (by decide +kernel) rfl⟩,
   ⟨{ wq2 with type := 6 }, meets (st .c xq) wC xq rfl rfl (by decide +kernel) rfl⟩,
   ⟨{ wq2 with type := 6 }, meets (st .c xq) wC xq rfl rfl (by decide +kernel) rfl⟩,
   ⟨{ wq2 with type := 6 }, meets (st .c xq) wC xq rfl rfl (by decide +kernel) rfl⟩,
   ⟨{ wq2 with type := 6 }, meets (st .c xq) wC xq rfl rfl (by decide +kernel) rfl⟩,
   ⟨{ wq2 with type := 6 }, meets (st .c xq) wC xq rfl rfl (by decide +kernel) rfl⟩,
   ⟨{ wq1 with type := 6 }, meets (st .c xq) wC xq rfl rfl (by decide +kernel) rfl⟩,
   ⟨{ wq1 with type := 6 }, meets (st .c xq) wC xq rfl rfl (by decide +kernel) rfl⟩⟩

/-- The hypotheses of `Obligations.VectorConvertAndMove` are met, clause by clause. -/
theorem witness_VectorConvertAndMove :
    (∃ v, Meets (.vcvt v) (frameV v) (vReady v 1)
      (vComputed 1 (fun v m => perLaneR m (v.rm == 4 && !neverRounds (field v.imm 0 5) v.type)
    (fun i u => convElem (field v.imm 0 5) v.type (rmOf v) (bitAt v.imm 5) (lane m.a i).toNat u)) v)) ∧
    (∃ v, Meets (.vpack v) (frameV v) (vReady v 2)
      (vComputed 2 (fun v m =>
    if codeBits v.type = 16 then fromDense m 2 (fun k => (if k < 64 then lane m.a k else lane m.b (k - 64)).toNat)
    else fromDense m 1 (fun k => if k < 128 then denseAt m.a 2 k else denseAt m.b 2 (k - 128))) v)) ∧
    (∃ v, Meets (.vunpk v) (frameV v) (vReady v 1)
      (vComputed 1 (fun v m =>
    if codeBits v.type = 16 then
      perLane m (fun i => ⟨lowBits 32 (intOfCode v.type (denseAt m.a 2 (64 * (field v.imm 0 1).toNat + i))), 0⟩)
    else fromDense m 2 (fun k => lowBits 16 (intOfCode v.type (denseAt m.a 1 (128 * (field v.imm 0 1).toNat + k))))) v)) ∧
    (∃ v, Meets (.vqbfp v) (frameV v) (vReady v 2)
      (vComputed 2 (fun v m =>
    let u1 := fun i => lfsrStep (lfsrAt m.lfsr i)
    let u2 := fun i => lfsrStep (u1 i)
    let xs := laneIx.map (fun i => (f32 (lane m.a i), u1 i)) ++ laneIx.map (fun i => (f32 (lane m.b i), u2 i))
    let bs := (blocks4 xs).map (toBlock (blockHalf v.type) (blockWidth v.type) (rmOf v))
    { lanes := bytesLanes (planeRow (blockWidth v.type) bs), fl := bs.foldl (fun f b => f ||| b.flags) 0,
      lfsr := if v.rm = 4 then laneIx.map u2 else m.lfsr }) v)) ∧
    (∃ v, Meets (.vdqbfp v) (frameV v) (vReady v 1)
      (vComputed 1 (fun v m => perLane m (fun i => fConv fmtF32 .rne false
    (planeVal (blockHalf v.type) (blockWidth v.type) (laneBytes m.a) (64 * (field v.imm 0 1).toNat + i)) 0)) v)) ∧
    (∃ v, Meets (.vmov v) (frameV v) (vReady v 1)
      (vComputed 1 (wordLanes (fun _ a _ _ => bare a)) v)) ∧
    (∃ v, Meets (.vins v) (frameV v) (vReady v 3)
      (vComputed 3 (fun _ m => perLane m (fun i => bare (if i = (lane m.c 0).toNat % 64 then lane m.b i else lane m.a i))) v)) ∧
    (∃ v, Meets (.vext v) (frameV v) (vReady v 2)
      (vComputed 2 (fun v m =>
    { sc := if v.type = 2 then (lane m.a ((lane m.b 0).toNat % 64)).signExtend 64
    else (lane m.a ((lane m.b 0).toNat % 64)).setWidth 64, lfsr := m.lfsr }) v)) ∧
    (∃ v, Meets (.vperm v) (frameV v) (vReady v 2)
      (vComputed 2 (fun _ m => perLane m (fun i => bare (lane m.a ((lane m.b i).toNat % 64)))) v)) ∧
    (∃ v, Meets (.vrot v) (frameV v) (vReady v 2)
      (vComputed 2 (fun _ m => perLane m (fun i => bare (lane m.a ((i + 64 - (lane m.b 0).toNat % 64) % 64)))) v)) ∧
    (∃ v, Meets (.vcmpr v) (frameV v) (vReady v 1)
      (vComputed 1 (fun _ m =>
    { lanes := laneIx.map (fun i => (m.enabled[i]?.map (fun j => lane m.a j)).getD 0), lfsr := m.lfsr }) v)) ∧
    (∃ v, Meets (.vexpd v) (frameV v) (vReady v 1)
      (vComputed 1 (fun _ m => perLane m (fun i => bare (lane m.a (m.enabled.countP (· < i))))) v)) ∧
    (∃ v, Meets (.vsel v) (frameV v)
      (vReady v 2)
      (fun w x s => vOut v 2 w x (perLane (vIn v 2 w x) (fun i =>
    bare (if bitAt ((x.role w.r).s v.c.toNat) i then lane (vIn v 2 w x).a i else lane (vIn v 2 w x).b i))) s)) :=
  ⟨⟨wq1, meets (st .c xq) wC xq rfl rfl (by decide +kernel) rfl⟩,
   ⟨{ wq2 with type := 1 }, meets (st .c xq) wC xq rfl rfl (by decide +kernel) rfl⟩,
   ⟨{ wq1 with type := 1 }, meets (st .c xq) wC xq rfl rfl (by decide +kernel) rfl⟩,
   ⟨{ wq2 with type := 13 }, meets (st .c xq) wC xq rfl rfl (by decide +kernel) rfl⟩,
   ⟨{ wq1 with type := 13 }, meets (st .c xq) wC xq rfl rfl (by decide +kernel) rfl⟩,
   ⟨{ wq1 with type := 6 }, meets (st .c xq) wC xq rfl rfl (by decide +kernel) rfl⟩,
   ⟨{ wq with type := 6, b := 1, c := 2 }, meets (st .c xq) wC xq rfl rfl (by decide +kernel) rfl⟩,
   ⟨{ wq2 with type := 6, b := 1, d := 3 }, meets (st .c xq) wC xq rfl rfl (by decide +kernel) rfl⟩,
   ⟨{ wq2 with type := 6 }, meets (st .c xq) wC xq rfl rfl (by decide +kernel) rfl⟩,
   ⟨{ wq2 with type := 6, b := 1 }, meets (st .c xq) wC xq rfl rfl (by decide +kernel) rfl⟩,
   ⟨{ wq1 with type := 6 }, meets (st .c xq) wC xq rfl rfl (by decide +kernel) rfl⟩,
   ⟨{ wq1 with type := 6 }, meets (st .c xq) wC xq rfl rfl (by decide +kernel) rfl⟩,
   ⟨{ wq2 with type := 6, c := 4 }, meets (st .c xq) wC xq rfl rfl (by decide +kernel) rfl⟩⟩

/-- The hypotheses of `Obligations.VectorToScalar` are met, clause by clause. -/
theorem witness_VectorToScalar :
    (∃ v, Meets (.vcmp v) (frameV v) (vReady v 2)
      (vComputed 2 (fun v m =>
    { sc := maskOf m (fun i => condF (field v.imm 0 4).toNat (f32 (lane m.a i)) (f32 (lane m.b i))),
      fl := flagIf (laneIx.any (fun i => m.en i && ((f32 (lane m.a i)).isSnan || (f32 (lane m.b i)).isSnan))) fNV, lfsr := m.lfsr }) v)) ∧
    (∃ v, Meets (.vicmp v) (frameV v) (vReady v 2)
      (vComputed 2 (fun v m =>
    { sc := maskOf m (fun i => condOf (field v.imm 0 4).toNat (lane m.a i) (lane m.b i)), lfsr := m.lfsr }) v)) ∧
    (∃ v, Meets (.vred v) (frameV v) (vReady v 1)
      (vComputed 1 (fun v m =>
    let op := (field v.imm 0 4).toNat
    let r := treeRed (redOp op v.type) (laneIx.map (fun i => if m.en i then lane m.a i else redId op v.type))
    { sc := if v.type = 2 then r.1.signExtend 64 else r.1.setWidth 64, fl := r.2, lfsr := m.lfsr }) v)) ∧
    (∃ v, Meets (.vscan v) (frameV v) (vReady v 1)
      (vComputed 1 (fun v m =>
    let op := (field v.imm 0 4).toNat
    let r := laneIx.foldl (scanStep m op v.type (bitAt v.imm 4)) ([], redId op v.type, 0)
    { lanes := r.1.reverse, fl := r.2.2, lfsr := m.lfsr }) v)) ∧
    (∃ v, Meets (.varg v) (frameV v) (vReady v 1)
      (vComputed 1 (fun v m =>
    { sc := ((argBest v m).map (fun i => BitVec.ofNat 64 i)).getD (-1),
      fl := flagIf (m.enabled.any (fun i => v.type == 8 && (f32 (lane m.a i)).isSnan)) fNV, lfsr := m.lfsr }) v)) :=
  ⟨⟨{ wq2 with d := 3 }, meets (st .c xq) wC xq rfl rfl (by decide +kernel) rfl⟩,
   ⟨{ wq2 with d := 3, type := 2 }, meets (st .c xq) wC xq rfl rfl (by decide +kernel) rfl⟩,
   ⟨{ wq1 with d := 3 }, meets (st .c xq) wC xq rfl rfl (by decide +kernel) rfl⟩,
   ⟨wq1, meets (st .c xq) wC xq rfl rfl (by decide +kernel) rfl⟩,
   ⟨{ wq1 with d := 3 }, meets (st .c xq) wC xq rfl rfl (by decide +kernel) rfl⟩⟩

/-- s4 addresses group 1 (R160). -/
def xO : Ctx := { x0 with rl := { sregs := (Vector.replicate 32 0).set 4 0x1000000000000 }, rs := { sregs := (Vector.replicate 32 0).set 4 0x1000000000000 } }

/-- The hypotheses of `Obligations.LoadsIssue` are met, clause by clause. -/
theorem witness_LoadsIssue :
    (∃ v p, MeetsS (.ldl v) (frameM v) (loadReady .l v p)) ∧
    (∃ v p, MeetsS (.ldk v) (frameM v) (loadReady .k v p)) ∧
    (∃ v p, MeetsS (.ldg v) (frameM v) (loadReady .g v p)) ∧
    (∃ v p, MeetsS (.ldf v) (frameM v) (loadReady .f v p)) ∧
    (∃ v p, MeetsS (.ldo v) (frameM v) (loadReady .o v p)) ∧
    (∃ v p, MeetsS (.ldh v) (frameM v) (loadReady .h v p)) :=
  ⟨⟨{ vM with data := 3, imm := 4095 }, .a c0 4095, meetsS (st .l x0) wL x0 rfl rfl (by decide +kernel) ⟨by decide +kernel, by decide +kernel, by decide +kernel, rfl, fun _ _ _ _ => rfl, (fun _ h => absurd h (by decide)), (fun h => absurd h (by decide))⟩⟩,
   ⟨{ vM with data := 3 }, .a c0 0, meetsS (st .l x0) wL x0 rfl rfl (by decide +kernel) ⟨by decide +kernel, by decide +kernel, by decide +kernel, rfl, (fun h => nomatch h), (fun h => nomatch h), (fun h => absurd h (by decide))⟩⟩,
   ⟨{ vM with data := 3, width := 3, imm := 0xFFF8 }, .g 0xFFF8 0x10000, meetsS (st .l x0) wL x0 rfl rfl (by decide +kernel) ⟨by decide +kernel, by decide +kernel, by decide +kernel, rfl, (fun h => nomatch h), (fun h => nomatch h), (fun h => absurd h (by decide))⟩⟩,
   ⟨{ vM with data := 3 }, .f 0 0, meetsS (st .l x0) wL x0 rfl rfl (by decide +kernel) ⟨by decide +kernel, by decide +kernel, by decide +kernel, rfl, (fun h => nomatch h), (fun h => nomatch h), (fun h => absurd h (by decide))⟩⟩,
   ⟨{ vM with data := 3, base := 4, width := 3, imm := 4088 }, .o 1 4088, meetsS (st .l xO) wL xO rfl rfl (by decide +kernel) ⟨by decide +kernel, by decide +kernel, by decide +kernel, rfl, (fun h => nomatch h), (fun h => nomatch h), (fun h => absurd h (by decide))⟩⟩,
   ⟨{ vM with data := 3, imm := 4095 }, .h 0 4095 4095, meetsS (st .l x0) wL x0 rfl rfl (by decide +kernel) ⟨by decide +kernel, by decide +kernel, by decide +kernel, rfl, (fun h => nomatch h), (fun h => nomatch h), (fun h => absurd h (by decide))⟩⟩⟩

/-- The hypotheses of `Obligations.StoresAccepted` are met, clause by clause. -/
theorem witness_StoresAccepted :
    (∃ v p, Meets (.stl v) (frameM v) (storeReady .l v p)
      (storeAccepted .l v p)) ∧
    (∃ v p, Meets (.stk v) (frameM v) (storeReady .k v p)
      (storeAccepted .k v p)) ∧
    (∃ v p, Meets (.stg v) (frameM v) (storeReady .g v p)
      (storeAccepted .g v p)) ∧
    (∃ v p, Meets (.stf v) (frameM v) (storeReady .f v p)
      (storeAccepted .f v p)) ∧
    (∃ v p, Meets (.sto v) (frameM v) (storeReady .o v p)
      (storeAccepted .o v p)) ∧
    (∃ v p, Meets (.sth v) (frameM v) (storeReady .h v p)
      (storeAccepted .h v p)) :=
  ⟨⟨{ vM with data := 3, imm := 4095 }, .a c0 4095, meets (st .l x0) wL x0 rfl rfl (by decide +kernel) ⟨by decide +kernel, by decide +kernel, by decide +kernel, fun h => absurd h (by decide)⟩⟩,
   ⟨{ vM with role := 2, data := 3 }, .a c0 0, meets (st .s x0) wS x0 rfl rfl (by decide +kernel) ⟨by decide +kernel, by decide +kernel, by decide +kernel, fun h => absurd h (by decide)⟩⟩,
   ⟨{ vM with role := 2, data := 3, width := 3, imm := 0xFFF8 }, .g 0xFFF8 0x10000, meets (st .s x0) wS x0 rfl rfl (by decide +kernel) ⟨by decide +kernel, by decide +kernel, by decide +kernel, fun h => absurd h (by decide)⟩⟩,
   ⟨{ vM with role := 2, data := 3 }, .f 0 0, meets (st .s x0) wS x0 rfl rfl (by decide +kernel) ⟨by decide +kernel, by decide +kernel, by decide +kernel, fun h => absurd h (by decide)⟩⟩,
   ⟨{ vM with role := 2, data := 3, base := 4, width := 3, imm := 4088 }, .o 1 4088, meets (st .s xO) wS xO rfl rfl (by decide +kernel) ⟨by decide +kernel, by decide +kernel, by decide +kernel, fun h => absurd h (by decide)⟩⟩,
   ⟨{ vM with role := 2, data := 3, imm := 4095 }, .h 0 4095 4095, meets (st .s x0) wS x0 rfl rfl (by decide +kernel) ⟨by decide +kernel, by decide +kernel, by decide +kernel, fun h => absurd h (by decide)⟩⟩⟩

/-- The hypotheses of `Obligations.AccessFaults` are met, clause by clause. -/
theorem witness_AccessFaults :
    (∃ v c val, MeetsA (.ldl v) (frameM v) (fun w x s => place s w x (accOf .l v w x false) = .fault c val)) ∧
    (∃ v c val, MeetsA (.stl v) (frameM v) (fun w x s => place s w x (accOf .l v w x true) = .fault c val)) ∧
    (∃ v c val, MeetsA (.ldk v) (frameM v) (fun w x s => place s w x (accOf .k v w x false) = .fault c val)) ∧
    (∃ v c val, MeetsA (.stk v) (frameM v) (fun w x s => place s w x (accOf .k v w x true) = .fault c val)) ∧
    (∃ v c val, MeetsA (.ldg v) (frameM v) (fun w x s => place s w x (accOf .g v w x false) = .fault c val)) ∧
    (∃ v c val, MeetsA (.stg v) (frameM v) (fun w x s => place s w x (accOf .g v w x true) = .fault c val)) ∧
    (∃ v c val, MeetsA (.ldf v) (frameM v) (fun w x s => place s w x (accOf .f v w x false) = .fault c val)) ∧
    (∃ v c val, MeetsA (.stf v) (frameM v) (fun w x s => place s w x (accOf .f v w x true) = .fault c val)) ∧
    (∃ v c val, MeetsA (.ldo v) (frameM v) (fun w x s => place s w x (accOf .o v w x false) = .fault c val)) ∧
    (∃ v c val, MeetsA (.sto v) (frameM v) (fun w x s => place s w x (accOf .o v w x true) = .fault c val)) ∧
    (∃ v c val, MeetsA (.ldh v) (frameM v) (fun w x s => place s w x (accOf .h v w x false) = .fault c val)) ∧
    (∃ v c val, MeetsA (.sth v) (frameM v) (fun w x s => place s w x (accOf .h v w x true) = .fault c val)) ∧
    (∃ v port val, ∃ (s : State), ∃ (w : Who), ∃ (x : Ctx), Issues (.ldh v) (frameM v) s w x ∧
    place (s.popped (frameM v) w x) w ((frameM v).popped w x) (accOf .h v w ((frameM v).popped w x) false) = .down port val) :=
  ⟨⟨{ vM with data := 3, width := 1, imm := 1 }, cAlign, 1, metA (st .l x0) wL x0⟩,
   ⟨{ vM with data := 3, width := 1, imm := 4096 }, cBound, 4096, metA (st .l x0) wL x0⟩,
   ⟨{ vM with data := 3, width := 1, imm := 4096 }, cBound, 4096, metA (st .l x0) wL x0⟩,
   ⟨{ vM with role := 2, data := 3, width := 1, imm := 4096 }, cBound, 4096, metA (st .s x0) wS x0⟩,
   ⟨{ vM with data := 3, width := 1, imm := 1 }, cAlign, 1, metA (st .l x0) wL x0⟩,
   ⟨{ vM with role := 2, data := 3, width := 1, imm := 1 }, cAlign, 1, metA (st .s x0) wS x0⟩,
   ⟨{ vM with data := 3, width := 1, imm := 1 }, cAlign, 1, metA (st .l x0) wL x0⟩,
   ⟨{ vM with role := 2, data := 3, width := 1, imm := 1 }, cAlign, 1, metA (st .s x0) wS x0⟩,
   ⟨{ vM with data := 3, width := 3 }, cAddrForm, 0, metA (st .l x0) wL x0⟩,
   ⟨{ vM with role := 2, data := 3, width := 3 }, cAddrForm, 0, metA (st .s x0) wS x0⟩,
   ⟨{ vM with data := 3, width := 1, imm := 4096 }, cAddrForm, 0, metA (st .l x0) wL x0⟩,
   ⟨{ vM with role := 2, data := 3, width := 1, imm := 4096 }, cAddrForm, 0, metA (st .s x0) wS x0⟩,
   ⟨{ vM with data := 3 }, 0, 0, { st .l x0 with host := { (st .l x0).host with link0 := false } }, wL, x0, issues_of rfl rfl (by decide +kernel), by decide +kernel⟩⟩

/-- q0 and q1 hold one entry each: 64 zero offsets, 64 twos. -/
def xLx : Ctx :=
  { x0 with qs := ((Vector.replicate 16 {}).set 0 { ents := [{ lanes := some (List.replicate 64 0), id := 0 }] }).set 1 { ents := [{ lanes := some (List.replicate 64 2), id := 0 }] } }

/-- The hypotheses of `Obligations.GatherScatterAtomics` are met, clause by clause. -/
theorem witness_GatherScatterAtomics :
    (∃ v os, MeetsS (.ldlx v) (frameM v)
      (fun w x s => ((Taken.q { x := x } (qOf v.index) false).stop none = none) ∧
      os = laneOffs v w x (headLanes x (qOf v.index)) ∧ laneFault x (widthBytes v.width) os = none ∧
      roleHold s w x (.window 0) 0 = none ∧
      x.flights.any (fun f => f.role == w.r && os.any (fun o => f.overlaps (.a w.c o.toNat) (widthBytes v.width))) = false ∧
      inFlight x w.r < 32 ∧ (Taken.q { x := x } (qOf v.index) false).stop (some (qOf v.data)) = none ∧
      os.any (fun o => s.badS w.c 0 o.toNat (widthBytes v.width)) = false)) ∧
    (∃ v os i t, Meets (.stlx v) (frameM v)
      (fun w x s => i = Taken.q { x := (Taken.q { x := x } (qOf v.data) false).x } (qOf v.index) false ∧ i.stop none = none ∧
      t = Taken.q (Taken.q { x := x } (qOf v.data) false) (qOf v.index) false ∧ t.stop none = none ∧
      os = laneOffs v w x (i.vals.headD []) ∧ laneFault x (widthBytes v.width) os = none ∧
      roleHold s w x (.window 0) 0 = none ∧ storeHold s w x (.window 0) = none ∧
      x.flights.any (fun f => f.role == w.r && os.any (fun o => f.overlaps (.a w.c o.toNat) (widthBytes v.width))) = false)
      (fun w _ s => s.addStore w t.x v (.a w.c (os.headD 0).toNat) 0 (bytesOf (lane (t.vals.headD []) 0) (widthBytes v.width))
      (((List.range 64).map (fun i => ((os.getD i 0).toNat, bytesOf (lane (t.vals.headD []) i) (widthBytes v.width)))).drop 1))) ∧
    (∃ v pa va, Meets (.pfg v) (frameM v)
      (fun w x s => va = (if v.width = 4 then memAddr .g v w x false &&& ~~~0xFF#64 else memAddr .g v w x false) ∧ v.cache ≠ 2 ∧
      field va 48 16 = 0 ∧ s.look w.c.cid x.part va.toNat false = .ok pa)
      (fun w x s => (List.range (if v.width = 4 then 4 else 1)).foldl (fun s i =>
      if s.badG (lineOf (pa + 64 * i)) 64 then s else s.fillLine w.c.cid (pa + 64 * i) (v.cache == 1))
        (s.keepLeaf w.c.cid x.part va.toNat))) ∧
    (∃ v va, Meets (.pfg v) (frameM v)
      (fun w x s => va = (if v.width = 4 then memAddr .g v w x false &&& ~~~0xFF#64 else memAddr .g v w x false) ∧
      (v.cache = 2 ∨ field va 48 16 ≠ 0 ∨ ∃ e, s.look w.c.cid x.part va.toNat false = .error e))
      (fun _ _ s => s)) ∧
    (∃ v p, atomRet v = true ∧ MeetsS (.atl v) (frameAtom v) (atomReady .l v p)) ∧
    (∃ v p, atomRet v = false ∧ Meets (.atl v) (frameAtom v) (atomReady .l v p)
      (atomIssued .l v p)) ∧
    (∃ v p, atomRet v = true ∧ MeetsS (.atk v) (frameAtom v) (atomReady .k v p)) ∧
    (∃ v p, atomRet v = false ∧ Meets (.atk v) (frameAtom v) (atomReady .k v p)
      (atomIssued .k v p)) ∧
    (∃ v p, atomRet v = true ∧ MeetsS (.atg v) (frameAtom v) (atomReady .g v p)) ∧
    (∃ v p, atomRet v = false ∧ Meets (.atg v) (frameAtom v) (atomReady .g v p)
      (atomIssued .g v p)) ∧
    (∃ v p, atomRet v = true ∧ MeetsS (.atf v) (frameAtom v) (atomReady .f v p)) ∧
    (∃ v p, atomRet v = false ∧ Meets (.atf v) (frameAtom v) (atomReady .f v p)
      (atomIssued .f v p)) ∧
    (∃ v, Meets (.fence v) (frameM v)
      (fun w x s => (bitAt v.order 1 = true → released s w.c x w.r x.nextId v.scope.toNat = true) ∧
      (bitAt v.order 0 = true → x.flights.any (fun f => f.role == w.r && f.dest != .none) = false))
      (fun w _ s => if bitAt v.order 0 then (if bitAt v.order 1 then s.release w.c v.scope.toNat else s).acquire w.c.cid v.scope.toNat
      else if bitAt v.order 1 then s.release w.c v.scope.toNat else s)) :=
  ⟨⟨{ vM with data := 34, index := 32 }, List.replicate 64 0, metS (st .l xLx) wL xLx⟩,
   ⟨{ vM with data := 33, index := 32 }, List.replicate 64 0, _, _, meets (st .l xLx) wL xLx rfl rfl (by decide +kernel) ⟨rfl, by decide +kernel, rfl, by decide +kernel⟩⟩,
   ⟨{ vM with width := 4, imm := 0xFFF4 }, 0xFF00, 0xFF00, meets (st .l x0) wL x0 rfl rfl (by decide +kernel) ⟨by decide +kernel, by decide, by decide +kernel, ok_of (by decide +kernel)⟩⟩,
   ⟨{ vM with imm := 0x40000000 }, 0x40000000, meets (st .l x0) wL x0 rfl rfl (by decide +kernel) ⟨by decide +kernel, .inr (.inr ⟨cTranslation, err_of (by decide +kernel)⟩)⟩⟩,
   ⟨{ vM with data := 3, width := 2, imm := 0x80000000000 }, .a c0 0, by decide, meetsS (st .l x0) wL x0 rfl rfl (by decide +kernel) ⟨by decide +kernel, by decide +kernel, by decide +kernel, (fun h => nomatch h), fun h => absurd h (by decide)⟩⟩,
   ⟨{ vM with data := 3, width := 2, imm := 0 }, .a c0 0, by decide, meets (st .l x0) wL x0 rfl rfl (by decide +kernel) ⟨by decide +kernel, by decide +kernel, by decide +kernel, (fun h => nomatch h), fun h => absurd h (by decide)⟩⟩,
   ⟨{ vM with data := 3, width := 2, imm := 0x80000000000 }, .a c0 0, by decide, meetsS (st .l x0) wL x0 rfl rfl (by decide +kernel) ⟨by decide +kernel, by decide +kernel, by decide +kernel, (fun h => nomatch h), fun h => absurd h (by decide)⟩⟩,
   ⟨{ vM with data := 3, width := 2, imm := 0 }, .a c0 0, by decide, meets (st .l x0) wL x0 rfl rfl (by decide +kernel) ⟨by decide +kernel, by decide +kernel, by decide +kernel, (fun h => nomatch h), fun h => absurd h (by decide)⟩⟩,
   ⟨{ vM with data := 3, width := 2, imm := 0x80000000000 }, .g 0 0x10000, by decide, meetsS (st .l x0) wL x0 rfl rfl (by decide +kernel) ⟨by decide +kernel, by decide +kernel, by decide +kernel, (fun h => nomatch h), fun h => absurd h (by decide)⟩⟩,
   ⟨{ vM with data := 3, width := 2, imm := 0 }, .g 0 0x10000, by decide, meets (st .l x0) wL x0 rfl rfl (by decide +kernel) ⟨by decide +kernel, by decide +kernel, by decide +kernel, (fun h => nomatch h), fun h => absurd h (by decide)⟩⟩,
   ⟨{ vM with data := 3, width := 2, imm := 0x80000000000 }, .f 0 0, by decide, meetsS (st .l x0) wL x0 rfl rfl (by decide +kernel) ⟨by decide +kernel, by decide +kernel, by decide +kernel, fun _ _ => by decide +kernel, fun h => absurd h (by decide)⟩⟩,
   ⟨{ vM with data := 3, width := 2, imm := 0 }, .f 0 0, by decide, meets (st .l x0) wL x0 rfl rfl (by decide +kernel) ⟨by decide +kernel, by decide +kernel, by decide +kernel, fun _ _ => by decide +kernel, fun h => absurd h (by decide)⟩⟩,
   ⟨{ vM with order := 3, scope := 3 }, met (st .l x0) wL x0⟩⟩

/-- Group 1 of `st`; s6 holds the number that it has applied. -/
def g1 : Group := { gid := 1, wlog := 12, memb := 1, part := 0, va := 0x100000, pages := [⟨0x100000, 0x100000, 65536, true⟩], seqSwitch := 0, applied := 5 }
def xO6 : Ctx := { x0 with rl := { sregs := ((Vector.replicate 32 0).set 4 0x1000000000000).set 6 5 } }
/-- Scalars s3 and s5 of the L role. -/
def xR (a b : W64) : Ctx := { x0 with rl := { sregs := ((Vector.replicate 32 0).set 3 a).set 5 b } }
/-- xLx with the mask 3 in s3. -/
def xLw : Ctx := { xLx with rl := (xR 3 0).rl }
/-- A circular buffer at offset 0: BASE 64, ESZ 16, N 4, CLM 3, PUB 2, TAK 1, REL 0. -/
def xCb : Ctx := { xR 0x400100040 2 with abuf := [(0, 64), (2, 16), (4, 4), (8, 3), (12, 2), (16, 1)] }
/-- A deque at offset 0: BASE 32, CAP 2, TOP 0, BOT 1; and one with BOT 0. -/
def xDq : Ctx := { xR 0x1FC0020 7 with abuf := [(0, 32), (2, 2), (12, 1)] }
def xDe : Ctx := { xR 0 0 with abuf := [(0, 32), (2, 2)] }
/-- A context whose channel 1 has been released; whose BAR has arrived and been released; whose PHASE has been released. -/
def xBar : Ctx := { x0 with chans := (Vector.replicate 16 {}).set 1 { ever := true, status := 3 } }
def xBarA : Ctx := { xBar with rl := { arrived := some 1 } }
def xPh : Ctx := { x0 with phaseDone := true }
/-- A kernel with four barrier channels and work lists: the one list is `l`. -/
def sK (l : List W32) (latch : Bool) (x : Ctx) : State :=
  { st .l x with kernels := [{ fetchKernel 0 0 with g := 4, wl := some ⟨4, [l], l.length, 0, none, latch⟩ }] }

/-- The hypotheses of `Obligations.QregsAndTokens` are met, clause by clause. -/
theorem witness_QregsAndTokens :
    (∃ v q y, q = qOf v.base ∧
    Meets (.qcnt v) (frameM v)
      (fun _ x _ => y = x.settleQ q)
      (fun w _ s =>
    s.setS w v.data.toNat (BitVec.ofNat 64 ((y.q q).ents.countP (fun e => e.lanes.isSome) +
      (y.qFree q - (if s.reserved y q then 1 else 0)) * 256 + bit1 (y.q q).bind.isSome 16)))) ∧
    (∃ v, Meets (.qclr v) (frameM v)
      (fun _ x s => (x.q (qOf v.base)).bind = none ∧ (∀ e ∈ (x.q (qOf v.base)).ents, e.lanes.isSome = true) ∧
      x.owed (qOf v.base) = 0 ∧ s.reserved x (qOf v.base) = false)
      (fun w x s => s.setCtx w.c (x.setQ (qOf v.base) { x.q (qOf v.base) with ents := [] }))) ∧
    (∃ v n, Meets (.qbnd v) (frameM v)
      (fun w x _ => n = (field v.imm 0 16).toNat + (field (readSrc w x v.base 0) 0 16).toNat ∧ 1 ≤ n ∧ n ≤ 65535 ∧
      (x.q (qOf v.data)).bind = none)
      (fun w x s => s.setCtx w.c (x.setQ (qOf v.data) { x.q (qOf v.data) with bind := some { out := bitAt v.imm 16, left := n, cmd := none } }))) ∧
    (∃ v f, f = (field v.imm 0 2).toNat ∧
    Meets (.tktry v) (frameM v)
      (fun _ x _ => bitAt v.imm 2 = false ∧ 0 < x.tok f)
      (fun w x s => ((s.setCtx w.c (x.setTok f (x.tok f - 1))).acquire w.c.cid 0).setP w (v.data.toNat - 48) true)) ∧
    (∃ v f, f = (field v.imm 0 2).toNat ∧
    Meets (.tktry v) (frameM v)
      (fun w x s => bitAt v.imm 2 = true ∧ x.tok f < 8 ∧ lDrained (s.core w.c.cid) x w = true)
      (fun w x s => (s.setCtx w.c (x.setTok f (x.tok f + 1))).setP w (v.data.toNat - 48) true)) ∧
    (∃ v f, f = (field v.imm 0 2).toNat ∧
    Meets (.tktry v) (frameM v)
      (fun _ x _ => if bitAt v.imm 2 then 8 ≤ x.tok f else x.tok f = 0)
      (fun w _ s => s.setP w (v.data.toNat - 48) false)) :=
  ⟨⟨{ vM with base := 32 }, 0, xq.settleQ 0, rfl, met (st .l xq) wL xq⟩,
   ⟨{ vM with base := 32 }, met (st .l xq) wL xq⟩,
   ⟨{ vM with data := 32, imm := 65535 }, 65535, met (st .l { x0 with qmap := 0 }) wL { x0 with qmap := 0 }⟩,
   ⟨{ vM with data := 49, imm := 1 }, 1, rfl, met (st .l { x0 with toks := #v[0, 1, 0, 0] }) wL { x0 with toks := #v[0, 1, 0, 0] }⟩,
   ⟨{ vM with data := 49, imm := 4 }, 0, rfl, met (st .l { x0 with toks := #v[7, 0, 0, 0] }) wL { x0 with toks := #v[7, 0, 0, 0] }⟩,
   ⟨{ vM with data := 49, imm := 4 }, 0, rfl, met (st .l { x0 with toks := #v[8, 0, 0, 0] }) wL { x0 with toks := #v[8, 0, 0, 0] }⟩⟩

/-- The hypotheses of `Obligations.CircularBuffers` are met, clause by clause. -/
theorem witness_CircularBuffers :
    (∃ v c y o cfg, Meets (.cbini v) (frameM v)
      (fun w x s => object s w x v 64 = .ok c y o ∧ cfg = readSrc w x v.data 0 ∧
      cbCfgOk cfg (field (readSrc w x v.base 0) 0 16).toNat x.abud = true)
      (fun _ _ s => s.setA c (y.abuf.write o (bytesOf (field cfg 0 40) 5 ++ List.replicate 59 0)))) ∧
    (∃ v c y o b n, Meets (.cbclm v) (frameTryM v)
      (fun w x s => cbReady v c y o b n w x s ∧ sub32 (b.clm + n) b.rel ≤ b.n)
      (fun w _ s => ((s.setA c (CBlock.write { b with clm := (b.clm + n) % 2 ^ 32 } y.abuf o)).acquire w.c.cid (objScope v)).setS w
      v.data.toNat (BitVec.ofNat 64 b.clm))) ∧
    (∃ v c y o b n, Meets (.cbtak v) (frameTryM v)
      (fun w x s => cbReady v c y o b n w x s ∧ n ≤ sub32 b.pub b.tak)
      (fun w _ s => ((s.setA c (CBlock.write { b with tak := (b.tak + n) % 2 ^ 32 } y.abuf o)).acquire w.c.cid (objScope v)).setS w
      v.data.toNat (BitVec.ofNat 64 b.tak))) ∧
    (∃ v c y o b n a, Meets (.cbpub v) (frameM v)
      (fun w x s => cbReady v c y o b n w x s ∧ freed (objScope v) w x s ∧ a = (readSrc w x v.data 0).toNat ∧
      cbMarkOk b b.pub b.clm b.fill a n = true)
      (fun w _ s => (s.setA c (CBlock.write
      { b with pub := (advance b.n b.n b.pub (markBits b.fill (b.positions a n))).1,
               fill := (advance b.n b.n b.pub (markBits b.fill (b.positions a n))).2 } y.abuf o)).release w.c (objScope v))) ∧
    (∃ v c y o b n a, Meets (.cbrel v) (frameM v)
      (fun w x s => cbReady v c y o b n w x s ∧ freed (objScope v) w x s ∧ a = (readSrc w x v.data 0).toNat ∧
      cbMarkOk b b.rel b.tak b.free a n = true)
      (fun w _ s => (s.setA c (CBlock.write
      { b with rel := (advance b.n b.n b.rel (markBits b.free (b.positions a n))).1,
               free := (advance b.n b.n b.rel (markBits b.free (b.positions a n))).2 } y.abuf o)).release w.c (objScope v))) :=
  ⟨⟨{ vM with data := 3 }, c0, xCb, 0, 0x400100040, meets (st .l xCb) wL xCb rfl rfl (by decide +kernel) ⟨obj_of (by decide +kernel), by decide +kernel, by decide +kernel⟩⟩,
   ⟨{ vM with data := 4, imm := 1 }, c0, xCb, 0, CBlock.read xCb.abuf 0, 1, meets (st .l xCb) wL xCb rfl rfl (by decide +kernel) ⟨⟨obj_of (by decide +kernel), by decide +kernel, by decide +kernel, by decide, by decide +kernel, by decide +kernel⟩, by decide +kernel⟩⟩,
   ⟨{ vM with data := 4, imm := 1 }, c0, xCb, 0, CBlock.read xCb.abuf 0, 1, meets (st .l xCb) wL xCb rfl rfl (by decide +kernel) ⟨⟨obj_of (by decide +kernel), by decide +kernel, by decide +kernel, by decide, by decide +kernel, by decide +kernel⟩, by decide +kernel⟩⟩,
   ⟨{ vM with data := 5, imm := 1 }, c0, xCb, 0, CBlock.read xCb.abuf 0, 1, 2, meets (st .l xCb) wL xCb rfl rfl (by decide +kernel) ⟨⟨obj_of (by decide +kernel), by decide +kernel, by decide +kernel, by decide, by decide +kernel, by decide +kernel⟩, by unfold freed; decide +kernel, by decide +kernel, by decide +kernel⟩⟩,
   ⟨{ vM with data := 0, imm := 1 }, c0, xCb, 0, CBlock.read xCb.abuf 0, 1, 0, meets (st .l xCb) wL xCb rfl rfl (by decide +kernel) ⟨⟨obj_of (by decide +kernel), by decide +kernel, by decide +kernel, by decide, by decide +kernel, by decide +kernel⟩, by unfold freed; decide +kernel, by decide +kernel, by decide +kernel⟩⟩⟩

/-- The hypotheses of `Obligations.Deques` are met, clause by clause. -/
theorem witness_Deques :
    (∃ v c y o cfg, Meets (.dqini v) (frameM v)
      (fun w x s => object s w x v 32 = .ok c y o ∧ cfg = readSrc w x v.data 0 ∧ field cfg 32 32 = 0 ∧
      (field cfg 0 16).toNat % 8 = 0 ∧ 1 ≤ (field cfg 16 16).toNat ∧ (field cfg 16 16).toNat ≤ 4096 ∧
      (field cfg 0 16).toNat + 8 * (field cfg 16 16).toNat ≤ x.abud)
      (fun _ _ s => s.setA c (y.abuf.write o (bytesOf (field cfg 0 32) 4 ++ List.replicate 28 0)))) ∧
    (∃ v c y o b, Meets (.dqpsh v) (frameTryM v)
      (fun w x s => dqReady v c y o b w x s ∧ sub32 b.bot b.top < b.cap ∧ freed 1 w x s)
      (fun w x s => (s.setA c (DBlock.write { b with bot := (b.bot + 1) % 2 ^ 32 }
      (y.abuf.write (b.item b.bot) (bytesOf (readSrc w x v.data 0) 8)) o)).release w.c 1)) ∧
    (∃ v c y o b, Meets (.dqpop v) (frameM v)
      (fun w x s => dqReady v c y o b w x s ∧ b.bot ≠ b.top)
      (fun w _ s => (((s.setA c (DBlock.write { b with bot := sub32 b.bot 1 } y.abuf o)).acquire w.c.cid 0).setS w v.data.toNat
      (BitVec.ofNat 64 (y.abuf.nat (b.item (sub32 b.bot 1)) 8))).setP w (resultPred v) true)) ∧
    (∃ v c y o b, Meets (.dqstl v) (frameM v)
      (fun w x s => dqReady v c y o b w x s ∧ b.bot ≠ b.top)
      (fun w _ s => (((s.setA c (DBlock.write { b with top := (b.top + 1) % 2 ^ 32 } y.abuf o)).acquire w.c.cid 1).setS w
      v.data.toNat (BitVec.ofNat 64 (y.abuf.nat (b.item b.top) 8))).setP w (resultPred v) true)) ∧
    (∃ v c y o b, Meets (.dqpop v) (frameM v)
      (fun w x s => dqReady v c y o b w x s ∧ b.bot = b.top)
      (fun w _ s => s.setP w (resultPred v) false)) ∧
    (∃ v c y o b, Meets (.dqstl v) (frameM v)
      (fun w x s => dqReady v c y o b w x s ∧ b.bot = b.top)
      (fun w _ s => s.setP w (resultPred v) false)) :=
  ⟨⟨{ vM with data := 3 }, c0, xDq, 0, 0x1FC0020, meets (st .l xDq) wL xDq rfl rfl (by decide +kernel) ⟨obj_of (by decide +kernel), by decide +kernel, by decide +kernel, by decide +kernel, by decide +kernel, by decide +kernel, by decide +kernel⟩⟩,
   ⟨{ vM with data := 5 }, c0, xDq, 0, DBlock.read xDq.abuf 0, meets (st .l xDq) wL xDq rfl rfl (by decide +kernel) ⟨⟨obj_of (by decide +kernel), by decide +kernel, by decide +kernel, by decide +kernel⟩, by decide +kernel, by unfold freed; decide +kernel⟩⟩,
   ⟨{ vM with data := 4, imm := 1 <<< 44 }, c0, xDq, 0, DBlock.read xDq.abuf 0, meets (st .l xDq) wL xDq rfl rfl (by decide +kernel) ⟨⟨obj_of (by decide +kernel), by decide +kernel, by decide +kernel, by decide +kernel⟩, by decide +kernel⟩⟩,
   ⟨{ vM with data := 4, imm := 1 <<< 44 }, c0, xDq, 0, DBlock.read xDq.abuf 0, meets (st .l xDq) wL xDq rfl rfl (by decide +kernel) ⟨⟨obj_of (by decide +kernel), by decide +kernel, by decide +kernel, by decide +kernel⟩, by decide +kernel⟩⟩,
   ⟨{ vM with data := 4, imm := 1 <<< 44 }, c0, xDe, 0, DBlock.read xDe.abuf 0, meets (st .l xDe) wL xDe rfl rfl (by decide +kernel) ⟨⟨obj_of (by decide +kernel), by decide +kernel, by decide +kernel, by decide +kernel⟩, by decide +kernel⟩⟩,
   ⟨{ vM with data := 4, imm := 1 <<< 44 }, c0, xDe, 0, DBlock.read xDe.abuf 0, meets (st .l xDe) wL xDe rfl rfl (by decide +kernel) ⟨⟨obj_of (by decide +kernel), by decide +kernel, by decide +kernel, by decide +kernel⟩, by decide +kernel⟩⟩⟩

/-- The hypotheses of `Obligations.Barriers` are met, clause by clause. -/
theorem witness_Barriers :
    (∃ v, Meets (.bara v) (frameTryM v)
      (fun w x s => barRange s x v = false ∧ (x.chan (barE v x)).pending = false ∧ freed 2 w x s)
      (fun w x s => (s.setCtx w.c (x.setChan (barE v x) { x.chan (barE v x) with pending := true, ever := true })).release w.c 2)) ∧
    (∃ v, Meets (.barw v) (frameTryM v)
      (fun _ x s => barRange s x v = false ∧ (x.chan (barE v x)).ever = true ∧ (x.chan (barE v x)).pending = false)
      (fun w x s => (s.acquire w.c.cid 2).setS w v.data.toNat (x.chan (barE v x)).status)) ∧
    (∃ v, MeetsA (.bar v) (frameM v)
      (fun w x s => (x.role w.r).arrived = none ∧ barRange s x v = false ∧ (x.chan (barE v x)).pending = false ∧ freed 2 w x s)) ∧
    (∃ v e, Meets (.bar v) (frameM v)
      (fun w x _ => (x.role w.r).arrived = some e ∧ (x.chan e).pending = false)
      (fun w x s => (s.acquire w.c.cid 2).setS w v.data.toNat (x.chan e).status)) ∧
    (∃ v b d, b = (field v.imm 0 4).toNat ∧
    d = (field v.imm 8 4).toNat ∧
    Meets (.bidb v) (frameWholeM v)
      (fun _ x s => s.chansOf x ≠ 1 ∧ 1 ≤ b ∧ 1 ≤ d ∧ b + d ≤ s.chansOf x ∧ (∀ c ∈ x.chans.toList, c.pending = false))
      (fun w x s => s.setCtx w.c { x with barB := b, barD := d, barI := 0 })) ∧
    (∃ v, Meets (.bida v) (frameWholeM v)
      (fun _ x s => s.chansOf x ≠ 1)
      (fun w x s => s.setCtx w.c { x with barI := x.barI + 1 })) ∧
    (∃ v, MeetsA (.phase v) (framePhase v)
      (fun w x s => fallThrough (s.textOf x) (x.role w.r).pc ≠ none ∧ x.phaseDone = true ∧ s.logUsers w.c.cid = false)) :=
  ⟨⟨vM, meets (sK [] false x0) wL x0 rfl rfl (by decide +kernel) ⟨by decide +kernel, by decide +kernel, by unfold freed; decide +kernel⟩⟩,
   ⟨{ vM with data := 3 }, meets (sK [] false xBar) wL xBar rfl rfl (by decide +kernel) ⟨by decide +kernel, by decide +kernel, by decide +kernel⟩⟩,
   ⟨{ vM with data := 3 }, meetsA (sK [] false x0) wL x0 rfl rfl (by decide +kernel) ⟨by decide +kernel, by decide +kernel, by decide +kernel, by unfold freed; decide +kernel⟩⟩,
   ⟨{ vM with data := 3 }, 1, meets (sK [] false xBarA) wL xBarA rfl rfl (by decide +kernel) ⟨by decide +kernel, by decide +kernel⟩⟩,
   ⟨{ vM with imm := 0x301 }, 1, 3, by decide, by decide, meets (sK [] false x0) wL x0 rfl rfl (by decide +kernel) ⟨by decide +kernel, by decide +kernel, by decide +kernel, by decide +kernel, by decide +kernel⟩⟩,
   ⟨vM, meets (sK [] false x0) wL x0 rfl rfl (by decide +kernel) (by decide +kernel)⟩,
   ⟨vM, meetsA (sK [] false xPh) wL xPh rfl rfl (by decide +kernel) ⟨by decide +kernel, by decide +kernel⟩⟩⟩

/-- The hypotheses of `Obligations.WorkLists` are met, clause by clause. -/
theorem witness_WorkLists :
    (∃ v l t ls m items, Meets (.wlapp v) (frameTryM v)
      (fun w x s => s.lists x = some l ∧ t = Taken.q (Taken.q { x := x } (qOf v.data) false) (qOf v.index) false ∧
      t.stop none = none ∧ m = (if v.base = 0 then -1 else readSrc w x v.base 0) ∧
      items = ((List.range 64).filter (fun i => bitAt m i)).map (fun i =>
        ((lane (t.vals.getD 1 []) i).toNat, lane (t.vals.headD []) i)) ∧
      (∀ p ∈ items, p.1 < s.gridSize x) ∧ freed 2 w x s ∧ appendItems l.cap items l.lists = some ls)
      (fun w x s => ((s.setCtx w.c { t.x with idle := false }).setLists x
      { l with lists := ls, appended := l.appended + items.length, latch := false, wave := none }).release w.c 2)) ∧
    (∃ v l own k, Meets (.wltak v) (frameTryM v)
      (fun _ x s => s.lists x = some l ∧ Taken.stop { x := x } (some (qOf v.data)) = none ∧ own = l.lists.getD x.gidx [] ∧
      k = Nat.min (field v.imm 0 7).toNat own.length ∧ 1 ≤ k)
      (fun w x s => (((s.setCtx w.c { x.qPush (qOf v.data) ((List.range 64).map (fun i => if i < k then own.getD i 0 else 0)) with
        idle := false }).setLists x { l with lists := l.lists.set x.gidx (own.drop k), taken := l.taken + k }).acquire
          w.c.cid 2).setS w v.base.toNat (BitVec.ofNat 64 k))) ∧
    (∃ v l, Meets (.wltak v) (frameTryM v)
      (fun _ x s => s.lists x = some l ∧ Taken.stop { x := x } (some (qOf v.data)) = none ∧ l.lists.getD x.gidx [] = [] ∧
      l.latch = true)
      (fun w x s => ((s.setCtx w.c { x.qPush (qOf v.data) (List.replicate 64 0) with idle := x.idle }).setLists x
      { l with lists := l.lists.set x.gidx [] }).setS w v.base.toNat 0)) ∧
    (∃ v, Meets (.wlidl v) (frameM v)
      (fun _ x s => s.lists x ≠ none)
      (fun w x s => s.setCtx w.c { x with idle := true })) ∧
    (∃ v l, Meets (.trmw v) (frameTryM v)
      (fun _ x s => s.lists x = some l ∧ l.latch = true)
      (fun w _ s => (s.acquire w.c.cid 2).setS w v.data.toNat (BitVec.ofNat 64 l.appended))) :=
  ⟨⟨{ vM with data := 33, index := 32, base := 3 }, ⟨4, [[]], 0, 0, none, true⟩, _, [[2, 2]], 3, [(0, 2), (0, 2)],
      meets (sK [] true xLw) wL xLw rfl rfl (by decide +kernel) ⟨by decide +kernel, rfl, by decide +kernel, by decide +kernel, by decide +kernel, by decide +kernel, by unfold freed; decide +kernel, by decide +kernel⟩⟩,
   ⟨{ vM with data := 34, base := 4, imm := 64 }, ⟨4, [[7, 8]], 2, 0, none, true⟩, [7, 8], 2, met (sK [7, 8] true x0) wL x0⟩,
   ⟨{ vM with data := 34, base := 4, imm := 1 }, ⟨4, [[]], 0, 0, none, true⟩, met (sK [] true x0) wL x0⟩,
   ⟨vM, met (sK [] false x0) wL x0⟩,
   ⟨{ vM with data := 4 }, ⟨4, [[7]], 1, 0, none, true⟩, met (sK [7] true x0) wL x0⟩⟩

/-- The hypotheses of `Obligations.OrderedReads` are met, clause by clause. -/
theorem witness_OrderedReads :
    (∃ v, Meets (.oseq v) (frameM v)
      (fun _ _ _ => field v.imm 0 2 = 1#2)
      (fun w x s => (if bitAt v.imm 2 then s.setCtx w.c { x with rrj := false, orj := false } else s).setS w v.data.toNat
      (fabWord s x))) ∧
    (∃ v g, Meets (.oseq v) (frameM v)
      (fun w x s => field v.imm 0 2 = 2#2 ∧ groupBase s w x v = some g)
      (fun w _ s => s.setS w v.data.toNat g.word)) ∧
    (∃ v g, Meets (.oseq v) (frameM v)
      (fun w x s => field v.imm 0 2 ≠ 1#2 ∧ field v.imm 0 2 ≠ 2#2 ∧ groupBase s w x v = some g)
      (fun w _ s => (if v.order = 1 then s.acquire w.c.cid v.scope.toNat else s).setS w v.data.toNat (BitVec.ofNat 64 g.applied))) ∧
    (∃ v g, Meets (.owt v) (frameTryM v)
      (fun w x s => groupBase s w x v = some g ∧ (field (readSrc w x v.data 0) 0 48).toNat ≤ g.applied)
      (fun w _ s => if v.order = 1 then s.acquire w.c.cid v.scope.toNat else s)) :=
  ⟨⟨{ vM with data := 3, imm := 5 }, met (st .l x0) wL x0⟩,
   ⟨{ vM with data := 3, base := 4, imm := 2 }, g1, met (st .l xO) wL xO⟩,
   ⟨{ vM with data := 3, base := 4, order := 1, scope := 2 }, g1, met (st .l xO) wL xO⟩,
   ⟨{ vM with data := 6, base := 4 }, g1, met (st .l xO6) wL xO6⟩⟩

/-- The lease of the core of `st`. -/
def sLease (l : Option Lease) (x : Ctx) : State := { st .c x with cores := [(0, { lease := l })] }
/-- Context 1 of the core moves, and its owner context asks. -/
def sAsk : State :=
  { sLease none x0 with turn := .role ⟨0, 1⟩ .c, ctxs := [(c0, { x0 with leaseAsk := true }), (⟨0, 1⟩, x0)] }
/-- A context with the lease, both planes loaded, rows for a multiply. -/
def xArr : Ctx := { x0 with leaseAsk := true, actRec := ⟨0, 16, true⟩, shRec := ⟨0, 16, true⟩, wbud := 4608 }
/-- A legal epilogue descriptor at offset 4032. -/
def xEpi : Ctx :=
  { xArr with abuf := [(4032, 255), (4033, 255), (4034, 255), (4035, 255), (4036, 255), (4037, 255), (4038, 255), (4039, 255), (4041, 8)]
              rc := { sregs := (Vector.replicate 32 0).set 3 4032 } }

/-- The hypotheses of `Obligations.ArrayLease` are met, clause by clause. -/
theorem witness_ArrayLease :
    (∃ (v : WordX), ∃ (s : State), ∃ (w : Who), ∃ (x : Ctx), ∃ (dest : Pos), s.turn = .role w.c w.r ∧
    s.ctx w.c = some x ∧
    v.role.toNat = Role.code w.r ∧
    decodeFault (.lease v) false [v.d, v.a, v.b] x = none ∧
    (∀ q ∈ tokPops w.r v.tok, x.tok q ≠ 0) ∧
    guardOn (x.role w.r) v.guard = true ∧
    busy x w.r [v.d, v.a, v.b] = false ∧
    fallThrough (s.textOf x) (x.role w.r).pc = some dest ∧
    countFull (x.role w.r) (restOf v.tok none (x.role w.r).pc dest false false false).enter
      (restOf v.tok none (x.role w.r).pc dest false false false).exit = false ∧
    s.calm w.c.cid ∧
    bitAt v.low 56 = false ∧
    s.holds w.c = true) ∧
    (∃ (v : WordX), ∃ (s : State), ∃ (w : Who), ∃ (x : Ctx), ∃ (dest : Pos), s.turn = .role w.c w.r ∧
    s.ctx w.c = some x ∧
    v.role.toNat = Role.code w.r ∧
    decodeFault (.ulease v) false [v.d, v.a, v.b] x = none ∧
    (∀ q ∈ tokPops w.r v.tok, x.tok q ≠ 0) ∧
    guardOn (x.role w.r) v.guard = true ∧
    busy x w.r [v.d, v.a, v.b] = false ∧
    fallThrough (s.textOf x) (x.role w.r).pc = some dest ∧
    countFull (x.role w.r) (restOf v.tok none (x.role w.r).pc dest false false false).enter
      (restOf v.tok none (x.role w.r).pc dest false false false).exit = false ∧
    s.calm w.c.cid) ∧
    (∃ v, bitAt v.low 56 = false ∧
    Meets (.lease v) (frameX v)
      (fun w _ s => s.holds w.c = true)
      (fun w x s => s.setCtx w.c { x with leaseAsk := true, leaseGive := none })) ∧
    (∃ v, bitAt v.low 56 = false ∧
    Meets (.lease v) (frameX v)
      (fun w x s => s.holds w.c = false ∧ (s.core w.c.cid).lease = none ∧
      (s.setCtx w.c { x with leaseAsk := true, leaseGive := none }).winner w.c.cid none = some w.c.num)
      (fun w x s => (s.setCtx w.c { x with leaseAsk := true, leaseGive := none }).grantLease w.c)) ∧
    (∃ v, bitAt v.low 56 = true ∧
    Meets (.lease v) (frameX v)
      (fun w _ s => s.holds w.c = true)
      (fun w x s => (s.setCtx w.c { x with leaseAsk := true, leaseGive := none }).setP w (field v.low 53 3).toNat true)) ∧
    (∃ v, bitAt v.low 56 = true ∧
    Meets (.lease v) (frameX v)
      (fun w x s => s.holds w.c = false ∧ (s.core w.c.cid).lease = none ∧
      (s.setCtx w.c { x with leaseAsk := true, leaseGive := none }).winner w.c.cid none = some w.c.num)
      (fun w x s => ((s.setCtx w.c { x with leaseAsk := true, leaseGive := none }).grantLease w.c).setP w (field v.low 53 3).toNat true)) ∧
    (∃ v, bitAt v.low 56 = true ∧
    Meets (.lease v) (frameX v)
      (fun w x s => s.holds w.c = false ∧ ((s.core w.c.cid).lease ≠ none ∨
      (s.setCtx w.c { x with leaseAsk := true, leaseGive := none }).winner w.c.cid none ≠ some w.c.num))
      (fun w x s => (s.setCtx w.c { x with leaseAsk := true, leaseGive := none }).setP w (field v.low 53 3).toNat false)) ∧
    (∃ v, bitAt v.low 56 = false ∧
    MeetsA (.lease v) (frameX v)
      (fun w x s => s.holds w.c = false ∧ ((s.core w.c.cid).lease ≠ none ∨
      (s.setCtx w.c { x with leaseAsk := true, leaseGive := none }).winner w.c.cid none ≠ some w.c.num))) ∧
    (∃ v, Meets (.ulease v) (frameX v)
      anyCtx
      (fun w x s =>
    (s.setCtx w.c { x with
      leaseAsk := false
      leaseGive := if (s.holds w.c || x.acmds.any (fun k => k.kind.usesArray)) = true then some x.nextAcc else none }).settleLease w.c)) :=
  ⟨⟨{ vX with role := 1 }, sLease (some ⟨0, 1⟩) x0, wC, x0, ⟨0, 1⟩, rfl, rfl, rfl, by decide +kernel, by decide, by decide +kernel, by decide +kernel, rfl, by decide +kernel, rfl, by decide +kernel, by decide +kernel⟩,
   ⟨{ vX with role := 1 }, sLease none x0, wC, x0, ⟨0, 1⟩, rfl, rfl, rfl, by decide +kernel, by decide, by decide +kernel, by decide +kernel, rfl, by decide +kernel, rfl⟩,
   ⟨{ vX with role := 1 }, by decide, met (sLease (some ⟨0, 1⟩) x0) wC x0⟩,
   ⟨{ vX with role := 1 }, by decide, met (sLease none x0) wC x0⟩,
   ⟨{ vX with role := 1, low := 0x100000000000000 }, by decide, met (sLease (some ⟨0, 1⟩) x0) wC x0⟩,
   ⟨{ vX with role := 1, low := 0x100000000000000 }, by decide, met (sLease none x0) wC x0⟩,
   ⟨{ vX with role := 1, low := 0x100000000000000 }, by decide, meets sAsk ⟨⟨0, 1⟩, .c⟩ x0 rfl rfl (by decide +kernel) (by decide +kernel)⟩,
   ⟨{ vX with role := 1 }, by decide, metA (sLease (some ⟨1, 1⟩) x0) wC x0⟩,
   ⟨{ vX with role := 1 }, plain .c x0⟩⟩

/-- The hypotheses of `Obligations.ArrayCommands` are met, clause by clause. -/
theorem witness_ArrayCommands :
    (∃ v off t, Meets (.wload v) (frameX v)
      (fun w x _ => off = readSrc w x v.a 0 ∧ t = typeOf v ∧ weightType t = true ∧ off.toNat % 256 = 0 ∧
      off.toNat + tileSize t ≤ x.wbud ∧ x.leaseAsk = true ∧ x.acmds.length < 8)
      (fun w x s => s.setCtx w.c (({ x with shRec := ⟨off.toNat, t, true⟩ } : Ctx).queued (.wload ⟨off.toNat, t, true⟩) (cptOf v)))) ∧
    (∃ v, Meets (.wswp v) (frameX v)
      (fun _ x _ => x.leaseAsk = true ∧ x.shRec.valid = true ∧ x.acmds.length < 8)
      (fun w x s => s.setCtx w.c (({ x with actRec := x.shRec, shRec := x.actRec } : Ctx).queued .wswp 0))) ∧
    (∃ v b, Meets (.ashp v) (frameX v)
      (fun w x _ => b = (if isImm v.a then (field v.low 0 4).setWidth 64 else readSrc w x v.a 0) ∧ (b = 1 ∨ b = 3 ∨ b = 7 ∨ b = 15))
      (fun w x s => s.setCtx w.c { x with ashp := b.setWidth 4 })) ∧
    (∃ v, Meets (.mma v) (frameX v) (fun w x _ => mmaReady 0 v w x)
      (multiplyQueued 0 v)) ∧
    (∃ v, Meets (.mmaz v) (frameX v) (fun w x _ => mmaReady 1 v w x)
      (multiplyQueued 1 v)) ∧
    (∃ v, Meets (.mmai v) (frameX v) (fun w x _ => mmaReady 2 v w x)
      (multiplyQueued 2 v)) ∧
    (∃ v o, Meets (.epicf v) (frameX v)
      (fun w x s => o = readSrc w x v.a 0 ∧ o.toNat % 64 = 0 ∧ o.toNat + 64 ≤ x.abud ∧
      epiOk ((s.ownA w x).read o.toNat 64) x.abud = true)
      (fun w x s => s.setCtx w.c { x with epi := EpiCfg.ofBytes ((s.ownA w x).read o.toNat 64) })) ∧
    (∃ v ao, Meets (.epi v) (frameX v)
      (fun w x _ => isQ v.d = false ∧ ao = readSrc w x v.a 0 ∧ zRows v x ∧ strideOf v (epiRow x.epi.ofmt) % 4 = 0 ∧
      ao.toNat % 4 = 0 ∧ x.acmds.length < 8 ∧
      ao.toNat + ((nrOf v - 1) * strideOf v (epiRow x.epi.ofmt) + epiRow x.epi.ofmt) ≤ x.abud)
      (fun w x s => s.setCtx w.c (x.queued (.epi (zrOf v) (nrOf v) none ao.toNat (strideOf v (epiRow x.epi.ofmt)) (bitAt v.low 44)
      x.epi) (cptOf v)))) ∧
    (∃ v q, ∃ k : ACmd, q = qOf v.d ∧
    Meets (.epi v) (frameX v)
      (fun _ x _ => isQ v.d = true ∧ zRows v x ∧ strideOf v (epiRow x.epi.ofmt) % 4 = 0 ∧ x.acmds.length < 8 ∧ x.epi.ofmt ≠ 30 ∧
      (x.selfLoop q = true → nrOf v * epiEntries x.epi.ofmt ≤ qDepth x.harvest q) ∧
      k = { acc := x.nextAcc, kind := .epi (zrOf v) (nrOf v) (some q) 0 (strideOf v (epiRow x.epi.ofmt)) (bitAt v.low 44) x.epi
            cpt := cptOf v, at_ := x.nextId, owed := nrOf v * epiEntries x.epi.ofmt, qid := x.nextId })
      (fun w x s => s.setCtx w.c (Ctx.settleQ
      { x with acmds := x.acmds ++ [k], nextAcc := x.nextAcc + 1, nextId := x.nextId + 1 } q))) ∧
    (∃ v, Meets (.zrd v) (frameX v)
      (fun _ x _ => zrOf v ≤ 47 ∧ zrOf v + 1 ≤ x.zbud / 512 ∧ x.acmds.length < 8 ∧ Taken.stop { x := x } (some (qOf v.d)) = none)
      (fun w x s => s.setCtx w.c ((x.qReserve (qOf v.d)).queued (.zrd (zrOf v) (halfOf v) (qOf v.d) x.nextId) 0))) ∧
    (∃ v, Meets (.zwr v) (frameX v)
      (fun _ x _ => zrOf v ≤ 47 ∧ zrOf v + 1 ≤ x.zbud / 512 ∧ x.acmds.length < 8 ∧
      (Taken.q { x := x } (qOf v.a) false).stop none = none)
      (fun w x s => s.setCtx w.c ((x.qPop (qOf v.a)).queued (.zwr (zrOf v) (halfOf v) (headLanes x (qOf v.a))) 0))) ∧
    (∃ v, Meets (.zclr v) (frameX v)
      (fun _ x _ => zRows v x ∧ x.acmds.length < 8)
      (fun w x s => s.setCtx w.c (x.queued (.zclr (zrOf v) (nrOf v)) 0))) :=
  ⟨⟨{ vX with role := 1, low := 0x100000000000 }, 0, 16, met (st .c xArr) wC xArr⟩,
   ⟨{ vX with role := 1 }, met (st .c xArr) wC xArr⟩,
   ⟨{ vX with role := 1, a := 62, low := 7 }, 7, met (st .c x0) wC x0⟩,
   ⟨{ vX with role := 1, low := 0x1100000000000 }, meets (st .c xArr) wC xArr rfl rfl (by decide +kernel) (by unfold mmaReady zRows; decide +kernel)⟩,
   ⟨{ vX with role := 1, low := 0x383e0000000000 }, meets (st .c xArr) wC xArr rfl rfl (by decide +kernel) (by unfold mmaReady zRows; decide +kernel)⟩,
   ⟨{ vX with role := 1, low := 0x1108000000000 }, meets (st .c xArr) wC xArr rfl rfl (by decide +kernel) (by unfold mmaReady zRows; decide +kernel)⟩,
   ⟨{ vX with role := 1, a := 3 }, 4032, met (st .c xEpi) wC xEpi⟩,
   ⟨{ vX with role := 1, low := 0x1000000000000 }, 0, meets (st .c xArr) wC xArr rfl rfl (by decide +kernel) ⟨by decide +kernel, by decide +kernel, by unfold zRows; decide +kernel, by decide +kernel, by decide +kernel, by decide +kernel⟩⟩,
   ⟨{ vX with role := 1, d := 34, low := 0x1000000000000 }, 2, _, rfl, meets (st .c xArr) wC xArr rfl rfl (by decide +kernel) ⟨by decide +kernel, by unfold zRows; decide +kernel, by decide +kernel, by decide +kernel, by decide +kernel, by decide +kernel, rfl⟩⟩,
   ⟨{ vX with role := 1, d := 34, low := 0x3c000000000000 }, met (st .c x0) wC x0⟩,
   ⟨{ vX with role := 1, a := 32, low := 0x38000000000000 }, met (st .c xq) wC xq⟩,
   ⟨{ vX with role := 1, low := 0x1000000000000 }, meets (st .c x0) wC x0 rfl rfl (by decide +kernel) ⟨by unfold zRows; decide +kernel, by decide⟩⟩⟩

/-- A context whose array queue holds `k`, and its state. -/
def xA (k : ACmd) : Ctx := { xArr with acmds := [k], abuf := [(0, 1)] }
def sA (k : ACmd) : State := sLease (some ⟨0, 1⟩) (xA k)
def kA (k : AKind) : ACmd := { acc := 0, kind := k, cpt := 0 }
/-- A multiply of one row that has begun, with `inj` planes injected. -/
def kM (inj : Nat) : ACmd := { kA (.mma 1 0 1 16 true 0 36 15) with begun := true, inj := inj }
def sM : State := { sA (kM 0) with cores := [(0, { lease := some ⟨0, 1⟩, bands := 15 })] }
/-- The core is frozen in mid-row. -/
def kMz : ACmd := { kA (.mma 1 0 1 20 true 0 100 15) with begun := true, inj := 3 }
def sMz : State := { sA kMz with cores := [(0, { lease := some ⟨0, 1⟩, bands := 15, frozen := some (0, false) })] }
/-- The last window injected 64 planes, this one none. -/
def sBal : State := { sM with cores := [(0, { lease := some ⟨0, 1⟩, bands := 15, lastPlanes := 64 })], inp := { flag := true } }
def kDone : ACmd := { kA (.zclr 0 1) with cpt := 1, done := true }
def kEpi : ACmd := kA (.epi 0 1 none 0 512 true {})
/-- The same to q2, two entries of which it has reserved. -/
def kEpq : ACmd := { kA (.epi 0 1 (some 2) 0 512 true {}) with owed := 2, qid := 9 }
def vEpq : List Res := ((xA kEpq).zRow 0).zipIdx.map (fun (z, j) => epiElem {} (xA kEpq).abuf 0 j z)
def oEpq := epiConvert {} (xA kEpq).lfsr (vEpq.map (·.bits))

/-- The hypotheses of `Obligations.ArrayMoves` are met, clause by clause. -/
theorem witness_ArrayMoves :
    (∃ x k p s1, MeetsP
      (fun s => arrayAt x k s ∧ k.kind = .wload p ∧ s.beginHead s.inp.c k = some s1 ∧ s.badS s.inp.c 1 p.off (tileSize p.fmt) = false)) ∧
    (∃ x k s1, MeetsP
      (fun s => arrayAt x k s ∧ k.kind = .wswp ∧ s.beginHead s.inp.c k = some s1)) ∧
    (∃ x k s1 kind zr nr t zs off str ben u, MeetsP
      (fun s => u = s.roll s.inp.c.cid ∧ s.inp.flag = false ∧ arrayAt x k u ∧ k.kind = .mma kind zr nr t zs off str ben ∧
      u.inp.c = s.inp.c ∧ u.inp.flag = s.inp.flag ∧
      (u.core s.inp.c.cid).frozen = none ∧ (u.core s.inp.c.cid).winPlanes < u.allowance s.inp.c.cid ∧ u.thawed s.inp.c.cid = true ∧
      (u.core s.inp.c.cid).bands &&& ben = ben ∧ k.inj < blockWidth t ∧ u.beginHead s.inp.c k = some s1)) ∧
    (∃ x k s1 kind zr nr t zs off str ben u, MeetsP
      (fun s => u = s.roll s.inp.c.cid ∧ s.inp.flag = false ∧ arrayAt x k u ∧ k.kind = .mma kind zr nr t zs off str ben ∧
      u.inp.c = s.inp.c ∧ u.inp.flag = s.inp.flag ∧
      (u.core s.inp.c.cid).frozen ≠ none ∧ u.thawed s.inp.c.cid = true ∧
      (u.core s.inp.c.cid).bands &&& ben = ben ∧ k.inj < blockWidth t ∧ u.beginHead s.inp.c k = some s1)) ∧
    (∃ u, MeetsP
      (fun s => u = s.roll s.inp.c.cid ∧ u.inp.c = s.inp.c ∧ u.inp.flag = true ∧ (u.core s.inp.c.cid).frozen = none ∧
      (u.core s.inp.c.cid).winPlanes < u.ballastFloor s.inp.c.cid)) ∧
    (∃ x k kind zr nr t zs off str ben, MeetsP
      (fun s => arrayAt x k s ∧ k.kind = .mma kind zr nr t zs off str ben)) ∧
    (∃ x k zr h q id, MeetsP
      (fun s => arrayAt x k s ∧ k.kind = .zrd zr h q id ∧ s.badS s.inp.c 2 (512 * zr + 256 * h) 256 = false)) ∧
    (∃ x k zr h l, MeetsP
      (fun s => arrayAt x k s ∧ k.kind = .zwr zr h l)) ∧
    (∃ x k zr nr, MeetsP
      (fun s => arrayAt x k s ∧ k.kind = .zclr zr nr)) ∧
    (∃ x k rest f, MeetsP
      (fun s => s.ctx s.inp.c = some x ∧ x.acmds = k :: rest ∧ f = (if k.cpt = 1 then 1 else 2) ∧ k.done = true ∧ x.tok f < 8 ∧
      (s.core s.inp.c.cid).frozen = none)) ∧
    (∃ n, MeetsP
      (fun s => (s.core s.inp.cid).lease = none ∧ s.winner s.inp.cid none = some n)) ∧
    (∃ l x, MeetsP
      (fun s => (s.core s.inp.cid).lease = some l ∧ l.count = 0 ∧ s.ctx ⟨s.inp.cid, l.num⟩ = some x ∧ x.acmds = [] ∧
      s.winner s.inp.cid (some l.num) = none)) :=
  ⟨(some_ex (o := (sA (kA (.wload ⟨0, 16, true⟩))).beginHead c0 (kA (.wload ⟨0, 16, true⟩))) (by decide +kernel)).elim fun s1 h =>
     ⟨xA _, kA _, ⟨0, 16, true⟩, s1, metP (sA (kA (.wload ⟨0, 16, true⟩))) ⟨rfl, rfl, h, by decide +kernel⟩⟩,
   (some_ex (o := (sA (kA .wswp)).beginHead c0 (kA .wswp)) (by decide +kernel)).elim fun s1 h =>
     ⟨xA _, kA _, s1, metP (sA (kA .wswp)) ⟨rfl, rfl, h⟩⟩,
   (some_ex (o := (sM.roll 0).beginHead c0 (kM 0)) (by decide +kernel)).elim fun s1 h =>
     ⟨xA (kM 0), kM 0, s1, 1, 0, 1, 16, true, 0, 36, 15, sM.roll 0, metP sM ⟨rfl, rfl, by unfold arrayAt; decide +kernel, rfl, by decide +kernel, by decide +kernel, by decide +kernel, by decide +kernel, by decide +kernel, by decide +kernel, by decide, h⟩⟩,
   (some_ex (o := (sMz.roll 0).beginHead c0 kMz) (by decide +kernel)).elim fun s1 h =>
     ⟨xA kMz, kMz, s1, 1, 0, 1, 20, true, 0, 100, 15, sMz.roll 0, metP sMz ⟨rfl, rfl, by unfold arrayAt; decide +kernel, rfl, by decide +kernel, by decide +kernel, by decide +kernel, by decide +kernel, by decide +kernel, by decide, h⟩⟩,
   ⟨sBal.roll 0, metPd sBal⟩,
   ⟨xA (kM 0), kM 0, 1, 0, 1, 16, true, 0, 36, 15, metP sM ⟨rfl, rfl⟩⟩,
   ⟨xA (kA (.zrd 7 1 3 0)), kA (.zrd 7 1 3 0), 7, 1, 3, 0, metP (sA (kA (.zrd 7 1 3 0))) ⟨rfl, rfl, by decide +kernel⟩⟩,
   ⟨xA (kA (.zwr 7 1 [])), kA (.zwr 7 1 []), 7, 1, [], metP (sA (kA (.zwr 7 1 []))) ⟨rfl, rfl⟩⟩,
   ⟨xA (kA (.zclr 0 8)), kA (.zclr 0 8), 0, 8, metP (sA (kA (.zclr 0 8))) ⟨rfl, rfl⟩⟩,
   ⟨xA kDone, kDone, [], 1, metP (sA kDone) ⟨rfl, rfl, rfl, rfl, by decide +kernel, rfl⟩⟩,
   ⟨0, metPd (sLease none { x0 with leaseAsk := true })⟩,
   ⟨⟨0, 0⟩, x0, metPd (sLease (some ⟨0, 0⟩) x0)⟩⟩

/-- The hypotheses of `Obligations.ArrayRows` are met, clause by clause. -/
theorem witness_ArrayRows :
    (∃ x k kind zr nr t zs off str ben r u, MeetsP
      (fun s => arrayAt x k s ∧ k.kind = .mma kind zr nr t zs off str ben ∧ blockWidth t ≤ k.inj ∧ k.done = false ∧
      s.badBands s.inp.c ben (off + k.next * str) (blockWidth t) = false ∧
      (zs = false → s.badS s.inp.c 2 (512 * (zr + k.next)) 512 = false) ∧
      r = mmaRow kind zs t x.act ben (x.abuf.read (off + k.next * str) (4 + 16 * blockWidth t)) (x.zRow (zr + k.next)) ∧
      u = (s.setCtx s.inp.c ((x.setZRow (zr + k.next) (r.map (·.bits))).cFlags (r.foldl (fun f e => f ||| e.flags) 0))).cleanS
        s.inp.c 2 (512 * (zr + k.next)) 512)) ∧
    (∃ x k zr nr off str clr cfg vals o, MeetsP
      (fun s => arrayAt x k s ∧ k.kind = .epi zr nr none off str clr cfg ∧ s.beginHead s.inp.c k ≠ none ∧
      s.badEpi s.inp.c cfg (zr + k.next) = false ∧
      vals = (x.zRow (zr + k.next)).zipIdx.map (fun (z, j) => epiElem cfg x.abuf (zr + k.next) j z) ∧
      o = epiConvert cfg x.lfsr (vals.map (·.bits)))) ∧
    (∃ x k zr nr q off str clr cfg vals o y, MeetsP
      (fun s => arrayAt x k s ∧ k.kind = .epi zr nr (some q) off str clr cfg ∧ s.beginHead s.inp.c k ≠ none ∧
      s.badEpi s.inp.c cfg (zr + k.next) = false ∧
      vals = (x.zRow (zr + k.next)).zipIdx.map (fun (z, j) => epiElem cfg x.abuf (zr + k.next) j z) ∧
      o = epiConvert cfg x.lfsr (vals.map (·.bits)) ∧
      x.qFillNext q k.qid ((rowEntries cfg.ofmt o.bytes).getD k.inj []) = some y)) :=
  ⟨⟨xA (kM 2), kM 2, 1, 0, 1, 16, true, 0, 36, 15, _, _, metP (sA (kM 2)) ⟨rfl, rfl, by decide, rfl, by decide +kernel, fun _ => by decide +kernel, rfl, rfl⟩⟩,
   ⟨xA kEpi, kEpi, 0, 1, 0, 512, true, {}, _, _, metP (sA kEpi) ⟨rfl, rfl, by decide +kernel, by decide +kernel, rfl, rfl⟩⟩,
   (some_ex (o := (xA kEpq).qFillNext 2 9 ((rowEntries ({} : EpiCfg).ofmt oEpq.bytes).getD 0 [])) (by decide +kernel)).elim fun y h =>
     ⟨xA kEpq, kEpq, 0, 1, 2, 0, 512, true, {}, vEpq, oEpq, y, metP (sA kEpq) ⟨rfl, rfl, by decide +kernel, by decide +kernel, rfl, rfl, h⟩⟩⟩

/-- A copy from G to A offset 512 (`op` 0, a GATHER 2), one i32 element, at A offset 0; and one from A to G (a SCATTER 3). -/
def cells (op ssp dsp : Byte) : Mem :=
  (if op = 0 then [] else [(0, op)]) ++ (if ssp = 0 then [] else [(4, ssp)]) ++ (if dsp = 0 then [] else [(5, dsp)]) ++
    [(6, 2), (7, 2), (0x19, 2), (0x20, 1), (0x30, 1), (0x40, 1), (0x50, 1)] ++ (if op = 0 then [] else [(0x61, 3)]) ++
    [(0x70, 255), (0x71, 255)]
def xE (op ssp dsp : Byte) : Ctx := { x0 with abuf := cells op ssp dsp }
def bE (op ssp dsp : Byte) : List Byte := (cells op ssp dsp).read 0 128
/-- A command in the load queue. -/
def kE : ECmd := { acc := 0, off := 0, bytes := bE 0 3 0 }
def kF : ECmd := { kE with fcode := 3 }
def kZ : ECmd := { kE with begun := true, finished := true }
def xQ (k : ECmd) : Ctx := { xE 0 3 0 with loadQ := [k] }
/-- Flow 5 of the kernel is in slot 0 of track 0 at station 0, where the entry `e` stands; flag 3 stands at 7; a payload waits. -/
def ringSt (e : W64) (t : Slot) : State :=
  { st .l x0 with
    kernels := [{ fetchKernel 0 0 with abud := 4096, flows := [⟨5, false, 0, 1, 0, 0, 4, none, [0]⟩], flagSets := [⟨0, 0, 4⟩] }]
    ring := { slots := [t], table := [⟨0, 0, 0, e, 0, false⟩], flags := [((0, 3), 7)], best := [(0, 2, [1])] } }
def ent (op : Nat) : W64 := BitVec.ofNat 64 (op * 2 ^ 61 + 5 * 2 ^ 49)
/-- An open slot, an occupancy of flow 5. -/
def tFree : Slot := { trk := 0, no := 0, crce := true }
def tFull : Slot := { trk := 0, no := 0, cls := 1, flow := 5 }
/-- A slot of track 1, which no flow holds. -/
def bestSt (t : Slot) : State := { ringSt (ent 1) t with inp := { pass := ⟨0, 1, 0⟩ } }
def xF : Ctx := { x0 with rl := { sregs := (Vector.replicate 32 0).set 3 7 } }
def fl (s : State) : State := { s with ctxs := [(c0, xF)] }

/-- The hypotheses of `Obligations.CopyCommands` are met, clause by clause. -/
theorem witness_CopyCommands :
    (∃ v off b, Meets (.cpyi v) (frameTryX v)
      (fun w x s => off = readSrc w x v.a 0 ∧ off.toNat % 128 = 0 ∧ off.toNat + 128 ≤ x.abud ∧
        b = (s.ownA w x).read off.toNat 128 ∧ cmdFault s w x false [0, 1] off (Cmd.of b) = none ∧
        ownPending s w x = false ∧
        s.badS w.c 0 off.toNat 128 = false ∧ (x.engQ false).length < 16)
      (fun w x s => s.setCtx w.c (x.acceptCmd false off.toNat b (s.core w.c.cid).floor))) ∧
    (∃ v off b, Meets (.cpyo v) (frameTryX v)
      (fun w x s => off = readSrc w x v.a 0 ∧ off.toNat % 128 = 0 ∧ off.toNat + 128 ≤ x.abud ∧
        b = (s.ownA w x).read off.toNat 128 ∧ cmdFault s w x true [0, 1] off (Cmd.of b) = none ∧
        ownPending s w x = false ∧
        s.badS w.c 0 off.toNat 128 = false ∧ (x.engQ true).length < 16)
      (fun w x s => s.setCtx w.c (x.acceptCmd true off.toNat b (s.core w.c.cid).floor))) ∧
    (∃ v off b, Meets (.gthi v) (frameTryX v)
      (fun w x s => off = readSrc w x v.a 0 ∧ off.toNat % 128 = 0 ∧ off.toNat + 128 ≤ x.abud ∧
        b = (s.ownA w x).read off.toNat 128 ∧ cmdFault s w x false [2] off (Cmd.of b) = none ∧
        ownPending s w x = false ∧
        s.badS w.c 0 off.toNat 128 = false ∧ (x.engQ false).length < 16)
      (fun w x s => s.setCtx w.c (x.acceptCmd false off.toNat b (s.core w.c.cid).floor))) ∧
    (∃ v off b, Meets (.scto v) (frameTryX v)
      (fun w x s => off = readSrc w x v.a 0 ∧ off.toNat % 128 = 0 ∧ off.toNat + 128 ≤ x.abud ∧
        b = (s.ownA w x).read off.toNat 128 ∧ cmdFault s w x true [3] off (Cmd.of b) = none ∧
        ownPending s w x = false ∧
        s.badS w.c 0 off.toNat 128 = false ∧ (x.engQ true).length < 16)
      (fun w x s => s.setCtx w.c (x.acceptCmd true off.toNat b (s.core w.c.cid).floor))) ∧
    (∃ v off c val, MeetsA (.cpyi v) (frameTryX v)
      (fun w x s => off = readSrc w x v.a 0 ∧ off.toNat % 128 = 0 ∧ off.toNat + 128 ≤ x.abud ∧ ownPending s w x = false ∧
        cmdFault s w x false [0, 1] off (Cmd.of ((s.ownA w x).read off.toNat 128)) = some (.fault c val))) ∧
    (∃ v off c val, MeetsA (.cpyo v) (frameTryX v)
      (fun w x s => off = readSrc w x v.a 0 ∧ off.toNat % 128 = 0 ∧ off.toNat + 128 ≤ x.abud ∧ ownPending s w x = false ∧
        cmdFault s w x true [0, 1] off (Cmd.of ((s.ownA w x).read off.toNat 128)) = some (.fault c val))) ∧
    (∃ v off c val, MeetsA (.gthi v) (frameTryX v)
      (fun w x s => off = readSrc w x v.a 0 ∧ off.toNat % 128 = 0 ∧ off.toNat + 128 ≤ x.abud ∧ ownPending s w x = false ∧
        cmdFault s w x false [2] off (Cmd.of ((s.ownA w x).read off.toNat 128)) = some (.fault c val))) ∧
    (∃ v off c val, MeetsA (.scto v) (frameTryX v)
      (fun w x s => off = readSrc w x v.a 0 ∧ off.toNat % 128 = 0 ∧ off.toNat + 128 ≤ x.abud ∧ ownPending s w x = false ∧
        cmdFault s w x true [3] off (Cmd.of ((s.ownA w x).read off.toNat 128)) = some (.fault c val))) ∧
    (∃ v q, q = bitAt v.low 48 ∧
    Meets (.echk v) (frameX v)
      anyCtx
      (fun w x s =>
    (s.setCtx w.c (if q then { x with storeFlt := false } else { x with loadFlt := false })).setS w v.d.toNat
      (x.queueWord q (s.core w.c.cid).frozen.isSome))) :=
  ⟨⟨vX, 0, bE 0 3 0, met (st .l (xE 0 3 0)) wL (xE 0 3 0)⟩,
   ⟨{ vX with role := 2 }, 0, bE 0 0 3, met (st .s (xE 0 0 3)) wS (xE 0 0 3)⟩,
   ⟨vX, 0, bE 2 3 0, met (st .l (xE 2 3 0)) wL (xE 2 3 0)⟩,
   ⟨{ vX with role := 2 }, 0, bE 3 0 3, met (st .s (xE 3 0 3)) wS (xE 3 0 3)⟩,
   ⟨vX, 0, cCopy, 0, meetsA (st .l x0) wL x0 rfl rfl (by decide +kernel) ⟨by decide +kernel, by decide +kernel, by decide +kernel, by decide +kernel, rfl⟩⟩,
   ⟨{ vX with role := 2 }, 0, cCopy, 0, meetsA (st .s x0) wS x0 rfl rfl (by decide +kernel) ⟨by decide +kernel, by decide +kernel, by decide +kernel, by decide +kernel, rfl⟩⟩,
   ⟨vX, 0, cCopy, 0, meetsA (st .l x0) wL x0 rfl rfl (by decide +kernel) ⟨by decide +kernel, by decide +kernel, by decide +kernel, by decide +kernel, rfl⟩⟩,
   ⟨{ vX with role := 2 }, 0, cCopy, 0, meetsA (st .s x0) wS x0 rfl rfl (by decide +kernel) ⟨by decide +kernel, by decide +kernel, by decide +kernel, by decide +kernel, rfl⟩⟩,
   ⟨{ vX with low := 1 <<< 48 }, true, by decide, plain .l x0⟩⟩

/-- The hypotheses of `Obligations.EngineMoves` are met, clause by clause. -/
theorem witness_EngineMoves :
    (∃ x k c store, MeetsP
      (fun s => c = s.inp.c ∧ store = s.inp.flag ∧ s.ctx c = some x ∧ (x.engQ store)[s.inp.id]? = some k ∧ mayRun s c x k = true ∧
      (k.begun = true ∨ mayBegin s c x store k = true) ∧ (2 ≤ (Cmd.of k.bytes).op → k.begun = false →
        s.badS c 0 (Cmd.of k.bytes).gix (4 * (Cmd.of k.bytes).ext 1) = false))) ∧
    (∃ x k l c store s1, MeetsP
      (fun s => c = s.inp.c ∧ store = s.inp.flag ∧ s.ctx c = some x ∧ x.engQ store = k :: l ∧
      ((k.finished = true ∧ k.fcode = 0) ∨ k.ended = true) ∧ s.unanswered c store k = false ∧
      (s.core c.cid).frozen = none ∧ (x.state = .run ∨ x.state = .trapped) ∧
      s1 = (if k.statused then s else ((s.relCmd c k).writeStatus c store k (if k.ended then 2 else 1) (x.cmpl store + 1).toNat).modCtx c
        (fun y => y.modCmd store k.acc (fun e => { e with statused := true }))))) ∧
    (∃ x k c store, MeetsP
      (fun s => c = s.inp.c ∧ store = s.inp.flag ∧ s.ctx c = some x ∧ faultyCmd x store = some k ∧ (s.core c.cid).frozen = none ∧
      x.state = .run)) ∧
    (MeetsP
      (fun s => (s.core s.inp.cid).frozen ≠ none)) :=
  ⟨⟨xQ kE, kE, c0, false, metPd (st .l (xQ kE))⟩,
   ⟨xQ kZ, kZ, [], c0, false, _, metP (st .l (xQ kZ)) ⟨rfl, rfl, rfl, rfl, .inl ⟨rfl, rfl⟩, rfl, rfl, .inl rfl, rfl⟩⟩,
   ⟨xQ kF, kF, c0, false, metPd (st .l (xQ kF))⟩,
   metPd { st .l x0 with cores := [(0, { frozen := some (0, false) })] }⟩

/-- The hypotheses of `Obligations.SlotActions` are met, clause by clause. -/
theorem witness_SlotActions :
    (∃ e t tg fr, MeetsP
      (fun s => slotAt 1 e t tg s ∧ (t.cls = 0 ∨ (t.cls = 3 ∧ t.rsvs = s.inp.pass.stn)) ∧
      s.passed.holdCause s.inp.pass.stn e tg = none ∧ s.passed.fragment tg = (fr, false))) ∧
    (∃ e t tg fr r, MeetsP
      (fun s => slotAt 3 e t tg s ∧ slotOurs e t tg s ∧ s.passed.fragment tg = (fr, false) ∧ r = sumPayload (entFmt e) t.payload fr)) ∧
    (∃ e t tg, MeetsP
      (fun s => slotAt 2 e t tg s ∧ slotOurs e t tg s)) ∧
    (∃ e t tg, MeetsP
      (fun s => slotAt 4 e t tg s ∧ slotOurs e t tg s)) ∧
    (∃ e t tg fr, MeetsP
      (fun s => slotAt 5 e t tg s ∧ slotOurs e t tg s ∧ s.passed.fragment tg = (fr, false))) ∧
    (∃ e t, MeetsP
      (fun s => s.passes = true ∧ s.passing s.inp.pass.stn = true ∧ e = s.ring.entry s.inp.pass.stn s.inp.pass.trk s.inp.pass.slot ∧
      t = s.slotHere ∧ t.cls = 1 ∧ entOp e ≠ 0 ∧ t.flow = entFlow e)) ∧
    (∃ t, MeetsP
      (fun s => s.passes = true ∧ t = s.slotHere ∧ t.cls = 1 ∧ s.flowLives t.flow = false)) :=
  ⟨⟨ent 1, tFree, .a c0 0, List.replicate 256 0, metP (ringSt (ent 1) tFree) ⟨by unfold slotAt; decide +kernel, .inl rfl, by decide +kernel, by decide +kernel⟩⟩,
   ⟨ent 3, tFull, .a c0 0, List.replicate 256 0, _, metP (ringSt (ent 3) tFull) ⟨by unfold slotAt; decide +kernel, by unfold slotOurs; decide +kernel, by decide +kernel, rfl⟩⟩,
   ⟨ent 2, tFull, .a c0 0, metP (ringSt (ent 2) tFull) ⟨by unfold slotAt; decide +kernel, by unfold slotOurs; decide +kernel⟩⟩,
   ⟨ent 4, tFull, .a c0 0, metP (ringSt (ent 4) tFull) ⟨by unfold slotAt; decide +kernel, by unfold slotOurs; decide +kernel⟩⟩,
   ⟨ent 5, tFull, .a c0 0, List.replicate 256 0, metP (ringSt (ent 5) tFull) ⟨by unfold slotAt; decide +kernel, by unfold slotOurs; decide +kernel, by decide +kernel⟩⟩,
   ⟨ent 2, tFull, metPd { ringSt (ent 2) tFull with passThrough := 1 }⟩,
   ⟨{ tFull with flow := 6 }, metPd (ringSt (ent 1) { tFull with flow := 6 })⟩⟩

/-- The hypotheses of `Obligations.BestEffort` are met, clause by clause. -/
theorem witness_BestEffort :
    (∃ p t v, MeetsP
      (fun s => p = s.inp.pass ∧ v = (if s.inp.data.isEmpty ∨ 256 < s.inp.data.length ∨ 128 ≤ s.inp.e then s
        else { s with ring := { s.ring with best := s.ring.best ++ [(p.stn, s.inp.e, s.inp.data)] } }) ∧
      t = v.slotHere ∧ v.passes = true ∧ v.passing p.stn = false ∧
      v.unallotted p.trk p.slot = true ∧ t.rsvv = false ∧ (∃ b ∈ v.ring.best, b.1 = p.stn) ∧
      (∀ u ∈ v.ring.slots, ¬(u.trk = p.trk ∧ u.rsvv = true ∧ u.rsvs = p.stn)))) ∧
    (∃ p t b, MeetsP
      (fun s => p = s.inp.pass ∧ t = s.slotHere ∧ s.ring.best.find? (fun b => b.1 == p.stn) = some b ∧
      s.passes = true ∧ s.passing p.stn = false ∧ s.unallotted p.trk p.slot = true ∧
      ((t.cls = 0 ∧ t.rsvv = false) ∨ (t.cls = 3 ∧ t.rsvv = true ∧ t.rsvs = p.stn)))) ∧
    (∃ p t, MeetsP
      (fun s => p = s.inp.pass ∧ t = s.slotHere ∧ s.passes = true ∧ s.passing p.stn = false ∧ t.cls = 2 ∧ t.dst = p.stn)) :=
  ⟨⟨⟨0, 1, 0⟩, emptySlot 1 0, bestSt tFull, metP (bestSt tFull) ⟨rfl, rfl, by decide +kernel, by decide +kernel, by decide +kernel, by decide +kernel, rfl, ⟨(0, 2, [1]), by decide +kernel⟩, by decide +kernel⟩⟩,
   ⟨⟨0, 1, 0⟩, { trk := 1, no := 0, cls := 3, rsvv := true }, (0, 2, [1]), metPd (bestSt { trk := 1, no := 0, cls := 3, rsvv := true })⟩,
   ⟨⟨0, 1, 0⟩, { trk := 1, no := 0, cls := 2 }, metPd (bestSt { trk := 1, no := 0, cls := 2 })⟩⟩

/-- The hypotheses of `Obligations.ConveyorInstructions` are met, clause by clause. -/
theorem witness_ConveyorInstructions :
    (∃ v stn f, Meets (.cvwt v) (frameTryX v)
      (fun w x s => flagIx s w x v = some (stn, f) ∧ reached (s.ring.flag stn f) ((readSrc w x v.a 0).setWidth 16) = true)
      (fun w _ s => s.acquire w.c.cid 2)) ∧
    (∃ v stn f b, Meets (.cvts v) (frameX v)
      (fun w x s => flagIx s w x v = some (stn, f) ∧ b = reached (s.ring.flag stn f) ((readSrc w x v.a 0).setWidth 16))
      (fun w _ s => (if b then s.acquire w.c.cid 2 else s).setP w (v.d.toNat - 48) b)) ∧
    (∃ v stn f, Meets (.cvcl v) (frameX v)
      (fun w x s => flagIx s w x v = some (stn, f))
      (fun _ _ s => { s with ring := s.ring.setFlag stn f (BitVec.ofNat 16 (if s.ring.at_ = s.rst then
      ((s.ring.incs.filter (fun i => i.1 == (stn, f))).map (·.2)).sum else 0)) })) ∧
    (∃ v, MeetsA (.cvwt v) (frameTryX v)
      (fun w x s => flagIx s w x v = none)) ∧
    (∃ v, MeetsA (.cvts v) (frameX v)
      (fun w x s => flagIx s w x v = none)) ∧
    (∃ v, MeetsA (.cvcl v) (frameX v)
      (fun w x s => flagIx s w x v = none)) ∧
    (∃ v, Meets (.cvinf v) (frameX v)
      anyCtx
      (fun w x s => s.setS w v.d.toNat (flowWord s w x (readSrc w x v.a 0)))) ∧
    (∃ v, Meets (.cvtim v) (frameX v)
      anyCtx
      (fun w _ s => s.setS w v.d.toNat (BitVec.ofNat 64
    (if bitAt v.low 48 then (s.rst + 512 - 4 * dieStation (dieOf w.c.cid) % 512) % 512 else s.rst)))) :=
  ⟨⟨{ vX with a := 3, low := 0x1800000000000 }, 0, 3, met (fl (ringSt 0 tFull)) wL xF⟩,
   ⟨{ vX with d := 49, a := 3, low := 0x1800000000000 }, 0, 3, true, met (fl (ringSt 0 tFull)) wL xF⟩,
   ⟨{ vX with low := 0x1800000000000 }, 0, 3, met (fl (ringSt 0 tFull)) wL xF⟩,
   ⟨{ vX with low := 0x2000000000000 }, metA (fl (ringSt 0 tFull)) wL xF⟩,
   ⟨{ vX with d := 49, low := 0x2000000000000 }, metA (fl (ringSt 0 tFull)) wL xF⟩,
   ⟨{ vX with low := 0x2000000000000 }, metA (fl (ringSt 0 tFull)) wL xF⟩,
   ⟨vX, plain .l x0⟩,
   ⟨{ vX with low := 1 <<< 48 }, plain .l x0⟩⟩

/-- A kernel with one episode, EPI 0; slot 0 of Sett core 0 of die 0 is `p`, the core is in mode `m`. -/
def sMb (p : EpSlot) (m : PMode) (r : Role) (x : Ctx) : State :=
  { st r x with kernels := [{ fetchKernel 0 0 with episodes := [0] }]
                sett := [((0, 0), { slots := (Vector.replicate 16 {}).set 0 p, mode := m })] }
def pRun : EpSlot := { state := .run, slen := 4096, open_ := true }
def pObs : EpSlot := { pRun with obs := [⟨0, []⟩] }
/-- A slot whose step has taken longer than its limit. -/
def pLate : EpSlot := { pRun with steplim := 8, counting := true, wdog := 9 }
/-- Handle 1, which the kernel does not have. -/
def xH : Ctx := { xq with rl := { sregs := (Vector.replicate 32 0).set 3 1 }, rs := { sregs := (Vector.replicate 32 0).set 3 1 } }

/-- The hypotheses of `Obligations.MailboxInstructions` are met, clause by clause. -/
theorem witness_MailboxInstructions :
    (∃ v d k e st pop p, Meets (.mbsnd v) (frameTryX v)
      (fun w x s => handleOf s x (readSrc w x v.b 0) = some (d, k, e) ∧ (Taken.q { x := x } (qOf v.a) false).stop none = none ∧
      freed 3 w x s ∧ (s.epSlot d k e).send x.ver (laneBytes (headLanes x (qOf v.a))) = .done st pop p)
      (fun w x s => ((if pop then s.setCtx w.c (x.qPop (qOf v.a)) else s).setEpSlot d k e p).setS w v.d.toNat (BitVec.ofNat 64 st))) ∧
    (∃ v d k e o p y, Meets (.mbrcv v) (frameMbrcv v)
      (fun w x s => handleOf s x (readSrc w x v.a 0) = some (d, k, e) ∧ (s.epSlot d k e).take = some (o, p) ∧
      ((x.rcvd = none ∧ Taken.stop { x := x } (some (qOf v.d)) = none ∧ y = x.qPush (qOf v.d) (bytesLanes o.payload)) ∨
        (∃ q id, x.rcvd = some (q, id) ∧ y = { x.qFill q id (bytesLanes o.payload) with rcvd := none })))
      (fun w _ s => (((s.setCtx w.c y).setEpSlot d k e { p with ostep := field o.hdr 96 32 }).acquire w.c.cid 3).setS w
      (field v.low 51 6).toNat (field o.hdr 0 64))) ∧
    (∃ v h d k e, Meets (.mbsta v) (frameX v)
      (fun w x s => h = readSrc w x v.a 0 ∧ handleOf s x h = some (d, k, e))
      (fun w _ s => s.setS w v.d.toNat (if bitAt v.low 47 then
      (s.epSlot d k e).ostep.setWidth 64 <<< 32 ||| (s.epSlot d k e).step.setWidth 64
      else (s.epSlot d k e).word (epiOf d k e)))) ∧
    (∃ v, MeetsA (.mbsnd v) (frameTryX v)
      (fun w x s => handleOf s x (readSrc w x v.b 0) = none)) ∧
    (∃ v, MeetsA (.mbrcv v) (frameMbrcv v)
      (fun w x s => handleOf s x (readSrc w x v.a 0) = none)) ∧
    (∃ v, MeetsA (.mbsta v) (frameX v)
      (fun w x s => handleOf s x (readSrc w x v.a 0) = none)) :=
  ⟨⟨{ vX with role := 2, d := 4, a := 32 }, 0, 0, 0, 0, true, _, meets (sMb pRun .u .s xq) wS xq rfl rfl (by decide +kernel) ⟨by decide +kernel, by decide +kernel, by unfold freed; decide +kernel, rfl⟩⟩,
   ⟨{ vX with d := 32 }, 0, 0, 0, ⟨0, []⟩, pRun, _, meets (sMb pObs .u .l x0) wL x0 rfl rfl (by decide +kernel) ⟨by decide +kernel, rfl, .inl ⟨rfl, by decide +kernel, rfl⟩⟩⟩,
   ⟨vX, 0, 0, 0, 0, met (sMb pObs .u .l x0) wL x0⟩,
   ⟨{ vX with role := 2, d := 4, a := 32, b := 3 }, metA (sMb pRun .u .s xH) wS xH⟩,
   ⟨{ vX with d := 32, a := 3 }, metA (sMb pRun .u .l xH) wL xH⟩,
   ⟨{ vX with a := 3 }, metA (sMb pRun .u .l xH) wL xH⟩⟩

/-- The hypotheses of `Obligations.MailboxEvents` are met, clause by clause. -/
theorem witness_MailboxEvents :
    (MeetsP
      (fun _ => True)) ∧
    (∃ p, MeetsP
      (fun s => p = s.epSlot s.inp.die s.inp.e (s.settCore s.inp.die s.inp.e).kjepi ∧ p.open_ = false)) ∧
    (∃ p, MeetsP
      (fun s => p = s.epSlot s.inp.die s.inp.e (s.settCore s.inp.die s.inp.e).kjepi ∧ p.open_ = true)) ∧
    (∃ d k e p, MeetsP
      (fun s => d = s.inp.die ∧ k = s.inp.e ∧ e = (s.settCore d k).kjepi ∧ p = s.epSlot d k e ∧ bitAt s.inp.v 0 = true ∧
      p.state ≠ .closed ∧ p.state ≠ .stopped)) ∧
    (∃ d k e p, MeetsP
      (fun s => d = s.inp.die ∧ k = s.inp.e ∧ (s.settCore d k).mode = .u ∧ e = (s.settCore d k).kjepi ∧ p = s.epSlot d k e ∧
      p.window s.inp.addr s.inp.no s.inp.flag = .none ∧ p.state ≠ .closed ∧ p.state ≠ .stopped)) ∧
    (∃ d k e p u, MeetsP
      (fun s => d = s.inp.die ∧ k = s.inp.e ∧ e = s.inp.id ∧ u = s.countWatch d k ∧ p = u.epSlot d k e ∧ p.steplim ≠ 0 ∧ p.counting = true ∧
      p.steplim.toNat < p.wdog ∧ p.state ≠ .closed ∧ p.state ≠ .stopped)) :=
  ⟨metP State.reset trivial,
   ⟨{}, metPd (sMb {} .m .l x0)⟩,
   ⟨pRun, metPd (sMb pRun .m .l x0)⟩,
   ⟨0, 0, 0, pRun, metPd { sMb pRun .m .l x0 with inp := { v := 1 } }⟩,
   ⟨0, 0, 0, pRun, metPd { sMb pRun .u .l x0 with inp := { addr := 4095, no := 2 } }⟩,
   ⟨0, 0, 0, pLate, (sMb pLate .m .l x0).countWatch 0 0, metP (sMb pLate .m .l x0) ⟨rfl, rfl, rfl, rfl, by decide +kernel, by decide, rfl, by decide, by decide, by decide⟩⟩⟩

/-- A privileged context that serves all partitions, s3 and s5 as given, and a harvest context `y` beside it. -/
def xP (a b : W64) : Ctx := { xR a b with priv := true, servPart := 31 }
def sP (x y : Ctx) : State := { st .l x with ctxs := [(c0, x), (⟨0, 1⟩, y)], dies := [(0, { live := true, tq := [(0, { tqt := 1 })] })] }
def yTrap : Ctx := { x0 with state := .trapped, trap := some (0, 1, ⟨0, 0⟩, false) }
def yPark : Ctx := { x0 with state := .parked }
/-- A context one of whose roles is in mid-word. -/
def yOff : Ctx := { x0 with rl := { wait := some .fence } }
def xSv : Ctx := { xP 0 0 with rl := { wait := some .target, mark := some 7 } }
def xI : Ctx := { xP 5 0 with rl := { (xR 5 0).rl with mark := some 0 } }
/-- The same, waiting in an IDLE that is the kernel's first word. -/
def vI : WordX := { vX with d := 4, a := 3 }
def xIw : Ctx := { xI with rl := { xI.rl with wait := some .idle } }
def sI : State := { sP xIw x0 with kernels := [fetchKernel 0 ((encodeWord (.idle vI)).getD 0)] }
/-- A record that waits at a queue with room. -/
def tR : TrapRec := ⟨c0, 0, 1, false, 0, 0, [⟨0, 0⟩, ⟨0, 0⟩, ⟨0, 0⟩], 0, 0, 0⟩
def sW : State := { st .l x0 with dies := [(0, { live := true, tq := [(0, { tqb := 0x4000, tqt := 255, waiting := [tR] })] })] }

/-- The hypotheses of `Obligations.PrivilegedRegisters` are met, clause by clause. -/
theorem witness_PrivilegedRegisters :
    (∃ v, Meets (.srd v) (frameP v)
      (fun _ _ _ => bitAt v.low 47 = true ∧ ctxSpecial (spcNo v) = true)
      (fun w x s => s.setS w v.d.toNat (contextSpecial s w.c x (spcRole v) (spcNo v)))) ∧
    (∃ v c y, Meets (.srd v) (frameP v)
      (fun w x s => bitAt v.low 47 = false ∧ ctxSpecial (spcNo v) = true ∧ named (readSrc w x v.a 0) c y x s)
      (fun w _ s => s.setS w v.d.toNat (contextSpecial s c y (spcRole v) (spcNo v)))) ∧
    (∃ v c, Meets (.srd v) (frameP v)
      (fun w x s => ctxSpecial (spcNo v) = false ∧ spcCore v (readSrc w x v.a 0) c w x s)
      (fun w x s => s.setS w v.d.toNat (coreSpecial s c (spcPart x v) (spcNo v)))) ∧
    (∃ v c y u, Meets (.swr v) (frameP v)
      (fun w x s => ctxSpecial (spcNo v) = true ∧ swrNames v w c y x s ∧ (y.state = .run → swrFree v w c y x s) ∧
      writeContextSpecial s c ((s.ctx c).getD {}) (spcRole v) (spcNo v) (readSrc w x v.a 0) ≠ none ∧
      writeContextSpecial s c { y with swr := none } (spcRole v) (spcNo v) (readSrc w x v.a 0) = some u)
      (fun _ _ _ => u)) ∧
    (∃ v c y, MeetsA (.swr v) (frameP v)
      (fun w x s => ctxSpecial (spcNo v) = true ∧ swrNames v w c y x s ∧ y.state = .run ∧ y.swr = none ∧ y.offBoundary (swrOwn w c) ≠ [] ∧
      writeContextSpecial s c y (spcRole v) (spcNo v) (readSrc w x v.a 0) ≠ none)) ∧
    (∃ v c u, Meets (.swr v) (frameP v)
      (fun w x s => (0x4E ≤ spcNo v → x.servPart = 31) ∧ ctxSpecial (spcNo v) = false ∧ spcCore v (readSrc w x v.b 0) c w x s ∧
      writeCoreSpecial s c (spcPart x v) (spcNo v) (readSrc w x v.a 0) = some u)
      (fun _ _ _ => u)) ∧
    (∃ v c, MeetsA (.swr v) (frameP v)
      (fun w x s => ctxSpecial (spcNo v) = true ∧
      (if bitAt v.low 47 then c = w.c else c = idOf (readSrc w x v.b 0) ∧ idFault s x (readSrc w x v.b 0) true = none) ∧
      writeContextSpecial s c ((s.ctx c).getD {}) (spcRole v) (spcNo v) (readSrc w x v.a 0) = none)) ∧
    (∃ v c, MeetsA (.swr v) (frameP v)
      (fun w x s => ctxSpecial (spcNo v) = true ∧ bitAt v.low 47 = false ∧ c = idOf (readSrc w x v.b 0) ∧
      idFault s x (readSrc w x v.b 0) true = none ∧ s.ctx c = none ∧
      writeContextSpecial s c {} (spcRole v) (spcNo v) (readSrc w x v.a 0) ≠ none)) ∧
    (∃ v c, MeetsA (.swr v) (frameP v)
      (fun w x s => (0x4E ≤ spcNo v → x.servPart = 31) ∧ ctxSpecial (spcNo v) = false ∧ spcCore v (readSrc w x v.b 0) c w x s ∧
      writeCoreSpecial s c (spcPart x v) (spcNo v) (readSrc w x v.a 0) = none)) ∧
    (∃ v, MeetsA (.swr v) (frameP v)
      (fun _ x _ => 0x4E ≤ spcNo v ∧ x.servPart ≠ 31)) ∧
    (MeetsP
      (fun _ => True)) ∧
    (MeetsP
      (fun _ => True)) ∧
    (MeetsP
      (fun _ => True)) ∧
    (MeetsP
      (fun _ => True)) ∧
    (MeetsP
      (fun s => s.inp.flag = false ∧ swrWritable (BitVec.ofNat 9 s.inp.no) = true ∧ s.inp.no < 512)) :=
  ⟨⟨{ vX with d := 4, low := 0xf800000000000 }, met (sP (xP 0 0) x0) wL (xP 0 0)⟩,
   ⟨{ vX with d := 4, a := 3, low := 0xf000000000000 }, ⟨0, 1⟩, x0, meets (sP (xP 1 0) x0) wL (xP 1 0) rfl rfl (by decide +kernel) ⟨by decide +kernel, by decide +kernel, by unfold named; decide +kernel⟩⟩,
   ⟨{ vX with d := 4, a := 3, low := 0x41000000000000 }, ⟨0, 1⟩, meets (sP (xP 1 0) x0) wL (xP 1 0) rfl rfl (by decide +kernel) ⟨by decide +kernel, by unfold spcCore namedCore; decide +kernel⟩⟩,
   (some_ex (o := writeContextSpecial (sP (xP 5 1) x0) ⟨0, 1⟩ x0 .l 0x0D 5) (by decide +kernel)).elim fun u h =>
     ⟨{ vX with a := 3, b := 5, low := 0xd000000000000 }, ⟨0, 1⟩, x0, u, meets (sP (xP 5 1) x0) wL (xP 5 1) rfl rfl (by decide +kernel) ⟨by decide +kernel, by unfold swrNames named; decide +kernel, fun _ => rfl, by decide +kernel, h⟩ (by cases h; rfl)⟩,
   ⟨{ vX with a := 3, b := 5, low := 0xd000000000000 }, ⟨0, 1⟩, yOff, meetsA (sP (xP 5 1) yOff) wL (xP 5 1) rfl rfl (by decide +kernel) ⟨by decide +kernel, by unfold swrNames named; decide +kernel, rfl, rfl, by decide +kernel, by decide +kernel⟩⟩,
   (some_ex (o := writeCoreSpecial (sP (xP 20000 1) x0) ⟨0, 1⟩ 0 0x42 20000) (by decide +kernel)).elim fun u h =>
     ⟨{ vX with a := 3, b := 5, low := 0x42000000000000 }, ⟨0, 1⟩, u, meets (sP (xP 20000 1) x0) wL (xP 20000 1) rfl rfl (by decide +kernel) ⟨(fun h => absurd h (by decide)), by decide +kernel, by unfold spcCore namedCore; decide +kernel, h⟩ (by cases h; rfl)⟩,
   ⟨{ vX with a := 3, b := 5, low := 0x48000000000000 }, ⟨0, 1⟩, metA (sP (xP 2 1) x0) wL (xP 2 1)⟩,
   ⟨{ vX with a := 3, b := 5, low := 0xd000000000000 }, ⟨0, 2⟩, metA (sP (xP 5 2) x0) wL (xP 5 2)⟩,
   ⟨{ vX with a := 3, low := 0x41800000000000 }, c0, meetsA (sP (xP 0x3FF 1) x0) wL (xP 0x3FF 1) rfl rfl (by decide +kernel) ⟨(fun h => absurd h (by decide)), by decide +kernel, by unfold spcCore namedCore; decide +kernel, by decide +kernel⟩⟩,
   ⟨{ vX with low := 0x4e800000000000 }, metA (st .l { x0 with priv := true }) wL { x0 with priv := true }⟩,
   metP State.reset trivial,
   metP State.reset trivial,
   metP State.reset trivial,
   metP State.reset trivial,
   metPd { State.reset with inp := { no := 0x41 } }⟩

/-- A saved context, and an image header of it at 0x2000; its implementation code is the machine's. -/
def ySv : Ctx := { x0 with state := .saved, image := some 0x2000 }
def bI (i : Nat) : Byte := Config.implCode.extractLsb' (8 * i) 8
def sLd : State :=
  { sP (xP 1 0x2000) ySv with
    hbm := [(0, 1), (1, 0x10), (0x1000, 7), (0x2000, 0x31), (0x2001, 0x58), (0x2002, 0x43), (0x2003, 0x4B), (0x2006, 1),
      (0x2008, bI 0), (0x2009, bI 1), (0x200A, bI 2), (0x200B, bI 3)] }
/-- The header lies in an uncorrectable word. -/
def sLdBad : State := { sLd with poison := [0x2000] }
def hLd : List Byte := sLd.readG 0x2000 64 ++ []
/-- Runs whose translations succeed, over sound memory, can be read. -/
theorem loadRuns_ok {s : State} {cid p : Nat} : ∀ {r : List (Nat × Nat)},
    r.all (fun e => match s.look cid p e.1 false with
      | .ok pa => !s.badG pa e.2
      | .error _ => false) = true → ∃ l, s.loadRuns cid p r = .ok l
  | [], _ => ⟨[], rfl⟩
  | (va, n) :: r, h => by
    rw [List.all_cons, Bool.and_eq_true] at h
    obtain ⟨l, hl⟩ := loadRuns_ok h.2
    have h1 := h.1
    unfold State.loadRuns
    split at h1
    · next e => rw [e]; simp only [Bool.not_eq_true'] at h1; simp [h1, hl, Except.map]
    · cases h1
theorem hLd_read : sLd.loadRuns 0 0 (pageParts 0x2000 64) = .ok hLd := by
  have e : sLd.look 0 0 0x2000 false = .ok 0x2000 := ok_of (by decide +kernel)
  have b : sLd.badG 0x2000 64 = false := by decide +kernel
  show sLd.loadRuns 0 0 [(0x2000, 64)] = _
  simp [State.loadRuns, e, b, Except.map, hLd]
theorem sLd_image (l : List Byte) : sLd.imageOf ySv l = ySv := by
  unfold State.imageOf; split <;> rfl
theorem hLd_code : numAt hLd 8 4 = Config.implCode.toNat := by
  have h0 : hLd[8]? = some (bI 0) := rfl
  have h1 : hLd[9]? = some (bI 1) := rfl
  have h2 : hLd[10]? = some (bI 2) := rfl
  have h3 : hLd[11]? = some (bI 3) := rfl
  have h : (hLd.drop 8).take 4 = [bI 0, bI 1, bI 2, bI 3] := by
    apply List.ext_getElem?
    rintro (_ | _ | _ | _ | i) <;> simp [List.getElem?_take, h0, h1, h2, h3] <;> (intro _; omega)
  unfold numAt
  rw [h]
  simp only [natOfBytes, bI, BitVec.extractLsb'_toNat, Nat.shiftRight_eq_div_pow]
  have := Config.implCode.isLt
  omega

/-- The hypotheses of `Obligations.ContextControl` are met, clause by clause. -/
theorem witness_ContextControl :
    (∃ v c y role cause code val, Meets (.eret v) (frameP v)
      (fun w x s => named (readSrc w x v.a 0) c y x s ∧ y.state = .trapped ∧ y.trap = some (role, cause, code, val) ∧
      ¬((eretMode v = 1 ∧ role = 3) ∨ (eretMode v = 0 ∧ cause = cCopyFault)) ∧ freed 2 w x s)
      (fun _ _ s => resumeCtx s c y (eretMode v) role cause)) ∧
    (∃ v m, Meets (.ctxsv v) (frameP v)
      (fun w x _ => (x.role w.r).wait = some .target ∧ (x.role w.r).mark = some m ∧ m ≠ -1)
      (fun w _ s => s.setS w v.d.toNat m)) ∧
    (∃ v c y h l z, Meets (.ctxld v) (frameP v)
      (fun w x s => idFault s x (readSrc w x v.a 0) true = none ∧ c = idOf (readSrc w x v.a 0) ∧
      s.loadRuns w.c.cid x.part (pageParts (readSrc w x v.b 0).toNat 64) = .ok h ∧ numAt h 0 4 = 0x4B435831 ∧ numAt h 4 2 = c.cid ∧
      numAt h 6 1 = c.num ∧ numAt h 8 4 = Config.implCode.toNat ∧ s.savedOf c (numAt h 0x10 8) = some y ∧ s.slotClean c = true ∧
      (s.core c.cid).retired = false ∧ s.fits c.cid y.abud y.wbud y.zbud = true ∧ freed 2 w x s ∧
      s.loadRuns w.c.cid x.part (imageRuns (readSrc w x v.b 0).toNat) = .ok l ∧ z = s.imageOf y (l.drop 64))
      (fun w x s => ((s.release w.c 2).keepLeaves w.c.cid x.part (imageRuns (readSrc w x v.b 0).toNat)).restore c z)) ∧
    (∃ v, MeetsA (.ctxld v) (frameP v)
      (fun w x s => idFault s x (readSrc w x v.a 0) true = none ∧
      s.loadRuns w.c.cid x.part (pageParts (readSrc w x v.b 0).toNat 64) = .error (cMemory, (readSrc w x v.b 0).toNat))) ∧
    (∃ v c y, Meets (.park v) (frameP v)
      (fun w x s => named (readSrc w x v.a 0) c y x s ∧ c.num ≠ 0 ∧ (y.state = .run ∨ y.state = .trapped))
      (fun w _ s => (s.revoke c 0).setS w v.d.toNat (BitVec.ofNat 64 (c.num - 1)))) ∧
    (∃ v c y, Meets (.unpark v) (frameP v)
      (fun w x s => named (readSrc w x v.a 0) c y x s ∧ c.num ≠ 0 ∧ y.state = .parked ∧ freed 2 w x s)
      (fun _ _ s => s.unpark c)) ∧
    (∃ v c y, Meets (.dbgh v) (frameP v)
      (fun w x s => (field v.low 48 2).toNat < 2 ∧ field v.low 50 3 ≠ 0 ∧ named (readSrc w x v.a 0) c y x s)
      (fun _ _ s => s.debug (field v.low 48 2).toNat (field v.low 50 3) c)) ∧
    (∃ v cid, Meets (.dbgh v) (frameP v)
      (fun w x s => 2 ≤ (field v.low 48 2).toNat ∧ field v.low 50 3 = 0 ∧ namedCore (readSrc w x v.a 0) cid x s)
      (fun _ _ s => s.debug (field v.low 48 2).toNat (field v.low 50 3) ⟨cid, 0⟩)) :=
  ⟨⟨{ vX with a := 3, low := 1 <<< 48 }, ⟨0, 1⟩, yTrap, 0, 1, ⟨0, 0⟩, false, meets (sP (xP 1 0) yTrap) wL (xP 1 0) rfl rfl (by decide +kernel) ⟨by unfold named; decide +kernel, by decide +kernel, by decide +kernel, by decide +kernel, by unfold freed; decide +kernel⟩⟩,
   ⟨{ vX with d := 4 }, 7, met (sP xSv x0) wL xSv⟩,
   (loadRuns_ok (s := sLd) (cid := 0) (p := 0) (r := imageRuns 0x2000) (by decide +kernel)).elim fun l h =>
     ⟨{ vX with a := 3, b := 5 }, ⟨0, 1⟩, ySv, hLd, l, ySv, meets sLd wL (xP 1 0x2000) rfl rfl (by decide +kernel) ⟨by decide +kernel, by decide +kernel, hLd_read, by decide +kernel, by decide +kernel, by decide +kernel, hLd_code, by decide +kernel, by decide +kernel, by decide +kernel, by decide +kernel, by unfold freed; decide +kernel, h, (sLd_image _).symm⟩⟩,
   ⟨{ vX with a := 3, b := 5 }, meetsA sLdBad wL (xP 1 0x2000) rfl rfl (by decide +kernel) ⟨by decide +kernel, err_of (by decide +kernel)⟩⟩,
   ⟨{ vX with d := 4, a := 3 }, ⟨0, 1⟩, x0, meets (sP (xP 1 0) x0) wL (xP 1 0) rfl rfl (by decide +kernel) ⟨by unfold named; decide +kernel, by decide +kernel, by decide +kernel⟩⟩,
   ⟨{ vX with a := 3 }, ⟨0, 1⟩, yPark, meets (sP (xP 1 0) yPark) wL (xP 1 0) rfl rfl (by decide +kernel) ⟨by unfold named; decide +kernel, by decide +kernel, by decide +kernel, by unfold freed; decide +kernel⟩⟩,
   ⟨{ vX with a := 3, low := 1 <<< 50 }, ⟨0, 1⟩, x0, meets (sP (xP 1 0) x0) wL (xP 1 0) rfl rfl (by decide +kernel) ⟨by decide +kernel, by decide +kernel, by unfold named; decide +kernel⟩⟩,
   ⟨{ vX with low := 2 <<< 48 }, 0, meets (sP (xP 1 0) x0) wL (xP 1 0) rfl rfl (by decide +kernel) ⟨by decide +kernel, by decide +kernel, by unfold namedCore; decide +kernel⟩⟩⟩

/-- The hypotheses of `Obligations.InvalidationAndTables` are met, clause by clause. -/
theorem witness_InvalidationAndTables :
    (∃ v a size, Meets (.invl v) (frameP v)
      (fun w x s => a = readSrc w x v.a 0 ∧ field v.low 48 2 ≠ 3 ∧
      size = (if (field v.low 48 2).toNat = 0 then 65536 else if (field v.low 48 2).toNat = 1 then 2097152 else 1073741824) ∧
      a.toNat % size = 0 ∧ a.toNat < 2 ^ 48 ∧ (bitAt v.low 50 = true → a = 0))
      (fun w x s => (s.invalidate w x (bitAt v.low 50) size a.toNat).setS w v.d.toNat (BitVec.ofNat 64 (s.part x.part).ivlt))) ∧
    (∃ v n s1, Meets (.inva v) (frameP v)
      (fun w x s => n = invaTarget v w x s ∧ s1 = (s.liveCores x.part).foldl (fun (s : State) cid => s.applyLog cid) s ∧
      (∀ cid ∈ s1.liveCores x.part, reachedIdx (s1.core cid).ivla n = true))
      (fun _ _ _ => s1)) ∧
    (MeetsP
      (fun _ => True)) ∧
    (∃ v stn trk slot, Meets (.stbw v) (frameP v)
      (fun w x s => namedLoc (readSrc w x v.b 0) stn trk slot x s ∧ entryBad stn (readSrc w x v.a 0) = false)
      (fun w x s => { s with ring := s.ring.setEntry stn trk slot (readSrc w x v.a 0) })) ∧
    (∃ v stn trk slot, Meets (.stbr v) (frameP v)
      (fun w x s => namedLoc (readSrc w x v.b 0) stn trk slot x s)
      (fun w _ s => s.setS w v.d.toNat (s.ring.entry stn trk slot))) ∧
    (∃ v cid, Meets (.retire v) (frameP v)
      (fun w x s => field (readSrc w x v.a 0) 0 2 = 0 ∧ namedCore (readSrc w x v.a 0) cid x s)
      (fun _ _ s => s.retireCore cid)) ∧
    (∃ v cid, Meets (.spare v) (frameP v)
      (fun w x s => namedCore (readSrc w x v.a 0) cid x s ∧ (s.core cid).retired = true)
      (fun w _ s => if (s.die (dieOf cid)).left = 0 then s.setS w v.d.toNat 1 else (s.bringSpare cid).setS w v.d.toNat 0)) ∧
    (∃ v q, Meets (.idle v) (frameIdle v)
      (fun w x s => q = s.trapQ (dieOf w.c.cid) x.part ∧ q.tqt ≠ q.tqh)
      (fun w _ s => (s.acquire w.c.cid 2).setS w v.d.toNat (q.tqt.setWidth 64))) ∧
    (∃ v q m, Meets (.idle v) (frameIdle v)
      (fun w x s => q = s.trapQ (dieOf w.c.cid) x.part ∧ bitAt v.low 56 = false ∧ (x.role w.r).mark = some m ∧
      readSrc w x v.a 0 ≠ 0 ∧ readSrc w x v.a 0 ≤ s.cyc w.c.cid - m)
      (fun w _ s => (s.acquire w.c.cid 2).setS w v.d.toNat (q.tqt.setWidth 64))) ∧
    (∃ (s : State), ∃ x v k m n, s.ctx s.inp.c = some x ∧
    decode (fetchBytes (s.textOf x) (x.role s.inp.r).pc) = .ok (.idle v, k) ∧
    (x.role s.inp.r).mark = some m ∧
    n = (readSrc ⟨s.inp.c, s.inp.r⟩ x v.a 0 - (s.cyc s.inp.c.cid - m)).toNat ∧
    (x.role s.inp.r).wait = some .idle ∧
    s.due n = none ∧
    readSrc ⟨s.inp.c, s.inp.r⟩ x v.a 0 ≠ 0 ∧
    s.canIssue ⟨s.inp.c, s.inp.r⟩ = true ∧
    (x.role s.inp.r).waited + n < x.wlim) ∧
    (∃ t l s1 s2, MeetsP
      (fun s => (s.trapQ s.inp.die s.inp.part).waiting = t :: l ∧ (s.trapQ s.inp.die s.inp.part).full = false ∧
      s.devBusy s.inp.part ((s.trapQ s.inp.die s.inp.part).tqb + 64 * ((s.trapQ s.inp.die s.inp.part).tqt.toNat % 256)) = false ∧ s1 = s.modTrapQ s.inp.die s.inp.part (fun q => { q with waiting := q.waiting.tail }) ∧
      s1.storeRec s.inp.die s.inp.part t = some s2)) :=
  ⟨⟨{ vX with d := 4, a := 3 }, 0xFFFFFFFF0000, 65536, meets (sP (xP 0xFFFFFFFF0000 0) x0) wL (xP 0xFFFFFFFF0000 0) rfl rfl (by decide +kernel) ⟨by decide +kernel, by decide, by decide, by decide, by decide, by decide⟩⟩,
   ⟨{ vX with low := 1 <<< 48 }, 0, _, meets (sP (xP 0 0) x0) wL (xP 0 0) rfl rfl (by decide +kernel) ⟨by decide +kernel, rfl, by decide +kernel⟩⟩,
   metP State.reset trivial,
   ⟨vX, 0, 0, 0, meets (sP (xP 0 0) x0) wL (xP 0 0) rfl rfl (by decide +kernel) ⟨by unfold namedLoc; decide +kernel, by decide +kernel⟩⟩,
   ⟨{ vX with d := 4 }, 0, 0, 0, meets (sP (xP 0 0) x0) wL (xP 0 0) rfl rfl (by decide +kernel) (by unfold namedLoc; decide +kernel)⟩,
   ⟨{ vX with a := 3 }, 1, meets (sP (xP 4 0) x0) wL (xP 4 0) rfl rfl (by decide +kernel) ⟨by decide +kernel, by unfold namedCore; decide +kernel⟩⟩,
   ⟨{ vX with d := 4, a := 3 }, 1, meets { sP (xP 4 0) x0 with cores := [(1, { retired := true })] } wL (xP 4 0) rfl rfl (by decide +kernel) ⟨by unfold namedCore; decide +kernel, by decide +kernel⟩⟩,
   ⟨{ vX with d := 4 }, { tqt := 1 }, met (sP (xP 0 0) x0) wL (xP 0 0)⟩,
   ⟨{ vX with d := 4, a := 3 }, { tqt := 1 }, 0, met { sP xI x0 with cycles := 5 } wL xI⟩,
   ⟨sI, xIw, vI, _, 0, 5, rfl, rfl, rfl, by decide +kernel, rfl, by decide +kernel, by decide +kernel, by decide +kernel⟩,
   (some_ex (o := (sW.modTrapQ 0 0 (fun q => { q with waiting := q.waiting.tail })).storeRec 0 0 tR) (by decide +kernel)).elim fun s2 h =>
     ⟨tR, [], _, s2, metP sW ⟨rfl, by decide +kernel, by decide +kernel, rfl, h⟩⟩⟩

theorem some_getD {α} {o : Option α} {d : α} (h : o.isSome = true) : o = some (o.getD d) := by
  cases o with
  | none => cases h
  | some a => rfl
theorem served_ex {r : Served} (h : (match r with | .ok _ _ => true | _ => false) = true) : ∃ l s, r = .ok l s := by
  cases r <;> first | exact ⟨_, _, rfl⟩ | cases h
/-- A kernel with four channels whose context is `x`; and with work lists that are empty. -/
def kK : Kernel := { fetchKernel 0 0 with g := 4 }
def sKk (x : Ctx) : State := { st .l x with kernels := [kK], inp := { e := 3 } }
def kWl : Kernel := { kK with wl := some ⟨4, [[]], 0, 0, none, false⟩ }
def xPend : Ctx := { x0 with chans := (Vector.replicate 16 {}).set 3 { pending := true } }
def xPh1 : Ctx := { x0 with phaseArrived := true }
/-- Every live role waits at an empty token FIFO. -/
def rDead : RoleSt := { wait := some .tokenPop, seen := x0.shared }
def xDead : Ctx := { x0 with rl := rDead, rc := rDead, rs := rDead }
def xTime : Ctx := { x0 with rl := { wait := some .fence, waited := 0x01000000 } }
def xHold : Ctx := { x0 with async := [⟨.preempt, 20000⟩] }
def xHeld : Ctx := { x0 with async := [⟨.preempt, 0⟩], state := .trapped, trap := some (3, cHoldOff, ⟨0, 0⟩, false) }
/-- The L role waits in a WAITC for CYC 9, the kernel's first word. -/
def vW : WordS := { vS with a := 62, imm := 9 }
def xWait : Ctx := { x0 with rl := { wait := some .clock } }
def sWait : State := { st .l xWait with kernels := [fetchKernel 0 ((encodeWord (.waitc vW)).getD 0)] }

/-- The hypotheses of `Obligations.Releases` are met, clause by clause. -/
theorem witness_Releases :
    (∃ k, MeetsP
      (fun s => s.kernel s.inp.k = some k ∧ k.state = .running ∧ 1 ≤ s.inp.e ∧ s.inp.e < k.g ∧
      s.allArrived k (fun x => (x.chan s.inp.e).pending) = true)) ∧
    (∃ k, MeetsP
      (fun s => s.kernel s.inp.k = some k ∧ s.phaseFull k = true ∧ s.freezeDue k.id = false)) ∧
    (∃ k l q, MeetsP
      (fun s => s.kernel s.inp.k = some k ∧ k.wl = some l ∧
      q = (l.lists.all (·.isEmpty) && l.appended == l.taken && k.grant.all (s.ctxIdle k)))) :=
  ⟨⟨kK, metPd (sKk xPend)⟩,
   ⟨kK, metPd (sKk xPh1)⟩,
   ⟨kWl, ⟨4, [[]], 0, 0, none, false⟩, false, metPd { st .l x0 with kernels := [kWl] }⟩⟩

/-- The hypotheses of `Obligations.WaitEnds` are met, clause by clause. -/
theorem witness_WaitEnds :
    (∃ x, MeetsP
      (fun s => s.ctx s.inp.c = some x ∧ x.deadlocked = true ∧ (s.core s.inp.c.cid).frozen = none)) ∧
    (∃ x k, MeetsP
      (fun s => s.ctx s.inp.c = some x ∧ (x.role s.inp.r).wait = some k ∧ k.counts = true ∧ x.wlim ≤ (x.role s.inp.r).waited ∧
      (k.deadlock = true → (x.role s.inp.r).seen = x.shared) ∧ s.canIssue ⟨s.inp.c, s.inp.r⟩ = true)) ∧
    (∃ x, MeetsP
      (fun s => s.ctx s.inp.c = some x ∧ x.async ≠ [] ∧ x.state = .run ∧ (s.core s.inp.c.cid).holdlim ≤ x.heldOff)) ∧
    (∃ x role code val, MeetsP
      (fun s => s.ctx s.inp.c = some x ∧ x.async ≠ [] ∧ x.state = .trapped ∧ x.trap = some (role, cHoldOff, code, val) ∧
      (x.inTransfer = false ∨ (s.core s.inp.c.cid).frozen ≠ none) ∧
      (x.async.any (·.isSave) = true → s.saveReady s.inp.c x = true))) ∧
    (∃ (s : State), ∃ x v k n, s.ctx s.inp.c = some x ∧
    decode (fetchBytes (s.textOf x) (x.role s.inp.r).pc) = .ok (.waitc v, k) ∧
    cyclesUntil s s.inp.c v (readSrc ⟨s.inp.c, s.inp.r⟩ x v.a (imm64 v)) = some n ∧
    (x.role s.inp.r).wait = some .clock ∧
    s.canIssue ⟨s.inp.c, s.inp.r⟩ = true ∧
    (x.role s.inp.r).waited + n < x.wlim ∧
    s.due n = none) ∧
    (∃ x n, MeetsP
      (fun s => s.ctx s.inp.c = some x ∧ n = (x.role s.inp.r).yieldLeft.getD 0 ∧ s.due n = none)) :=
  ⟨⟨xDead, metPd (st .l xDead)⟩,
   ⟨xTime, .fence, metPd (st .l xTime)⟩,
   ⟨xHold, metPd (st .l xHold)⟩,
   ⟨xHeld, 3, ⟨0, 0⟩, false, metPd (st .l xHeld)⟩,
   ⟨sWait, xWait, vW, _, 9, rfl, rfl, by decide +kernel, rfl, by decide +kernel, by decide +kernel⟩,
   ⟨x0, 0, metPd (st .l x0)⟩⟩

/-- A checkpoint request of the kernel, to another package; one copies, with the page at `a` still to go. -/
def rCk (st : CkState) (todo : List (Nat × Nat)) : Ckpt :=
  { kernel := 0, part := 0, cid := 0, no := 1, base := 0, full := true, state := st, dkind := 2, pkg := 5, dadr := 0,
    dlen := 65616, prog := 0, wins := [(0, 65536)], onext := 0, todo := todo }
def sCk (r : Ckpt) (x : Ctx) : State := { sKk x with ck := { reqs := [r] } }
/-- The root node of the kernel, enabled for checkpoints, and a descriptor at 0x3000. -/
def nCk : Node :=
  { id := 0, rcb := 0, parent := none, level := 0, leaf := true, fdom := true, priv := false, pkgw := false, hvreg := false, ckpt := true,
    retain := false, icm := false, part := 0, queue := 0, prio := 0, ncore := 1, abud := 0, wbud := 0, zbud := 0, hallow := 0, nbar := 1,
    pgmask := 0, diemask := 0, crec := 0, state := 1, cause := 0, tstart := 0, retc := 0, children := [] }
def sDesc : State :=
  { sP (xP 0 0x3000) x0 with
    nodes := [nCk], kernels := [kK]
    hbm := [(0, 1), (1, 0x10), (0x1000, 7), (0x3000, 0x44), (0x3001, 0x4B), (0x3002, 0x43), (0x3003, 0x4B), (0x3004, 2), (0x3020, 1),
      (0x304A, 1)] }

/-- The hypotheses of `Obligations.Checkpoints` are met, clause by clause. -/
theorem witness_Checkpoints :
    (∃ v d k r pa, Meets (.ckpt v) (frameP v)
      (fun w x s => s.xlate x.part (readSrc w x v.b 0).toNat false = .ok pa ∧ s.readV x.part (readSrc w x v.b 0).toNat 320 = some d ∧
      descOk d = true ∧ s.ckLeaf x.part (readSrc w x v.a 0).toNat = some k ∧ r = requestOf k (s.ckOf k.id) d)
      (fun w _ s => (({ (s.setCk { s.ckOf k.id with count := r.no }).ckProgress r 1 0 0 with
      ck := { ((s.setCk { s.ckOf k.id with count := r.no }).ckProgress r 1 0 0).ck with
        reqs := ((s.setCk { s.ckOf k.id with count := r.no }).ckProgress r 1 0 0).ck.reqs ++ [r] } } : State).holdCkpt k).setS w v.d.toNat
      (BitVec.ofNat 64 r.no))) ∧
    (∃ k r c pages snap r1, MeetsP
      (fun s => s.kernel s.inp.k = some k ∧ s.reqOf s.inp.k .waiting = some r ∧ s.phaseFull k = true ∧ s.freezeDue k.id = true ∧
      c = s.ckOf k.id ∧ pages = s.ckPages r ∧ snap = (if c.nextFull then pages else pages.filter (fun p => s.ck.dirty.contains p.2)) ∧
      r1 = { r with state := .copying, full := c.nextFull, base := if c.nextFull then r.no else c.base, onext := c.onext,
                    tfreeze := s.refTime, phn := k.phn + 1, todo := snap, pages := snap.length })) ∧
    (∃ r va pa rest o s1 s2, MeetsP
      (fun s => s.reqOf s.inp.k .copying = some r ∧ r.todo = (va, pa) :: rest ∧ o = r.onext + ckLen r.pdone ∧
      o + 65552 ≤ r.dlen ∧ s.inp.flag = false ∧
      s.ckWrite r (r.dadr + o) (bytesN va 8 ++ bytesOf (crc32c (s.snapshot pa)) 4 ++ bytesN 0 4) = some s1 ∧
      s1.ckWrite r (r.dadr + o + 16) (s.snapshot pa) = some s2)) ∧
    (MeetsP
      (fun _ => True)) ∧
    (∃ r s1, MeetsP
      (fun s => s.reqOf s.inp.k .copying = some r ∧ r.todo = [] ∧ s.ckPending r = false ∧ r.onext + 64 ≤ r.dlen ∧
      r.headed = false ∧ s.ckWrite r (r.dadr + r.onext) r.header = some s1)) ∧
    (∃ r, MeetsP
      (fun s => s.reqOf s.inp.k .copying = some r ∧ r.todo = [] ∧ s.ckPending r = false ∧ r.onext + 64 ≤ r.dlen ∧ r.headed = true)) ∧
    (∃ r va pa rest, MeetsP
      (fun s => s.reqOf s.inp.k .copying = some r ∧ r.todo = (va, pa) :: rest ∧ r.dlen < r.onext + ckLen r.pdone + 65552)) ∧
    (∃ r va pa rest, MeetsP
      (fun s => s.reqOf s.inp.k .copying = some r ∧ r.todo = (va, pa) :: rest ∧ r.onext + ckLen r.pdone + 65552 ≤ r.dlen ∧ s.inp.flag = true)) ∧
    (∃ r, MeetsP
      (fun s => s.reqOf s.inp.k .copying = some r ∧ r.todo = [] ∧ s.ckPending r = false ∧ r.dlen < r.onext + 64)) ∧
    (∃ r, MeetsP
      (fun s => s.reqOf s.inp.k .copying = some r ∧ r.todo = [] ∧ s.ckPending r = false ∧ r.onext + 64 ≤ r.dlen ∧ r.headed = false ∧
      s.ckWrite r (r.dadr + r.onext) r.header = none)) ∧
    (∃ v, MeetsA (.ckpt v) (frameP v)
      (fun w x s => ∃ pa d, s.xlate x.part (readSrc w x v.b 0).toNat false = .ok pa ∧ s.readV x.part (readSrc w x v.b 0).toNat 320 = some d ∧
      descOk d = false)) ∧
    (∃ v, MeetsA (.ckpt v) (frameP v)
      (fun w x s => ∃ pa d, s.xlate x.part (readSrc w x v.b 0).toNat false = .ok pa ∧ s.readV x.part (readSrc w x v.b 0).toNat 320 = some d ∧
      descOk d = true ∧ s.ckLeaf x.part (readSrc w x v.a 0).toNat = none)) ∧
    (∃ r, MeetsP
      (fun s => s.reqOf s.inp.k .failed = some r)) ∧
    (∃ r, MeetsP
      (fun s => s.reqOf s.inp.k .failed = none ∧ s.reqOf s.inp.k .copying = some r ∧ s.inp.flag = true)) ∧
    (∃ r, MeetsP
      (fun s => s.reqOf s.inp.k .failed = none ∧ s.reqOf s.inp.k .copying = none ∧ s.reqOf s.inp.k .waiting = some r ∧ s.kernel s.inp.k = none)) :=
  ⟨⟨{ vX with d := 4, a := 3, b := 5 }, _, kK, _, 0x3000, meets sDesc wL (xP 0 0x3000) rfl rfl (by decide +kernel) ⟨ok_of (by decide +kernel), some_getD (d := []) (by decide +kernel), by decide +kernel, by decide +kernel, rfl⟩⟩,
   ⟨kK, rCk .waiting [], _, _, _, _, metP (sCk (rCk .waiting []) xPh1) ⟨rfl, by decide +kernel, by decide +kernel, by decide +kernel, rfl, rfl, rfl, rfl⟩⟩,
   ⟨rCk .copying [(0, 0)], 0, 0, [], 64, _, _, metP (sCk (rCk .copying [(0, 0)]) x0) ⟨by decide +kernel, rfl, rfl, by decide, rfl, rfl, rfl⟩⟩,
   metP State.reset trivial,
   ⟨rCk .copying [], _, metP (sCk (rCk .copying []) x0) ⟨by decide +kernel, rfl, by decide +kernel, by decide, rfl, rfl⟩⟩,
   ⟨{ rCk .copying [] with headed := true }, metPd (sCk { rCk .copying [] with headed := true } x0)⟩,
   ⟨{ rCk .copying [(0, 0)] with dlen := 65551 }, 0, 0, [], metPd (sCk { rCk .copying [(0, 0)] with dlen := 65551 } x0)⟩,
   ⟨rCk .copying [(0, 0)], 0, 0, [], metPd { sCk (rCk .copying [(0, 0)]) x0 with inp := { flag := true } }⟩,
   ⟨{ rCk .copying [] with dlen := 63 }, metPd (sCk { rCk .copying [] with dlen := 63 } x0)⟩,
   ⟨{ rCk .copying [] with dkind := 0, dadr := 4096 }, metPd (sCk { rCk .copying [] with dkind := 0, dadr := 4096 } x0)⟩,
   ⟨{ vX with d := 4, a := 3, b := 5 }, meetsA { sDesc with ctxs := [(c0, xP 0 0x5000)] } wL (xP 0 0x5000) rfl rfl (by decide +kernel) ⟨_, _, ok_of (a := 0x5000) (by decide +kernel), some_getD (d := []) (by decide +kernel), by decide +kernel⟩⟩,
   ⟨{ vX with d := 4, a := 3, b := 5 }, meetsA { sDesc with ctxs := [(c0, xP 7 0x3000)] } wL (xP 7 0x3000) rfl rfl (by decide +kernel) ⟨_, _, ok_of (a := 0x3000) (by decide +kernel), some_getD (d := []) (by decide +kernel), by decide +kernel, by decide +kernel⟩⟩,
   ⟨rCk .failed [], metPd (sCk (rCk .failed []) x0)⟩,
   ⟨rCk .copying [], metPd { sCk (rCk .copying []) x0 with inp := { flag := true } }⟩,
   ⟨rCk .waiting [], metPd { sCk (rCk .waiting []) x0 with kernels := [] }⟩⟩

/-- The hypotheses of `Obligations.LaunchQueues` are met, clause by clause. -/
theorem witness_LaunchQueues :
    (MeetsP
      (fun _ => True)) ∧
    (MeetsP
      (fun _ => True)) ∧
    (∃ k t l, MeetsP
      (fun s => s.reaches s.inp.e s.inp.q = true ∧ k = s.queue s.inp.q ∧ t = s.inp.v.setWidth 32 ∧ k.sts = 1 ∧ s.queuesOff = false ∧ k.ahead t ≤ k.room ∧
      l = (List.range (k.ahead t)).map (fun i => (k.tail.toNat + i) % 2 ^ 32) ∧ (∀ i ∈ l, i ∉ k.published))) ∧
    (∃ k t, MeetsP
      (fun s => s.reaches s.inp.e s.inp.q = true ∧ k = s.queue s.inp.q ∧ t = s.inp.v.setWidth 32 ∧ (k.sts ≠ 1 ∨ k.room < k.ahead t))) ∧
    (∃ k t, MeetsP
      (fun s => s.reaches s.inp.e s.inp.q = true ∧ k = s.queue s.inp.q ∧ t = s.inp.v.setWidth 32 ∧ k.sts = 1 ∧ s.queuesOff = false ∧ k.ahead t < k.room ∧
      t.toNat ∉ k.published)) ∧
    (∃ k t, MeetsP
      (fun s => s.reaches s.inp.e s.inp.q = true ∧ k = s.queue s.inp.q ∧ t = s.inp.v.setWidth 32 ∧ (k.sts ≠ 1 ∨ k.room ≤ k.ahead t))) ∧
    (MeetsP
      (fun s => s.reaches s.inp.e s.inp.q = false)) ∧
    (MeetsP
      (fun s => s.reaches s.inp.e s.inp.q = false)) ∧
    (MeetsP
      (fun s => s.reaches s.inp.e s.inp.q = false)) ∧
    (MeetsP
      (fun s => s.reaches s.inp.e s.inp.q = true)) ∧
    (∃ q d, MeetsP
      (fun s => q = s.queue s.inp.q ∧ q.leader = some d ∧ (q.sts = 1 ∨ q.sts = 3) ∧ s.qualifies q d = false)) :=
  ⟨metP State.reset trivial,
   metP State.reset trivial,
   ⟨({ q := 0, sts := 1, reg := true, size := 4, published := [], leader := some 0 } : LQueue), 4, [0, 1, 2, 3], metPd { st .l x0 with queues := [{ q := 0, sts := 1, reg := true, size := 4, head := 0, tail := 0, published := [], leader := some 0 }], inp := { v := 4 } }⟩,
   ⟨({ q := 0, sts := 1, reg := true, size := 4, published := [], leader := some 0 } : LQueue), 5, metPd { st .l x0 with queues := [{ q := 0, sts := 1, reg := true, size := 4, head := 0, tail := 0, published := [], leader := some 0 }], inp := { v := 5 } }⟩,
   ⟨({ q := 0, sts := 1, reg := true, size := 4, published := [1], leader := some 0 } : LQueue), 3, metPd { st .l x0 with queues := [{ q := 0, sts := 1, reg := true, size := 4, head := 0, tail := 0, published := [1], leader := some 0 }], inp := { v := 3 } }⟩,
   ⟨({ q := 0, sts := 1, reg := true, size := 4, published := [], leader := some 0 } : LQueue), 4, metPd { st .l x0 with queues := [{ q := 0, sts := 1, reg := true, size := 4, head := 0, tail := 0, published := [], leader := some 0 }], inp := { v := 4 } }⟩,
   metPd { st .l x0 with inp := { e := 2 } },
   metPd { st .l x0 with inp := { e := 2 } },
   metPd { st .l x0 with inp := { e := 2 } },
   metPd (st .l x0),
   ⟨({ q := 0, sts := 3, reg := true, size := 4, published := [], leader := some 0 } : LQueue), 0, metPd { st .l x0 with queues := [{ q := 0, sts := 3, reg := true, size := 4, head := 0, tail := 0, published := [], leader := some 0 }], inp := { v := 0 } }⟩⟩

/-- Flights of the L role. -/
def fL (p : Place) (d : Option (List Byte)) : Flight :=
  { id := 0, role := .l, place := p, size := 1, dest := .scalar 3, atom := none, acq := false, rel := false, scope := 0, cache := 0, data := d, at_ := ⟨0, 0⟩, va := 0, sent := true }
def aF : AtomOp := ⟨2, false, 1, 0⟩
def fA : Flight := { fL (.g 0 0x10000) none with size := 4, atom := some aF }
def xFl (f : Flight) : Ctx := { x0 with flights := [f] }
def sFl (f : Flight) (i : Input) : State := { st .l (xFl f) with inp := i }
def eS : StoreEnt := ⟨0, c0, .s, .g 0x8000 0x10000, 0x8000, [5], [], false, 0, 0, false⟩
def sSb : State := { st .l x0 with cores := [(0, { sbuf := [eS] })] }
def xKs : Ctx := { x0 with kstores := [{ eS with place := .a c0 0 }] }
def pK (pkg : Nat) (k : PktKind) (tries : Nat) (sv : Option Bool) : Packet := ⟨0, 0, pkg, 0, 0, c0, .l, k, sv, tries⟩
def sPk (p : Packet) (i : Input) : State := { st .l x0 with fab := { (st .l x0).fab with pkts := [p] }, inp := i }
/-- A load of another package arrives by port 0, whose table pairs its key. -/
def sIn : State :=
  { st .l x0 with fab := { (st .l x0).fab with keys := [((0, 0), (0, 0))] }, inp := { arr := .inbound 0 0 (.load 1) } }
def fG : Flight := fL (.g 0 0x10000) none
def fH : Flight := fL (.h 0 0 0) none
def xWk (va : Nat) : Ctx := { x0 with rl := { wait := some (.walk va) } }

/-- The hypotheses of `Obligations.AccessesPerformed` are met, clause by clause. -/
theorem witness_AccessesPerformed :
    (∃ x f l, MeetsP
      (fun s => s.ctx s.inp.c = some x ∧ x.flight s.inp.id = some f ∧ f.data = some l)) ∧
    (∃ x f s1 y g l, MeetsP
      (fun s => s.ctx s.inp.c = some x ∧ x.flight s.inp.id = some f ∧ f.data = none ∧ f.atom = none ∧
      f.failed = none ∧ s.ldhDown f = false ∧ x.performs f = true ∧
      s.performAt s.inp.c x f (fun t g => t.performLoad s.inp.c x g) = some s1 ∧ s1.ctx s.inp.c = some y ∧
      y.flight f.id = some g ∧ g.failed = none ∧ g.data = some l)) ∧
    (∃ x f c val, MeetsP
      (fun s => s.ctx s.inp.c = some x ∧ x.flight s.inp.id = some f ∧ f.data = none ∧ f.failed = some (c, val) ∧ x.state = .run)) ∧
    (∃ x f o s1, MeetsP
      (fun s => s.ctx s.inp.c = some x ∧ x.flight s.inp.id = some f ∧ f.atom = some o ∧ f.data = none ∧ f.failed = none ∧
      s.performAt s.inp.c x f (fun t g => t.performAtomic s.inp.c x g o) = some s1)) ∧
    (∃ e x s2, MeetsP
      (fun s => (s.core s.inp.cid).sbuf[s.inp.id]? = some e ∧ s.ctx e.ctx = some x ∧
      s.mayDrain (s.core s.inp.cid) s.inp.id e x = true ∧
      (s.modCore s.inp.cid (fun k => { k with sbuf := k.sbuf.eraseIdx s.inp.id })).performStore e x = some s2)) ∧
    (∃ x e, MeetsP
      (fun s => s.ctx s.inp.c = some x ∧ s.inp.flag = false ∧ x.kstores.find? (fun e => e.id == s.inp.id) = some e)) ∧
    (∃ x f, MeetsP
      (fun s => s.ctx s.inp.c = some x ∧ s.inp.flag = false ∧ x.kstores.find? (fun e => e.id == s.inp.id) = none ∧
      x.flight s.inp.id = some f)) ∧
    (∃ ix p, MeetsP
      (fun s => s.fabOn = true ∧ s.inp.arr = .loopback ix ∧ s.pkt ix = some p ∧ p.pkg = s.fab.pkgid)) ∧
    (∃ ix ok data p id, MeetsP
      (fun s => s.fabOn = true ∧ s.inp.arr = .reply ix ok data ∧ s.pkt ix = some p ∧ p.kind = .load id ∧ p.pkg ≠ s.fab.pkgid)) ∧
    (∃ key va op l s1, MeetsP
      (fun s => s.fabOn = true ∧ s.inp.arr = .inbound key va op ∧
      s.fab.keys.any (fun e => e.1.1 == s.inp.port && decide (e.1.1 ≤ 32) && e.2.1 == key) = true ∧ s.serve key va op = .ok l s1)) ∧
    (∃ g no h l, MeetsP
      (fun s => s.inp.arr = .goltik g no h l)) ∧
    (∃ p store acc n l, MeetsP
      (fun s => s.fabOn = true ∧ s.pkt s.inp.id = some p ∧ p.kind = .engine store acc n l)) ∧
    (∃ p l, MeetsP
      (fun s => s.fabOn = true ∧ s.pkt s.inp.id = some p ∧ p.kind = .store l ∧ p.pkg ≠ s.fab.pkgid)) ∧
    (∃ p l ok, MeetsP
      (fun s => s.fabOn = true ∧ s.pkt s.inp.id = some p ∧ p.kind = .store l ∧ p.pkg = s.fab.pkgid ∧ p.served = some ok)) ∧
    (∃ p, MeetsP
      (fun s => s.inp.flag = false ∧ s.pkt s.inp.id = some p ∧ p.tries < 3)) ∧
    (∃ p l, MeetsP
      (fun s => s.inp.flag = false ∧ s.pkt s.inp.id = some p ∧ 3 ≤ p.tries ∧ p.kind = .store l)) ∧
    (∃ p store acc n l, MeetsP
      (fun s => s.inp.flag = false ∧ s.pkt s.inp.id = some p ∧ 3 ≤ p.tries ∧ p.kind = .engine store acc n l)) ∧
    (∃ p id, MeetsP
      (fun s => s.inp.flag = false ∧ s.pkt s.inp.id = some p ∧ 3 ≤ p.tries ∧ p.kind = .load id)) ∧
    (∃ p k n l, MeetsP
      (fun s => s.inp.flag = false ∧ s.pkt s.inp.id = some p ∧ 3 ≤ p.tries ∧ p.kind = .ckpt k n l)) ∧
    (∃ o, MeetsP
      (fun s => s.inp.flag = true ∧ s.fab.stos.find? (fun o => o.tag == s.inp.id && !o.numbered) = some o ∧ 3 ≤ o.tries)) ∧
    (∃ p k n l, MeetsP
      (fun s => s.fabOn = true ∧ s.pkt s.inp.id = some p ∧ p.kind = .ckpt k n l)) ∧
    (MeetsP
      (fun _ => True)) ∧
    (∃ x f, MeetsP
      (fun s => s.ldh s.inp.c s.inp.id = some (x, f) ∧ s.mustWait s.inp.c x f = false ∧ s.inp.host = .success ∧ x.performs f = true)) ∧
    (∃ x f, MeetsP
      (fun s => s.ldh s.inp.c s.inp.id = some (x, f) ∧ s.mustWait s.inp.c x f = false ∧ s.inp.host ≠ .success)) ∧
    (∃ x f, MeetsP
      (fun s => s.ldh s.inp.c s.inp.id = some (x, f))) ∧
    (∃ w x l, MeetsP
      (fun s => s.walker s.inp.cid s.inp.addr = some (w, x) ∧ s.walk x.part s.inp.addr = .ok l)) ∧
    (∃ w x c, MeetsP
      (fun s => s.walker s.inp.cid s.inp.addr = some (w, x) ∧ s.walk x.part s.inp.addr = .fault c)) :=
  ⟨⟨xFl (fL (.a c0 0) (some [5])), fL (.a c0 0) (some [5]), [5], metPd (sFl (fL (.a c0 0) (some [5])) {})⟩,
   ⟨xFl fG, fG, ((sFl fG {}).performAt c0 (xFl fG) fG (fun t g => t.performLoad c0 (xFl fG) g)).getD State.reset, xFl { fG with data := some [1] }, { fG with data := some [1] }, [1],
     metP (sFl fG {}) ⟨rfl, rfl, rfl, rfl, rfl, by decide +kernel, by decide +kernel, some_getD (by decide +kernel), by decide +kernel, by decide +kernel, rfl, rfl⟩⟩,
   ⟨xFl { fG with failed := some (cMemory, 0) }, { fG with failed := some (cMemory, 0) }, cMemory, 0, metPd (sFl { fG with failed := some (cMemory, 0) } {})⟩,
   ⟨xFl fA, fA, aF, ((sFl fA {}).performAt c0 (xFl fA) fA (fun t g => t.performAtomic c0 (xFl fA) g aF)).getD State.reset,
     metP (sFl fA {}) ⟨rfl, rfl, rfl, rfl, rfl, some_getD (by decide +kernel)⟩⟩,
   (some_ex (o := (sSb.modCore 0 (fun k => { k with sbuf := k.sbuf.eraseIdx 0 })).performStore eS x0) (by decide +kernel)).elim fun s2 h => ⟨eS, x0, s2, metP sSb ⟨rfl, rfl, by decide +kernel, h⟩⟩,
   ⟨xKs, { eS with place := .a c0 0 }, metPd (st .l xKs)⟩,
   ⟨xFl (fL (.a ⟨1, 0⟩ 0) none), fL (.a ⟨1, 0⟩ 0) none, metPd (sFl (fL (.a ⟨1, 0⟩ 0) none) {})⟩,
   ⟨0, pK 0 (.load 0) 0 none, metPd (sPk (pK 0 (.load 0) 0 none) {})⟩,
   ⟨0, true, [5], pK 7 (.load 0) 0 none, 0, metPd (sPk (pK 7 (.load 0) 0 none) { arr := .reply 0 true [5] })⟩,
   (served_ex (r := sIn.serve 0 0 (.load 1)) (by decide +kernel)).elim fun l h => h.elim fun s1 h =>
     ⟨0, 0, .load 1, l, s1, metP sIn ⟨rfl, rfl, by decide, h⟩⟩,
   ⟨0, 0, 0, [], metPd { st .l x0 with inp := { arr := .goltik 0 0 0 [] } }⟩,
   ⟨pK 7 (.engine false 0 0 [5]) 0 none, false, 0, 0, [5], metPd (sPk (pK 7 (.engine false 0 0 [5]) 0 none) {})⟩,
   ⟨pK 7 (.store [5]) 0 none, [5], metPd (sPk (pK 7 (.store [5]) 0 none) {})⟩,
   ⟨pK 0 (.store [5]) 0 (some true), [5], true, metPd (sPk (pK 0 (.store [5]) 0 (some true)) {})⟩,
   ⟨pK 7 (.store [5]) 2 none, metPd (sPk (pK 7 (.store [5]) 2 none) {})⟩,
   ⟨pK 7 (.store [5]) 3 none, [5], metPd (sPk (pK 7 (.store [5]) 3 none) {})⟩,
   ⟨pK 7 (.engine false 0 0 [5]) 3 none, false, 0, 0, [5], metPd (sPk (pK 7 (.engine false 0 0 [5]) 3 none) {})⟩,
   ⟨pK 7 (.load 0) 3 none, 0, metPd (sPk (pK 7 (.load 0) 3 none) {})⟩,
   ⟨pK 7 (.ckpt 0 0 [5]) 3 none, 0, 0, [5], metPd (sPk (pK 7 (.ckpt 0 0 [5]) 3 none) {})⟩,
   ⟨⟨1, 4, c0, .s, 0, 0, [5], true, false, 3⟩, metPd { st .l x0 with fab := { stos := [⟨1, 4, c0, .s, 0, 0, [5], true, false, 3⟩] }, inp := { flag := true, id := 4 } }⟩,
   ⟨pK 7 (.ckpt 0 0 [5]) 0 none, 0, 0, [5], metPd (sPk (pK 7 (.ckpt 0 0 [5]) 0 none) {})⟩,
   metP State.reset trivial,
   ⟨xFl fH, fH, metPd (sFl fH {})⟩,
   ⟨xFl fH, fH, metPd (sFl fH { host := .unsupported })⟩,
   ⟨xFl fH, fH, metPd (sFl fH {})⟩,
   ⟨wL, xWk 0, ⟨0, 0, 0x40000000, 0, true, false⟩, metPd (st .l (xWk 0))⟩,
   ⟨wL, xWk 0x40000000, cTranslation, metPd { st .l (xWk 0x40000000) with inp := { addr := 0x40000000 } }⟩⟩

/-! ## An image that is written whole -/

/-- What a translation in the first GiB rests on, kept by a write above the page tables. -/
structure Keeps (t : State) : Prop where
  wf : t.hbm.wf = true
  low : ∀ a < 0x2000, t.hbm.get a = (st .l x0).hbm.get a
  parts : t.parts = (st .l x0).parts
  groups : t.fab.groups = (st .l x0).fab.groups
  poison : t.poison = []
  failed : t.failedStacks = []
  live : t.liveStacks = [0]
  prot : t.ck.prot = []
  held : t.ck.held = []

theorem read_eq {m m' : Mem} : ∀ {n a}, (∀ i, a ≤ i → i < a + n → m.get i = m'.get i) → m.read a n = m'.read a n
  | 0, _, _ => rfl
  | n + 1, a, h => by
    simp only [Mem.read]
    rw [h a (by omega) (by omega), read_eq (fun i hi hj => h i (by omega) (by omega))]
theorem get_write {m : Mem} {a a' : Nat} {l : List Byte} (hm : m.wf = true) (h : a' < a) : (m.write a l).get a' = m.get a' := by
  induction l generalizing m a with
  | nil => rfl
  | cons b l ih =>
    simp only [Mem.write]
    rw [ih (Mem.set_wf hm) (by omega), Mem.get_set hm, if_neg (by omega)]

theorem Keeps.xlate {t : State} (h : Keeps t) {va n : Nat} (lo : 0x20000 ≤ va) (hi : va < 0x80000) (hn : n ≤ 4096) :
    t.xlate 0 va true n = .ok va := by
  have e1 : t.hbm.nat 0 8 = 0x1001 := by
    unfold Mem.nat; rw [read_eq (m' := (st .l x0).hbm) (fun i _ hi => h.low i (by omega))]; decide
  have e2 : t.hbm.nat 0x1000 8 = 7 := by
    unfold Mem.nat; rw [read_eq (m' := (st .l x0).hbm) (fun i _ hi => h.low i (by omega))]; decide
  have hp : t.part 0 = { valid := true, plen := 0x80000000 } := by unfold State.part; rw [h.parts]; rfl
  have s1 : va >>> 39 = 0 := by rw [Nat.shiftRight_eq_div_pow]; omega
  have s2 : va >>> 30 = 0 := by rw [Nat.shiftRight_eq_div_pow]; omega
  have hd : va / 1073741824 = 0 := by omega
  have b0 : t.badG 0 8 = false := by simp [State.badG, h.poison, h.failed]
  have b1 : t.badG 4096 8 = false := by simp [State.badG, h.poison, h.failed]
  have hr : t.inReplica 0 va n = false := by
    simp only [State.inReplica, h.groups, st]
    simp; omega
  have hb : ¬ t.pbytes ≤ va := by
    have : t.pbytes = (st .l x0).pbytes := by unfold State.pbytes; rw [h.live]; rfl
    rw [this]
    have : 0x80000 ≤ (st .l x0).pbytes := by decide +kernel
    omega
  have hc : 0x2000 ≤ t.pbytes := by omega
  have hw : t.walk 0 va = .ok ⟨0, 0, 0x40000000, 0, true, false⟩ := by
    unfold State.walk
    simp only [hp, if_pos, walkFrom, levelShift, levelMask, s1, tableSize]
    simp [e1, e2, b0, b1, s2, hd, hc, Nat.testBit, Nat.shiftRight_eq_div_pow]
  unfold State.xlate
  rw [if_neg (by omega), hw]
  simp [leafAddr, hr, hb]

theorem Keeps.save {t : State} (h : Keeps t) (p : Nat) : Keeps (t.saveSide p) := by
  unfold State.saveSide
  repeat' split
  all_goals first | exact h | exact ⟨h.wf, h.low, h.parts, h.groups, h.poison, h.failed, h.live, h.prot, h.held⟩
theorem Keeps.write {t : State} (h : Keeps t) {pa : Nat} (lo : 0x2000 ≤ pa) (l : List Byte) : Keeps (t.writeG pa l) := by
  have h := h.save (pageOf pa)
  refine ⟨Mem.write_wf h.wf, fun a ha => ?_, h.parts, h.groups, ?_, h.failed, h.live, h.prot, h.held⟩
  · rw [← h.low a ha]; exact get_write h.wf (by omega)
  · change clearPoison (t.saveSide (pageOf pa)).poison pa l.length = []
    rw [h.poison]; rfl
theorem Keeps.pages {n : Nat} : ∀ {va : Nat} {t : State} {l : List Byte}, Keeps t → 0x20000 ≤ va → va + 4096 * n ≤ 0x80000 →
    ∃ u, t.writePages n 0 va l = some u := by
  induction n with
  | zero => exact fun {va t l} _ _ _ => ⟨t, rfl⟩
  | succ n ih =>
    intro va t l h lo hi
    unfold State.writePages
    split
    · exact ⟨t, rfl⟩
    · have e : t.writeRun 0 va (l.take 4096) = some (t.writeG va (l.take 4096)) := by
        unfold State.writeRun
        rw [h.xlate lo (by omega) (by rw [List.length_take]; omega)]
        simp [State.writeDev, State.sideFull, h.prot, h.held]
      simp only [e]
      have h1 : 0x2000 ≤ va := Nat.le_trans (by decide : 0x2000 ≤ 0x20000) lo
      have h2 : 0x20000 ≤ va + 4096 := Nat.le_trans lo (Nat.le_add_right _ _)
      have h3 : va + 4096 + 4096 * n ≤ 0x80000 := by
        rw [Nat.add_assoc, Nat.add_comm 4096, ← Nat.mul_succ]; exact hi
      exact ih (h.write h1 _) h2 h3
theorem Keeps.image {t : State} (h : Keeps t) (c : CtxId) (x : Ctx) : ∃ u, t.writeImage c x 0 0x20000 = some u := by
  obtain ⟨u, hu⟩ := Keeps.pages (n := 32) (t := (t.freeBytes 131008).2) (l := imageHeader c x.isTrapped (t.rcbOf x) ++
    (t.freeBytes 131008).1) ⟨h.wf, h.low, h.parts, h.groups, h.poison, h.failed, h.live, h.prot, h.held⟩ (Nat.le_refl 131072) (by omega)
  unfold State.writeImage
  simp only [hu]
  exact ⟨_, rfl⟩

def fI (i : Input) : State := { st .l x0 with inp := i }
/-- No group; and the first GiB pinned. -/
def fN (i : Input) : State := { fI i with fab := {} }
def fP (i : Input) : State := { fI i with hbm := [(0, 1), (1, 0x10), (0x1000, 0x17)] }
def oF : StoOut := ⟨1, 4, c0, .s, 0, 0, [5], true, false, 0⟩
def qF : Sequencer := ⟨1, [0], 1, []⟩
def gM : Group := { gid := 1, wlog := 12, memb := 1, part := 0, va := 0x100000, pages := [⟨0x100000, 0x100000, 65536, true⟩], seqSwitch := 0, applied := 5, pending := [⟨6, 3, 0, 4, 0, [9]⟩] }
def sSq (i : Input) : State := { st .l x0 with fab := { groups := [gM], seqs := [qF], stos := [oF] }, inp := i }
/-- Partition 0's key pairs with partition 0; the context of partition 1 has a key that no endpoint entry knows. -/
def x1 : Ctx := { x0 with part := 1 }
def sBad : State := { sSq { gid := 1, sto := .own 4 } with ctxs := [(c0, x1)], parts := [(1, { jkey := 9 })] }
def sRe : State := { sSq { gid := 1, reform := some ⟨6, [(3, 4, 0, [9])]⟩ } with fab := { groups := [{ gM with ref := true }] } }

def sRt : State := fI { fab := ⟨0x10005, 0x1FFC0, 0, 0, 0, 0⟩ }
/-- A GINST of group `g` in the pinned leaf. -/
def sGi (g : Nat) : State := fP { fab := ⟨BitVec.ofNat 64 (0x20C000 + g), 0x200000, 0, 0, 0, 0⟩ }
theorem sRt_alt : altPaths sRt = [] := rfl

/-- The hypotheses of `Obligations.FabricRequests` are met, clause by clause. -/
theorem witness_FabricRequests :
    (MeetsP
      (fun s => s.inp.flag = false ∧ (field (s.arg 0) 0 11).toNat ≤ 1056 ∧ s.fab.groups = [])) ∧
    (∃ fop : Byte, MeetsP
      (fun s => s.inp.flag = true ∧ fop = (if 7 ≤ s.inp.e ∧ s.inp.e < 256 then BitVec.ofNat 8 s.inp.e else 0))) ∧
    (MeetsP
      (fun s => s.inp.flag = false ∧ 1056 < (field (s.arg 0) 0 11).toNat)) ∧
    (MeetsP
      (fun s => s.inp.flag = false ∧ (field (s.arg 0) 0 11).toNat ≤ 1056 ∧ s.fab.groups ≠ [])) ∧
    (∃ dst l, MeetsP
      (fun s => routeOk s ∧ dst = (field (s.arg 0) 0 11).toNat ∧
      l = s.fab.routes.filter (fun r => r.dst != dst) ++
        (if bitAt (s.arg 0) 16 then [⟨dst, bitAt (s.arg 0) 17, s.arg 1, altPaths s⟩] else []))) ∧
    (MeetsP
      (fun s => ¬ routeOk s)) ∧
    (∃ g t, MeetsP
      (fun s => ginstOk s ∧ (∀ h ∈ s.fab.groups, h.gid ≠ g.gid) ∧ s.pinned g.part g.va (2 ^ g.wlog) = some g.pages ∧
      g = { gid := (field (s.arg 0) 0 12).toNat, wlog := (field (s.arg 0) 12 5).toNat, memb := (field (s.arg 0) 21 11).toNat,
            part := (field (s.arg 0) 32 4).toNat, va := (s.arg 1).toNat, pages := g.pages,
            seqSwitch := (field (s.arg 2) 0 11).toNat } ∧
      t = State.fsts { s with fab := { s.fab with groups := s.fab.groups ++ [g] } } 3 0)) ∧
    (MeetsP
      (fun s => ¬ ginstOk s)) ∧
    (MeetsP
      (fun s => ginstOk s ∧ ∃ g ∈ s.fab.groups, g.gid = (field (s.arg 0) 0 12).toNat)) ∧
    (MeetsP
      (fun s => ginstOk s ∧ (∀ g ∈ s.fab.groups, g.gid ≠ (field (s.arg 0) 0 12).toNat) ∧
      s.pinned (field (s.arg 0) 32 4).toNat (s.arg 1).toNat (2 ^ (field (s.arg 0) 12 5).toNat) = none)) ∧
    (∃ gid, MeetsP
      (fun s => gid = (field (s.arg 0) 0 12).toNat ∧ s.stoOut gid = false ∧ (∃ g ∈ s.fab.groups, g.gid = gid))) ∧
    (∃ gid, MeetsP
      (fun s => gid = (field (s.arg 0) 0 12).toNat ∧ (s.stoOut gid = true ∨ ∀ g ∈ s.fab.groups, g.gid ≠ gid))) ∧
    (∃ gid, MeetsP
      (fun s => gid = (field (s.arg 0) 0 12).toNat ∧ bitAt (s.arg 0) 12 = false)) ∧
    (∃ gid first l, MeetsP
      (fun s => gid = (field (s.arg 0) 0 12).toNat ∧ bitAt (s.arg 0) 12 = true ∧ l = seqMembers s ∧ 1 ≤ l.length ∧ l.length ≤ 1057 ∧
      (∀ m ∈ l, m ≤ 1056) ∧ ((∀ g ∈ s.fab.groups, g.gid ≠ gid) ∧ first = 1 ∨
        ∃ g, s.fab.groups.find? (fun g => g.gid == gid) = some g ∧ first = g.applied + 1))) ∧
    (MeetsP
      (fun s => bitAt (s.arg 0) 12 = true ∧ (seqMembers s = [] ∨ 1057 < (seqMembers s).length ∨ ∃ m ∈ seqMembers s, 1056 < m))) ∧
    (∃ port ent key part l, MeetsP
      (fun s => port = (field (s.arg 0) 0 6).toNat ∧ ent = (field (s.arg 0) 6 6).toNat ∧ key = field (s.arg 0) 12 16 ∧
      part = (field (s.arg 0) 28 4).toNat ∧ port ≤ 33 ∧ (bitAt (s.arg 0) 32 = true → port = 33 →
        ∀ p ∈ s.parts, p.2.valid = true → p.2.jkey = key → p.1 = part) ∧
      l = s.fab.keys.filter (fun e => e.1 != (port, ent)) ++ (if bitAt (s.arg 0) 32 then [((port, ent), (key, part))] else []))) ∧
    (MeetsP
      (fun s => 33 < (field (s.arg 0) 0 6).toNat)) ∧
    (MeetsP
      (fun s => (field (s.arg 0) 0 6).toNat = 33 ∧ bitAt (s.arg 0) 32 = true ∧
      ∃ p ∈ s.parts, p.2.valid = true ∧ p.2.jkey = field (s.arg 0) 12 16 ∧ p.1 ≠ (field (s.arg 0) 28 4).toNat)) :=
  ⟨metPd (fN {}),
   ⟨7, metPd (fI { flag := true, e := 7 })⟩,
   metPd (fN { fab := ⟨0x7FF, 0, 0, 0, 0, 0⟩ }),
   metPd (fI {}),
   ⟨5, _, metP sRt ⟨⟨by decide, by decide, .inl rfl, by decide, by rw [sRt_alt]; exact (fun _ h => (nomatch h))⟩, rfl, rfl⟩⟩,
   metP (fN { fab := ⟨5, 33, 0, 0, 0, 0⟩ }) (fun h => absurd h.2.1 (by decide)),
   ⟨{ gid := 2, wlog := 12, memb := 1, part := 0, va := 0x200000, pages := ((sGi 2).pinned 0 0x200000 4096).getD [], seqSwitch := 0 }, _,
     metP (sGi 2) ⟨by unfold ginstOk; decide +kernel, by decide +kernel, some_getD (d := []) (by decide +kernel), rfl, rfl⟩⟩,
   metP (fI {}) (fun h => absurd h.1 (by decide)),
   metP (sGi 1) ⟨by unfold ginstOk; decide +kernel, g1, by decide +kernel, rfl⟩,
   metP (fI { fab := ⟨0x20C002, 0x200000, 0, 0, 0, 0⟩ }) ⟨by unfold ginstOk; decide +kernel, by decide +kernel, by decide +kernel⟩,
   ⟨1, metPd (fI { fab := ⟨1, 0, 0, 0, 0, 0⟩ })⟩,
   ⟨2, metPd (fI { fab := ⟨2, 0, 0, 0, 0, 0⟩ })⟩,
   ⟨1, metPd (fI { fab := ⟨1, 0, 0, 0, 0, 0⟩ })⟩,
   ⟨1, 6, [0], metP (fI { fab := ⟨0x201001, 0, 0, 0, 0, 0⟩, data := [0, 0] }) ⟨rfl, rfl, by decide, by decide, by decide, by decide, .inr ⟨g1, by decide, rfl⟩⟩⟩,
   metPd (fI { fab := ⟨0x1001, 0, 0, 0, 0, 0⟩ }),
   ⟨33, 0, 7, 0, _, metP (fI { fab := ⟨0x100007021, 0, 0, 0, 0, 0⟩ }) ⟨rfl, rfl, by decide, rfl, by decide, by decide, rfl⟩⟩,
   metPd (fI { fab := ⟨34, 0, 0, 0, 0, 0⟩ }),
   metP { fI { fab := ⟨0x100007021, 0, 0, 0, 0, 0⟩ } with parts := [(1, { valid := true, jkey := 7 })] } ⟨rfl, rfl, (1, { valid := true, jkey := 7 }), by decide, rfl, rfl, by decide⟩⟩

/-- The hypotheses of `Obligations.OrderedMulticast` are met, clause by clause. -/
theorem witness_OrderedMulticast :
    (∃ q tag o, MeetsP
      (fun s => s.fabOn = true ∧ s.fab.seqs.find? (fun q => q.gid == s.inp.gid) = some q ∧ q.unstable.length < 1024 ∧ s.inp.sto = .own tag ∧
      s.reforming q.gid = false ∧ s.ownSto q.gid tag = some o ∧ s.keyPasses o.ctx = true ∧ q.next ≠ 2 ^ 48 - 1)) ∧
    (∃ q tag o, MeetsP
      (fun s => s.fabOn = true ∧ s.fab.seqs.find? (fun q => q.gid == s.inp.gid) = some q ∧ q.unstable.length < 1024 ∧ s.inp.sto = .own tag ∧
      s.reforming q.gid = false ∧ s.ownSto q.gid tag = some o ∧ (s.keyPasses o.ctx = false ∨ q.next = 2 ^ 48 - 1))) ∧
    (∃ g e, MeetsP
      (fun s => s.fabOn = true ∧ s.inp.flag = false ∧ s.fab.groups.find? (fun g => g.gid == s.inp.gid) = some g ∧
      g.pending.find? (fun e => e.n == g.applied + 1) = some e ∧
      (∀ p ∈ g.parts e.off e.data.length, s.sideFull (pageOf p.1) = false))) ∧
    (∃ q, MeetsP
      (fun s => s.fabOn = true ∧ s.inp.flag = false ∧ s.fab.seqs.find? (fun q => q.gid == s.inp.gid) = some q ∧ s.inp.no ≠ s.fab.pkgid ∧
      (∃ e ∈ q.unstable, e.2 = (s.inp.no, s.inp.id) ∧ ∀ g ∈ s.fab.groups, g.gid = q.gid → e.1 ≤ g.applied))) ∧
    (MeetsP
      (fun s => s.fabOn = true ∧ s.inp.flag = false ∧ s.fab.seqs.find? (fun q => q.gid == s.inp.gid) = none ∧ s.inp.no = s.fab.pkgid ∧
      (∃ o ∈ s.fab.stos, o.tag = s.inp.id ∧ o.gid = s.inp.gid ∧ o.marked = true))) ∧
    (∃ o, MeetsP
      (fun s => s.fabOn = true ∧ s.inp.flag = true ∧ s.fab.stos.find? (fun o => o.tag == s.inp.id && o.gid == s.inp.gid && !o.numbered) = some o ∧
      (∀ q ∈ s.fab.seqs, q.gid ≠ s.inp.gid))) ∧
    (MeetsP
      (fun s => s.inp.reform = none)) ∧
    (∃ r g, MeetsP
      (fun s => s.fabOn = true ∧ s.inp.reform = some r ∧ s.fab.groups.find? (fun g => g.gid == s.inp.gid) = some g ∧ g.ref = true ∧
      g.applied + r.redelivered.length = r.p)) :=
  ⟨⟨qF, 4, oF, metPd (sSq { gid := 1, sto := .own 4 })⟩,
   ⟨qF, 4, oF, metPd sBad⟩,
   ⟨gM, ⟨6, 3, 0, 4, 0, [9]⟩, metPd (sSq { gid := 1 })⟩,
   ⟨{ qF with unstable := [(1, 3, 4)] }, metPd { sSq { gid := 1, no := 3, id := 4 } with fab := { groups := [gM], seqs := [{ qF with unstable := [(1, 3, 4)] }] } }⟩,
   metP { sSq { gid := 1, id := 4 } with fab := { stos := [oF] } } ⟨rfl, rfl, rfl, rfl, oF, by decide, rfl, rfl, rfl⟩,
   ⟨oF, metPd { sSq { gid := 1, id := 4, flag := true } with fab := { stos := [oF] } }⟩,
   metPd State.reset,
   ⟨⟨6, [(3, 4, 0, [9])]⟩, { gM with ref := true }, metPd sRe⟩⟩

/-- A kernel that waits for the core of CID 0. -/
def kP : Kernel := { fetchKernel 1 0 with state := .waiting }
def sKs (l : List (CtxId × Ctx)) (k : List Kernel) (i : Input) : State := { st .l x0 with ctxs := l, kernels := k, inp := i }
/-- Queue 0 in service, led by die 0, in group 0's partition; an entry that names no tree at HEAD. -/
def qA : LQueue := { q := 0, sts := 1, reg := true, base := 0x10000, size := 4, tail := 1, leader := some 0 }
def sQa : State := { fI {} with queues := [qA], parts := [(0, { valid := true, pgmask := 1, plen := 0x80000000 })] }
/-- A staging transfer of one element. -/
def kS : Kernel := { fetchKernel 0 0 with state := .staging, prep := [x0], staging := [⟨0, bE 0 3 0, false⟩] }
def sSt : State := sKs [] [kS] {}
def xSt : Ctx := { x0 with loadQ := [{ acc := 0, off := 0, bytes := bE 0 3 0, begun := true }] }
/-- The context of CID 0 stopped in place, its storage wanted, one image free. -/
def xSc : Ctx := { x0 with state := .saved }
def sSc : State := { sKs [(c0, xSc)] [fetchKernel 0 0, kP] {} with
  queues := [{ q := 0, sts := 1, reg := true, size := 4, savep := 0x20000, saven := 1, leader := some 0 }] }
/-- A harvest kernel of one core, which CID 0 hosts. -/
def kH : Kernel := { kP with harvest := true, grant := [] }
def nH : Node := { nCk with abud := 0, wbud := 0, zbud := 0, hvreg := true, pgmask := 1, diemask := 1 }
def sHp : State := { sKs [(c0, x0)] [{ fetchKernel 0 0 with hallow := 1 }, kH] { k := 1 } with
  nodes := [nH], parts := [(0, { valid := true, pgmask := 1, plen := 0x80000000 })] }
def xPk : Ctx := { x0 with state := .parked, parkedFor := 2 }
def xEnd : Ctx := { x0 with state := .ended }
def xPre : Ctx := { x0 with state := .saved, image := some 0x2000, claimed := true }
def i1 : Input := { c := ⟨0, 1⟩ }

theorem cons_ex {α} {p : α → Prop} [DecidablePred p] {l : List α}
    (h : (match l with | e :: _ => decide (p e) | [] => false) = true) : ∃ e r, l = e :: r ∧ p e := by
  cases l with
  | nil => cases h
  | cons e r => exact ⟨e, r, rfl, of_decide_eq_true h⟩
theorem sSc_keeps : Keeps sSc := ⟨rfl, fun _ _ => rfl, rfl, rfl, rfl, rfl, rfl, rfl, rfl⟩

/-- The hypotheses of `Obligations.Scheduling` are met, clause by clause. -/
theorem witness_Scheduling :
    (∃ q d b t, ∃ (u : State), MeetsP
      (fun s0 => u = s0.withGoltik ∧ q = u.queue u.inp.q ∧ q.leader = some d ∧ u.qualifies q d = true ∧ (q.sts = 1 ∨ q.sts = 3) ∧ q.head ≠ q.tail ∧
      u.queuesOff = false ∧ u.readV q.part (q.base + 8 * (q.head.toNat % q.size)) 8 = some b ∧
      u.admitTree q (natOfBytes b) (q.appenders.find? (fun a => a.idx == q.head.toNat)) u.inp.flag
        ((List.range (u.inp.data.length / 2)).map (fun i => numAt u.inp.data (2 * i) 2)) = some t)) ∧
    (∃ k t c x y r e l, MeetsP
      (fun s => s.kernel s.inp.k = some k ∧ k.staging[s.inp.id]? = some t ∧ k.grant[t.gidx]? = some c ∧ k.prep[t.gidx]? = some x ∧
      k.pending = true ∧ t.done = false ∧ s.stagingPlace k s.inp.id c < 64 ∧ (∀ e ∈ k.staging.take s.inp.id, e.gidx = t.gidx → e.done = true) ∧ s.dieServes c = true ∧
      s.canReserve k c.cid = true ∧ s.chosen k = true ∧
      s.stage k c (if x.loadQ.isEmpty then { x with loadQ := [{ acc := s.inp.id, off := 0, bytes := t.bytes, begun := true }] } else x)
        s.inp.no s.inp.data = (y, r) ∧ y.loadQ = e :: l ∧ e.fcode = 0)) ∧
    (∃ k, MeetsP
      (fun s => s.kernel s.inp.k = some k ∧ s.issuable k = true ∧ s.chosen k = true)) ∧
    (∃ k, MeetsP
      (fun s => s.kernel s.inp.k = some k ∧ k.state = .running ∧ (∃ c ∈ k.grant, ∃ x, s.member k c = some x ∧ x.preempted = true) ∧
      (∀ c ∈ k.grant, s.mayResume k c = true) ∧
      (∀ j ∈ s.kernels, j.pending = true → (∃ c ∈ j.grant, c ∈ k.grant) → j.aged = false ∧ j.prio ≤ k.prio))) ∧
    (∃ k, MeetsP
      (fun s => s.kernel s.inp.k = some k ∧ k.pending = true ∧ k.admitted + agingCycles ≤ s.cycles)) ∧
    (∃ k, MeetsP
      (fun s => s.kernel s.inp.k = some k ∧ k.pending = true ∧ k.aged = false ∧ s.chosen k = true)) ∧
    (∃ x k a l t, MeetsP
      (fun s => s.ctx s.inp.c = some x ∧ x.claimable s.inp.c = true ∧ s.storageWanted s.inp.c x = true ∧ s.settled s.inp.c x = true ∧
      (∀ e ∈ s.ctxs, e.1.cid = s.inp.c.cid → e.1 ≠ s.inp.c → e.2.claimable e.1 = true → s.storageWanted e.1 e.2 = true →
        s.prioOf x ≤ s.prioOf e.2) ∧
      s.kernel x.kernel = some k ∧ s.freeImages (s.queue k.queue) = a :: l ∧
      s.writeImage s.inp.c x (s.queue k.queue).part a = some t)) ∧
    (∃ k n gr k' t, MeetsP
      (fun s => s.kernel s.inp.k = some k ∧ s.node k.node = some n ∧ s.placeable k = true ∧
      (∀ j ∈ s.kernels, j.id ≠ k.id → s.placeable j = true → s.outranks j k = false) ∧
      gr = (ascending (chooseOrder (s.openHosts n)
        ((List.range (s.inp.data.length / 2)).map (fun i => numAt s.inp.data (2 * i) 2)) (fun _ => true)) (k.gw * k.gh)).map
          (fun cid => (⟨cid, (s.hostNum cid k.abud k.wbud k.zbud).getD 1⟩ : CtxId)) ∧
      k' = { k with grant := gr } ∧
      t = s.modKernel k.id (fun _ => k'))) ∧
    (MeetsP
      (fun s => s.inp.c.num ≠ 0 ∧ s.leaseDemand s.inp.c = true)) ∧
    (MeetsP
      (fun s => s.inp.c.num ≠ 0 ∧ s.leaseDemand s.inp.c = false ∧ s.placementDemand s.inp.c = true)) ∧
    (∃ x, MeetsP
      (fun s => s.ctx s.inp.c = some x ∧ s.inp.c.num ≠ 0 ∧ x.state = .parked ∧ x.parkedFor = 1 ∧
      ∀ o, s.ctx ⟨s.inp.c.cid, 0⟩ = some o → o.state = .ended ∨ (o.leaseAsk = false ∧ ∀ l, (s.core s.inp.c.cid).lease = some l → l.num ≠ 0))) ∧
    (∃ x, MeetsP
      (fun s => s.ctx s.inp.c = some x ∧ s.inp.c.num ≠ 0 ∧ x.preempted = true ∧ s.storageBack s.inp.c = true ∧
      s.dieServes s.inp.c = true ∧ s.slotClean s.inp.c = true ∧ s.fits s.inp.c.cid x.abud x.wbud x.zbud = true)) ∧
    (∃ x, MeetsP
      (fun s => s.ctx s.inp.c = some x ∧ s.inp.c.num ≠ 0 ∧ x.state = .parked ∧ x.parkedFor = 2 ∧ s.storageBack s.inp.c = true)) ∧
    (∃ k, MeetsP
      (fun s => s.kernel s.inp.k = some k ∧ k.state = .running ∧ (∀ c ∈ k.grant, ∀ x, s.member k c = some x → x.state = .ended))) :=
  ⟨(some_ex (o := sQa.withGoltik.admitTree qA 0 none false []) (by decide +kernel)).elim fun t h =>
     ⟨qA, 0, _, t, sQa.withGoltik, metP sQa ⟨rfl, by decide +kernel, rfl, by decide +kernel, .inl rfl, by decide, by decide +kernel, (by decide +kernel : sQa.withGoltik.readV 0 0x10000 8 = some [0, 0, 0, 0, 0, 0, 0, 0]), h⟩⟩,
   (cons_ex (p := fun e : ECmd => e.fcode = 0) (l := (sSt.stage kS c0 xSt 0 []).1.loadQ) (by decide +kernel)).elim fun e h => h.elim fun l h =>
     ⟨kS, _, c0, x0, _, _, e, l, metP sSt ⟨rfl, rfl, rfl, rfl, rfl, rfl, by decide +kernel, by decide, by decide +kernel, by decide +kernel, by decide +kernel, rfl, h.1, h.2⟩⟩,
   ⟨kP, metPd (sKs [] [kP] { k := 1 })⟩,
   ⟨fetchKernel 0 0, metP (sKs [(c0, xPre)] [fetchKernel 0 0] {}) ⟨rfl, rfl, ⟨c0, by decide, xPre, by decide +kernel, rfl⟩, by decide +kernel, by decide +kernel⟩⟩,
   ⟨kP, metPd { sKs [] [kP] { k := 1 } with cycles := agingCycles }⟩,
   ⟨kP, metPd (sKs [(c0, x0)] [fetchKernel 0 0, kP] { k := 1 })⟩,
   sSc_keeps.image c0 xSc |>.elim fun t h =>
     ⟨xSc, fetchKernel 0 0, 0x20000, [], t, metP sSc ⟨rfl, by decide +kernel, by decide +kernel, by decide +kernel, by decide +kernel, rfl, by decide +kernel, h⟩⟩,
   ⟨kH, nH, _, _, _, metP sHp ⟨rfl, rfl, by decide +kernel, by decide +kernel, rfl, rfl, rfl⟩⟩,
   metPd { sKs [(c0, { x0 with leaseAsk := true }), (⟨0, 1⟩, x0)] [fetchKernel 0 0] i1 with cores := [(0, { lease := some ⟨1, 0⟩ })] },
   metPd (sKs [(⟨0, 1⟩, x0)] [kP] i1),
   ⟨{ xPk with parkedFor := 1 }, metP (sKs [(⟨0, 1⟩, { xPk with parkedFor := 1 })] [fetchKernel 0 0] i1) ⟨rfl, by decide, rfl, rfl, fun _ h => (nomatch h)⟩⟩,
   ⟨xPre, metPd (sKs [(⟨0, 1⟩, xPre)] [fetchKernel 0 0] i1)⟩,
   ⟨xPk, metPd (sKs [(⟨0, 1⟩, xPk)] [fetchKernel 0 0] i1)⟩,
   ⟨fetchKernel 0 0, metP (sKs [(c0, xEnd)] [fetchKernel 0 0] {}) ⟨rfl, rfl, fun c hc x hx => by
     rw [List.mem_singleton.mp hc] at hx; cases hx; rfl⟩⟩⟩

/-- The hypotheses of `Obligations.Failures` are met, clause by clause. -/
theorem witness_Failures :
    (∃ s0 : State, MeetsP
      (fun s => s.host.nores = false ∧ (s.core s.inp.cid).retired = false ∧ (s.die (dieOf s.inp.cid)).live = true ∧
      s0 = (if s.inp.e = 1 then s.modCtx ⟨s.inp.cid, s.inp.c.num⟩ (fun x => { x with acmds := abandonRows x.acmds }) else s))) ∧
    (MeetsP
      (fun s => s.inp.flag = false)) ∧
    (∃ x, MeetsP
      (fun s => s.inp.flag = true ∧ s.ctx s.inp.c = some x ∧ s.canIssue ⟨s.inp.c, s.inp.r⟩ = true ∧ (x.role s.inp.r).rest = none)) ∧
    (∃ pa, MeetsP
      (fun s => s.host.noscrb = false ∧ s.inp.site = .hbm pa ∧ s.badG (pa / 8 * 8) 8 = true)) ∧
    (∃ c o b, MeetsP
      (fun s => s.host.noscrb = false ∧ (c, b, o / 8 * 8) ∈ s.poisonS ∧
      (b = 0 ∧ s.inp.site = .abuf c o ∨ b = 1 ∧ s.inp.site = .wbuf c o ∨ b = 2 ∧ s.inp.site = .zbuf c o))) ∧
    (∃ cid, MeetsP
      (fun s => s.host.noscrb = false ∧ s.isBad s.inp.site = true ∧ ((∃ pa, s.inp.site = .line cid pa) ∨ ∃ (c : CtxId), c.cid = cid ∧
      ((∃ q i, s.inp.site = .qent c q i) ∨ s.inp.site = .bank c ∨ ∃ n o, s.inp.site = .text c n o)))) ∧
    (∃ d, MeetsP
      (fun s => s.host.noscrb = false ∧ s.isBad s.inp.site = true ∧
      ((∃ n t k, s.inp.site = .table n t k ∧ d = stationUnit n) ∨ ∃ k o, s.inp.site = .sett d k o))) ∧
    (MeetsP
      (fun s => s.host.noscrb = true)) ∧
    (MeetsP
      (fun s => (s.die s.inp.die).live = true ∧ (s.die s.inp.die).drained = false)) ∧
    (MeetsP
      (fun _ => True)) ∧
    (MeetsP
      (fun _ => True)) ∧
    (∃ (m : Nat), ∃ (u : State), MeetsP
      (fun s => m = s.inp.region ∧ m ∈ s.liveStacks ∧ m ∉ s.failedStacks ∧
      u = ({ s with failedStacks := s.failedStacks ++ [m] } : State).forcePass (stackStation m))) ∧
    (MeetsP
      (fun s => s.inp.region < 64)) ∧
    (∃ m, MeetsP
      (fun s => m < 64 ∧ s.inp.region = 64 + m ∧ m ∈ s.liveStacks ∧ m ∉ s.failedStacks)) ∧
    (∃ t : State, MeetsP
      (fun s => s.inp.region = 128 ∧ s.host.lost0 = false ∧
      t = { ((s.post 0 12 128 0).loseLink 0) with host := { ((s.post 0 12 128 0).loseLink 0).host with lost0 := true } })) ∧
    (∃ t : State, MeetsP
      (fun s => s.inp.region = 129 ∧ s.host.lost1 = false ∧
      t = { ((s.post 0 12 129 0).loseLink 1) with host := { ((s.post 0 12 129 0).loseLink 1).host with lost1 := true } })) ∧
    (∃ r, ∃ (o : Int), MeetsP
      (fun s => r = s.inp.region ∧ o = (if s.inp.flag then (s.region r).ofs - 1 else (s.region r).ofs + 1) ∧ s.info.cal = true ∧
      r < 128 ∧ s.regionLive r = true ∧ s.slewOk r o = true ∧
      (s.region r).slewAt + 1024 ≤ s.time2 ∧ (s.inp.flag = true → s.regionTime r % 2 = 1))) ∧
    (∃ (s : State), ∃ r o, s.slewOk r o = true ∧
    o.natAbs ≤ 12 ∧ ∀ e ∈ s.info.offs, e.region = r) ∧
    (MeetsP
      (fun s => s.info.cal = true)) :=
  ⟨⟨_, metP (fI {}) ⟨rfl, rfl, rfl, rfl⟩⟩,
   metPd (fI {}),
   ⟨x0, metPd (fI { flag := true })⟩,
   ⟨8, metP { fI { site := .hbm 8 } with poison := [8] } ⟨rfl, rfl, by decide +kernel⟩⟩,
   ⟨c0, 7, 0, metP { fI { site := .abuf c0 7 } with poisonS := [(c0, 0, 0)] } ⟨rfl, by decide, .inl ⟨rfl, rfl⟩⟩⟩,
   ⟨0, metP { fI { site := .bank c0 } with ctxs := [(c0, { x0 with state := .parked, badBank := true })] } ⟨rfl, by decide +kernel, .inr ⟨c0, rfl, .inr (.inl rfl)⟩⟩⟩,
   ⟨0, metP { fI { site := .table 0 0 0 } with ring := { table := [⟨0, 0, 0, 0, 0, true⟩] } } ⟨rfl, by decide +kernel, .inl ⟨0, 0, 0, rfl, by decide⟩⟩⟩,
   metPd { fI {} with host := { (fI {}).host with noscrb := true } },
   metPd (fI {}),
   metP State.reset trivial,
   metP State.reset trivial,
   ⟨0, _, metP (fI {}) ⟨rfl, by decide, by decide, rfl⟩⟩,
   metPd (fI {}),
   ⟨0, metPd (fI { region := 64 })⟩,
   ⟨_, metP (fI { region := 128 }) ⟨rfl, rfl, rfl⟩⟩,
   ⟨_, metP (fI { region := 129 }) ⟨rfl, rfl, rfl⟩⟩,
   ⟨0, 1, metPd { fI {} with info := { (fI {}).info with cal := true }, time2 := 1024 }⟩,
   ⟨fI {}, 0, 12, by decide +kernel, by decide, fun _ h => (nomatch h)⟩,
   metPd { fI {} with info := { (fI {}).info with cal := true } }⟩

/-- A power group in ballast, and in droop. -/
def sG (p : PowerGroup) : State := (fI { v := 5 }).modGroupP 0 (fun _ => p)

/-- The hypotheses of `Obligations.PowerEvents` are met, clause by clause. -/
theorem witness_PowerEvents :
    (MeetsP
      (fun s => s.thawed s.inp.cid = true)) ∧
    (∃ (u : State), ∃ g need, MeetsP
      (fun s => u = s.rollAll ∧ g = groupOf (dieOf u.inp.cid) ∧
      need = (u.needsBallast g && decide ((u.group g).gcap < (u.group g).pavg.toNat)))) ∧
    (MeetsP
      (fun s => s.inp.flag = false ∧ (s.group s.inp.g).bal = true ∧ (s.group s.inp.g).balFrom + ballastCycles ≤ s.cycles)) ∧
    (MeetsP
      (fun s => s.inp.flag = true ∧ (s.group s.inp.g).bal = true ∧ (s.group s.inp.g).balFrom + ballastCycles ≤ s.cycles)) ∧
    (MeetsP
      (fun s => (s.group s.inp.g).bal = false ∨ s.cycles < (s.group s.inp.g).balFrom + ballastCycles)) ∧
    (MeetsP
      (fun _ => True)) ∧
    (MeetsP
      (fun s => (s.group s.inp.g).droop = true)) ∧
    (MeetsP
      (fun _ => True)) ∧
    (MeetsP
      (fun _ => True)) ∧
    (MeetsP
      (fun _ => True)) ∧
    (MeetsP
      (fun _ => True)) ∧
    (MeetsP
      (fun _ => True)) ∧
    (MeetsP
      (fun s => 1 ≤ s.inp.v.toNat ∧ s.inp.v.toNat ≤ 63 ∧
      (∀ e ∈ s.cores, groupOf (dieOf e.1) = s.inp.g → e.2.fmin ≤ s.inp.v.toNat))) ∧
    (MeetsP
      (fun s => s.inp.v.toNat = 0 ∨ 63 < s.inp.v.toNat ∨ ∃ e ∈ s.cores, groupOf (dieOf e.1) = s.inp.g ∧ s.inp.v.toNat < e.2.fmin)) ∧
    (MeetsP
      (fun s => s.info.published = true ∧ (s.inp.data.length = 4 ∨ s.inp.data.length = 8) ∧ s.inp.addr % s.inp.data.length = 0)) ∧
    (MeetsP
      (fun s => s.info.published = false ∨ (s.inp.data.length ≠ 4 ∧ s.inp.data.length ≠ 8) ∨ s.inp.addr % s.inp.data.length ≠ 0)) ∧
    (∃ (s : State), ∃ addr data, ∃ (m : Nat → Nat → Nat), ∃ (p : Power), m = s.merged addr data ∧
    p = s.writePower addr data) :=
  ⟨metPd { fI {} with time2 := 8, cores := [(0, { thaw := some 1 })], info := { (fI {}).info with cal := true } },
   ⟨_, _, _, metP (fI {}) ⟨rfl, rfl, rfl⟩⟩,
   metPd { sG { bal := true } with cycles := ballastCycles },
   metPd { sG { bal := true } with cycles := ballastCycles, inp := { flag := true } },
   metPd { sG { bal := true } with cycles := ballastCycles - 1 },
   metP State.reset trivial,
   metPd (sG { droop := true }),
   metP State.reset trivial,
   metP State.reset trivial,
   metP State.reset trivial,
   metP State.reset trivial,
   metP State.reset trivial,
   metPd (sG {}),
   metPd { sG {} with inp := { v := 0 } },
   metPd { fI { data := [1, 0, 0, 0] } with info := { (fI {}).info with published := true } },
   metP State.reset (.inl rfl),
   ⟨fI {}, 0, [], _, _, rfl, rfl⟩⟩

/-- The hypotheses of `Obligations.HostEvents` are met, clause by clause. -/
theorem witness_HostEvents :
    (∃ p, MeetsP
      (fun s => s.info.published = true ∧ s.inp.part < 16 ∧ (s.part s.inp.part).withField s.inp.pf s.inp.v = some p ∧
      s.partOk s.inp.part p = true)) ∧
    (MeetsP
      (fun s => (∀ k ∈ s.kernels, k.state = .ended) ∧ s.host.stby = false ∧ s.host.step = 6)) ∧
    (MeetsP
      (fun s => s.host.dbgm = false)) ∧
    (MeetsP
      (fun s => s.host.dbgm = true)) ∧
    (MeetsP
      (fun _ => True)) ∧
    (MeetsP
      (fun s => bitAt s.host.dsts 0 = false)) ∧
    (MeetsP
      (fun s => bitAt s.host.dsts 0 = false)) ∧
    (MeetsP
      (fun s => bitAt s.host.dsts 0 = false)) ∧
    (MeetsP
      (fun s => bitAt s.host.dsts 0 = true ∧ s.inp.flag = false)) ∧
    (MeetsP
      (fun _ => True)) ∧
    (MeetsP
      (fun _ => True)) ∧
    (MeetsP
      (fun _ => True)) ∧
    (∃ s1 s2 : State, MeetsP
      (fun s => s1 = s.kernels.foldl (fun (t : State) (k : Kernel) =>
        if k.part = s.inp.part ∧ k.state ≠ .ended then t.endDomain k.id 0 else t) s ∧
      s2 = s1.queues.foldl (fun (t : State) (q : LQueue) =>
        if q.part = s.inp.part ∧ q.sts ≠ 0 then t.writeDirectory q.q (q.word / 2 * 2) true else t) s1)) ∧
    (MeetsP
      (fun _ => True)) ∧
    (MeetsP
      (fun s => s.host.inReset = true ∧ s.inp.tap = .idcode)) ∧
    (MeetsP
      (fun s => s.host.inReset = true ∧ s.inp.tap = .bypass)) ∧
    (∃ t, MeetsP
      (fun s => storePages none s.inp.part (pageParts s.inp.addr (s.inp.data.take 4096).length) s (s.inp.data.take 4096) = .ok t)) ∧
    (MeetsP
      (fun s => s.inp.flag = true ∧ s.barOk 0 s.inp.addr s.inp.data.length = true ∧ s.inp.e = 0 ∧
      0x40000 ≤ s.inp.addr ∧ s.inp.addr < 0x40800)) ∧
    (∃ q, MeetsP
      (fun s => s.inp.flag = true ∧ s.barOk s.inp.e s.inp.addr s.inp.data.length = true ∧ 0x1000 ≤ s.inp.addr ∧ s.inp.addr < 0x2000 ∧
      q = (s.inp.addr - 0x1000) / 64 ∧ s.reaches s.inp.e q = true)) ∧
    (MeetsP
      (fun s => s.inp.flag = true ∧ s.barOk s.inp.e s.inp.addr s.inp.data.length = false)) :=
  ⟨⟨{ valid := true, plen := 0x80000000, pgmask := 5 }, metPd { fI { pf := .pgmask, v := 5 } with info := { (fI {}).info with published := true } }⟩,
   metPd (sKs [] [] {}),
   metPd (fI {}),
   metPd { fI {} with host := { (fI {}).host with dbgm := true } },
   metP State.reset trivial,
   metPd (fI {}),
   metPd (fI {}),
   metPd (fI {}),
   metPd { fI {} with host := { (fI {}).host with dsts := 1 } },
   metP State.reset trivial,
   metP State.reset trivial,
   metP State.reset trivial,
   ⟨_, _, metP (fI {}) ⟨rfl, rfl⟩⟩,
   metP State.reset trivial,
   metPd { fI { tap := .idcode } with host := { (fI {}).host with inReset := true } },
   metPd { fI { tap := .bypass } with host := { (fI {}).host with inReset := true } },
   ⟨_, metP (fI { addr := 0x10000 }) (rfl : _ = Except.ok _)⟩,
   metPd (fI { flag := true, addr := 0x407F8, data := List.replicate 8 0 }),
   ⟨63, metPd (fI { flag := true, addr := 0x1FFC, data := List.replicate 4 0 })⟩,
   metPd (fI { flag := true, addr := 0x1FFC, data := List.replicate 8 0 })⟩

/-- What the tests find: die 0, stack 0 and the west I/O die, with or without valid firmware. -/
def bT (fw : Bool) : BootResult := ⟨fw, true, false, [0], [], [0]⟩
def sStby : State := { fI { boot := bT true } with host := { (fI {}).host with stby := true, stbya := true } }

/-- The hypotheses of `Obligations.BringUp` are met, clause by clause. -/
theorem witness_BringUp :
    (∃ u b, MeetsP
      (fun s => s.inp.flag = false ∧ b = s.inp.boot ∧ b.firmware = true ∧ testedDies b ≠ [] ∧ testedStacks b ≠ [] ∧
      (b.west = true ∨ b.east = true) ∧ u = { s.powerOn with host := { s.powerOn.host with inReset := false } })) ∧
    (∃ u : State, MeetsP
      (fun s => s.inp.flag = false ∧ s.inp.boot.firmware = false ∧
      u = { s.powerOn with host := { s.powerOn.host with inReset := false } })) ∧
    (∃ u : State, MeetsP
      (fun s => s.inp.flag = false ∧ s.inp.boot.firmware = true ∧ testedDies s.inp.boot = [] ∧
      u = { s.powerOn with host := { s.powerOn.host with inReset := false }, liveStacks := testedStacks s.inp.boot })) ∧
    (∃ u : State, MeetsP
      (fun s => s.inp.flag = false ∧ s.inp.boot.firmware = true ∧ testedDies s.inp.boot ≠ [] ∧ testedStacks s.inp.boot = [] ∧
      u = { s.powerOn with host := { s.powerOn.host with inReset := false }, liveStacks := [] })) ∧
    (∃ u : State, MeetsP
      (fun s => s.inp.flag = false ∧ s.inp.boot.firmware = true ∧ testedDies s.inp.boot ≠ [] ∧ testedStacks s.inp.boot ≠ [] ∧
      s.inp.boot.west = false ∧ s.inp.boot.east = false ∧
      u = { s.powerOn with host := { s.powerOn.host with inReset := false }, liveStacks := testedStacks s.inp.boot })) ∧
    (MeetsP
      (fun s => s.inp.flag = true)) ∧
    (∃ (b : BootResult), ∃ bad, ∃ (u v : State), MeetsP
      (fun s => s.host.stbya = true ∧ b = s.inp.boot ∧
      bad = s.liveStacks.filter (fun m => !b.liveStacks.contains m && !s.failedStacks.contains m) ∧
      u = { s with host := { s.host with stby := false }, failedStacks := s.failedStacks ++ bad } ∧ testedDies b ≠ [] ∧
      u.liveStacks.all u.failedStacks.contains = false ∧ (b.west = true ∨ b.east = true) ∧
      v = bad.foldl (fun (s : State) m => s.post m 9 m 0) (((u.bootDies b).loadFirmware b s.inp.addr s.inp.data).bootPublish b))) :=
  ⟨⟨_, bT true, metP { State.reset with inp := { boot := bT true } } ⟨rfl, rfl, rfl, by decide +kernel, by decide +kernel, .inl rfl, rfl⟩⟩,
   ⟨_, metP { State.reset with inp := { boot := bT false } } ⟨rfl, rfl, rfl⟩⟩,
   ⟨_, metP { State.reset with inp := { boot := { bT true with liveDies := [] } } } ⟨rfl, rfl, by decide +kernel, rfl⟩⟩,
   ⟨_, metP { State.reset with inp := { boot := { bT true with liveStacks := [] } } } ⟨rfl, rfl, by decide +kernel, by decide +kernel, rfl⟩⟩,
   ⟨_, metP { State.reset with inp := { boot := { bT true with west := false } } } ⟨rfl, rfl, by decide +kernel, by decide +kernel, rfl, rfl, rfl⟩⟩,
   metPd { State.reset with inp := { flag := true } },
   ⟨bT true, _, _, _, metP sStby ⟨rfl, rfl, rfl, rfl, by decide +kernel, by decide +kernel, .inl rfl, rfl⟩⟩⟩

theorem metT {pre : Nat → Nat → Sett → State → Prop} [∀ d k t s, Decidable (pre d k t s)] (s : State)
    (h : decide (pre 0 0 ((s.stepped 0 0).settCore 0 0) (s.stepped 0 0)) = true := by decide +kernel) (ht : s.turn = .sett 0 0 := by rfl) :
    MeetsT pre := ⟨s, _, 0, 0, _, ht, rfl, rfl, of_decide_eq_true h⟩
theorem anyT : MeetsT anySett := ⟨{ State.reset with turn := .sett 0 0 }, _, 0, 0, _, rfl, rfl, rfl, trivial⟩
/-- Sett core 0 of die 0 moves: in mode `m`, slot 0 `p`, x1 as given, all memory open to S and U mode. -/
def sett (m : PMode) (p : EpSlot) (a : W64) : Sett :=
  { slots := (Vector.replicate 16 {}).set 0 p, mode := m, x := (Vector.replicate 32 0).set 1 a
    csrs := [(0x3A0, 0x1F), (0x3B0, 0x3FFFFFFFFFFFFF)] }
def sT (m : PMode) (p : EpSlot) (a : W64) : State :=
  { st .l x0 with turn := .sett 0 0, sett := [((0, 0), sett m p a)] }
/-- The same with a reservation of the first block of the SRAM; with FS initial. -/
def sTv : State := (sT .m {} 0).modSett 0 0 (fun t => { t with resv := some (true, 0) })
def sTf : State := (sT .m {} 0).modSett 0 0 (fun t => t.setCsr cMstatus 0x2000)
def rvIs (r : Rv) : Nat :=
  match r with
  | .next _ => 1
  | .illegal => 2
  | _ => 0
theorem rv_ex {r : Rv} (h : rvIs r = 1) : ∃ u, r = .next u := by
  unfold rvIs at h; split at h
  · exact ⟨_, rfl⟩
  all_goals cases h
theorem rv_ill {r : Rv} (h : rvIs r = 2) : r = .illegal := by
  unfold rvIs at h; split at h
  · cases h
  · rfl
  · cases h
theorem ok_ex {ε α} {x : Except ε α} (h : x.isOk = true) : ∃ a, x = .ok a := by
  cases x with
  | error e => cases h
  | ok a => exact ⟨a, rfl⟩
def aE : ActEnt := ⟨3, 0, true, List.replicate 256 1⟩
def pAct : EpSlot := { pRun with acts := [aE] }
/-- The slot once `pAct` has delivered. -/
def pDel : EpSlot := ((pAct.enter.receive).getD (aE, {})).2
/-- The mb.step at address 0 has posted already. -/
def pPst : EpSlot := { pAct with posted := [(0, 0)] }
theorem deliv {s : State} {p : EpSlot} {a : W64} (h : ((s.settCore 0 0).slot (s.settCore 0 0).kjepi).enter.receive = some (aE, p))
    (hw : (match (s.modSlot 0 0 (fun _ => p.unposted (s.settCore 0 0).mode.code)).settWrite 0 0 a aE.payload with | .ok _ => true | _ => false) = true) :
    ∃ z, delivers 0 0 a aE p s z := by
  cases e : (s.modSlot 0 0 (fun _ => p.unposted (s.settCore 0 0).mode.code)).settWrite 0 0 a aE.payload with
  | error e' => rw [e] at hw; cases hw
  | ok z => exact ⟨z, h, e⟩
theorem use_of {p : EpSlot} {t : Sett} (h : decide (t.mode ≠ .m ∧ p = t.slot t.kjepi ∧ p.state ≠ .closed ∧ p.state ≠ .stopped) = true) :
    mbUse p t := by
  have h := of_decide_eq_true h
  exact h
/-- 256 bytes of an SRAM that nothing has written. -/
def l0 : List Byte := List.replicate 256 0
/-- The store of `SettOrdinary` has a state after it. -/
theorem sett_store : ∃ u, ((sT .m {} 0).stepped 0 0).settWrite 0 0 ((((sT .m {} 0).stepped 0 0).settCore 0 0).xr 0 + immS 0x00102023#32)
    (bytesOf ((((sT .m {} 0).stepped 0 0).settCore 0 0).xr 1) (2 ^ 2)) = .ok u := ok_ex (by decide +kernel)

/-- The hypotheses of `Obligations.SettOrdinary` are met, clause by clause. -/
theorem witness_SettOrdinary :
    (∃ (w : W32), ∃ (u : State), field w 0 2 = 3#2 ∧
    MeetsT (fun d k _ s => rvExec s d k w 4 = .next u)) ∧
    (∃ w : W32, ∃ (s : State), ∃ d k u, field w 0 2 = 3#2 ∧ s.turn = .sett d k ∧
    u = s.stepped d k ∧
    rvExec u d k w 4 = .illegal) ∧
    (∃ w : W32, field w 0 7 = 0x37#7 ∧
    MeetsT anySett) ∧
    (∃ w : W32, field w 0 7 = 0x17#7 ∧
    MeetsT anySett) ∧
    (∃ (w : W32), ∃ (f3 : BitVec 3), ∃ (g : W64 → W64 → W64), field w 0 7 = 0x13#7 ∧
    field w 12 3 = f3 ∧
    (f3, g) ∈ [(0#3, (fun (a b : W64) => a + b)), (2#3, fun (a b : W64) => if a.toInt < b.toInt then 1 else 0),
      (3#3, fun (a b : W64) => if a.toNat < b.toNat then 1 else 0), (4#3, fun (a b : W64) => a ^^^ b), (6#3, fun (a b : W64) => a ||| b), (7#3, fun (a b : W64) => a &&& b)] ∧
    MeetsT anySett) ∧
    (∃ (w : W32), ∃ (f3 : BitVec 3), ∃ (f7 : BitVec 7), ∃ (g : W64 → Nat → W64), field w 0 7 = 0x13#7 ∧
    field w 12 3 = f3 ∧
    field w 25 7 = f7 ∧
    (f7, f3, g) ∈ [(0#7, 1#3, (fun (a : W64) (n : Nat) => a <<< n)), (1#7, 1#3, fun (a : W64) (n : Nat) => a <<< n), (0#7, 5#3, fun (a : W64) (n : Nat) => a >>> n), (1#7, 5#3, fun (a : W64) (n : Nat) => a >>> n),
      (0x20#7, 5#3, fun (a : W64) (n : Nat) => a.sshiftRight n), (0x21#7, 5#3, fun (a : W64) (n : Nat) => a.sshiftRight n)] ∧
    MeetsT anySett) ∧
    (∃ (w : W32), ∃ (f3 : BitVec 3), ∃ (f7 : BitVec 7), ∃ (g : W64 → W64 → W64), field w 0 7 = 0x33#7 ∧
    field w 12 3 = f3 ∧
    field w 25 7 = f7 ∧
    (f7, f3, g) ∈ [(0#7, 0#3, (fun (a b : W64) => a + b)), (0x20#7, 0#3, fun (a b : W64) => a - b), (0#7, 1#3, fun (a b : W64) => a <<< (b.toNat % 64)),
      (0#7, 2#3, fun (a b : W64) => if a.toInt < b.toInt then 1 else 0), (0#7, 3#3, fun (a b : W64) => if a.toNat < b.toNat then 1 else 0),
      (0#7, 4#3, fun (a b : W64) => a ^^^ b), (0#7, 5#3, fun (a b : W64) => a >>> (b.toNat % 64)), (0x20#7, 5#3, fun (a b : W64) => a.sshiftRight (b.toNat % 64)),
      (0#7, 6#3, fun (a b : W64) => a ||| b), (0#7, 7#3, fun (a b : W64) => a &&& b), (1#7, 0#3, fun (a b : W64) => a * b),
      (1#7, 1#3, fun (a b : W64) => BitVec.ofInt 64 (a.toInt * b.toInt / 2 ^ 64)), (1#7, 2#3, fun (a b : W64) => BitVec.ofInt 64 (a.toInt * b.toNat / 2 ^ 64)),
      (1#7, 3#3, fun (a b : W64) => BitVec.ofInt 64 (a.toNat * b.toNat / 2 ^ 64)),
      (1#7, 4#3, fun (a b : W64) => BitVec.ofInt 64 (if b.toInt = 0 then -1 else a.toInt.tdiv b.toInt)),
      (1#7, 5#3, fun (a b : W64) => if b = 0 then -1 else BitVec.ofNat 64 (a.toNat / b.toNat)),
      (1#7, 6#3, fun (a b : W64) => BitVec.ofInt 64 (if b.toInt = 0 then a.toInt else a.toInt.tmod b.toInt)),
      (1#7, 7#3, fun (a b : W64) => if b = 0 then a else BitVec.ofNat 64 (a.toNat % b.toNat))] ∧
    MeetsT anySett) ∧
    (∃ w : W32, field w 0 7 = 0x1B#7 ∧
    field w 12 3 = 0#3 ∧
    MeetsT anySett) ∧
    (∃ (w : W32), ∃ (f3 : BitVec 3), ∃ (f7 : BitVec 7), ∃ (g : W32 → W32 → W32), field w 0 7 = 0x3B#7 ∧
    field w 12 3 = f3 ∧
    field w 25 7 = f7 ∧
    (f7, f3, g) ∈ [(1#7, 0#3, (fun (a b : W32) => a * b)),
      (1#7, 5#3, fun (a b : W32) => if b = 0 then -1 else BitVec.ofNat 32 (a.toNat / b.toNat)),
      (1#7, 7#3, fun (a b : W32) => if b = 0 then a else BitVec.ofNat 32 (a.toNat % b.toNat))] ∧
    MeetsT anySett) ∧
    (∃ (w : W32), ∃ (f3 : BitVec 3), ∃ (f7 : BitVec 7), ∃ (g : W32 → Nat → W32), field w 0 7 = 0x3B#7 ∧
    field w 12 3 = f3 ∧
    field w 25 7 = f7 ∧
    (f7, f3, g) ∈ [(0#7, 1#3, (fun (a : W32) (n : Nat) => a <<< n)), (0#7, 5#3, fun (a : W32) (n : Nat) => a >>> n), (0x20#7, 5#3, fun (a : W32) (n : Nat) => a.sshiftRight n)] ∧
    MeetsT anySett) ∧
    (∃ (w : W32), ∃ (f7 : BitVec 7), field w 0 7 = 0x3B#7 ∧
    field w 12 3 = 0#3 ∧
    field w 25 7 = f7 ∧
    (f7 = 0#7 ∨ f7 = 0x20#7) ∧
    MeetsT anySett) ∧
    (∃ w : W32, field w 0 7 = 0x6F#7 ∧
    MeetsT anySett) ∧
    (∃ w : W32, field w 0 7 = 0x67#7 ∧
    field w 12 3 = 0#3 ∧
    MeetsT anySett) ∧
    (∃ (w : W32), ∃ (f3 : BitVec 3), ∃ (g : W64 → W64 → Bool), field w 0 7 = 0x63#7 ∧
    field w 12 3 = f3 ∧
    (f3, g) ∈ [(0#3, (fun (a b : W64) => decide (a = b))), (1#3, fun (a b : W64) => decide (a ≠ b)), (4#3, fun (a b : W64) => decide (a.toInt < b.toInt)),
      (5#3, fun (a b : W64) => decide (b.toInt ≤ a.toInt)), (6#3, fun (a b : W64) => decide (a.toNat < b.toNat)),
      (7#3, fun (a b : W64) => decide (b.toNat ≤ a.toNat))] ∧
    MeetsT (fun _ _ t _ => g (t.xr (field w 15 5).toNat) (t.xr (field w 20 5).toNat) = true)) ∧
    (∃ (w : W32), ∃ (f3 : BitVec 3), ∃ (g : W64 → W64 → Bool), field w 0 7 = 0x63#7 ∧
    field w 12 3 = f3 ∧
    (f3, g) ∈ [(0#3, (fun (a b : W64) => decide (a = b))), (1#3, fun (a b : W64) => decide (a ≠ b)), (4#3, fun (a b : W64) => decide (a.toInt < b.toInt)),
      (5#3, fun (a b : W64) => decide (b.toInt ≤ a.toInt)), (6#3, fun (a b : W64) => decide (a.toNat < b.toNat)),
      (7#3, fun (a b : W64) => decide (b.toNat ≤ a.toNat))] ∧
    MeetsT (fun _ _ t _ => g (t.xr (field w 15 5).toNat) (t.xr (field w 20 5).toNat) = false)) ∧
    (∃ (w : W32), ∃ (n : Nat), ∃ (l : List Byte), field w 0 7 = 0x03#7 ∧
    (field w 12 3).toNat = n ∧
    n < 4 ∧
    MeetsT (fun _ _ t s => s.settRead t (t.xr (field w 15 5).toNat + immI w) (2 ^ n) .load = .ok l)) ∧
    (∃ (w : W32), ∃ (n : Nat), ∃ (l : List Byte), field w 0 7 = 0x03#7 ∧
    (field w 12 3).toNat = n + 4 ∧
    n < 3 ∧
    MeetsT (fun _ _ t s => s.settRead t (t.xr (field w 15 5).toNat + immI w) (2 ^ n) .load = .ok l)) ∧
    (∃ (w : W32), ∃ (n : Nat), ∃ (u : State), field w 0 7 = 0x23#7 ∧
    (field w 12 3).toNat = n ∧
    n < 4 ∧
    MeetsT (fun d k t s => s.settWrite d k (t.xr (field w 15 5).toNat + immS w) (bytesOf (t.xr (field w 20 5).toNat) (2 ^ n)) = .ok u)) ∧
    (∃ w : W32, field w 0 7 = 0x0F#7 ∧
    (field w 12 3 = 0#3 ∨ field w 12 3 = 1#3) ∧
    MeetsT anySett) ∧
    (∃ (w : W32), ∃ (n : Nat), ∃ (f5 : BitVec 5), ∃ (g : Nat → Nat → Nat), ∃ (a : W64), ∃ p l, ∃ (u : State), field w 0 7 = 0x2F#7 ∧
    (field w 12 3 = 2#3 ∧ n = 4 ∨ field w 12 3 = 3#3 ∧ n = 8) ∧
    field w 27 5 = f5 ∧
    (f5, g) ∈ [(1#5, (fun (_ v : Nat) => v)), (0#5, fun (m v : Nat) => m + v), (4#5, fun (m v : Nat) => m ^^^ v), (8#5, fun (m v : Nat) => m ||| v), (12#5, fun (m v : Nat) => m &&& v)] ∧
    MeetsT (fun d k t s => a = t.xr (field w 15 5).toNat ∧ a.toNat % n = 0 ∧ t.place a n .store = .ok p ∧
        (∀ va, p = .g va → ∃ pa, s.settG t va n a .store = .ok pa) ∧ s.settRead t a n .store = .ok l ∧
        s.settWrite d k a (bytesN (g (natOfBytes l) ((t.xr (field w 20 5).toNat).toNat % 2 ^ (8 * n))) n) = .ok u)) ∧
    (∃ (w : W32), ∃ (n : Nat), ∃ (a : W64), ∃ p l pa, field w 0 7 = 0x2F#7 ∧
    (field w 12 3 = 2#3 ∧ n = 4 ∨ field w 12 3 = 3#3 ∧ n = 8) ∧
    field w 27 5 = 2#5 ∧
    field w 20 5 = 0#5 ∧
    MeetsT (fun _ _ t s => a = t.xr (field w 15 5).toNat ∧ a.toNat % n = 0 ∧ t.place a n .load = .ok p ∧
        pa = (match p with | .g va => s.settG t va n a .load | _ => .ok 0) ∧ (∃ q, pa = .ok q) ∧ s.settRead t a n .load = .ok l)) ∧
    (∃ (w : W32), ∃ (n : Nat), ∃ (a : W64), ∃ p pa, field w 0 7 = 0x2F#7 ∧
    (field w 12 3 = 2#3 ∧ n = 4 ∨ field w 12 3 = 3#3 ∧ n = 8) ∧
    field w 27 5 = 3#5 ∧
    MeetsT (fun _ _ t s => a = t.xr (field w 15 5).toNat ∧ a.toNat % n = 0 ∧ t.place a n .store = .ok p ∧
        pa = (match p with | .g va => s.settG t va n a .store | _ => .ok 0) ∧ (∃ q, pa = .ok q) ∧
        (t.resv = none ∨ t.resv ≠ blockOf p pa))) ∧
    (∃ (w : W32), ∃ (n : Nat), ∃ (a : W64), ∃ p pa, ∃ (u : State), field w 0 7 = 0x2F#7 ∧
    (field w 12 3 = 2#3 ∧ n = 4 ∨ field w 12 3 = 3#3 ∧ n = 8) ∧
    field w 27 5 = 3#5 ∧
    MeetsT (fun d k t s => a = t.xr (field w 15 5).toNat ∧ a.toNat % n = 0 ∧ t.place a n .store = .ok p ∧
        pa = (match p with | .g va => s.settG t va n a .store | _ => .ok 0) ∧ (∃ q, pa = .ok q) ∧
        t.resv ≠ none ∧ t.resv = blockOf p pa ∧
        (s.modSett d k (fun t => { t with resv := none })).settWrite d k a (bytesOf (t.xr (field w 20 5).toNat) n) = .ok u)) ∧
    (∃ w : W32, field w 0 7 = 0x73#7 ∧
    field w 12 3 = 1#3 ∧
    field w 20 12 = 0x340#12 ∧
    MeetsT (fun _ _ t _ => t.mode = .m)) ∧
    (MeetsT (fun _ _ t _ => t.mode = .m ∧ field (t.csr cMstatus) 11 2 = 0#2)) ∧
    (∃ (w : W32), ∃ (n : Nat), ∃ (l : List Byte), field w 0 7 = 0x07#7 ∧
    (field w 12 3 = 2#3 ∧ n = 4 ∨ field w 12 3 = 3#3 ∧ n = 8) ∧
    MeetsT (fun _ _ t s => t.fs ≠ 0 ∧ s.settRead t (t.xr (field w 15 5).toNat + immI w) n .load = .ok l)) ∧
    (∃ (w : W32), ∃ (n : Nat), ∃ (u : State), field w 0 7 = 0x27#7 ∧
    (field w 12 3 = 2#3 ∧ n = 4 ∨ field w 12 3 = 3#3 ∧ n = 8) ∧
    MeetsT (fun d k t s => t.fs ≠ 0 ∧
        s.settWrite d k (t.xr (field w 15 5).toNat + immS w) (bytesOf (t.fr (field w 20 5).toNat) n) = .ok u)) ∧
    (∃ (w : W32), ∃ (f5 : BitVec 5), ∃ (dbl : Bool), ∃ (m : RMode), ∃ (g : Fmt → RMode → FVal → FVal → Res), field w 0 7 = 0x53#7 ∧
    field w 25 2 = (if dbl then 1#2 else 0#2) ∧
    field w 27 5 = f5 ∧
    (f5, g) ∈ [(0#5, (fun (f : Fmt) (m : RMode) (a b : FVal) => fAdd f m a b 0)), (1#5, fun (f : Fmt) (m : RMode) (a b : FVal) => fAdd f m a b.negate 0), (2#5, fun (f : Fmt) (m : RMode) (a b : FVal) => fMul f m a b 0)] ∧
    MeetsT (fun _ _ t _ => t.fs ≠ 0 ∧ t.rm (field w 12 3).toNat = some m)) ∧
    (∃ (w : W32), ∃ (dbl : Bool), ∃ (m : RMode), field w 0 7 = 0x43#7 ∧
    field w 25 2 = (if dbl then 1#2 else 0#2) ∧
    MeetsT (fun _ _ t _ => t.fs ≠ 0 ∧ t.rm (field w 12 3).toNat = some m)) ∧
    (MeetsT anySett) ∧
    (MeetsT anySett) ∧
    (∃ w : W32, field w 0 16 = 0#16 ∧
    MeetsT anySett) ∧
    (MeetsT (fun _ _ t _ => t.mode = .u)) :=
  ⟨(rv_ex (r := rvExec ((sT .m {} 0).stepped 0 0) 0 0 0x13#32 4) (by decide +kernel)).elim fun u h => ⟨0x13#32, u, by decide, sT .m {} 0, _, 0, 0, _, rfl, rfl, rfl, h⟩,
   ⟨0xFFFFFFFF#32, sT .m {} 0, 0, 0, _, by decide, rfl, rfl, rv_ill (by decide +kernel)⟩,
   ⟨0x37#32, by decide, anyT⟩,
   ⟨0x17#32, by decide, anyT⟩,
   ⟨0x13#32, 0, _, by decide, by decide, .head _, anyT⟩,
   ⟨0x1013#32, 1, 0, _, by decide, by decide, by decide, .head _, anyT⟩,
   ⟨0x33#32, 0, 0, _, by decide, by decide, by decide, .head _, anyT⟩,
   ⟨0x1B#32, by decide, by decide, anyT⟩,
   ⟨0x0200003B#32, 0, 1, _, by decide, by decide, by decide, .head _, anyT⟩,
   ⟨0x103B#32, 1, 0, _, by decide, by decide, by decide, .head _, anyT⟩,
   ⟨0x3B#32, 0, by decide, by decide, by decide, .inl rfl, anyT⟩,
   ⟨0x6F#32, by decide, anyT⟩,
   ⟨0x67#32, by decide, by decide, anyT⟩,
   ⟨0x63#32, 0, fun a b => decide (a = b), by decide, by decide, .head _, metT (sT .m {} 0)⟩,
   ⟨0x8063#32, 0, fun a b => decide (a = b), by decide, by decide, .head _, metT (sT .m {} 1)⟩,
   ⟨0x2003#32, 2, [0, 0, 0, 0], by decide, by decide, by decide, sT .m {} 0, _, 0, 0, _, rfl, rfl, rfl, ok_of (by decide +kernel)⟩,
   ⟨0x4003#32, 0, [0], by decide, by decide, by decide, sT .m {} 0, _, 0, 0, _, rfl, rfl, rfl, ok_of (by decide +kernel)⟩,
   sett_store.elim fun u h => ⟨0x00102023#32, 2, u, by decide, by decide, by decide, sT .m {} 0, _, 0, 0, _, rfl, rfl, rfl, h⟩,
   ⟨0x0F#32, by decide, .inl (by decide), anyT⟩,
   (ok_ex (x := ((sT .m {} 0).stepped 0 0).settWrite 0 0 0 (bytesN 0 4)) (by decide +kernel)).elim fun u h =>
     ⟨0x0800202F#32, 4, 1, fun _ v => v, 0, .sram 0, [0, 0, 0, 0], u, by decide, .inl ⟨by decide, rfl⟩, by decide, .head _, sT .m {} 0, _, 0, 0, _, rfl, rfl, rfl,
       by decide +kernel, by decide, ok_of (by decide +kernel), fun _ h => (nomatch h), ok_of (by decide +kernel), h⟩,
   ⟨0x1000202F#32, 4, 0, .sram 0, [0, 0, 0, 0], .ok 0, by decide, .inl ⟨by decide, rfl⟩, by decide, by decide, sT .m {} 0, _, 0, 0, _, rfl, rfl, rfl,
     by decide +kernel, by decide, ok_of (by decide +kernel), rfl, ⟨0, rfl⟩, ok_of (by decide +kernel)⟩,
   ⟨0x1800202F#32, 4, 0, .sram 0, .ok 0, by decide, .inl ⟨by decide, rfl⟩, by decide, sT .m {} 0, _, 0, 0, _, rfl, rfl, rfl,
     by decide +kernel, by decide, ok_of (by decide +kernel), rfl, ⟨0, rfl⟩, .inl (by decide +kernel)⟩,
   (ok_ex (x := ((sTv.stepped 0 0).modSett 0 0 (fun t => { t with resv := none })).settWrite 0 0 0 (bytesOf 0 4)) (by decide +kernel)).elim fun u h =>
     ⟨0x1800202F#32, 4, 0, .sram 0, .ok 0, u, by decide, .inl ⟨by decide, rfl⟩, by decide, sTv, _, 0, 0, _, rfl, rfl, rfl,
       by decide +kernel, by decide, ok_of (by decide +kernel), rfl, ⟨0, rfl⟩, by decide +kernel, by decide +kernel, h⟩,
   ⟨0x34001073#32, by decide, by decide, by decide, metT (sT .m {} 0)⟩,
   metT (sT .m {} 0),
   ⟨0x2007#32, 4, [0, 0, 0, 0], by decide, .inl ⟨by decide, rfl⟩, sTf, _, 0, 0, _, rfl, rfl, rfl, by decide +kernel, ok_of (by decide +kernel)⟩,
   (ok_ex (x := (sTf.stepped 0 0).settWrite 0 0 0 (bytesOf 0 4)) (by decide +kernel)).elim fun u h =>
     ⟨0x2027#32, 4, u, by decide, .inl ⟨by decide, rfl⟩, sTf, _, 0, 0, _, rfl, rfl, rfl, by decide +kernel, h⟩,
   ⟨0x53#32, 0, false, .rne, _, by decide, by decide, by decide, .head _, metT sTf⟩,
   ⟨0x43#32, false, .rne, by decide, by decide, metT sTf⟩,
   anyT,
   anyT,
   ⟨0, by decide, anyT⟩,
   metT (sT .u {} 0)⟩

/-- The hypotheses of `Obligations.SettMailbox` are met, clause by clause. -/
theorem witness_SettMailbox :
    (∃ rd rs1 : BitVec 5, ∃ a p e q z, MeetsT (fun d k t s => mbUse p t ∧ a = t.xr rs1.toNat ∧ a.toNat % 16 = 0 ∧ s.canStore t a = none ∧
      delivers d k a e q s z)) ∧
    (∃ rs1 rs2 : BitVec 5, ∃ a p l, MeetsT (fun _ _ t s => mbUse p t ∧ a = t.xr rs1.toNat ∧ a.toNat % 16 = 0 ∧ s.settRead t a 256 .load = .ok l ∧
      (p.enter.eplim = 0 ∨ p.enter.step ≠ p.enter.eplim) ∧ p.enter.obs.length < 8)) ∧
    (∃ rs1 rs2 : BitVec 5, ∃ a p l, MeetsT (fun _ _ t s => mbUse p t ∧ a = t.xr rs1.toNat ∧ a.toNat % 16 = 0 ∧ s.settRead t a 256 .load = .ok l ∧
      p.enter.eplim ≠ 0 ∧ p.enter.step = p.enter.eplim)) ∧
    (∃ rd rs1 rs2 : BitVec 5, ∃ a p l e q z, MeetsT (fun d k t s => mbUse p t ∧ p.posted.contains (t.pc, t.mode.code) = false ∧ a = t.xr rs1.toNat ∧ a.toNat % 16 = 0 ∧ s.settRead t a 256 .load = .ok l ∧
      s.canStore t a = none ∧ (p.enter.eplim = 0 ∨ p.enter.step ≠ p.enter.eplim) ∧ p.enter.obs.length < 8 ∧
      delivers d k a e q (s.modSlot d k (fun _ => p.enter.post (epiOf d k t.kjepi) 0 ((t.xr rs2.toNat).setWidth 32) l)) z)) ∧
    (∃ rd rs1 rs2 : BitVec 5, ∃ a p e q z, MeetsT (fun d k t s => mbUse p t ∧ p.posted.contains (t.pc, t.mode.code) = true ∧ a = t.xr rs1.toNat ∧ a.toNat % 16 = 0 ∧
      s.canStore t a = none ∧ delivers d k a e q s z)) ∧
    (∃ rd rs1 rs2 : BitVec 5, ∃ a p l, ∃ (s u v : State), ∃ d k t, s.turn = .sett d k ∧
    u = s.stepped d k ∧
    t = u.settCore d k ∧
    mbUse p t ∧
    p.posted.contains (t.pc, t.mode.code) = false ∧
    a = t.xr rs1.toNat ∧
    a.toNat % 16 = 0 ∧
    u.settRead t a 256 .load = .ok l ∧
    u.canStore t a = none ∧
    (p.enter.eplim = 0 ∨ p.enter.step ≠ p.enter.eplim) ∧
    p.enter.obs.length < 8 ∧
    v = u.modSlot d k (fun _ => p.enter.post (epiOf d k t.kjepi) 0 ((t.xr rs2.toNat).setWidth 32) l) ∧
    ((v.settCore d k).slot (v.settCore d k).kjepi).enter.receive = none) ∧
    (∃ rd rs1 : BitVec 5, ∃ a p, ∃ (s u : State), ∃ d k t, s.turn = .sett d k ∧
    u = s.stepped d k ∧
    t = u.settCore d k ∧
    mbUse p t ∧
    a = t.xr rs1.toNat ∧
    a.toNat % 16 = 0 ∧
    u.canStore t a = none ∧
    p.enter.receive = none) ∧
    (∃ rs1 rs2 : BitVec 5, ∃ a p l, MeetsT (fun _ _ t s => mbUse p t ∧ a = t.xr rs1.toNat ∧ a.toNat % 16 = 0 ∧ s.settRead t a 256 .load = .ok l ∧ p.obs.length < 8)) ∧
    (∃ rd : BitVec 5, ∃ p, MeetsT (fun _ _ t _ => mbUse p t)) ∧
    (∃ rd : BitVec 5, ∃ p, MeetsT (fun _ _ t _ => mbUse p t)) ∧
    (∃ i : Instr, ((∃ rd rs1 : BitVec 5, i = .mbRecv rd rs1) ∨ (∃ rs1 rs2 : BitVec 5, i = .mbSend rs1 rs2) ∨
      (∃ rd rs1 rs2 : BitVec 5, i = .mbStep rd rs1 rs2) ∨ (∃ rs1 rs2 : BitVec 5, i = .mbDone rs1 rs2) ∨ (∃ rd : BitVec 5, i = .mbStat rd) ∨
      (∃ rd : BitVec 5, i = .mbVer rd)) ∧
    MeetsT (fun _ _ t _ => t.mode = .m ∨ (t.slot t.kjepi).state = .closed ∨ (t.slot t.kjepi).state = .stopped)) ∧
    (∃ (i : Instr) (rs1 : BitVec 5) (c : Nat), ((∃ rd : BitVec 5, i = .mbRecv rd rs1 ∧ c = 6) ∨ (∃ rs2 : BitVec 5, i = .mbSend rs1 rs2 ∧ c = 4) ∨
      (∃ rd rs2 : BitVec 5, i = .mbStep rd rs1 rs2 ∧ c = 6) ∨ (∃ rs2 : BitVec 5, i = .mbDone rs1 rs2 ∧ c = 4)) ∧
    MeetsT (fun _ _ t _ => (∃ p, mbUse p t) ∧ (t.xr rs1.toNat).toNat % 16 ≠ 0)) :=
  ⟨(deliv (s := (sT .u pAct 0).stepped 0 0) (p := pDel) (a := 0) (by decide +kernel) (by decide +kernel)).elim fun z hz =>
     ⟨0, 0, 0, pAct, aE, pDel, z, sT .u pAct 0, _, 0, 0, _, rfl, rfl, rfl, use_of (by decide +kernel), by decide +kernel, rfl, by decide +kernel, hz⟩,
   ⟨0, 0, 0, pRun, l0, sT .u pRun 0, _, 0, 0, _, rfl, rfl, rfl, use_of (by decide +kernel), by decide +kernel, rfl, ok_of (by decide +kernel), .inl rfl, by decide⟩,
   ⟨0, 0, 0, { pRun with eplim := 5, step := 5 }, l0, sT .u { pRun with eplim := 5, step := 5 } 0, _, 0, 0, _, rfl, rfl, rfl, use_of (by decide +kernel), by decide +kernel, rfl, ok_of (by decide +kernel), by decide, rfl⟩,
   (deliv (s := ((sT .u pAct 0).stepped 0 0).modSlot 0 0 (fun _ => pAct.enter.post (epiOf 0 0 (((sT .u pAct 0).stepped 0 0).settCore 0 0).kjepi) 0 (((((sT .u pAct 0).stepped 0 0).settCore 0 0).xr 0).setWidth 32) l0)) (p := (((pAct.enter.post (epiOf 0 0 0) 0 0 l0).enter.receive).getD (aE, {})).2) (a := 0) (by decide +kernel) (by decide +kernel)).elim fun z hz =>
     ⟨0, 0, 0, 0, pAct, l0, aE, _, z, sT .u pAct 0, _, 0, 0, _, rfl, rfl, rfl, use_of (by decide +kernel), by decide +kernel, by decide +kernel, rfl, ok_of (by decide +kernel), by decide +kernel, .inl rfl, by decide, hz⟩,
   (deliv (s := (sT .u pPst 0).stepped 0 0) (p := ((pPst.enter.receive).getD (aE, {})).2) (a := 0) (by decide +kernel) (by decide +kernel)).elim fun z hz =>
     ⟨0, 0, 0, 0, pPst, aE, _, z, sT .u pPst 0, _, 0, 0, _, rfl, rfl, rfl, use_of (by decide +kernel), by decide +kernel, by decide +kernel, rfl, by decide +kernel, hz⟩,
   ⟨0, 0, 0, 0, pRun, l0, sT .u pRun 0, _, _, 0, 0, _, rfl, rfl, rfl, use_of (by decide +kernel), by decide +kernel, by decide +kernel, rfl, ok_of (by decide +kernel), by decide +kernel, .inl rfl, by decide, rfl, by decide +kernel⟩,
   ⟨0, 0, 0, pRun, sT .u pRun 0, _, 0, 0, _, rfl, rfl, rfl, use_of (by decide +kernel), by decide +kernel, rfl, by decide +kernel, by decide +kernel⟩,
   ⟨0, 0, 0, pRun, l0, sT .u pRun 0, _, 0, 0, _, rfl, rfl, rfl, use_of (by decide +kernel), by decide +kernel, rfl, ok_of (by decide +kernel), by decide⟩,
   ⟨0, pRun, sT .u pRun 0, _, 0, 0, _, rfl, rfl, rfl, use_of (by decide +kernel)⟩,
   ⟨0, pRun, sT .u pRun 0, _, 0, 0, _, rfl, rfl, rfl, use_of (by decide +kernel)⟩,
   ⟨.mbStat 0, .inr (.inr (.inr (.inr (.inl ⟨0, rfl⟩)))), sT .m pRun 0, _, 0, 0, _, rfl, rfl, rfl, .inl rfl⟩,
   ⟨.mbRecv 0 1, 1, 6, .inl ⟨0, rfl, rfl⟩, sT .u pRun 1, _, 0, 0, _, rfl, rfl, rfl, ⟨pRun, use_of (by decide +kernel)⟩, by decide +kernel⟩⟩

def hd : Head := ⟨0, 0, 0⟩
/-- A text of two sections: the L role at the first's only word; the second waits for the C role. -/
def sHold2 : State :=
  { st .l x0 with kernels := [{ fetchKernel 0 0 with text := [⟨1, 0, [], List.replicate 12 0⟩, ⟨1, 2, [(.c, 0)], List.replicate 12 0⟩] }] }
/-- The word of an ADD without a violation; one guarded by p0, which is false. -/
def vOk : WordS := { vS with d := 3, a := 1, b := 2 }
def xTq : Ctx := x0
/-- A trap queue at 0x30000, and one full. -/
def sTq (q : TrapQ) : State := { st .l x0 with dies := [(0, { live := true, tq := [(0, q)] })] }
def eG : StoreEnt := ⟨0, c0, .s, .g 0x8000 0x10000, 0x8000, [5], [], false, 0, 0, false⟩
def tR0 : TrapRec := ⟨c0, 0, 1, false, 0, 0, [⟨0, 0⟩, ⟨0, 0⟩, ⟨0, 0⟩], 0, 0, 0⟩
/-- A Sett core moves at address 0, where an `addi x0, x0, 0` stands. -/
def sSett : State := { st .l x0 with agenda := [⟨0, .sett 0 0⟩], sett := [((0, 0), { sram := [(0, 0x13)] })] }
def sAg (a : Agent) : State := { st .l x0 with agenda := [⟨1, a⟩] }
/-- A move of 600 cycles, in which the slot passes its station. -/
def sDue : State := { ringSt (ent 1) tFree with agenda := [⟨600, .role c0 .l⟩], ring := { slots := [tFree], table := [⟨0, 0, 0, ent 1, 0, false⟩] } }
def xRest : Ctx := { x0 with rl := { rest := some ⟨0, none, ⟨0, 1⟩, none, none, none⟩ } }

theorem reset_governed : State.reset.Governed :=
  ⟨rfl, by decide +kernel, by decide⟩
theorem reset_steps : ∃ t, step State.reset = .next t := by
  have h : (match step State.reset with | .next _ => true | _ => false) = true := by decide +kernel
  split at h
  · exact ⟨_, ‹_›⟩
  · cases h

/-- The hypotheses of `Obligations.StepKeeps` are met. -/
theorem witness_StepKeeps : ∃ s t : State, s.Governed ∧ step s = .next t :=
  reset_steps.elim fun t h => ⟨_, t, reset_governed, h⟩

/-- The hypotheses of `Obligations.MemoryLaws` are met, clause by clause. -/
theorem witness_MemoryLaws :
    (∃ m : Mem, m.wf = true) ∧
    (∃ m n : Mem, m.wf = true ∧ n.wf = true ∧ ∀ a, m.get a = n.get a) ∧
    (∃ (s t : State) (e : StoreEnt) (x : Ctx) (pa pb a : Nat), s.hbm.wf = true ∧ e.place = .g pa pb ∧ s.performStore e x = some t ∧
      (∀ p ∈ gParts pa pb e.data.length, s.storeBad p.1 p.2 = false) ∧
      (∀ p ∈ gParts pa pb e.data.length, ¬ (p.1 ≤ a ∧ a < p.1 + p.2))) ∧
    (∃ (s t : State) (e : StoreEnt) (x : Ctx) (pa pb a : Nat), s.hbm.wf = true ∧ e.place = .g pa pb ∧ s.performStore e x = some t ∧
      s.storeBad pa e.data.length = false ∧ pa % 65536 + e.data.length ≤ 65536 ∧ pa ≤ a ∧ a < pa + e.data.length) ∧
    (∃ (s t : State) (e : StoreEnt) (x y : Ctx) (off : Nat), e.place = .a e.ctx off ∧ e.k = false ∧ e.more = [] ∧
      s.ctx e.ctx = some y ∧ y.abuf.wf = true ∧ s.performStore e x = some t) ∧
    (∃ (s t : State) (e : StoreEnt) (x : Ctx) (c : CtxId) (off : Nat), e.place = .a c off ∧ e.k = true ∧ s.performStore e x = some t) ∧
    (∃ (s : State) (w : Who) (x : Ctx), s.ctx w.c = some x) :=
  ⟨⟨[], rfl⟩, ⟨[], [], rfl, rfl, fun _ => rfl⟩,
   (some_ex (o := (st .l x0).performStore eG x0) (by decide +kernel)).elim fun t h =>
     ⟨(st .l x0), t, eG, x0, 0x8000, 0x10000, 0, by decide +kernel, rfl, h, by decide +kernel, by decide +kernel⟩,
   (some_ex (o := (st .l x0).performStore eG x0) (by decide +kernel)).elim fun t h =>
     ⟨(st .l x0), t, eG, x0, 0x8000, 0x10000, 0x8000, by decide +kernel, rfl, h, by decide +kernel, by decide, by decide, by decide⟩,
   (some_ex (o := (st .l x0).performStore { eG with place := .a c0 8 } x0) (by decide +kernel)).elim fun t h =>
     ⟨(st .l x0), t, _, x0, x0, 8, rfl, rfl, rfl, rfl, rfl, h⟩,
   ⟨(st .l x0), _, { eG with place := .a c0 8, k := true }, x0, c0, 8, rfl, rfl, rfl⟩,
   ⟨(st .l x0), wL, x0, rfl⟩⟩

/-- The hypotheses of `Obligations.StepRunsDecoded` are met, clause by clause. -/
theorem witness_StepRunsDecoded :
    (∃ (s : State) (c : CtxId) (r : Role) (i : Instr) (rest : List Byte), s.begin.turn = .role c r ∧ s.begin.canIssue ⟨c, r⟩ = true ∧
      s.begin.hasRest ⟨c, r⟩ = false ∧ s.begin.fetchBad ⟨c, r⟩ = false ∧ decode (s.begin.wordAt ⟨c, r⟩) = .ok (i, rest)) ∧
    (∃ (s : State) (c : CtxId) (r : Role), s.begin.turn = .role c r ∧ s.begin.canIssue ⟨c, r⟩ = true ∧
      s.begin.hasRest ⟨c, r⟩ = false ∧ s.begin.fetchBad ⟨c, r⟩ = true) ∧
    (∃ (s : State) (c : CtxId) (r : Role) (e : DecodeError) (x : Ctx), s.begin.turn = .role c r ∧ s.begin.canIssue ⟨c, r⟩ = true ∧
      s.begin.hasRest ⟨c, r⟩ = false ∧ s.begin.fetchBad ⟨c, r⟩ = false ∧ decode (s.begin.wordAt ⟨c, r⟩) = .error e ∧
      s.begin.ctx c = some x) ∧
    (∃ (s : State) (c : CtxId) (r : Role), s.begin.turn = .role c r ∧ s.begin.canIssue ⟨c, r⟩ = false ∧
      (∀ e ∈ s.begin.stops, e.c ≠ c)) ∧
    (∃ (s : State) (c : CtxId) (r : Role), s.begin.turn = .role c r ∧ s.begin.canIssue ⟨c, r⟩ = false) ∧
    (∃ (s : State) (c : CtxId) (r : Role), s.begin.turn = .role c r ∧ s.begin.canIssue ⟨c, r⟩ = true ∧
      s.begin.hasRest ⟨c, r⟩ = true) ∧
    (∃ (s u : State) (d k : Nat) (l : List Byte) (i : Instr) (rest : List Byte), s.begin.turn = .sett d k ∧
      u = s.begin.settBegin d k ∧ u.settFetch d k = .ok l ∧ decodeSett l = .ok (i, rest)) ∧
    (∃ (s : State) (i : Instr) (inp : Input), s.begin.turn = .event i inp) ∧
    (∃ (s : State) (m : Move) (l : List Move), s.agenda = m :: l ∧ s.due (s.cyclesOf m) = none ∧ (m.cycles ≠ 0 ∨ s.ranks = [])) ∧
    (∃ (s : State) (m : Move) (l : List Move) (n : Nat) (i : Instr) (p : Input), s.agenda = m :: l ∧
      s.due (s.cyclesOf m) = some (n, i, p)) ∧
    (∃ (s : State) (w : Who) (x : Ctx) (sec : Section), s.ctx w.c = some x ∧
      sectionOf (s.textOf x) (x.role w.r).pc.sec = some sec) :=
  ⟨⟨sAg (.role c0 .l), c0, .l, .nop vS, [], rfl, by decide +kernel, by decide +kernel, by decide +kernel, ok_of (by decide +kernel)⟩,
   ⟨{ sAg (.role c0 .l) with ctxs := [(c0, { x0 with badText := [(0, 8)] })] }, c0, .l, rfl, by decide +kernel, by decide +kernel,
     by decide +kernel⟩,
   ⟨{ sAg (.role c0 .l) with ctxs := [(c0, { x0 with rl := { pc := ⟨9, 0⟩ } })] }, c0, .l, .truncated, _, rfl, by decide +kernel,
     by decide +kernel, by decide +kernel, err_of (by decide +kernel), rfl⟩,
   ⟨{ sAg (.role c0 .l) with ctxs := [] }, c0, .l, rfl, by decide +kernel, nofun⟩,
   ⟨{ sAg (.role c0 .l) with ctxs := [] }, c0, .l, rfl, by decide +kernel⟩,
   ⟨{ sAg (.role c0 .l) with ctxs := [(c0, xRest)] }, c0, .l, rfl, by decide +kernel, by decide +kernel⟩,
   ⟨sSett, _, 0, 0, [0x13, 0, 0, 0], .settCoreInstruction 0x13, [], rfl, rfl, by rfl, by rfl⟩,
   ⟨sAg (.event .scrub {}), _, _, rfl⟩, ⟨sAg (.role c0 .l), _, _, rfl, by decide +kernel, .inr rfl⟩,
   (some_ex (o := sDue.due 600) (by decide +kernel)).elim fun t h => ⟨sDue, _, _, t.1, t.2.1, t.2.2, rfl, h⟩,
   ⟨st .l x0, wL, x0, _, rfl, rfl⟩⟩

/-- The hypotheses of `Obligations.DecodeOrder` are met, clause by clause. -/
theorem witness_DecodeOrder :
    (∃ i h s w x, Executes i h s w x ∧ violation i = some .opcode) ∧
    (∃ i h s w x, Executes i h s w x ∧ violation i ≠ some .opcode ∧ privOp i = true ∧ x.priv = false) ∧
    (∃ i h s w x, Executes i h s w x ∧ violation i ≠ some .opcode ∧ (privOp i = true → x.priv = true) ∧
      (violation i = some .tag ∨ tagFault i x = true)) ∧
    (∃ i h s w x, Executes i h s w x ∧ violation i ≠ some .opcode ∧ (privOp i = true → x.priv = true) ∧ tagFault i x = true) ∧
    (∃ i h s w x, Executes i h s w x ∧ violation i ≠ some .opcode ∧ (privOp i = true → x.priv = true) ∧ violation i ≠ some .tag ∧
      tagFault i x = false ∧ (violation i ≠ none ∨ pselFault i x = true)) ∧
    (∃ i h s w x, Executes i h s w x ∧ violation i ≠ some .opcode ∧ (privOp i = true → x.priv = true) ∧ violation i ≠ some .tag ∧
      tagFault i x = false ∧ pselFault i x = true) :=
  ⟨⟨.unassignedOpcode 0, hd, st .l x0, wL, x0, ⟨rfl, rfl, rfl, .inl rfl⟩, rfl⟩,
   ⟨.eret vX, hd, st .l x0, wL, x0, ⟨rfl, rfl, rfl, .inl rfl⟩, by decide, by decide, rfl⟩,
   ⟨.cpyi { vX with role := 2, a := 6 }, ⟨2, 0, 0⟩, st .s x0, wS, x0, ⟨rfl, rfl, rfl, .inl rfl⟩, by decide, by decide, .inl (by decide)⟩,
   ⟨.qbnd { vM with data := 33 }, hd, st .l x0, wL, x0, ⟨rfl, rfl, rfl, .inl rfl⟩, by decide, by decide, by decide +kernel⟩,
   ⟨.add { vOk with a := 48 }, hd, st .l x0, wL, x0, ⟨rfl, rfl, rfl, .inl rfl⟩, by decide, by decide, by decide, by decide +kernel,
     .inl (by decide)⟩,
   ⟨.srd { vX with low := 1 <<< 41 }, hd, st .l { x0 with priv := true }, wL, { x0 with priv := true }, ⟨rfl, rfl, rfl, .inl rfl⟩,
     by decide, by decide, by decide, by decide +kernel, by decide +kernel⟩⟩

/-- The hypotheses of `Obligations.GuardAndPassing` are met, clause by clause. -/
theorem witness_GuardAndPassing :
    (∃ (i : Instr) (h : Head) (s : State) (w : Who) (x : Ctx), s.turn = .role w.c w.r ∧ s.ctx w.c = some x ∧ headOf i = some h ∧ (∀ v, i ≠ .phase v) ∧
      h.role.toNat ≠ Role.code w.r ∧ h.role ≠ 0b11#2) ∧
    (∃ (v : WordM) (s : State) (w : Who) (x : Ctx), s.turn = .role w.c w.r ∧ s.ctx w.c = some x ∧ v.role.toNat ≠ Role.code w.r ∧ v.role ≠ 0b11#2) ∧
    (∃ (s : State) (w : Who) (x : Ctx) (dest : Pos), s.ctx w.c = some x ∧ fallThrough (s.textOf x) (x.role w.r).pc = some dest ∧
      countFull (x.role w.r) (restOf 0 none (x.role w.r).pc dest false false false).enter
        (restOf 0 none (x.role w.r).pc dest false false false).exit = false ∧
      retireWait (s.core w.c.cid) (s.textOf x) x w (restOf 0 none (x.role w.r).pc dest false false false) = none) ∧
    (∃ (s : State) (w : Who) (x : Ctx) (dest : Pos) (k : Wait), s.ctx w.c = some x ∧
      fallThrough (s.textOf x) (x.role w.r).pc = some dest ∧
      countFull (x.role w.r) (restOf 0 none (x.role w.r).pc dest false false false).enter
        (restOf 0 none (x.role w.r).pc dest false false false).exit = false ∧
      retireWait (s.core w.c.cid) (s.textOf x) x w (restOf 0 none (x.role w.r).pc dest false false false) = some k) ∧
    (∃ (i : Instr) (h : Head) (b : Bool) (s : State) (w : Who) (x : Ctx) (dest : Pos), b = commitsWhole i ∧ Executes i h s w x ∧
      WellFormed i ∧ tagFault i x = false ∧
      pselFault i x = false ∧ x.harvest = false ∧ (privOp i = true → x.priv = true) ∧ guardOn (x.role w.r) h.guard = false ∧
      ((x.role w.r).popped = true ∨ ∀ q ∈ tokPops w.r h.tok, x.tok q ≠ 0) ∧ (∀ q ∈ tokPushes w.r h.tok, x.tok q.2 < 8) ∧
      Falls ⟨h.role, h.tok, h.guard, [], false, none, false, b⟩ s w x dest ∧ s.calm w.c.cid) :=
  ⟨⟨.add vOk, hd, st .s x0, wS, x0, rfl, rfl, rfl, nofun, by decide, by decide⟩,
   ⟨vM, st .s x0, wS, x0, rfl, rfl, by decide, by decide⟩,
   ⟨st .l x0, wL, x0, ⟨0, 1⟩, rfl, by decide +kernel, by decide +kernel, by decide +kernel⟩,
   ⟨sHold2, wL, x0, ⟨2, 0⟩, .section_, rfl, by decide +kernel, by decide +kernel, by decide +kernel⟩,
   ⟨.add { vOk with guard := 17 }, ⟨0, 0, 17⟩, _, st .l x0, wL, x0, ⟨0, 1⟩, rfl, ⟨rfl, rfl, rfl, .inl rfl⟩, by decide, by decide +kernel,
     by decide +kernel, rfl, by decide, by decide +kernel, .inr (by decide +kernel), by decide +kernel, falls_of (by decide +kernel), rfl⟩⟩

/-- The hypotheses of `Obligations.TrapEntry` are met, clause by clause. -/
theorem witness_TrapEntry :
    (∃ (s : State) (w : Who) (x : Ctx) (cause : Nat) (val : W64) (t : State), s.ctx w.c = some x ∧
      (s.setCtx w.c (x.entered w.r cause)).appendRec (dieOf w.c.cid) x.part (s.faultRec w x cause val) = some t) ∧
    (∃ (s : State) (w : Who) (x : Ctx) (cause : Nat) (val : W64), s.ctx w.c = some x ∧
      (s.setCtx w.c (x.entered w.r cause)).appendRec (dieOf w.c.cid) x.part (s.faultRec w x cause val) = none) ∧
    (∃ (s : State) (d p : Nat), (s.trapQ d p).tqb = 0) ∧
    (∃ (s : State) (d p : Nat), (s.trapQ d p).tqb ≠ 0 ∧ ((s.trapQ d p).full = true ∨ (s.trapQ d p).waiting ≠ [] ∨
      s.devBusy p ((s.trapQ d p).tqb + 64 * ((s.trapQ d p).tqt.toNat % 256)) = true)) ∧
    (∃ (s : State) (d p : Nat), (s.trapQ d p).tqb ≠ 0 ∧ (s.trapQ d p).waiting ≠ []) ∧
    (∃ (s : State) (d p : Nat), (s.trapQ d p).tqb ≠ 0 ∧ s.devBusy p ((s.trapQ d p).tqb + 64 * ((s.trapQ d p).tqt.toNat % 256)) = true) ∧
    (∃ (s : State) (t : TrapRec) (d p pa : Nat), (s.trapQ d p).tqb ≠ 0 ∧ (s.trapQ d p).full = false ∧ (s.trapQ d p).waiting = [] ∧
      s.devBusy p ((s.trapQ d p).tqb + 64 * ((s.trapQ d p).tqt.toNat % 256)) = false ∧
      s.xlate p ((s.trapQ d p).tqb + 64 * ((s.trapQ d p).tqt.toNat % 256)) true (t.bytes (s.trapQ d p).tqt).length = .ok pa) ∧
    (∃ (s : State) (t : TrapRec) (d p e : Nat), (s.trapQ d p).tqb ≠ 0 ∧ (s.trapQ d p).full = false ∧ (s.trapQ d p).waiting = [] ∧
      s.devBusy p ((s.trapQ d p).tqb + 64 * ((s.trapQ d p).tqt.toNat % 256)) = false ∧
      s.xlate p ((s.trapQ d p).tqb + 64 * ((s.trapQ d p).tqt.toNat % 256)) true (t.bytes (s.trapQ d p).tqt).length = .error e) ∧
    (∃ t : TrapRec, t.pcs.length = 3) ∧
    (∃ (x : Ctx) (r : Role) (t : List Section) (dest : Pos), x.late = none ∧ fallThrough t (x.role r).pc = some dest) :=
  ⟨(some_ex (o := ((sTq { tqb := 0x30000 }).setCtx c0 (x0.entered .l 1)).appendRec 0 0 ((sTq { tqb := 0x30000 }).faultRec wL x0 1 0))
      (by decide +kernel)).elim fun t h => ⟨_, wL, x0, 1, 0, t, rfl, h⟩,
   ⟨sTq {}, wL, x0, 1, 0, rfl, rfl⟩, ⟨sTq {}, 0, 0, rfl⟩,
   ⟨sTq { tqb := 0x30000, tqt := 256 }, 0, 0, by decide, .inl (by decide +kernel)⟩,
   ⟨sTq { tqb := 0x30000, waiting := [tR0] }, 0, 0, by decide, by decide⟩,
   ⟨{ sTq { tqb := 0x30000 } with ck := { held := [(0, [0])] } }, 0, 0, by decide, by decide +kernel⟩,
   ⟨sTq { tqb := 0x30000 }, tR0, 0, 0, 0x30000, by decide, by decide +kernel, rfl, by decide +kernel, ok_of (by decide +kernel)⟩,
   ⟨sTq { tqb := 0x40000000 }, tR0, 0, 0, cTranslation, by decide, by decide +kernel, rfl, by decide +kernel, err_of (by decide +kernel)⟩,
   ⟨tR0, rfl⟩, ⟨x0, .l, (st .l x0).textOf x0, ⟨0, 1⟩, rfl, by decide +kernel⟩⟩

/-- The hypotheses of `Obligations.HintRule` are met, clause by clause. -/
theorem witness_HintRule :
    (∃ w, 0x0F0 ≤ opcOf w ∧ opcOf w ≤ 0x0FF) ∧
    (∃ n v, Meets (.hint n v) ⟨v.role, v.tok, 0, [], false, none, false, true⟩ anyCtx (fun _ _ s => s)) ∧
    (∃ u v : HintWord, u ≠ v ∧ u.role = v.role ∧ u.tok = v.tok) ∧
    (∃ (n : BitVec 4) (v : HintWord) (s : State) (w : Who) (x : Ctx), s.turn = .role w.c w.r ∧ s.ctx w.c = some x ∧
      (v.role.toNat = Role.code w.r ∨ v.role = 3#2) ∧ violation (.hint n v) = some .token) :=
  ⟨⟨0xF0 <<< 80, by decide +kernel, by decide +kernel⟩, ⟨0, ⟨0, 0, 7⟩, plain .l x0⟩, ⟨⟨0, 0, 7⟩, ⟨0, 0, 8⟩, by decide, rfl, rfl⟩,
   ⟨0, ⟨0, 1, 0⟩, st .l x0, wL, x0, rfl, rfl, .inl rfl, rfl⟩⟩

def vSel : WordV := { wq2 with c := 5, type := 6 }
/-- The hypotheses of `Obligations.SelectByMask` are met, clause by clause. -/
theorem witness_SelectByMask :
    (∃ v w, encodeWord (.vsel v) = some w) ∧
    (∃ v, WellFormed (.vsel v)) ∧
    (∃ v, Meets (.vsel v) (frameV v) (vReady v 2)
      (fun w x s => vOut v 2 w x
    { lanes := laneIx.map (fun i => if bitAt (vMask w x v.lm) i then
        (if bitAt ((x.role w.r).s v.c.toNat) i then lane (vIn v 2 w x).a i else lane (vIn v 2 w x).b i) else 0)
      lfsr := x.lfsr } s)) :=
  ⟨⟨vSel, _, rfl⟩, ⟨vSel, rfl⟩, ⟨vSel, meets (st .c xq) wC xq rfl rfl (by decide +kernel) rfl⟩⟩

/-- The hypotheses of `Obligations.ReturnStack` are met, clause by clause. -/
theorem witness_ReturnStack :
    (∃ (s : State) (c : CtxId) (x : Ctx) (part a : Nat) (t : State), State.writeImage s c x part a = some t) ∧
    (∃ v, MeetsA (.call v) (frameB v) (fun w x _ => 16 ≤ (x.role w.r).ret.length)) ∧
    (∃ v, MeetsA (.ret v) (frameS v) (fun w x _ => (x.role w.r).ret = [])) ∧
    (∃ (s : State) (w : Who) (x : Ctx) (val : W64) (t : State), s.ctx w.c = some x ∧
      (s.setCtx w.c (x.entered w.r cReturn)).appendRec (dieOf w.c.cid) x.part (s.faultRec w x cReturn val) = some t) ∧
    (∃ v, MeetsJ (.call v) (frameB v) true false (fun w x _ => (x.role w.r).ret.length < 16) (fun _ _ _ => targetOf v)) :=
  ⟨sSc_keeps.image c0 xSc |>.elim fun t h => ⟨sSc, c0, xSc, 0, _, t, h⟩,
   ⟨vB, metA (st .l { x0 with rl := { ret := List.replicate 16 ⟨0, 0⟩ } }) wL { x0 with rl := { ret := List.replicate 16 ⟨0, 0⟩ } }⟩,
   ⟨vS, metA (st .l x0) wL x0⟩,
   (some_ex (o := ((sTq { tqb := 0x30000 }).setCtx c0 (x0.entered .l cReturn)).appendRec 0 0
      ((sTq { tqb := 0x30000 }).faultRec wL x0 cReturn 0)) (by decide +kernel)).elim fun t h => ⟨_, wL, x0, 0, t, rfl, h⟩,
   ⟨{ vB with tword := 3 }, metJ (st .l x0) wL x0⟩⟩

/-- The hypotheses of `Obligations.RegisterFrames` are met, for one instruction of each list. -/
theorem witness_RegisterFrames :
    (∃ (v : WordS) (s : State) (w : Who) (x : Ctx) (dest : Pos), Issues (.add v) (frameS v) s w x ∧ Falls (frameS v) s w x dest ∧
      s.calm w.c.cid) ∧
    (∃ v, Meets (.vadd v) (frameV v) (vReady v 2) (fun _ _ s => s)) ∧ (∃ v, Meets (.vsqrt v) (frameV v) (vReady v 1) (fun _ _ s => s)) ∧
    (∃ v, Meets (.vfma v) (frameV v) (vReady v 3) (fun _ _ s => s)) :=
  ⟨⟨vOk, st .l x0, wL, x0, ⟨0, 1⟩, issues_of rfl rfl (by decide +kernel), falls_of (by decide +kernel), rfl⟩,
   ⟨wq2, meets (st .c xq) wC xq rfl rfl (by decide +kernel) rfl⟩, ⟨wq1, meets (st .c xq) wC xq rfl rfl (by decide +kernel) rfl⟩,
   ⟨wq, meets (st .c xq) wC xq rfl rfl (by decide +kernel) rfl⟩⟩

/-- The hypotheses of `Obligations.RoundTrip` are met, clause by clause. -/
theorem witness_RoundTrip :
    (∃ i w, encodeWord i = some w ∧ WellFormed i) ∧
    (∃ i w, encodeSettWord i = some w ∧ ∀ x, i ≠ .settCoreInstruction x) ∧
    (∃ w : W32, field w 0 2 = 3#2 ∧ decodeSettWord w = .settCoreInstruction w) ∧
    (∃ w : W32, field w 0 2 ≠ 3#2 ∧ w.toNat < 2 ^ 16) :=
  ⟨⟨.add vOk, _, rfl, rfl⟩, ⟨.mbStat 3, _, rfl, nofun⟩, ⟨0x13, by decide, rfl⟩, ⟨0x147D, by decide, by decide⟩⟩

/-- The hypotheses of `Obligations.OneMeaningPerWord` are met, clause by clause. -/
theorem witness_OneMeaningPerWord :
    (∃ i j w, encodeWord i = some w ∧ encodeWord j = some w ∧ WellFormed i ∧ WellFormed j) ∧
    (∃ l : List Byte, l.length < 12) ∧ (∃ l : List Byte, 12 ≤ l.length) ∧
    (∃ (w : Word96) (n : Nat), opcOf w = n ∧ (0x038 ≤ n ∧ n ≤ 0x0EF)) ∧ (∃ (w : Word96) (n : Nat), opcOf w = n ∧ 0x390 ≤ n) :=
  ⟨⟨.add vOk, .add vOk, _, rfl, rfl, rfl, rfl⟩, ⟨[], by decide⟩, ⟨List.replicate 12 0, by decide⟩,
   ⟨0x38 <<< 80, _, rfl, by decide +kernel⟩, ⟨0x3FF <<< 80, _, rfl, by decide +kernel⟩⟩

/-! ## One step each, with results from the spec's own examples -/

/-- The role's scalar after an outcome. -/
def scal (o : Host.Outcome State Fault Refusal) (r : Role) (n : Nat) : W64 := ((ctxOf o).role r).s n
def flgOf (o : Host.Outcome State Fault Refusal) (r : Role) : Flags := ((ctxOf o).role r).flg
/-- L's s1 and s2, S's likewise. -/
def xR2 (a b : W64) : Ctx := { x0 with rl := { sregs := ((Vector.replicate 32 0).set 1 a).set 2 b } }

/-- R104: ADD.w.sat s4, s1, s2 of 0x7FFF_FFF0 and 0x20. -/
theorem test_add_saturates :
    let o := exec (.add ⟨0, 0, 4, 1, 2, 0, 3, 0⟩) (st .l (xR2 0x7FFFFFF0 0x20))
    scal o .l 4 = 0x7FFFFFFF ∧ flgOf o .l = fSA := by decide +kernel
/-- Without the modifier the sum wraps at 64 bits only; s0 discards it. -/
theorem test_add_plain :
    scal (exec (.add ⟨0, 0, 4, 1, 2, 0, 0, 0⟩) (st .l (xR2 0xFFFFFFFFFFFFFFFF 0x20))) .l 4 = 0x1F ∧
    scal (exec (.add ⟨0, 0, 0, 1, 2, 0, 0, 0⟩) (st .l (xR2 5 6))) .l 0 = 0 := by decide +kernel
/-- R105: LIMH s3, s3, 0xDEF0 after LIM s3, 0x1234_5678_9ABC. -/
theorem test_limh :
    scal (exec (.limh ⟨0, 0, 4, 1, 0, 0, 0, 0xDEF0⟩) (st .l (xR2 0x123456789ABC 0))) .l 4 = 0xDEF0123456789ABC := by decide +kernel
/-- R103 and R36: an instruction of another role is passed over. -/
theorem test_passed_over :
    let o := exec (.add ⟨2, 0, 4, 1, 2, 0, 0, 0⟩) (st .l (xR2 5 6))
    scal o .l 4 = 0 ∧ ((ctxOf o).role .l).pc = ⟨0, 1⟩ := by decide +kernel
/-- R89: a violated operand field stops the context with cause 0x01, here at the root of its domain (R28). -/
theorem test_illegal :
    ((next (exec (.add ⟨0, 0, 4, 48, 2, 0, 0, 0⟩) (sTq { tqb := 0x30000 }))).ctx c0).map (·.trap) =
      some (some (0, 1, ⟨0, 0⟩, false)) := by decide +kernel
/-- R60: the LFSR of lane 0 after 1 in SEED, and its first step. -/
theorem test_lfsr : lfsrSeed 1 0 = 0x9E3779B8#32 ∧ lfsrStep 0x9E3779B8#32 = 0x3C2EF377#32 := by decide
/-- The BFP4 block of the numbers chapter: 7.9, −2.5, 0.3, 1.5 under RNE. -/
theorem test_bfp4_block :
    toBlock false 4 .rne (([0x40FCCCCD, 0xC0200000, 0x3E99999A, 0x3FC00000] : List Nat).map (fun x => (fmtF32.unpack x, 0))) =
      ⟨0x81, [7, -2, 0, 2], fSA ||| fNX ||| fUF⟩ := by decide +kernel
/-- Band 0 of the matrix chapter: mantissas 7, −2, 0 and 2 against 1 (code 0b01 of BFP2), exponents 129 and 127. -/
theorem test_band_term :
    (bandTerm false (bandSum false [7] [1]) 0x81 127 4 2).bits = 0x40E00000 ∧
    (bandTerm false (bandSum false [-2] [1]) 0x81 127 4 2).bits = 0xC0000000 := by decide +kernel
/-- R91: the header of the encoding chapter, section 3 of forty instructions, where L waits for section 2. -/
theorem test_section_header :
    (parseText ([0, 0, 0, 0, 0x20, 0x30, 0x00, 0x10] ++ List.replicate 12 0 ++ [0, 0, 0, 2, 0x38, 0x80, 0x07, 0x10] ++
      List.replicate 480 0)).map (fun t => t.map (fun x => (x.kind, x.sec, x.waits.length, x.body.length))) =
      some [(1, 2, 0, 12), (1, 3, 1, 480)] := by decide +kernel
/-- R390 to R392: the walk of the test state's tables, and of an address that they leave out. -/
theorem test_walk :
    (st .l x0).walk 0 0x12345 = .ok ⟨0, 0, 0x40000000, 0, true, false⟩ ∧
    (st .l x0).walk 0 0x40000000 = .fault cTranslation ∧ (st .l x0).walk 1 0 = .fault cTranslation := by decide +kernel
/-- Queue 0 and the information window at reset read as the spec says. -/
theorem test_reset_window : State.reset.infoByte 0 = 0x01 ∧ State.reset.infoByte 2 = 0x4A ∧ (State.reset.queue 0).sts = 0 := by
  decide +kernel
/-- R353, R442: the debug mailbox writes WLIM of a running context at once where its roles stand at a boundary, and is BUSY while one is
in mid-word. -/
def mailWlim (x : Ctx) : State := State.mail { st .l x with inp := { v := 0x35, v1 := 0, v2 := 20000 } } 1
theorem test_mailbox_swr :
    ((mailWlim x0).host.dsts, ((mailWlim x0).ctx c0).map (·.wlim)) = (0, some 20000) ∧
    ((mailWlim yOff).host.dsts, ((mailWlim yOff).ctx c0).map (·.wlim)) = (1, some yOff.wlim) := by decide +kernel
/-- The first step after a word was placed runs it: here LIM s3, 7. -/
theorem test_fetch :
    scal (step (State.reset.withFetchWord 96 0x00300C000000000000000007)) .l 3 = 7 := by decide +kernel

end Sys2Proof.Tests
end

section
/-! SUPPORT and the settled obligation O50: what the state after power-on reset (R441) reads as. -/

namespace Sys2Proof.Machine

/-! ## Parts that reset does not list -/

@[simp] theorem reset_core (cid : Nat) : State.reset.core cid = {} := rfl
@[simp] theorem reset_die (d : Nat) : State.reset.die d = {} := rfl
@[simp] theorem reset_trapQ (d p : Nat) : State.reset.trapQ d p = {} := rfl
@[simp] theorem reset_queue (q : Nat) : State.reset.queue q = { q := q } := rfl
@[simp] theorem reset_settCore (d k : Nat) : State.reset.settCore d k = {} := rfl

/-- Every slot of a Sett core after reset, and every number that names none, is at its base. -/
@[simp] theorem reset_epSlot (d k e : Nat) : State.reset.epSlot d k e = {} := by
  rw [State.epSlot, reset_settCore, Sett.slot, Vector.getElem?_replicate]
  split <;> rfl

/-- Every power group after reset, and every number that names none, is at its base. -/
@[simp] theorem reset_group (g : Nat) : State.reset.group g = {} := by
  have hgroups : State.reset.power.groups = Vector.replicate 16 {} := rfl
  rw [State.group, hgroups, Vector.getElem?_replicate]
  split <;> rfl

/-! ## The information window -/

/-- While nothing is published the window has its six words only, and at reset all but the version word are 0 (R19). -/
theorem reset_infoFields : State.reset.infoFields =
    [(0x00, 8, 0x4B4A0001), (0x08, 8, 0), (0x10, 8, 0), (0x18, 8, 0), (0x20, 8, 0), (0x28, 8, 0)] := rfl

/-- A byte at or past offset 8 lies in no field or in one of value 0. -/
theorem reset_infoByte_of_ge {off : Nat} (h : 8 ≤ off) : State.reset.infoByte off = 0 := by
  unfold State.infoByte
  rw [reset_infoFields]
  split
  case h_1 a n v hfind =>
    have hmem := List.mem_of_find?_eq_some hfind
    have hin := List.find?_some hfind
    have hv : v = 0 := by
      simp at hmem hin
      omega
    simp [hv]
  case h_2 => rfl

/-- The first eight bytes are those of the version word. -/
theorem reset_infoByte_of_lt {off : Nat} (h : off < 8) :
    State.reset.infoByte off = (bytesN 0x4B4A0001 8).getD off 0 := by
  have hall : ∀ o < 8, State.reset.infoByte o = (bytesN 0x4B4A0001 8).getD o 0 := by decide
  exact hall off h

theorem reset_infoByte (off : Nat) :
    State.reset.infoByte off = if off < 8 then (bytesN 0x4B4A0001 8).getD off 0 else 0 := by
  split
  · exact reset_infoByte_of_lt ‹_›
  · exact reset_infoByte_of_ge (by omega)

/-! ## The invariant -/

/-- The reset column of the power table lies in its ranges (R424). -/
theorem reset_power_inRange : State.reset.power.inRange = true := by decide

/-- The invariant that every step keeps holds at reset: the memory is empty, the power table has its reset column, and
residue checking and scrubbing are on. -/
theorem reset_satisfies_governed : State.reset.Governed :=
  ⟨reset_hbm_wf, reset_power_inRange, fun hoff => absurd hoff Bool.false_ne_true⟩

end Sys2Proof.Machine

namespace Sys2Proof.Proofs

open Sys2Proof.Machine

/-- Settles O50: a part that reset does not list reads as the defaults of its structure; the window's bytes and the
invariant have lemmas of their own. -/
theorem resetValues : Obligations.ResetValues := by
  unfold Obligations.ResetValues
  refine ⟨reset_satisfies_governed, rfl, rfl, rfl, reset_infoByte, fun q => ?queue, rfl, rfl, rfl, rfl, rfl, rfl, rfl, rfl, rfl,
    fun g _ => ?group, fun cid => ?core, fun d p => ?die, fun d k e => ?slot, rfl, rfl, rfl, rfl, rfl, rfl, rfl, rfl, rfl, rfl⟩
  case queue => simp
  case group => simp
  case core => simp
  case die => simp
  case slot => simp

end Sys2Proof.Proofs
end

section
/-! SUPPORT and the settled obligation O54: every instruction of the Vartar map goes through one wrapper, with a frame that its word
and its opcode determine; what the wrapper makes of a foreign tag and of a false guard. -/

namespace Sys2Proof.Machine

/-! ## The frame and the effect of a word -/

/-- The head of a word: its tag, its token bits and its guard (R76, R80). -/
def wordHead (w : Word96) : Head := ⟨field w 94 2, field w 90 4, field w 57 5⟩

theorem wordHead_putS (o : BitVec 10) (v : WordS) : wordHead (putS o v) = ⟨v.role, v.tok, v.guard⟩ :=
  congrArg (fun u : WordS => (⟨u.role, u.tok, u.guard⟩ : Head)) (getS_putS o v).1

theorem wordHead_putB (o : BitVec 10) (v : WordB) : wordHead (putB o v) = ⟨v.role, v.tok, v.guard⟩ :=
  congrArg (fun u : WordB => (⟨u.role, u.tok, u.guard⟩ : Head)) (getB_putB o v).1

theorem wordHead_putV (o : BitVec 10) (v : WordV) : wordHead (putV o v) = ⟨v.role, v.tok, v.guard⟩ :=
  congrArg (fun u : WordV => (⟨u.role, u.tok, u.guard⟩ : Head)) (getV_putV o v).1

theorem wordHead_putM (o : BitVec 10) (v : WordM) : wordHead (putM o v) = ⟨v.role, v.tok, v.guard⟩ :=
  congrArg (fun u : WordM => (⟨u.role, u.tok, u.guard⟩ : Head)) (getM_putM o v).1

theorem wordHead_putX (o : BitVec 10) (v : WordX) : wordHead (putX o v) = ⟨v.role, v.tok, v.guard⟩ :=
  congrArg (fun u : WordX => (⟨u.role, u.tok, u.guard⟩ : Head)) (getX_putX o v).1

/-- The head that a frame hands to the wrapper. -/
def Frame.head (f : Frame) : Head := ⟨f.role, f.tok, f.guard⟩

/-- The opcodes of `privOp` and of `commitsWhole` (R87). -/
def opcPriv (o : Nat) : Bool := decide (0x380 ≤ o) && decide (o ≤ 0x38F)
def opcWhole (o : Nat) : Bool := decide (o < 0x200) || o == 0x223 || o == 0x224

theorem privOp_eq {i : Instr} {w : Word96} (h : encodeWord i = some w) : privOp i = opcPriv (opcOf w) := by
  simp only [privOp, h, opcPriv]

theorem commitsWhole_eq {i : Instr} {w : Word96} (h : encodeWord i = some w) : commitsWhole i = opcWhole (opcOf w) := by
  simp only [commitsWhole, h, opcWhole]

/-- The wrapper of Machine/Operands.lean executes `i` with the frame `f` and the effect `e`, and the frame says of the word what its
head and its opcode say. Of a word with an unassigned opcode only the tag and the token bits count, as its first decode check
fails. -/
structure WrappedAs (i : Instr) (h : Head) (f : Frame) (e : Effect) : Prop where
  exec : ∀ s, exec i s = runWord i f e s
  role : f.role = h.role
  tok : f.tok = h.tok
  phase : f.phase = true → ∃ v, i = .phase v
  guard : violation i ≠ some .opcode → f.guard = h.guard
  priv : violation i ≠ some .opcode → f.priv = privOp i
  whole : violation i ≠ some .opcode → f.whole = commitsWhole i
  guardOk : violation i = none → guardOk f.role f.guard = true

/-- Some frame and some effect do so. -/
def Wrapped (i : Instr) : Prop := ∀ h, headOf i = some h → ∃ f e, WrappedAs i h f e

/-- A word that fails no check keeps the guard's own rule, which is one of those common to every format. -/
theorem guardOk_of_firstBad {t : Tags} {role : BitVec 2} {tok : BitVec 4} {g : BitVec 5} {l : List (Bool × Violation)}
    (h : firstBad (commonChecks t role tok g ++ l) = none) : guardOk role g = true := by
  cases hg : guardOk role g with
  | true => rfl
  | false =>
    simp only [commonChecks, List.cons_append, firstBad, hg, Bool.false_eq_true, if_false] at h
    split at h
    · split at h
      · cases h
      · cases h
    · cases h

/-- An instruction in one of the five formats: everything that `WrappedAs` asks is read off its word, its arm of `exec` and its
checks. -/
theorem Wrapped.of_word {i : Instr} {w : Word96} {o : BitVec 10} {f : Frame} {e : Effect} (hw : encodeWord i = some w)
    (hh : headOf i = some (wordHead w)) (he : ∀ s, Machine.exec i s = runWord i f e s) (hf : wordHead w = f.head)
    (ho : opcOf w = o.toNat) (hp : f.priv = opcPriv o.toNat) (hc : f.whole = opcWhole o.toNat)
    (hph : f.phase = true → ∃ v, i = .phase v)
    (hv : ∃ t l, violation i = firstBad (commonChecks t f.role f.tok f.guard ++ l)) : Wrapped i := by
  intro h hi
  obtain rfl : f.head = h := Option.some.inj (hf ▸ hh ▸ hi)
  obtain ⟨t, l, hv⟩ := hv
  exact ⟨f, e, {
    exec := he, role := rfl, tok := rfl, phase := hph
    guard := fun _ => rfl
    priv := fun _ => by rw [hp, privOp_eq hw, ho]
    whole := fun _ => by rw [hc, commitsWhole_eq hw, ho]
    guardOk := fun h => guardOk_of_firstBad (hv ▸ h) }⟩

/-- A hint has no guard, and is of class 00 (R90). -/
theorem wrapped_hint (n : BitVec 4) (v : HintWord) : Wrapped (.hint n v) := by
  intro h hi
  obtain rfl := Option.some.inj hi
  have hn : n.toNat < 16 := n.isLt
  have ho : opcOf (putHint n v) = 0xF0 + n.toNat := opcOf_putHint n v
  have hlow : ¬ 0x380 ≤ 0xF0 + n.toNat := by omega
  have hclass : 0xF0 + n.toNat < 0x200 := by omega
  have hp : privOp (.hint n v) = false := by
    rw [privOp_eq rfl, ho]
    simp only [opcPriv, hlow, decide_false, Bool.false_and]
  have hc : commitsWhole (.hint n v) = true := by
    rw [commitsWhole_eq rfl, ho]
    simp only [opcWhole, hclass, decide_true, Bool.true_or]
  have hg : guardOk v.role 0 = true := rfl
  exact ⟨_, _, {
    exec := fun _ => rfl, role := rfl, tok := rfl, phase := nofun
    guard := fun _ => rfl, priv := fun _ => hp.symm, whole := fun _ => hc.symm, guardOk := fun _ => hg }⟩

theorem wrapped_unassignedOpcode (w : Word96) : Wrapped (.unassignedOpcode w) := by
  intro h hi
  obtain rfl := Option.some.inj hi
  exact ⟨_, _, {
    exec := fun _ => rfl, role := rfl, tok := rfl, phase := nofun
    guard := fun h => absurd rfl h, priv := fun h => absurd rfl h, whole := fun h => absurd rfl h, guardOk := nofun }⟩

/-- Every instruction of the Vartar map goes through the wrapper, with its own head and the class of its opcode; the Sett rows and the
device rows have no head. -/
theorem wrapped (i : Instr) : Wrapped i := by
  cases i with
  | nop v | halt v | qpt v | ret v | bqs v | bqr v | waitc v | yld v | trap v | bkpt v | ldp v | add v | sub v | mul v
  | mulh v | mulhn v | div v | divn v | rem v | remn v | and v | or v | xor v | andn v | orn v | shl v | shr v | sra v
  | rotl v | min v | max v | minn v | maxn v | clz v | ctz v | popc v | brev v | bswap v | sext v | zext v | bfx v | bfi v
  | sel v | lim v | limh v | lea v | cmp v | plog v | pmov v | mfs v | mts v =>
    exact .of_word rfl rfl (fun _ => rfl) (wordHead_putS _ v) (getS_putS _ v).2 rfl rfl nofun ⟨_, _, rfl⟩
  | br v | brp v | call v | loop v | next v =>
    exact .of_word rfl rfl (fun _ => rfl) (wordHead_putB _ v) (getB_putB _ v).2 rfl rfl nofun ⟨_, _, rfl⟩
  | vadd v | vsub v | vmul v | vfma v | vfms v | vfnma v | vmin v | vmax v | vabs v | vneg v | vdiv v | vsqrt v | vrcp v
  | vrsq v | vexp2 v | vlog2 v | viadd v | visub v | vimul v | vimad v | vimulh v | vsadd v | vssub v | vimin v | vimax v
  | viabs v | vshl v | vshr v | vsra v | vand v | vor v | vxor v | vpopc v | vclz v | vcmp v | vicmp v | vsel v | vcvt v
  | vpack v | vunpk v | vqbfp v | vdqbfp v | vmov v | vins v | vext v | vperm v | vrot v | vcmpr v | vexpd v | vred v
  | vscan v | varg v =>
    exact .of_word rfl rfl (fun _ => rfl) (wordHead_putV _ v) (getV_putV _ v).2 rfl rfl nofun ⟨_, _, rfl⟩
  | ldl v | stl v | ldlx v | stlx v | ldk v | stk v | ldg v | stg v | pfg v | ldf v | stf v | ldo v | sto v | oseq v | owt v
  | ldh v | sth v | atl v | atk v | atg v | atf v | fence v | cbini v | cbclm v | cbpub v | cbtak v | cbrel v | dqini v
  | dqpsh v | dqpop v | dqstl v | bara v | barw v | bar v | bidb v | bida v | qcnt v | qclr v | qbnd v | tktry v | wlapp v
  | wltak v | wlidl v | trmw v =>
    exact .of_word rfl rfl (fun _ => rfl) (wordHead_putM _ v) (getM_putM _ v).2 rfl rfl nofun ⟨_, _, rfl⟩
  | lease v | ulease v | wload v | wswp v | ashp v | mma v | mmaz v | mmai v | epi v | epicf v | zrd v | zwr v | zclr v
  | cpyi v | cpyo v | gthi v | scto v | echk v | cvwt v | cvts v | cvcl v | cvinf v | cvtim v | mbsnd v | mbrcv v | mbsta v
  | srd v | swr v | eret v | invl v | inva v | stbw v | stbr v | ctxsv v | ctxld v | park v | unpark v | retire v | dbgh v
  | idle v | ckpt v | spare v =>
    exact .of_word rfl rfl (fun _ => rfl) (wordHead_putX _ v) (getX_putX _ v).2 rfl rfl nofun ⟨_, _, rfl⟩
  | phase v =>
    exact .of_word rfl rfl (fun _ => rfl) (wordHead_putM _ v) (getM_putM _ v).2 rfl rfl (fun _ => ⟨v, rfl⟩) ⟨_, _, rfl⟩
  | hint n v => exact wrapped_hint n v
  | unassignedOpcode w => exact wrapped_unassignedOpcode w
  | _ => exact nofun

/-! ## Passing over a word (R36) and a guarded-off word (R80) -/

variable {i : Instr} {f : Frame} {e : Effect} {s : State} {w : Who} {x : Ctx} {dest : Pos}

/-- A word that is neither the role's own nor A-tagged is passed over, or waited at where it is a PHASE. -/
theorem runWord_foreign (ht : s.turn = .role w.c w.r) (hx : s.ctx w.c = some x) (hr : f.role.toNat ≠ Role.code w.r)
    (ha : f.role ≠ 0b11#2) : runWord i f e s =
      .next (if f.phase then s.waitOn w .meet else retireNext s s w (s.textOf x) (x.role w.r) 0 none false (some s)) := by
  have hf : f.role.toNat ≠ Role.code w.r ∧ (!(f.role == 0b11#2)) = true := ⟨hr, by simpa using ha⟩
  simp only [runWord, ht, hx, runRole]
  rw [if_pos hf]

/-- Falling through with no section count full comes down to what retirement waits for. -/
theorem retireNext_falls {s0 s1 : State} {t : List Section} {r : RoleSt} {push : BitVec 4} {flight : Option Nat} {a : Bool}
    {sp : Option State} (hd : fallThrough t r.pc = some dest)
    (hc : countFull r (restOf push flight r.pc dest false false a).enter (restOf push flight r.pc dest false false a).exit = false) :
    retireNext s0 s1 w t r push flight a sp = s1.retireAs w t (restOf push flight r.pc dest false false a) sp := by
  simp [retireNext, hd, hc]

theorem retireAs_free {s1 p : State} {t : List Section} {r : Rest} (hx : p.ctx w.c = some x)
    (hr : retireWait (p.core w.c.cid) t x w r = none) : s1.retireAs w t r (some p) = s1.retire w r := by
  simp [State.retireAs, hx, hr]

theorem retireAs_waits {s1 p : State} {t : List Section} {r : Rest} {k : Wait} (hx : p.ctx w.c = some x)
    (hr : retireWait (p.core w.c.cid) t x w r = some k) : s1.retireAs w t r (some p) = p.waitOn w k := by
  simp [State.retireAs, hx, hr]

/-- What `Kept` says of the fields that a passed or guarded-off word must leave. -/
theorem Ctx.Kept.leaves {y x : Ctx} {r : Role} (h : y.Kept x r) (d : BitVec 6) (codes : List (BitVec 6)) :
    Leaves y x r d codes ∧ y.qs = x.qs ∧ y.lfsr = x.lfsr ∧ y.nextId = x.nextId ∧ (y.role r).flg = (x.role r).flg := by
  obtain ⟨heq, ⟨hs, hp, hl, hret, hflg, hh, ha, hdb⟩⟩ := h
  have hq : y.qs = x.qs := by rw [heq]; cases r <;> rfl
  have hlf : y.lfsr = x.lfsr := by rw [heq]; cases r <;> rfl
  have hn : y.nextId = x.nextId := by rw [heq]; cases r <;> rfl
  refine ⟨?_, hq, hlf, hn, hflg⟩
  exact {
    ctx := by rw [hq, hlf, hn]; exact heq.trans (by cases r <;> rfl)
    scalars := fun n _ _ => by simp only [RoleSt.s, hs]
    preds := fun n _ _ => by simp only [RoleSt.p, hp]
    loops := hl
    ret := hret
    flags := by rw [hflg, BitVec.and_self]
    qregs := fun q _ _ => by simp only [Ctx.q, hq]
    stands := ⟨hh, ha, hdb⟩ }

/-- What a frame's pops leave depends on its token bits alone. -/
theorem popped_of_tok {g : Frame} (h : f.tok = g.tok) : s.popped f w x = s.popped g w x := by
  simp only [State.popped, Frame.popped, h]

/-- An acquire at core scope applies no invalidation. -/
theorem popped_calm (h : s.calm w.c.cid) : (s.popped f w x).calm w.c.cid := by
  unfold State.popped State.calm at *
  split
  · exact h
  · split
    · exact h
    · rw [State.acquire_core, State.core_modCore]; exact h

/-- A word whose guard is false makes its pops, then falls through with its pushes: neither its operands nor its effect count. -/
theorem runWord_guarded_off (ht : s.turn = .role w.c w.r) (hx : s.ctx w.c = some x) (hr : f.role.toNat = Role.code w.r)
    (ha : f.role ≠ 0b11#2) (hl : decodeFault i f.priv f.codes x = none) (hg : guardOn (x.role w.r) f.guard = false)
    (hp : (x.role w.r).popped = true ∨ ∀ q ∈ tokPops w.r f.tok, x.tok q ≠ 0) (hc : s.calm w.c.cid) :
    runWord i f e s = .next (retireNext s (s.popped f w x) w (s.textOf x) (x.role w.r) f.tok none false
      (if f.whole then some (s.popped f w x) else none)) := by
  have hA : (f.role == 0b11#2) = false := by simpa using ha
  have hm : (!(x.role w.r).popped && (tokPops w.r f.tok).any (fun q => x.tok q == 0)) = false := by
    rcases hp with hp | hp
    · simp [hp]
    · simp only [Bool.and_eq_false_iff]; exact .inr (by simpa using hp)
  have hcalm : ((s.popped f w x).core w.c.cid).applying = false := popped_calm hc
  simp [runWord, ht, hx, runRole, hr, hA, hl, hg, hm, runTail, hcalm]

/-- A sound word whose guard is false carries no A tag (R80). -/
theorem not_aTag_of_guard_off {r : RoleSt} {role : BitVec 2} {g : BitVec 5} (hk : guardOk role g = true)
    (hg : guardOn r g = false) : role ≠ 0b11#2 := by
  rintro rfl
  cases hb : bitAt g 4 with
  | false =>
    have hon : guardOn r g = true := by simp only [guardOn, hb, Bool.not_false, Bool.true_or]
    exact nomatch hon.symm.trans hg
  | true =>
    have hno : guardOk 0b11#2 g = false := by simp only [guardOk, hb, if_true, bne_self_eq_false]
    exact nomatch hno.symm.trans hk

/-- A sound word passes every check of R89 that needs the context, where no operand code is barred. -/
theorem decodeFault_none {priv : Bool} {codes : List (BitVec 6)} (hv : WellFormed i) (hp : priv = true → x.priv = true)
    (ht : tagFault i x = false) (hs : pselFault i x = false) (hh : x.harvest = false) : decodeFault i priv codes x = none := by
  have hv : violation i = none := hv
  simpa [decodeFault, hv, ht, hs, hh] using hp

/-- Falling through changes the role's own context, and of it the role's bookkeeping only. -/
theorem retire_leaves {s1 : State} {y : Ctx} (t : Rest) (hy : s1.ctx w.c = some y) (hk : y.Kept x w.r) :
    ∃ z, s1.retire w t = s1.setCtx w.c z ∧ Leaves z x w.r 0 [] ∧ z.qs = x.qs ∧ z.lfsr = x.lfsr ∧ z.nextId = x.nextId ∧
      (z.role w.r).flg = (x.role w.r).flg := by
  obtain ⟨z, hz, kz⟩ := retire_kept s1 w y t hy
  exact ⟨z, hz, (kz.trans hk).leaves 0 []⟩

/-- The frame that `Obligations.GuardAndPassing` gives a guarded-off word: its head, and whether it commits in one step. -/
def guardedFrame (h : Head) (whole : Bool) : Frame := ⟨h.role, h.tok, h.guard, [], false, none, false, whole⟩

/-- A guarded-off word of an instruction of the map goes on after its pops. -/
theorem exec_guarded_off {h : Head} (hx : Executes i h s w x) (hv : WellFormed i) (htag : tagFault i x = false)
    (hsel : pselFault i x = false) (hh : x.harvest = false) (hp : privOp i = true → x.priv = true)
    (hg : guardOn (x.role w.r) h.guard = false)
    (hpop : (x.role w.r).popped = true ∨ ∀ q ∈ tokPops w.r h.tok, x.tok q ≠ 0)
    (hf : Falls (guardedFrame h (commitsWhole i)) s w x dest) (hc : s.calm w.c.cid) :
    exec i s = .next ((s.popped (guardedFrame h (commitsWhole i)) w x).retire w
      (restOf h.tok none (x.role w.r).pc dest false false false)) := by
  obtain ⟨f, e, hw⟩ := wrapped i h hx.head
  have hop : violation i ≠ some .opcode := by rw [show violation i = none from hv]; nofun
  have hguard := hw.guard hop
  have hA : f.role ≠ 0b11#2 := not_aTag_of_guard_off (hw.guardOk hv) (hguard ▸ hg)
  have hisA : (guardedFrame h (commitsWhole i)).isA = false := by
    simpa [guardedFrame, Frame.isA, hw.role] using hA
  have hown : f.role.toNat = Role.code w.r := hx.own.elim (hw.role ▸ ·) (fun h3 => absurd (hw.role.trans h3) hA)
  have hpopped : s.popped f w x = s.popped (guardedFrame h (commitsWhole i)) w x := popped_of_tok hw.tok
  rw [hw.exec, runWord_guarded_off hx.turn hx.ctx hown hA
    (decodeFault_none hv (fun h => hp (hw.priv hop ▸ h)) htag hsel hh) (hguard ▸ hg) (hw.tok ▸ hpop) hc,
    hw.tok, hpopped, hw.whole hop]
  obtain ⟨hnext, hroom, hcount⟩ := hf
  rw [hisA] at hroom hcount
  exact congrArg _ ((retireNext_falls hnext hcount).trans (retireAs_eq hx.ctx hroom))

end Sys2Proof.Machine

namespace Sys2Proof.Proofs

open Sys2Proof.Machine

/-- Settles O54: every instruction of the map goes through the one wrapper, whose two branches for a foreign tag and for a false guard
end in the retirement that changes the role's bookkeeping only. -/
theorem guardAndPassing : Obligations.GuardAndPassing := by
  unfold Obligations.GuardAndPassing
  refine ⟨?foreign, ?phase, ?passes, ?waits, ?guarded⟩
  case foreign =>
    intro i h s w x ht hx hh hphase hr ha
    obtain ⟨f, e, hw⟩ := wrapped i h hh
    have hp : f.phase = false := by
      cases hp : f.phase with
      | false => rfl
      | true =>
        obtain ⟨v, hv⟩ := hw.phase hp
        exact absurd hv (hphase v)
    rw [hw.exec, runWord_foreign ht hx (hw.role ▸ hr) (hw.role ▸ ha), hp]
    rfl
  case phase =>
    intro v s w x ht hx hr ha
    exact runWord_foreign (f := { role := v.role, tok := v.tok, guard := v.guard, codes := [], phase := true }) ht hx hr ha
  case passes =>
    intro s w x dest hx hd hc hr
    rw [retireNext_falls hd hc, retireAs_free hx hr]
    exact retire_leaves _ hx (Ctx.Kept.refl x w.r)
  case waits =>
    intro s w x dest k hx hd hc hr
    rw [retireNext_falls hd hc, retireAs_waits hx hr]
  case guarded =>
    rintro i h b s w x dest rfl hx hv htag hsel hh hp hg hpop - hf hc
    obtain ⟨y, hy⟩ := retire_leaves (restOf h.tok none (x.role w.r).pc dest false false false)
      (popped_ctx (guardedFrame h (commitsWhole i)) s w x hx.ctx) (popped_kept (guardedFrame h (commitsWhole i)) w x)
    exact ⟨y, exec_guarded_off hx hv htag hsel hh hp hg hpop hf hc, hy⟩

end Sys2Proof.Proofs

end

section
/-! SUPPORT and the settled obligation O52: how a step begins, and what the agent that moves in it does. -/

namespace Sys2Proof.Machine

/-! ## How a step begins (log 1) -/

section

variable {s : State} {m : Move} {l : List Move} {n : Nat} {i : Instr} {p : Input}

theorem nextMove_of_agenda (h : s.agenda = m :: l) : s.nextMove = (m, l) := by simp [State.nextMove, h]

/-- With nothing that comes by itself, the agenda's first move is made. -/
theorem begin_move (h : s.agenda = m :: l) (hd : s.due (s.cyclesOf m) = none) :
    s.begin.agenda = l ∧ s.begin.turn = m.agent ∧ s.begin.cycles = s.cycles + s.cyclesOf m := by
  simp only [State.begin, nextMove_of_agenda h, hd]
  cases m.agent with
  | role c r => exact ⟨rfl, rfl, s.elapse_cycles _⟩
  | sett d k => exact ⟨rfl, rfl, s.elapse_cycles _⟩
  | event i p => exact ⟨rfl, rfl, s.elapse_cycles _⟩

/-- What comes by itself first leaves the move with the cycles that are left. -/
theorem begin_due (h : s.agenda = m :: l) (hd : s.due (s.cyclesOf m) = some (n, i, p)) :
    s.begin.agenda = ⟨s.cyclesOf m - n, m.agent⟩ :: l ∧ s.begin.turn = .event i p ∧ s.begin.inp = p ∧
      s.begin.cycles = s.cycles + n := by
  simp [State.begin, nextMove_of_agenda h, hd]

/-- A move takes the cycles that the agenda names, but where an earlier move of the same cycle puts it in the next. -/
theorem cyclesOf_eq (h : m.cycles ≠ 0 ∨ s.ranks = []) : s.cyclesOf m = m.cycles := by
  unfold State.cyclesOf
  rw [if_neg]
  rintro ⟨h0, hr⟩
  rcases h with h | h
  · exact h h0
  · simp [h] at hr

end

/-! ## What moves in a step (R36) -/

section

variable {s : State} {w : Who}

theorem step_role {c : CtxId} {r : Role} (h : s.begin.turn = .role c r) : step s = stepRole ⟨c, r⟩ s.begin := by
  simp [step, h]

theorem step_sett {d k : Nat} (h : s.begin.turn = .sett d k) : step s = stepSett d k s.begin := by simp [step, h]

theorem step_event {i : Instr} {p : Input} (h : s.begin.turn = .event i p) : step s = exec i s.begin := by simp [step, h]

theorem stepRole_issues (h : s.canIssue w = true) : stepRole w s = runRoleAt w s := by simp [stepRole, h]

theorem stepRole_stands (h : s.canIssue w = false) : stepRole w s = .next (s.furtherFault w (fun u =>
    match runRoleAt w u with
    | .next t => t
    | _ => u)) :=
  if_pos (by simp [h])

/-- Without a stop of the context in this cycle there is no further fault (log 16). -/
theorem furtherFault_without_stop {run : State → State} (h : ∀ e ∈ s.stops, e.c ≠ w.c) : s.furtherFault w run = s := by
  have hf : s.stops.find? (fun e => e.c == w.c) = none := by simpa using h
  simp [State.furtherFault, hf]

theorem runRoleAt_rest (h : s.hasRest w = true) : runRoleAt w s = .next (s.finishRest w) := by simp [runRoleAt, h]

theorem runRoleAt_bad (hr : s.hasRest w = false) (hb : s.fetchBad w = true) :
    runRoleAt w s = .next (s.raise w cMemory 0) := by simp [runRoleAt, hr, hb]

theorem runRoleAt_decoded {i : Instr} {rest : List Byte} (hr : s.hasRest w = false) (hb : s.fetchBad w = false)
    (hd : decode (s.wordAt w) = .ok (i, rest)) : runRoleAt w s = exec i s := by simp [runRoleAt, hr, hb, hd]

theorem runRoleAt_fell {e : DecodeError} {x : Ctx} (hr : s.hasRest w = false) (hb : s.fetchBad w = false)
    (hd : decode (s.wordAt w) = .error e) (hx : s.ctx w.c = some x) : runRoleAt w s =
      .next (s.deliverAt w.c (Role.code w.r) cPoolExec 0 0 false (some (fellFrom (s.textOf x) (x.role w.r).pc))) := by
  simp [runRoleAt, hr, hb, hd, hx]

theorem stepSett_decoded {d k : Nat} {l rest : List Byte} {i : Instr} (hf : (s.settBegin d k).settFetch d k = .ok l)
    (hd : decodeSett l = .ok (i, rest)) : stepSett d k s = exec i (s.settBegin d k) := by simp [stepSett, hf, hd]

theorem wordAt_eq {x : Ctx} {sec : Section} (hx : s.ctx w.c = some x)
    (hs : sectionOf (s.textOf x) (x.role w.r).pc.sec = some sec) :
    s.wordAt w = (sec.body.drop (12 * (x.role w.r).pc.word)).take 12 := by
  simp [State.wordAt, fetchBytes, hx, hs]

end

end Sys2Proof.Machine

namespace Sys2Proof.Proofs

open Sys2Proof.Machine

/-- Settles O52: each clause is one case of how the step begins, or of what the agent that moves then does. -/
theorem stepRunsDecoded : Obligations.StepRunsDecoded := by
  unfold Obligations.StepRunsDecoded
  refine ⟨?decoded, ?bad, ?fell, ?stands, ?further, ?rest, ?sett, ?event, ?move, ?due, ?word⟩
  case decoded =>
    intro s c r i rest ht hi hr hb hd
    rw [step_role ht, stepRole_issues hi, runRoleAt_decoded hr hb hd]
  case bad =>
    intro s c r ht hi hr hb
    rw [step_role ht, stepRole_issues hi, runRoleAt_bad hr hb]
  case fell =>
    intro s c r e x ht hi hr hb hd hx
    rw [step_role ht, stepRole_issues hi, runRoleAt_fell hr hb hd hx]
  case stands =>
    intro s c r ht hi hstop
    rw [step_role ht, stepRole_stands hi, furtherFault_without_stop hstop]
  case further =>
    intro s c r ht hi
    exact (step_role ht).trans (stepRole_stands hi)
  case rest =>
    intro s c r ht hi hr
    rw [step_role ht, stepRole_issues hi, runRoleAt_rest hr]
  case sett =>
    rintro s u d k l i rest ht rfl hf hd
    rw [step_sett ht, stepSett_decoded hf hd]
  case event => exact fun s i p ht => step_event ht
  case move =>
    intro s m l ha hd
    obtain ⟨hagenda, hturn, hcycles⟩ := begin_move ha hd
    exact ⟨hagenda, hturn, hcycles, cyclesOf_eq⟩
  case due => exact fun s m l n i p ha hd => begin_due ha hd
  case word => exact fun s w x sec hx hs => wordAt_eq hx hs

end Sys2Proof.Proofs

end

section
/-! SUPPORT and the settled obligation O40: what each row of the schedulers does once its guards hold. -/

namespace Sys2Proof.Machine

section

variable {s : State} {k : Kernel} {x : Ctx}

/-! ## Admission and staging (R376, R382, R383) -/

/-- Die `d` leads queue `q`, which is in service and holds an entry. -/
structure Leads (u : State) (q : LQueue) (d : Nat) : Prop where
  leader : q.leader = some d
  qualifies : u.qualifies q d = true
  serves : q.sts = 1 ∨ q.sts = 3
  entry : q.head ≠ q.tail
  on : u.queuesOff = false

/-- The leader of a queue in service takes the entry at HEAD, and passes it once its tree has been judged. -/
theorem execAdmission_judged {u t : State} {q : LQueue} {d : Nat} {b : List Byte} (hu : u = s.withGoltik)
    (hq : q = u.queue u.inp.q) (hl : Leads u q d)
    (hb : u.readV q.part (q.base + 8 * (q.head.toNat % q.size)) 8 = some b)
    (ht : u.admitTree q (natOfBytes b) (q.appenders.find? (fun a => a.idx == q.head.toNat)) u.inp.flag
      ((List.range (u.inp.data.length / 2)).map (fun i => numAt u.inp.data (2 * i) 2)) = some t) :
    execAdmission s = .next (t.passEntry q) := by
  obtain ⟨hlead, hqual, hsts, hentry, hon⟩ := hl
  have hserves : (q.sts == 1 || q.sts == 3) = true := by simpa using hsts
  subst hu
  simp only [execAdmission, ← hq, hlead, hqual, hserves, hentry, hon, hb, ht, Bool.not_true, Bool.false_eq_true, or_self, if_false]

/-- Entry `t` of the staging list of kernel `k`, for the context `c`, may be transferred: it stands on the board (log 11), the entries before
it for the same core are done, and its core has room. -/
structure StagingReady (s : State) (k : Kernel) (t : Staging) (c : CtxId) : Prop where
  pending : k.pending = true
  todo : t.done = false
  place : s.stagingPlace k s.inp.id c < 64
  before : ∀ e ∈ k.staging.take s.inp.id, e.gidx = t.gidx → e.done = true
  serves : s.dieServes c = true
  room : s.canReserve k c.cid = true
  chosen : s.chosen k = true

/-- A staging entry whose turn it is runs one move of its command; a finished one is done. -/
theorem execStagingTransfer_moves {t : Staging} {c : CtxId} {y : Ctx} {r : State} {e : ECmd} {l : List ECmd}
    (hk : s.kernel s.inp.k = some k) (ht : k.staging[s.inp.id]? = some t) (hc : k.grant[t.gidx]? = some c)
    (hx : k.prep[t.gidx]? = some x) (hr : StagingReady s k t c)
    (hst : s.stage k c (if x.loadQ.isEmpty then { x with loadQ := [{ acc := s.inp.id, off := 0, bytes := t.bytes, begun := true }] }
      else x) s.inp.no s.inp.data = (y, r)) (hy : y.loadQ = e :: l) (he : e.fcode = 0) :
    execStagingTransfer s = .next (r.modKernel k.id (fun j => { j with
      state := .staging
      prep := j.prep.set t.gidx (if e.finished then { y with loadQ := [] } else y)
      staging := if e.finished then j.staging.set s.inp.id { t with done := true } else j.staging })) := by
  obtain ⟨hpending, htodo, hplace, hbefore, hserves, hroom, hchosen⟩ := hr
  have hb : ((k.staging.take s.inp.id).filter (fun e => e.gidx == t.gidx)).all (·.done) = true := by
    refine List.all_eq_true.mpr fun e he => ?_
    obtain ⟨hmem, hg⟩ := List.mem_filter.mp he
    exact hbefore e hmem (by simpa using hg)
  simp only [execStagingTransfer, hk, ht, hc, hx]
  rw [if_neg (by simp [hpending, htodo, Nat.not_le.mpr hplace, hb, hserves, hroom, hchosen])]
  simp only [hst, hy, he, ne_eq, not_true, if_false]

/-! ## Issue, aging and pre-emption (R383 to R385) -/

theorem execKernelIssue_starts (hk : s.kernel s.inp.k = some k) (hi : s.issuable k = true) (hch : s.chosen k = true) :
    execKernelIssue s = .next (s.issue k) := by
  simp [execKernelIssue, hk, hi, hch]

/-- A running kernel is not issued again. -/
theorem not_issuable_of_running (h : k.state = .running) : s.issuable k = false := by simp [State.issuable, Kernel.pending, h]

/-- A pre-empted kernel goes on, whole, once no pending kernel that shares a core with it outranks it. -/
theorem execKernelIssue_resumes (hk : s.kernel s.inp.k = some k) (hr : k.state = .running)
    (hpre : ∃ c ∈ k.grant, ∃ x, s.member k c = some x ∧ x.preempted = true) (hmay : ∀ c ∈ k.grant, s.mayResume k c = true)
    (hrank : ∀ j ∈ s.kernels, j.pending = true → (∃ c ∈ j.grant, c ∈ k.grant) → j.aged = false ∧ j.prio ≤ k.prio) :
    execKernelIssue s = .next (k.grant.foldl (fun (s : State) c => s.resumeMember k c) s) := by
  have hany : k.grant.any (fun c => (s.member k c).any Ctx.preempted) = true := by
    obtain ⟨c, hc, x, hx, hp⟩ := hpre
    exact List.any_eq_true.mpr ⟨c, hc, by simp [hx, hp]⟩
  have hall : s.kernels.all (fun j => !j.pending || !j.grant.any k.grant.contains || (!j.aged && decide (j.prio ≤ k.prio))) = true := by
    refine List.all_eq_true.mpr fun j hj => ?_
    by_cases hp : j.pending = true
    · by_cases hg : ∃ c ∈ j.grant, c ∈ k.grant
      · simp [hrank j hj hp hg]
      · have hg' : j.grant.any k.grant.contains = false := by simpa using hg
        simp [hg']
    · simp [hp]
  simp only [execKernelIssue, hk, not_issuable_of_running hr, Bool.false_eq_true, false_and, if_false]
  rw [if_pos ⟨hr, hany, List.all_eq_true.mpr hmay, hall⟩]

theorem execKernelAging_ages (hk : s.kernel s.inp.k = some k) (hp : k.pending = true) (ht : k.admitted + agingCycles ≤ s.cycles) :
    execKernelAging s = .next (s.modKernel k.id (fun j => { j with aged := true })) := by
  simp [execKernelAging, hk, hp, ht]

theorem execPreEmption_stops (hk : s.kernel s.inp.k = some k) (hp : k.pending = true) (ha : k.aged = false) (hch : s.chosen k = true) :
    execPreEmption s = .next (((s.kernels.filter (s.victim k)).foldr insertVictim []).foldl
      (fun (s : State) j => j.grant.foldl (fun (s : State) c => s.preemptCtx j c) s) s) := by
  simp [execPreEmption, hk, hp, ha, hch]

/-- The storage of the stopped context `x` may be claimed: it is wanted, nothing of it is in transfer, and no other one on its core that
is wanted too has a lower PRIO. -/
structure ClaimReady (s : State) (x : Ctx) : Prop where
  claimable : x.claimable s.inp.c = true
  wanted : s.storageWanted s.inp.c x = true
  settled : s.settled s.inp.c x = true
  lowest : ∀ e ∈ s.ctxs, e.1.cid = s.inp.c.cid → e.1 ≠ s.inp.c → e.2.claimable e.1 = true → s.storageWanted e.1 e.2 = true →
    s.prioOf x ≤ s.prioOf e.2

/-- The storage of a stopped context of the lowest PRIO is claimed, with its image in the pool. -/
theorem execStorageClaim_claims {a : Nat} {l : List Nat} {t : State} (hx : s.ctx s.inp.c = some x) (hr : ClaimReady s x)
    (hk : s.kernel x.kernel = some k) (hf : s.freeImages (s.queue k.queue) = a :: l)
    (ht : s.writeImage s.inp.c x (s.queue k.queue).part a = some t) :
    execStorageClaim s = .next (((t.dropLoads s.inp.c x).setCtx s.inp.c { (if x.state = .saved then x else x.toSaved none 0) with
      image := some a, imageNo := s.freeIx, claimed := true }).modCore s.inp.c.cid (·.dropLease s.inp.c.num)) := by
  obtain ⟨hclaim, hwanted, hsettled, hlow⟩ := hr
  have hnone : s.ctxs.any (fun (d, y) => d.cid == s.inp.c.cid && d != s.inp.c && y.claimable d && s.storageWanted d y &&
      decide (s.prioOf y < s.prioOf x)) = false := by
    refine List.any_eq_false.mpr fun e he h => ?_
    simp only [Bool.and_eq_true, beq_iff_eq, bne_iff_ne, decide_eq_true_eq] at h
    obtain ⟨⟨⟨⟨hcid, hne⟩, hcl⟩, hwant⟩, hlt⟩ := h
    exact absurd (hlow e he hcid hne hcl hwant) (Nat.not_le.mpr hlt)
  simp only [execStorageClaim, hx]
  rw [if_neg (by simp [hclaim, hwanted, hsettled, hnone]), hk]
  simp only [hf, ht]

/-! ## Harvest (R386, R387) -/

/-- A harvest kernel that no other placeable one outranks is placed whole, and starts where nothing is left to stage. -/
theorem execHarvestPlacement_places {n : Node} {gr : List CtxId} {k' : Kernel} {t : State} (hk : s.kernel s.inp.k = some k)
    (hn : s.node k.node = some n) (hp : s.placeable k = true)
    (hrank : ∀ j ∈ s.kernels, j.id ≠ k.id → s.placeable j = true → s.outranks j k = false)
    (hgr : gr = (ascending (chooseOrder (s.openHosts n)
      ((List.range (s.inp.data.length / 2)).map (fun i => numAt s.inp.data (2 * i) 2)) (fun _ => true)) (k.gw * k.gh)).map
        (fun cid => (⟨cid, (s.hostNum cid k.abud k.wbud k.zbud).getD 1⟩ : CtxId)))
    (hk' : k' = { k with grant := gr }) (ht : t = s.modKernel k.id (fun _ => k')) :
    execHarvestPlacement s = .next (if t.issuable k' ∧ t.chosen k' then t.issue k' else t) := by
  subst ht hk'
  have hfirst : s.kernels.any (fun j => j.id != k.id && s.placeable j && s.outranks j k) = false := by
    refine List.any_eq_false.mpr fun j hj h => ?_
    simp only [Bool.and_eq_true, bne_iff_ne] at h
    obtain ⟨⟨hne, hpl⟩, hout⟩ := h
    exact absurd (hrank j hj hne hpl) (by simp [hout])
  simp only [execHarvestPlacement, hk, hn, ← hgr]
  rw [if_neg (by simp [hp, hfirst])]

theorem execRevocation_lease (hc : s.inp.c.num ≠ 0) (hl : s.leaseDemand s.inp.c = true) :
    execRevocation s = .next (s.revoke s.inp.c 1) := by
  simp [execRevocation, hc, hl]

theorem execRevocation_storage (hc : s.inp.c.num ≠ 0) (hl : s.leaseDemand s.inp.c = false)
    (hp : s.placementDemand s.inp.c = true) : execRevocation s = .next (s.revoke s.inp.c 2) := by
  simp [execRevocation, hc, hl, hp]

/-- Parked on a lease demand, a context runs again once its core's owner has ended, or neither asks for the lease nor holds it. -/
theorem execHarvestUnpark_lease (hx : s.ctx s.inp.c = some x) (hc : s.inp.c.num ≠ 0) (hp : x.state = .parked)
    (hf : x.parkedFor = 1)
    (ho : ∀ o, s.ctx ⟨s.inp.c.cid, 0⟩ = some o → o.state = .ended ∨
      (o.leaseAsk = false ∧ ∀ l, (s.core s.inp.c.cid).lease = some l → l.num ≠ 0)) :
    execHarvestUnpark s = .next (s.unpark s.inp.c) := by
  simp only [execHarvestUnpark, hx, hc, hp, hf, and_self, if_true, if_false]
  cases hown : s.ctx ⟨s.inp.c.cid, 0⟩ with
  | none => rfl
  | some o =>
    rcases ho o hown with he | ⟨hask, hheld⟩
    · simp [he]
    · cases hlease : (s.core s.inp.c.cid).lease with
      | none => simp [hask]
      | some l => simp [hask, hheld l hlease]

/-- A context whose storage was claimed is restored from its image. -/
theorem execHarvestUnpark_restores (hx : s.ctx s.inp.c = some x) (hc : s.inp.c.num ≠ 0) (hp : x.preempted = true)
    (hb : s.storageBack s.inp.c = true) (hd : s.dieServes s.inp.c = true) (hs : s.slotClean s.inp.c = true)
    (hf : s.fits s.inp.c.cid x.abud x.wbud x.zbud = true) : execHarvestUnpark s = .next (s.restore s.inp.c x) := by
  have hsaved : x.state = .saved := by
    simp only [Ctx.preempted, Bool.and_eq_true, beq_iff_eq] at hp
    exact hp.1
  simp [execHarvestUnpark, hx, hc, hsaved, hp, hb, hd, hs, hf]

theorem execHarvestUnpark_storage (hx : s.ctx s.inp.c = some x) (hc : s.inp.c.num ≠ 0) (hp : x.state = .parked)
    (hf : x.parkedFor = 2) (hb : s.storageBack s.inp.c = true) : execHarvestUnpark s = .next (s.unpark s.inp.c) := by
  simp [execHarvestUnpark, hx, hc, hp, hf, hb]

/-! ## The end of a kernel (R31) -/

theorem execKernelEnd_ends (hk : s.kernel s.inp.k = some k) (hr : k.state = .running)
    (he : ∀ c ∈ k.grant, ∀ x, s.member k c = some x → x.state = .ended) : execKernelEnd s = .next (s.endKernel k.id) := by
  simp only [execKernelEnd, hk]
  refine if_pos ⟨hr, List.all_eq_true.mpr fun c hc => ?_⟩
  cases hm : s.member k c with
  | none => rfl
  | some x => simp [he c hc x hm]

end

end Sys2Proof.Machine

namespace Sys2Proof.Proofs

open Sys2Proof.Machine

/-- Settles O40: each event's guards are the statement's hypotheses, so that its row takes the branch with the effect. -/
theorem scheduling : Obligations.Scheduling := by
  unfold Obligations.Scheduling
  refine ⟨?admits, ?stages, ?starts, ?resumes, ?ages, ?preempts, ?claims, ?places, ?revokesLease, ?revokesStorage, ?unparksLease,
    ?restores, ?unparksStorage, ?ends⟩
  case admits =>
    rintro q d b t u s ⟨hu, hq, hl, hd, hs, hne, hoff, hb, ht⟩
    exact execAdmission_judged hu hq ⟨hl, hd, hs, hne, hoff⟩ hb ht
  case stages =>
    rintro k t c x y r e l s ⟨hk, ht, hc, hx, hp, hdone, hplace, hbefore, hserves, hroom, hch, hst, hy, he⟩
    exact execStagingTransfer_moves hk ht hc hx ⟨hp, hdone, hplace, hbefore, hserves, hroom, hch⟩ hst hy he
  case starts => exact fun k s ⟨hk, hi, hch⟩ => execKernelIssue_starts hk hi hch
  case resumes => exact fun k s ⟨hk, hr, hpre, hmay, hrank⟩ => execKernelIssue_resumes hk hr hpre hmay hrank
  case ages => exact fun k s ⟨hk, hp, ht⟩ => execKernelAging_ages hk hp ht
  case preempts => exact fun k s ⟨hk, hp, ha, hch⟩ => execPreEmption_stops hk hp ha hch
  case claims =>
    rintro x k a l t s ⟨hx, hc, hw, hs, hlow, hk, hf, ht⟩
    exact execStorageClaim_claims hx ⟨hc, hw, hs, hlow⟩ hk hf ht
  case places =>
    rintro k n gr k' t s ⟨hk, hn, hp, hrank, hgr, hk', ht⟩
    exact execHarvestPlacement_places hk hn hp hrank hgr hk' ht
  case revokesLease => exact fun s ⟨hc, hl⟩ => execRevocation_lease hc hl
  case revokesStorage => exact fun s ⟨hc, hl, hp⟩ => execRevocation_storage hc hl hp
  case unparksLease => exact fun x s ⟨hx, hc, hp, hf, ho⟩ => execHarvestUnpark_lease hx hc hp hf ho
  case restores => exact fun x s ⟨hx, hc, hp, hb, hd, hs, hf⟩ => execHarvestUnpark_restores hx hc hp hb hd hs hf
  case unparksStorage => exact fun x s ⟨hx, hc, hp, hf, hb⟩ => execHarvestUnpark_storage hx hc hp hf hb
  case ends => exact fun k s ⟨hk, hr, he⟩ => execKernelEnd_ends hk hr he

end Sys2Proof.Proofs

end

section
/-! SUPPORT and the settled obligations O47 and O48: the row of the map that a word decodes to, and the bytes of an instruction read
back by the decoders. -/

namespace Sys2Proof

/-! ## The row of the map that a word decodes to (R87) -/

/-- The opcodes of the rows of R87, and those of the hints (R90). -/
def opcodeMapped (n : Nat) : Bool :=
  decide (n ≤ 0x037) || (decide (0x0F0 ≤ n) && decide (n ≤ 0x133)) || (decide (0x200 ≤ n) && decide (n ≤ 0x22C)) ||
    (decide (0x300 ≤ n) && decide (n ≤ 0x30C)) || (decide (0x310 ≤ n) && decide (n ≤ 0x314)) ||
    (decide (0x318 ≤ n) && decide (n ≤ 0x31C)) || (decide (0x320 ≤ n) && decide (n ≤ 0x322)) ||
    (decide (0x380 ≤ n) && decide (n ≤ 0x38F))

theorem opcodeMapped_eq_false {n : Nat} : opcodeMapped n = false ↔ (0x038 ≤ n ∧ n ≤ 0x0EF) ∨ (0x134 ≤ n ∧ n ≤ 0x1FF) ∨
    (0x22D ≤ n ∧ n ≤ 0x2FF) ∨ (0x30D ≤ n ∧ n ≤ 0x30F) ∨ (0x315 ≤ n ∧ n ≤ 0x317) ∨ (0x31D ≤ n ∧ n ≤ 0x31F) ∨
    (0x323 ≤ n ∧ n ≤ 0x37F) ∨ 0x390 ≤ n := by
  simp only [opcodeMapped, Bool.or_eq_false_iff, Bool.and_eq_false_iff, decide_eq_false_iff_not]
  omega

/-- What decoding a word must give: an instruction whose word it is, and the unassigned one where the map has no row for the opcode. -/
structure IsRowOf (w : Word96) (i : Instr) : Prop where
  word : encodeWord i = some w
  unmapped : opcodeMapped (opcOf w) = false → i = .unassignedOpcode w

/-- A row of the map in a format whose fields put together are the word again. -/
theorem IsRowOf.of_format {V : Type} {put : BitVec 10 → V → Word96} {get : Word96 → V} {w : Word96} {o : BitVec 10} {i : Instr}
    (hput : ∀ w o, opcOf w = o.toNat → put o (get w) = w) (hi : encodeWord i = some (put o (get w)))
    (hmap : opcodeMapped o.toNat = true) (ho : opcOf w = o.toNat) : IsRowOf w i where
  word := by rw [hi, hput w o ho]
  unmapped h := by rw [ho, hmap] at h; nomatch h

theorem IsRowOf.unassigned (w : Word96) : IsRowOf w (.unassignedOpcode w) := ⟨rfl, fun _ => rfl⟩

theorem field_opcode_high (w : Word96) : (field w 84 6).toNat = opcOf w / 16 := by
  simp only [opcOf, field, BitVec.extractLsb'_toNat, Nat.shiftRight_eq_div_pow]
  omega

theorem IsRowOf.hint {w : Word96} (h : 0x0F0 ≤ opcOf w ∧ opcOf w ≤ 0x0FF) : IsRowOf w (.hint (field w 80 4) (getHint w)) where
  word := by
    have hhigh : (field w 84 6).toNat = 15 := (field_opcode_high w).trans (by omega)
    exact congrArg some (putHint_getHint w (BitVec.eq_of_toNat_eq hhigh))
  unmapped hno := by
    rw [opcodeMapped_eq_false] at hno
    omega

theorem decodeClass0_isRowOf (w : Word96) : IsRowOf w (decodeClass0 w) := by
  unfold decodeClass0
  split
  case h_57 =>
    split
    · exact .hint ‹_›
    · exact .unassigned w
  case h_4 | h_5 | h_6 | h_8 | h_9 => exact .of_format putB_getB rfl rfl ‹_›
  all_goals exact .of_format putS_getS rfl rfl ‹_›

theorem decodeClass1_isRowOf (w : Word96) : IsRowOf w (decodeClass1 w) := by
  unfold decodeClass1
  split
  case h_53 => exact .unassigned w
  all_goals exact .of_format putV_getV rfl rfl ‹_›

theorem decodeClass2_isRowOf (w : Word96) : IsRowOf w (decodeClass2 w) := by
  unfold decodeClass2
  split
  case h_46 => exact .unassigned w
  all_goals exact .of_format putM_getM rfl rfl ‹_›

theorem decodeClass3_isRowOf (w : Word96) : IsRowOf w (decodeClass3 w) := by
  unfold decodeClass3
  split
  case h_43 => exact .unassigned w
  all_goals exact .of_format putX_getX rfl rfl ‹_›

theorem decodeWord_isRowOf (w : Word96) : IsRowOf w (decodeWord w) := by
  unfold decodeWord
  split
  · exact decodeClass0_isRowOf w
  · exact decodeClass1_isRowOf w
  · exact decodeClass2_isRowOf w
  · exact decodeClass3_isRowOf w

/-! ## The word of a well-formed instruction -/

section

open Laws

/-- The law of each row; the rows of Sett and of the devices have no word of the map. -/
theorem roundTrip_statement (i : Instr) : RoundTrip.Statement i := by
  cases i with
  | nop v => exact RoundTrip.nop v | halt v => exact RoundTrip.halt v | qpt v => exact RoundTrip.qpt v
  | br v => exact RoundTrip.br v | brp v => exact RoundTrip.brp v | call v => exact RoundTrip.call v
  | ret v => exact RoundTrip.ret v | loop v => exact RoundTrip.loop v | next v => exact RoundTrip.next v
  | bqs v => exact RoundTrip.bqs v | bqr v => exact RoundTrip.bqr v | waitc v => exact RoundTrip.waitc v
  | yld v => exact RoundTrip.yld v | trap v => exact RoundTrip.trap v | bkpt v => exact RoundTrip.bkpt v
  | hint n v => exact RoundTrip.hint n v | ldp v => exact RoundTrip.ldp v | add v => exact RoundTrip.add v
  | sub v => exact RoundTrip.sub v | mul v => exact RoundTrip.mul v | mulh v => exact RoundTrip.mulh v
  | mulhn v => exact RoundTrip.mulhn v | div v => exact RoundTrip.div v | divn v => exact RoundTrip.divn v
  | rem v => exact RoundTrip.rem v | remn v => exact RoundTrip.remn v | and v => exact RoundTrip.and v
  | or v => exact RoundTrip.or v | xor v => exact RoundTrip.xor v | andn v => exact RoundTrip.andn v
  | orn v => exact RoundTrip.orn v | shl v => exact RoundTrip.shl v | shr v => exact RoundTrip.shr v
  | sra v => exact RoundTrip.sra v | rotl v => exact RoundTrip.rotl v | min v => exact RoundTrip.min v
  | max v => exact RoundTrip.max v | minn v => exact RoundTrip.minn v | maxn v => exact RoundTrip.maxn v
  | clz v => exact RoundTrip.clz v | ctz v => exact RoundTrip.ctz v | popc v => exact RoundTrip.popc v
  | brev v => exact RoundTrip.brev v | bswap v => exact RoundTrip.bswap v | sext v => exact RoundTrip.sext v
  | zext v => exact RoundTrip.zext v | bfx v => exact RoundTrip.bfx v | bfi v => exact RoundTrip.bfi v
  | sel v => exact RoundTrip.sel v | lim v => exact RoundTrip.lim v | limh v => exact RoundTrip.limh v
  | lea v => exact RoundTrip.lea v | cmp v => exact RoundTrip.cmp v | plog v => exact RoundTrip.plog v
  | pmov v => exact RoundTrip.pmov v | mfs v => exact RoundTrip.mfs v | mts v => exact RoundTrip.mts v
  | vadd v => exact RoundTrip.vadd v | vsub v => exact RoundTrip.vsub v | vmul v => exact RoundTrip.vmul v
  | vfma v => exact RoundTrip.vfma v | vfms v => exact RoundTrip.vfms v | vfnma v => exact RoundTrip.vfnma v
  | vmin v => exact RoundTrip.vmin v | vmax v => exact RoundTrip.vmax v | vabs v => exact RoundTrip.vabs v
  | vneg v => exact RoundTrip.vneg v | vdiv v => exact RoundTrip.vdiv v | vsqrt v => exact RoundTrip.vsqrt v
  | vrcp v => exact RoundTrip.vrcp v | vrsq v => exact RoundTrip.vrsq v | vexp2 v => exact RoundTrip.vexp2 v
  | vlog2 v => exact RoundTrip.vlog2 v | viadd v => exact RoundTrip.viadd v | visub v => exact RoundTrip.visub v
  | vimul v => exact RoundTrip.vimul v | vimad v => exact RoundTrip.vimad v | vimulh v => exact RoundTrip.vimulh v
  | vsadd v => exact RoundTrip.vsadd v | vssub v => exact RoundTrip.vssub v | vimin v => exact RoundTrip.vimin v
  | vimax v => exact RoundTrip.vimax v | viabs v => exact RoundTrip.viabs v | vshl v => exact RoundTrip.vshl v
  | vshr v => exact RoundTrip.vshr v | vsra v => exact RoundTrip.vsra v | vand v => exact RoundTrip.vand v
  | vor v => exact RoundTrip.vor v | vxor v => exact RoundTrip.vxor v | vpopc v => exact RoundTrip.vpopc v
  | vclz v => exact RoundTrip.vclz v | vcmp v => exact RoundTrip.vcmp v | vicmp v => exact RoundTrip.vicmp v
  | vsel v => exact RoundTrip.vsel v | vcvt v => exact RoundTrip.vcvt v | vpack v => exact RoundTrip.vpack v
  | vunpk v => exact RoundTrip.vunpk v | vqbfp v => exact RoundTrip.vqbfp v | vdqbfp v => exact RoundTrip.vdqbfp v
  | vmov v => exact RoundTrip.vmov v | vins v => exact RoundTrip.vins v | vext v => exact RoundTrip.vext v
  | vperm v => exact RoundTrip.vperm v | vrot v => exact RoundTrip.vrot v | vcmpr v => exact RoundTrip.vcmpr v
  | vexpd v => exact RoundTrip.vexpd v | vred v => exact RoundTrip.vred v | vscan v => exact RoundTrip.vscan v
  | varg v => exact RoundTrip.varg v | ldl v => exact RoundTrip.ldl v | stl v => exact RoundTrip.stl v
  | ldlx v => exact RoundTrip.ldlx v | stlx v => exact RoundTrip.stlx v | ldk v => exact RoundTrip.ldk v
  | stk v => exact RoundTrip.stk v | ldg v => exact RoundTrip.ldg v | stg v => exact RoundTrip.stg v
  | pfg v => exact RoundTrip.pfg v | ldf v => exact RoundTrip.ldf v | stf v => exact RoundTrip.stf v
  | ldo v => exact RoundTrip.ldo v | sto v => exact RoundTrip.sto v | oseq v => exact RoundTrip.oseq v
  | owt v => exact RoundTrip.owt v | ldh v => exact RoundTrip.ldh v | sth v => exact RoundTrip.sth v
  | atl v => exact RoundTrip.atl v | atk v => exact RoundTrip.atk v | atg v => exact RoundTrip.atg v
  | atf v => exact RoundTrip.atf v | fence v => exact RoundTrip.fence v | phase v => exact RoundTrip.phase v
  | cbini v => exact RoundTrip.cbini v | cbclm v => exact RoundTrip.cbclm v | cbpub v => exact RoundTrip.cbpub v
  | cbtak v => exact RoundTrip.cbtak v | cbrel v => exact RoundTrip.cbrel v | dqini v => exact RoundTrip.dqini v
  | dqpsh v => exact RoundTrip.dqpsh v | dqpop v => exact RoundTrip.dqpop v | dqstl v => exact RoundTrip.dqstl v
  | bara v => exact RoundTrip.bara v | barw v => exact RoundTrip.barw v | bar v => exact RoundTrip.bar v
  | bidb v => exact RoundTrip.bidb v | bida v => exact RoundTrip.bida v | qcnt v => exact RoundTrip.qcnt v
  | qclr v => exact RoundTrip.qclr v | qbnd v => exact RoundTrip.qbnd v | tktry v => exact RoundTrip.tktry v
  | wlapp v => exact RoundTrip.wlapp v | wltak v => exact RoundTrip.wltak v | wlidl v => exact RoundTrip.wlidl v
  | trmw v => exact RoundTrip.trmw v | lease v => exact RoundTrip.lease v | ulease v => exact RoundTrip.ulease v
  | wload v => exact RoundTrip.wload v | wswp v => exact RoundTrip.wswp v | ashp v => exact RoundTrip.ashp v
  | mma v => exact RoundTrip.mma v | mmaz v => exact RoundTrip.mmaz v | mmai v => exact RoundTrip.mmai v
  | epi v => exact RoundTrip.epi v | epicf v => exact RoundTrip.epicf v | zrd v => exact RoundTrip.zrd v
  | zwr v => exact RoundTrip.zwr v | zclr v => exact RoundTrip.zclr v | cpyi v => exact RoundTrip.cpyi v
  | cpyo v => exact RoundTrip.cpyo v | gthi v => exact RoundTrip.gthi v | scto v => exact RoundTrip.scto v
  | echk v => exact RoundTrip.echk v | cvwt v => exact RoundTrip.cvwt v | cvts v => exact RoundTrip.cvts v
  | cvcl v => exact RoundTrip.cvcl v | cvinf v => exact RoundTrip.cvinf v | cvtim v => exact RoundTrip.cvtim v
  | mbsnd v => exact RoundTrip.mbsnd v | mbrcv v => exact RoundTrip.mbrcv v | mbsta v => exact RoundTrip.mbsta v
  | srd v => exact RoundTrip.srd v | swr v => exact RoundTrip.swr v | eret v => exact RoundTrip.eret v
  | invl v => exact RoundTrip.invl v | inva v => exact RoundTrip.inva v | stbw v => exact RoundTrip.stbw v
  | stbr v => exact RoundTrip.stbr v | ctxsv v => exact RoundTrip.ctxsv v | ctxld v => exact RoundTrip.ctxld v
  | park v => exact RoundTrip.park v | unpark v => exact RoundTrip.unpark v | retire v => exact RoundTrip.retire v
  | dbgh v => exact RoundTrip.dbgh v | idle v => exact RoundTrip.idle v | ckpt v => exact RoundTrip.ckpt v
  | spare v => exact RoundTrip.spare v | unassignedOpcode w => exact RoundTrip.unassignedOpcode w
  | _ => exact fun _ h => nomatch h

theorem decodeWord_encodeWord {i : Instr} {w : Word96} (h : encodeWord i = some w) (hi : WellFormed i) : decodeWord w = i :=
  roundTrip_statement i w h hi

end

/-! ## The bytes of an instruction -/

section

variable {m n k : Nat} {w : W32} {rest : List Byte}

/-- The first bytes of a value, whatever follows the rest of them. -/
theorem take_bytesOf (x : BitVec m) (h : k ≤ n) : (bytesOf x n ++ rest).take k = bytesOf x k := by
  rw [List.take_append_of_le_length (by simpa using h), bytesOf, ← List.map_take, List.take_range, Nat.min_eq_left h, bytesOf]

theorem drop_bytesOf (x : BitVec m) (n : Nat) : (bytesOf x n ++ rest).drop n = rest :=
  List.drop_left' (bytesOf_length x n)

theorem not_length_bytesOf_lt (x : BitVec m) (h : k ≤ n) : ¬ (bytesOf x n ++ rest).length < k := by
  rw [List.length_append, bytesOf_length]
  omega

/-- `k` whole bits of a value are read from its first bytes. -/
theorem wordOfBytes_bytesOf_low (x : BitVec m) (h : k ≤ 8 * n) : wordOfBytes k (bytesOf x n) = x.setWidth k := by
  have hd : 2 ^ k ∣ 256 ^ n := by
    rw [show (256 : Nat) = 2 ^ 8 from rfl, ← Nat.pow_mul]
    exact Nat.pow_dvd_pow 2 h
  apply BitVec.eq_of_toNat_eq
  rw [wordOfBytes, natOfBytes_bytesOf, BitVec.toNat_ofNat, BitVec.toNat_setWidth, Nat.mod_mod_of_dvd _ hd]

theorem field_setWidth_low (x : BitVec m) (h : k ≤ n) : field (x.setWidth n) 0 k = field x 0 k := by
  apply BitVec.eq_of_getLsbD_eq
  intro i hi
  have hn : i < n := by omega
  simp [field, hi, hn]

theorem decode_bytesOf (w : Word96) (rest : List Byte) : decode (bytesOf w 12 ++ rest) = .ok (decodeWord w, rest) := by
  rw [decode, if_neg (not_length_bytesOf_lt w (Nat.le_refl 12)), wordOfBytes_bytesOf w 12 rest (by decide), drop_bytesOf]

/-- Low bits 11: a word of four bytes (R318). -/
theorem decodeSett_long (h : field w 0 2 = 3#2) : decodeSett (bytesOf w 4 ++ rest) = .ok (decodeSettWord w, rest) := by
  have hhead : field (wordOfBytes 16 ((bytesOf w 4 ++ rest).take 2)) 0 2 = 0b11#2 := by
    rw [take_bytesOf w (by decide), wordOfBytes_bytesOf_low w (by decide), field_setWidth_low w (by decide), h]
  have htwo : ¬ (bytesOf w 4 ++ rest).length < 2 := not_length_bytesOf_lt w (by decide)
  have hfour : ¬ (bytesOf w 4 ++ rest).length < 4 := not_length_bytesOf_lt w (by decide)
  simp only [decodeSett]
  rw [if_neg htwo, if_pos hhead, if_neg hfour, wordOfBytes_bytesOf w 4 rest (by decide), drop_bytesOf]

/-- Any other low bits: a compressed word of two bytes, zero-extended. -/
theorem decodeSett_short (h : field w 0 2 ≠ 3#2) :
    decodeSett (bytesOf w 2 ++ rest) = .ok (.settCoreInstruction ((w.setWidth 16).setWidth 32), rest) := by
  have hhead : wordOfBytes 16 ((bytesOf w 2 ++ rest).take 2) = w.setWidth 16 := by
    rw [take_bytesOf w (by decide), wordOfBytes_bytesOf_low w (by decide)]
  have hne : ¬ field (w.setWidth 16) 0 2 = 0b11#2 := by rwa [field_setWidth_low w (by decide)]
  have htwo : ¬ (bytesOf w 2 ++ rest).length < 2 := not_length_bytesOf_lt w (by decide)
  simp only [decodeSett]
  rw [if_neg htwo, hhead, if_neg hne, drop_bytesOf]

theorem encode_of_word {i : Instr} {w : Word96} (h : encodeWord i = some w) : encode i = bytesOf w 12 := by
  simp only [encode, h]

theorem encode_of_settWord {i : Instr} (hv : encodeWord i = none) (h : encodeSettWord i = some w) :
    encode i = if field w 0 2 = 3#2 then bytesOf w 4 else bytesOf w 2 := by
  simp only [encode, hv, h]

section

variable (f3 : BitVec 3) (rd rs1 rs2 : BitVec 5)

/-- The fields of an Xknajan word. -/
theorem mbWord_fields : field (mbWord f3 rd rs1 rs2) 0 2 = 3#2 ∧
    field (mbWord f3 rd rs1 rs2) 0 7 = 0b0001011#7 ∧ field (mbWord f3 rd rs1 rs2) 7 5 = rd ∧
    field (mbWord f3 rd rs1 rs2) 12 3 = f3 ∧ field (mbWord f3 rd rs1 rs2) 15 5 = rs1 ∧ field (mbWord f3 rd rs1 rs2) 20 5 = rs2 ∧
    field (mbWord f3 rd rs1 rs2) 25 7 = 0#7 := by
  unfold mbWord
  refine ⟨?low, ?opcode, ?rd, ?funct3, ?rs1, ?rs2, ?funct7⟩
  case low => exact (field_append_lo _ _ _ _ (by decide)).trans (by decide)
  case opcode => exact (field_append_lo _ _ _ _ (by decide)).trans (field_all _)
  case rd =>
    refine (field_append_hi _ _ _ _ (by decide)).trans ?_
    exact (field_append_lo _ _ _ _ (by decide)).trans (field_all _)
  case funct3 =>
    iterate 2 refine (field_append_hi _ _ _ _ (by decide)).trans ?_
    exact (field_append_lo _ _ _ _ (by decide)).trans (field_all _)
  case rs1 =>
    iterate 3 refine (field_append_hi _ _ _ _ (by decide)).trans ?_
    exact (field_append_lo _ _ _ _ (by decide)).trans (field_all _)
  case rs2 =>
    iterate 4 refine (field_append_hi _ _ _ _ (by decide)).trans ?_
    exact (field_append_lo _ _ _ _ (by decide)).trans (field_all _)
  case funct7 =>
    iterate 5 refine (field_append_hi _ _ _ _ (by decide)).trans ?_
    exact field_all _

/-- An Xknajan word is decoded by its funct3, with the fields that R318 marks 0 checked. -/
theorem decodeSettWord_mbWord : decodeSettWord (mbWord f3 rd rs1 rs2) =
    if f3.toNat = 0 ∧ rs2 = 0 then .mbRecv rd rs1
    else if f3.toNat = 1 ∧ rd = 0 then .mbSend rs1 rs2
    else if f3.toNat = 2 then .mbStep rd rs1 rs2
    else if f3.toNat = 3 ∧ rd = 0 then .mbDone rs1 rs2
    else if f3.toNat = 4 ∧ rs1 = 0 ∧ rs2 = 0 then .mbStat rd
    else if f3.toNat = 5 ∧ rs1 = 0 ∧ rs2 = 0 then .mbVer rd
    else .settCoreInstruction (mbWord f3 rd rs1 rs2) := by
  obtain ⟨-, hop, hrd, hf3, hrs1, hrs2, hhigh⟩ := mbWord_fields f3 rd rs1 rs2
  simp only [decodeSettWord, hop, hrd, hf3, hrs1, hrs2, hhigh, and_self, if_true]

end

theorem encodeSettWord_xknajan {i : Instr} (h : encodeSettWord i = some w) (hx : ∀ x, i ≠ .settCoreInstruction x) :
    encodeWord i = none ∧ field w 0 2 = 3#2 ∧ decodeSettWord w = i := by
  cases i with
  | mbRecv rd rs1 | mbSend rs1 rs2 | mbStep rd rs1 rs2 | mbDone rs1 rs2 | mbStat rd | mbVer rd =>
    obtain rfl := Option.some.inj h
    exact ⟨rfl, (mbWord_fields ..).1, by simp [decodeSettWord_mbWord]⟩
  | settCoreInstruction x => exact absurd rfl (hx x)
  | _ => nomatch h

end

end Sys2Proof

namespace Sys2Proof.Proofs

/-- Settles O47: the bytes are those of the instruction's word, and each decoder gives back the word whose bytes it reads. -/
theorem roundTrip : Obligations.RoundTrip := by
  unfold Obligations.RoundTrip
  refine ⟨?vartar, ?xknajan, ?long, ?short⟩
  case vartar =>
    intro i w rest h hi
    rw [encode_of_word h, decode_bytesOf, decodeWord_encodeWord h hi]
  case xknajan =>
    intro i w rest h hx
    obtain ⟨hv, hlow, hi⟩ := encodeSettWord_xknajan h hx
    rw [encode_of_settWord hv h, if_pos hlow, decodeSett_long hlow, hi]
    exact ⟨rfl, bytesOf_length w 4⟩
  case long =>
    intro w rest hlow hw
    rw [encode_of_settWord rfl rfl, if_pos hlow, decodeSett_long hlow, hw]
  case short =>
    intro w rest hlow hw
    have hwide : (w.setWidth 16).setWidth 32 = w := by
      apply BitVec.eq_of_toNat_eq
      rw [BitVec.toNat_setWidth, BitVec.toNat_setWidth, Nat.mod_eq_of_lt hw, Nat.mod_eq_of_lt w.isLt]
    rw [encode_of_settWord rfl rfl, if_neg hlow, decodeSett_short hlow, hwide]
    exact ⟨rfl, bytesOf_length w 2⟩

/-- Settles O48: a word is the word of the row that it decodes to, and decoding the word of a well-formed instruction gives it back. -/
theorem oneMeaningPerWord : Obligations.OneMeaningPerWord := by
  unfold Obligations.OneMeaningPerWord
  refine ⟨fun w => (decodeWord_isRowOf w).word, ?injective, fun l h => if_pos h, ?whole, ?unmapped, nofun⟩
  case injective =>
    intro i j w hi hj wi wj
    exact (decodeWord_encodeWord hi wi).symm.trans (decodeWord_encodeWord hj wj)
  case whole => exact fun l h => ⟨_, if_neg (by omega)⟩
  case unmapped =>
    rintro w n rfl h
    exact (decodeWord_isRowOf w).unmapped (opcodeMapped_eq_false.mpr h)

end Sys2Proof.Proofs

end

section
/-! SUPPORT and the settled obligations O53 and O56: the decode checks of R89 as a role meets them, and the hints, whose one check
reads their tag and token bits. -/

namespace Sys2Proof.Machine

variable {i j : Instr} {h : Head} {f : Frame} {e : Effect} {s : State} {w : Who} {x : Ctx} {priv : Bool} {codes : List (BitVec 6)}
  {c : Nat}

/-! ## The first decode check that fails (R89) -/

theorem decodeFault_opcode (hv : violation i = some .opcode) : decodeFault i priv codes x = some cIllegal := by
  simp only [decodeFault, hv]

/-- Steps 2 to 4, of a word whose opcode the map has. -/
theorem decodeFault_mapped (hv : violation i ≠ some .opcode) : decodeFault i priv codes x =
    if priv ∧ !x.priv then some cPrivilege
    else if violation i = some .tag ∨ tagFault i x then some cRole
    else if (violation i).isSome ∨ pselFault i x then some cIllegal
    else if x.harvest ∧ codes.any (fun c => 40 ≤ c.toNat && c.toNat < 48) then some cIllegal
    else none := by
  unfold decodeFault
  split
  · exact absurd ‹_› hv
  · rfl

theorem decodeFault_privilege (hv : violation i ≠ some .opcode) (hp : priv = true) (hx : x.priv = false) :
    decodeFault i priv codes x = some cPrivilege := by
  rw [decodeFault_mapped hv, if_pos (by simp [hp, hx])]

theorem decodeFault_tag (hv : violation i ≠ some .opcode) (hp : priv = true → x.priv = true)
    (ht : violation i = some .tag ∨ tagFault i x = true) : decodeFault i priv codes x = some cRole := by
  rw [decodeFault_mapped hv, if_neg (by simpa using hp), if_pos ht]

theorem decodeFault_other (hv : violation i ≠ some .opcode) (hp : priv = true → x.priv = true) (ht : violation i ≠ some .tag)
    (hq : tagFault i x = false) (hbad : violation i ≠ none ∨ pselFault i x = true) :
    decodeFault i priv codes x = some cIllegal := by
  have htag : ¬ (violation i = some .tag ∨ tagFault i x = true) := by simp [ht, hq]
  rw [decodeFault_mapped hv, if_neg (by simpa using hp), if_neg htag, if_pos (by simpa [Option.isSome_iff_ne_none] using hbad)]

/-! ## What a role does with a word that fails a check -/

/-- A decode fault is raised before anything of the word is looked at but its tag. -/
theorem runWord_decodeFault (ht : s.turn = .role w.c w.r) (hx : s.ctx w.c = some x)
    (hown : f.role.toNat = Role.code w.r ∨ f.role = 0b11#2) (hd : decodeFault i f.priv f.codes x = some c) :
    runWord i f e s = .next (s.raise w c 0) := by
  have hf : ¬ (f.role.toNat ≠ Role.code w.r ∧ (!(f.role == 0b11#2)) = true) := by
    rcases hown with h | h <;> simp [h]
  simp only [runWord, ht, hx, runRole]
  rw [if_neg hf, hd]

/-- The same of every instruction of the map, whatever operand codes its frame hands to the checks. -/
theorem Executes.raises (hx : Executes i h s w x)
    (hd : ∀ priv codes, (violation i ≠ some .opcode → priv = privOp i) → decodeFault i priv codes x = some c) :
    exec i s = .next (s.raise w c 0) := by
  obtain ⟨f, e, hw⟩ := wrapped i h hx.head
  rw [hw.exec]
  exact runWord_decodeFault hx.turn hx.ctx (hw.role ▸ hx.own) (hd f.priv f.codes hw.priv)

/-! ## Hints (R90) -/

/-- The wrapper reads of the instruction itself its decode checks only. -/
theorem runWord_congr (hd : ∀ x, decodeFault i f.priv f.codes x = decodeFault j f.priv f.codes x) :
    runWord i f e s = runWord j f e s := by
  simp only [runWord, runRole, hd]

theorem violation_hint (n : BitVec 4) (v : HintWord) :
    violation (.hint n v) = if tokOk v.role v.tok = true then none else some .token := rfl

theorem violation_hint_none (n : BitVec 4) (v : HintWord) : violation (.hint n v) = none ↔ tokOk v.role v.tok = true := by
  rw [violation_hint]
  split <;> simp [*]

/-- The token bits that R77 permits: any under C, none under A, and under L and S the upper two, as such a role has
one FIFO to pop and one to push. -/
theorem tokOk_iff (role : BitVec 2) (tok : BitVec 4) : tokOk role tok = true ↔
    role = 1#2 ∨ (role = 3#2 ∧ tok = 0) ∨ ((role = 0#2 ∨ role = 2#2) ∧ field tok 0 2 = 0#2) := by
  revert role tok
  decide

end Sys2Proof.Machine

namespace Sys2Proof.Proofs

open Sys2Proof.Machine

/-- Settles O53: each clause is one branch of the decode checks, which the wrapper makes before it looks at guard and tokens. -/
theorem decodeOrder : Obligations.DecodeOrder := by
  unfold Obligations.DecodeOrder
  refine ⟨?opcode, ?privilege, ?tag, ?other⟩
  case opcode => exact fun i h s w x hx hv => hx.raises fun _ _ _ => decodeFault_opcode hv
  case privilege =>
    intro i h s w x hx hv hp hno
    exact hx.raises fun _ _ hpriv => decodeFault_privilege hv ((hpriv hv).trans hp) hno
  case tag =>
    intro i h s w x hx hv hp ht
    exact hx.raises fun _ _ hpriv => decodeFault_tag hv (hpriv hv ▸ hp) ht
  case other =>
    intro i h s w x hx hv hp ht hq hbad
    exact hx.raises fun _ _ hpriv => decodeFault_other hv (hpriv hv ▸ hp) ht hq hbad

/-- Settles O56: a hint's frame and its one check read its tag and token bits only, and its effect is NOP's. -/
theorem hintRule : Obligations.HintRule := by
  unfold Obligations.HintRule
  refine ⟨?decodes, ?completes, ?same, ?checks, ?passes, ?raises⟩
  case decodes =>
    intro w hlo hhi
    have hn : opcOf w = 0xF0 + (BitVec.ofNat 4 (opcOf w - 0xF0)).toNat := by
      rw [BitVec.toNat_ofNat]
      omega
    exact ⟨_, _, decodeWord_hint w _ hn, rfl, rfl⟩
  case completes => exact fun n v s w x dest hi hf _ hc => hi.done hf rfl hc
  case same =>
    rintro n m ⟨role, tok, _⟩ ⟨_, _, _⟩ s rfl rfl
    exact runWord_congr fun _ => rfl
  case checks =>
    intro n v
    rw [violation_hint]
    split
    · exact .inl rfl
    · exact .inr rfl
  case passes => exact fun n v => (violation_hint_none n v).trans (tokOk_iff v.role v.tok)
  case raises =>
    intro n v s w x ht hx hown hv
    have hbad : violation (.hint n v) ≠ none := by rw [hv]; nofun
    have hmapped : violation (.hint n v) ≠ some .opcode := by rw [hv]; decide
    have htag : violation (.hint n v) ≠ some .tag := by rw [hv]; decide
    exact runWord_decodeFault ht hx hown (decodeFault_other hmapped nofun htag rfl (.inl hbad))

end Sys2Proof.Proofs

end

section
/-! SUPPORT. From what an effect answers to what its instruction does: one rule for each form of claim of Safety.lean. -/

namespace Sys2Proof.Machine

variable {i : Instr} {f : Frame} {e : Effect} {pre : Who → Ctx → State → Prop} {eff : Who → Ctx → State → State}

/-- An effect that is performed completes. -/
theorem Completes.of_done (hrun : ∀ s, exec i s = runWord i f e s) (he : ∀ w x s, pre w x s → e w x s = .done (eff w x s)) :
    Completes i f pre eff := by
  intro s w x dest hi hf hp hc
  rw [hrun]
  exact hi.done hf (he w _ _ hp) hc

/-- A branch or RET goes to its target. -/
theorem Jumps.of_goto {ret : Bool} {dest : Who → Ctx → State → Pos} (hrun : ∀ s, exec i s = runWord i f e s)
    (he : ∀ w x s, pre w x s → e w x s = .goto (dest w x s) ret (eff w x s)) : Jumps i f false ret pre dest eff := by
  intro s w x hi hp hl
  rw [hrun]
  exact hi.goto hl (he w _ _ hp)

theorem Jumps.of_call {dest : Who → Ctx → State → Pos} (hrun : ∀ s, exec i s = runWord i f e s)
    (he : ∀ w x s, pre w x s → e w x s = .call (dest w x s) (eff w x s)) : Jumps i f true false pre dest eff := by
  intro s w x hi hp hl
  rw [hrun]
  exact hi.call hl (he w _ _ hp)

/-- A precise fault performs nothing. -/
theorem Raises.of_fault {cause : Nat} {val : Who → Ctx → State → W64} (hrun : ∀ s, exec i s = runWord i f e s)
    (he : ∀ w x s, pre w x s → e w x s = .fault cause (val w x s)) : Raises i f pre cause val := by
  intro s w x hi hp
  rw [hrun]
  exact hi.fault (he w _ _ hp)

/-- An effect that leaves the state as it stands is the whole answer. -/
theorem Answers.of_final (hrun : ∀ s, exec i s = runWord i f e s) (he : ∀ w x s, pre w x s → e w x s = .final (eff w x s)) :
    Answers i f pre eff := by
  intro s w x hi hp
  rw [hrun]
  exact hi.final (he w _ _ hp)

end Sys2Proof.Machine
end

section
/-! SUPPORT and the settled obligation O1: an integer instruction is one of three kinds of effect on its two source values. -/

namespace Sys2Proof.Machine

variable {mk : WordS → Instr}

/-- A two-operand instruction completes with its function of the source values. -/
theorem Computes.of_effS2 {g : WordS → W64 → W64 → W64} (hrun : ∀ v s, exec (mk v) s = runS (mk v) v (effS2 v (g v)) s) :
    Computes mk g :=
  fun v => .of_done (hrun v) fun _ _ _ _ => rfl

/-- A one-operand instruction, whose second operand field is not read. -/
theorem Computes.of_effS1 {g : WordS → W64 → W64} (hrun : ∀ v s, exec (mk v) s = runS (mk v) v (effS1 v (g v)) s) :
    Computes mk (fun v a _ => g v a) :=
  fun v => .of_done (hrun v) fun _ _ _ _ => rfl

/-- A shift or rotate counts modulo its width (R104). -/
theorem Computes.of_effShift {f : W64 → Nat → W64} {g : W32 → Nat → W32}
    (hrun : ∀ v s, exec (mk v) s = runS (mk v) v (effShift v f g) s) :
    Computes mk (fun v a b => if bitAt v.mod 0 then (g (a.setWidth 32) (b.toNat % 32)).signExtend 64 else f a (b.toNat % 64)) :=
  fun v => .of_done (hrun v) fun _ _ _ _ => rfl

/-- ADD, SUB and MUL raise the flags of their modifier beside their result. -/
theorem ComputesF.of_effArith {f : Int → Int → Int} (hrun : ∀ v s, exec (mk v) s = runS (mk v) v (effArith v f) s) :
    ComputesF mk (fun v a b => arith f v.mod a b) :=
  fun v => .of_done (hrun v) fun _ _ _ _ => rfl

/-- The signed comparison of MIN and MAX is that of the numbers. -/
theorem ite_slt (a b c d : W64) : (if a.slt b then c else d) = if a.toInt < b.toInt then c else d := by
  simp only [BitVec.slt_iff_toInt_lt]

end Sys2Proof.Machine

namespace Sys2Proof.Proofs

open Sys2Proof.Machine

/-- Settles O1: each instruction's effect is the stated function, put through the rule of its kind of effect. -/
theorem integerResults : Obligations.IntegerResults := by
  unfold Obligations.IntegerResults
  refine ⟨?add, ?sub, ?mul, ?mulh, ?mulhn, ?div, ?divn, ?rem, ?remn, ?and, ?or, ?xor, ?andn, ?orn, ?shl, ?shr, ?sra, ?rotl,
    ?min, ?max, ?minn, ?maxn, ?clz, ?ctz, ?popc, ?brev, ?bswap, ?sext, ?zext, ?bfx, ?bfi, ?lim, ?limh, ?lea⟩
  case add | sub | mul => exact .of_effArith fun _ _ => rfl
  case mulh | mulhn | div | divn | rem | remn | and | or | xor | andn | orn | minn | maxn | bfi | lea =>
    exact .of_effS2 fun _ _ => rfl
  case min | max =>
    simp only [← ite_slt]
    exact .of_effS2 fun _ _ => rfl
  case shl | shr | sra | rotl => exact .of_effShift fun _ _ => rfl
  case clz | ctz | popc | brev | bswap | sext | zext | bfx | limh => exact .of_effS1 fun _ _ => rfl
  case lim => exact fun v => .of_done (fun _ => rfl) fun _ _ _ _ => rfl

end Sys2Proof.Proofs

end

section
/-! SUPPORT and the settled obligation O2: truth values, predicate moves and the user specials. -/

namespace Sys2Proof.Machine

variable {w : Who} {x : Ctx} {s : State} {v : WordS}

/-- A truth value goes to a predicate or, as 1 or 0, to a scalar (R107). -/
theorem putBool_eq (d : BitVec 6) (b : Bool) :
    putBool w s d b = .done (if isPred d then s.setP w (d.toNat - 48) b else s.setS w d.toNat (if b then 1 else 0)) := by
  unfold putBool putD
  split <;> rfl

/-- An instruction whose effect is to put a truth value decides. -/
theorem Decides.of_putBool {mk : WordS → Instr} {g : WordS → Who → Ctx → Bool}
    (hrun : ∀ v s, exec (mk v) s = runS (mk v) v (fun w x s => putBool w s v.d (g v w x)) s) : Decides mk g :=
  fun v => .of_done (hrun v) fun _ _ _ _ => putBool_eq v.d _

/-- What a PMOV performs (R110): mod bit 0 moves all predicates to or from a scalar, else one predicate is written or read. -/
def pmoved (v : WordS) (w : Who) (x : Ctx) (s : State) : State :=
  if bitAt v.mod 0 then
    if isScalar v.d then s.setS w v.d.toNat (((x.role w.r).preds ||| 1).setWidth 64)
    else s.modRole w (fun r => { r with preds := ((readSrc w x v.a (imm64 v)).setWidth 8) ||| 1 })
  else if isPred v.d then s.setP w (v.d.toNat - 48) (readSrc w x v.a (imm64 v) != 0)
  else s.setS w v.d.toNat (if readPred w x v.a then 1 else 0)

theorem pmov_completes (v : WordS) : Completes (.pmov v) (frameS v) anyCtx (pmoved v) := by
  refine .of_done (fun _ => rfl) fun w x s _ => ?_
  unfold pmoved
  cases bitAt v.mod 0 with
  | true => cases isScalar v.d <;> rfl
  | false => cases isPred v.d <;> rfl

/-- An MFS waits in one case only: FLG, for the C role, under array commands that record flags (R73). -/
theorem mfs_completes (v : WordS) : Completes (.mfs v) (frameS v) (fun w x _ => ¬ (v.mod = 0x0B#9 ∧ w.r = .c ∧ flgBusy x = true))
    (fun w x s => s.setS w v.d.toNat (userSpecial s w.c x w.r v.mod.toNat)) :=
  .of_done (fun _ => rfl) fun _ _ _ hready => if_neg hready

/-- An MTS of an admitted value writes it. -/
theorem mts_completes (v : WordS) (y : Ctx) : Completes (.mts v) (frameS v)
    (fun w x s => setUserSpecial s w.c x w.r v.mod.toNat (readSrc w x v.a (imm64 v)) = some y) (fun w _ s => s.setCtx w.c y) :=
  .of_done (fun _ => rfl) fun _ _ _ hset => by simp only [hset]

/-- An MTS of any other value is the operand-range fault (R111). -/
theorem mts_raises (v : WordS) : Raises (.mts v) (frameS v)
    (fun w x s => setUserSpecial s w.c x w.r v.mod.toNat (readSrc w x v.a (imm64 v)) = none) cRange
    (fun w x _ => readSrc w x v.a (imm64 v)) :=
  .of_fault (fun _ => rfl) fun _ _ _ hset => by simp only [hset]

end Sys2Proof.Machine

namespace Sys2Proof.Proofs

open Sys2Proof.Machine

/-- Settles O2: CMP and PLOG put a truth value; the others take the branch that their hypotheses name. -/
theorem predicatesAndSpecials : Obligations.PredicatesAndSpecials := by
  unfold Obligations.PredicatesAndSpecials
  refine ⟨?cmp, ?plog, ?sel, pmov_completes, mfs_completes, mts_completes, mts_raises⟩
  case cmp | plog => exact .of_putBool fun _ _ => rfl
  case sel => exact fun v => .of_done (fun _ => rfl) fun _ _ _ _ => rfl

end Sys2Proof.Proofs

end

section
/-! SUPPORT and the settled obligation O3: what the effect of each transfer answers, case by case. -/

namespace Sys2Proof.Machine

/-! ## Branches, calls and returns (R115, R116) -/

theorem brp_jumps (v : WordB) : Jumps (.brp v) (frameB v) false false (fun w x _ => readPred w x v.cond ≠ bitAt v.mod 0)
    (fun _ _ _ => targetOf v) (fun _ _ s => s) :=
  .of_goto (fun _ => rfl) fun _ _ _ htaken => if_pos (by simpa using htaken)

theorem brp_completes (v : WordB) : Completes (.brp v) (frameB v) (fun w x _ => readPred w x v.cond = bitAt v.mod 0)
    (fun _ _ s => s) :=
  .of_done (fun _ => rfl) fun _ _ _ hnot => if_neg (by simpa using hnot)

/-- A CALL with room pushes the address of the next word. -/
theorem call_jumps (v : WordB) : Jumps (.call v) (frameB v) true false (fun w x _ => (x.role w.r).ret.length < 16)
    (fun _ _ _ => targetOf v) (fun w _ s => s.modRole w (fun r => { r with ret := ⟨r.pc.sec, r.pc.word + 1⟩ :: r.ret })) :=
  .of_call (fun _ => rfl) fun _ _ _ hroom => if_neg (Nat.not_le.mpr hroom)

theorem call_raises (v : WordB) : Raises (.call v) (frameB v) (fun w x _ => 16 ≤ (x.role w.r).ret.length) cReturn
    (fun _ _ _ => 0) :=
  .of_fault (fun _ => rfl) fun _ _ _ hfull => if_pos hfull

/-- A RET takes the newest address off the stack. -/
theorem ret_jumps (v : WordS) (p : Pos) (l : List Pos) : Jumps (.ret v) (frameS v) false true
    (fun w x _ => (x.role w.r).ret = p :: l) (fun _ x s => landing (s.textOf x) p)
    (fun w _ s => s.modRole w (fun r => { r with ret := l })) :=
  .of_goto (fun _ => rfl) fun _ _ _ hret => by simp only [hret]

theorem ret_raises (v : WordS) : Raises (.ret v) (frameS v) (fun w x _ => (x.role w.r).ret = []) cReturn (fun _ _ _ => 0) :=
  .of_fault (fun _ => rfl) fun _ _ _ hret => by simp only [hret]

/-! ## Counted loops (R118) -/

theorem loop_enters (v : WordB) (n : W64) : Completes (.loop v) (frameB v)
    (fun w x _ => n = (if isImm v.cond then v.count.setWidth 64 else readSrc w x v.cond 0) ∧ 0 < n.toInt)
    (fun w _ s => s.setLoop w (field v.mod 0 2).toNat ⟨n, 1, v.count.toNat⟩) := by
  refine .of_done (fun _ => rfl) ?_
  rintro w x s ⟨rfl, hpos⟩
  exact if_neg (Int.not_le.mpr hpos)

theorem loop_skips (v : WordB) : Jumps (.loop v) (frameB v) false false
    (fun w x _ => (if isImm v.cond then v.count.setWidth 64 else readSrc w x v.cond 0).toInt ≤ 0) (fun _ _ _ => targetOf v)
    (fun _ _ s => s) :=
  .of_goto (fun _ => rfl) fun _ _ _ hcount => if_pos hcount

/-- The last trip leaves the counter at 0. -/
theorem next_leaves (v : WordB) (l : LoopCtr) : Completes (.next v) (frameB v)
    (fun w x _ => (x.role w.r).loop (field v.mod 0 2).toNat = l ∧ l.l = 1)
    (fun w _ s => s.setLoop w (field v.mod 0 2).toNat { l with l := 0 }) := by
  refine .of_done (fun _ => rfl) ?_
  rintro w x s ⟨rfl, hlast⟩
  exact if_pos hlast

/-- Another trip, within the bound. -/
theorem next_repeats (v : WordB) (l : LoopCtr) : Jumps (.next v) (frameB v) false false
    (fun w x _ => (x.role w.r).loop (field v.mod 0 2).toNat = l ∧ l.l ≠ 1 ∧ l.l ≠ 0 ∧ (l.bnd = 0 ∨ l.trip ≠ l.bnd))
    (fun _ _ _ => targetOf v)
    (fun w _ s => s.setLoop w (field v.mod 0 2).toNat { l with l := l.l - 1, trip := l.trip + 1 }) := by
  refine .of_goto (fun _ => rfl) ?_
  rintro w x s ⟨rfl, hlast, hnone, hbound⟩
  have hin : ¬ (((x.role w.r).loop (field v.mod 0 2).toNat).bnd ≠ 0 ∧
      ((x.role w.r).loop (field v.mod 0 2).toNat).trip = ((x.role w.r).loop (field v.mod 0 2).toNat).bnd) :=
    fun ⟨hb, ht⟩ => hbound.elim hb (· ht)
  simp only [if_neg hlast, if_neg hnone, if_neg hin]

/-- No trip is left, or the bound has been reached. -/
theorem next_raises (v : WordB) (l : LoopCtr) : Raises (.next v) (frameB v)
    (fun w x _ => (x.role w.r).loop (field v.mod 0 2).toNat = l ∧ (l.l = 0 ∨ (l.l ≠ 1 ∧ l.bnd ≠ 0 ∧ l.trip = l.bnd))) cBoundOver
    (fun _ _ _ => 0) := by
  refine .of_fault (fun _ => rfl) ?_
  rintro w x s ⟨rfl, hnone | ⟨hlast, hover⟩⟩
  · simp only [hnone]
    rfl
  · simp only [if_neg hlast, if_pos hover, ite_self]

end Sys2Proof.Machine

namespace Sys2Proof.Proofs

open Sys2Proof.Machine

/-- Settles O3: one lemma for each branch of a transfer's effect. -/
theorem transfers : Obligations.Transfers := by
  unfold Obligations.Transfers
  exact ⟨fun v => .of_goto (fun _ => rfl) fun _ _ _ _ => rfl, brp_jumps, brp_completes, call_jumps, call_raises, ret_jumps,
    ret_raises, loop_enters, loop_skips, next_leaves, next_repeats, next_raises⟩

end Sys2Proof.Proofs

end

section
/-! SUPPORT and the settled obligation O58: a write to package memory and a trap record leave every context, and a save and a precise
fault leave the return stacks. -/

namespace Sys2Proof.Machine

variable {s t : State}

/-! ## The record of a trap leaves the contexts (R369, R414) -/

@[simp] theorem State.saveSide_ctxs (s : State) (page : Nat) : (s.saveSide page).ctxs = s.ctxs := by
  unfold State.saveSide
  split <;> rfl

@[simp] theorem State.writeG_ctxs (s : State) (pa : Nat) (l : List Byte) (own : Option Nat) :
    (s.writeG pa l own).ctxs = s.ctxs := s.saveSide_ctxs (pageOf pa)

@[simp] theorem State.writeDev_ctxs (s : State) (pa : Nat) (l : List Byte) : (s.writeDev pa l).ctxs = s.ctxs := by
  unfold State.writeDev
  split
  · rfl
  · exact s.writeG_ctxs pa l none

theorem State.writeRun_ctxs {part va : Nat} {l : List Byte} (h : s.writeRun part va l = some t) : t.ctxs = s.ctxs := by
  unfold State.writeRun at h
  split at h
  · obtain rfl := Option.some.inj h
    exact s.writeDev_ctxs _ l
  · nomatch h

theorem State.storeRec_ctxs {d p : Nat} {e : TrapRec} (h : s.storeRec d p e = some t) : t.ctxs = s.ctxs := by
  simp only [State.storeRec] at h
  split at h
  · nomatch h
  · split at h
    next u hu =>
      obtain rfl := Option.some.inj h
      exact (u.modTrapQ_ctxs d p _).trans (State.writeRun_ctxs hu)
    next => nomatch h

theorem State.appendRec_ctxs {d p : Nat} {e : TrapRec} (h : s.appendRec d p e = some t) : t.ctxs = s.ctxs := by
  simp only [State.appendRec] at h
  split at h
  · nomatch h
  · split at h
    · obtain rfl := Option.some.inj h
      exact s.modTrapQ_ctxs d p _
    · exact State.storeRec_ctxs h

/-! ## A precise fault, a save, an image -/

/-- A precise fault that a queue records leaves the context as `Ctx.entered` says. -/
theorem raise_ctx {w : Who} {x : Ctx} {cause : Nat} {val : W64} (hx : s.ctx w.c = some x)
    (ht : (s.setCtx w.c (x.entered w.r cause)).appendRec (dieOf w.c.cid) x.part (s.faultRec w x cause val) = some t) :
    (s.raise w cause val).ctx w.c = some (x.entered w.r cause) := by
  have hctx : t.ctx w.c = some (x.entered w.r cause) :=
    (congrArg (aget · w.c) (State.appendRec_ctxs ht)).trans (s.ctx_setCtx w.c _)
  obtain ⟨c, r⟩ := w
  simp only [State.raise, State.deliver, State.deliverAt, hx]
  split
  next u hu =>
    have hut : u = t := by cases r <;> exact Option.some.inj (hu.symm.trans ht)
    subst hut
    exact hctx
  next hu => cases r <;> exact nomatch hu.symm.trans ht

/-- A fault stops every role of its context, whichever raised it. -/
theorem entered_role (x : Ctx) (r q : Role) (cause : Nat) : (x.entered r cause).role q = (x.role q).stop := by cases q <;> rfl

theorem toSaved_role (x : Ctx) (image : Option Nat) (no : Nat) (r : Role) : (x.toSaved image no).role r = (x.role r).park := by
  cases r <;> rfl

theorem unreserve_role (x : Ctx) (r : Role) : x.unreserve.role r = x.role r := by
  unfold Ctx.unreserve
  split <;> cases r <;> rfl

theorem abandon_role (x : Ctx) (r : Role) : x.abandon.role r = x.role r := by
  have h : x.abandon.role r = x.unreserve.role r := by cases r <;> rfl
  exact h.trans (unreserve_role x r)

/-- A written image is kept under its number, and holds the context with its accesses abandoned. -/
theorem writeImage_images {c : CtxId} {x : Ctx} {part a : Nat} (h : s.writeImage c x part a = some t) :
    (s.freeIx, x.abandon) ∈ t.images := by
  simp only [State.writeImage] at h
  split at h
  · obtain rfl := Option.some.inj h
    exact List.mem_cons_self
  · nomatch h

theorem startCtx_ret (k : Kernel) (g : Nat) (r : Role) : ((startCtx k g).role r).ret = [] := by cases r <;> rfl

end Sys2Proof.Machine

namespace Sys2Proof.Proofs

open Sys2Proof.Machine

/-- Settles O58: a save and a fault only stop or park a role, which keeps its stack; the clauses of CALL and RET are those of O3. -/
theorem returnStack : Obligations.ReturnStack := by
  unfold Obligations.ReturnStack
  refine ⟨startCtx_ret, ?saved, ?image, call_raises, ret_raises, ?fault, call_jumps⟩
  case saved =>
    intro x image no r
    rw [toSaved_role]
    rfl
  case image =>
    intro s c x part a t h
    exact ⟨x.abandon, writeImage_images h, fun r => congrArg RoleSt.ret (abandon_role x r)⟩
  case fault =>
    intro s w x val t hx ht
    refine ⟨_, raise_ctx hx ht, ?_, ?_⟩
    · rw [entered_role]
      rfl
    · rw [entered_role]
      rfl

end Sys2Proof.Proofs

end

section
/-! SUPPORT and the settled obligation O4: the waits, the stops and LDP, one lemma for each branch of an effect. -/

namespace Sys2Proof.Machine

variable {s : State} {w : Who} {x : Ctx} {dest : Pos}

/-! ## The unassigned opcode and QPT (R45, R89) -/

/-- A word without a row in the map fails the first check, whatever else it carries. -/
theorem unassignedOpcode_raises (v : Word96) (ht : s.turn = .role w.c w.r) (hx : s.ctx w.c = some x)
    (hown : field v 94 2 = 0b11#2 ∨ (field v 94 2).toNat = Role.code w.r) :
    exec (.unassignedOpcode v) s = .next (s.raise w cIllegal 0) :=
  runWord_decodeFault ht hx hown.symm (decodeFault_opcode rfl)

theorem qpt_untagged (v : WordS) (hv : v.role ≠ 0b11#2) : Completes (.qpt v) (frameS v) anyCtx (fun _ _ s => s) := by
  have ha : (v.role == 0b11#2) = false := beq_eq_false_iff_ne.mpr hv
  refine .of_done (fun _ => rfl) fun _ _ _ _ => ?_
  simp only [effQpt, ha, Bool.not_false, if_true]

/-- Without a token bit there is no pop, and the state is as it was. -/
theorem popped_of_no_pops {f : Frame} (h : tokPops w.r f.tok = []) : f.popped w x = x ∧ s.popped f w x = s := by
  simp [Frame.popped, State.popped, h]

theorem tokPops_zero (r : Role) : tokPops r 0 = [] := by cases r <;> rfl

/-- Every live role stands at the quiet point, whose accesses have completed, with empty queues (R45, R176). -/
structure AtQuiet (s : State) (w : Who) (x : Ctx) : Prop where
  met : allAt x w.r = true
  done : x.flights = []
  saves : x.async.any (·.isSave) = true → s.saveReady w.c x = true
  empty : x.queuesEmpty = true

/-- There the QPT is retired by all roles, and the events held off are taken. -/
theorem effQpt_quiet (hq : AtQuiet s w x) (hd : fallThrough (s.textOf x) (x.role w.r).pc = some dest)
    (hc : countFull (x.role w.r) (restOf 0 none (x.role w.r).pc dest false false true).enter
      (restOf 0 none (x.role w.r).pc dest false false true).exit = false) :
    effQpt true w x s = .final (((retireOthers s w x).retire w (restOf 0 none (x.role w.r).pc dest false false true)).takeAsync w.c 0) := by
  obtain ⟨hmet, hdone, hsaves, hempty⟩ := hq
  have hgo : ¬ ((!allAt x w.r) = true ∨ (!x.flights.isEmpty) = true ∨
      (x.async.any (·.isSave) = true ∧ (!s.saveReady w.c x) = true)) := by
    rintro (h | h | ⟨hsave, h⟩)
    · simp [hmet] at h
    · simp [hdone] at h
    · simp [hsaves hsave] at h
  simp only [effQpt, Bool.not_true, Bool.false_eq_true, if_false, if_neg hgo, hempty, hd, hc]

theorem qpt_retires (v : WordS) (hv : v.role = 0b11#2) (hi : Issues (.qpt v) (frameS v) s w x) (hf : Falls (frameS v) s w x dest)
    (htok : v.tok = 0) (hq : AtQuiet s w x) : exec (.qpt v) s =
      .next (((retireOthers s w x).retire w (restOf 0 none (x.role w.r).pc dest false false true)).takeAsync w.c 0) := by
  have hA : (frameS v).isA = true := beq_iff_eq.mpr hv
  have hpops : tokPops w.r (frameS v).tok = [] := (congrArg (tokPops w.r) htok).trans (tokPops_zero w.r)
  obtain ⟨hpx, hps⟩ := popped_of_no_pops (x := x) (s := s) hpops
  obtain ⟨hnext, -, hcount⟩ := hf
  have hcount : countFull (x.role w.r) (restOf 0 none (x.role w.r).pc dest false false true).enter
      (restOf 0 none (x.role w.r).pc dest false false true).exit = false := by rwa [hA, show (frameS v).tok = 0 from htok] at hcount
  have heff : effQpt (v.role == 0b11#2) w ((frameS v).popped w x) (s.popped (frameS v) w x) =
      .final (((retireOthers s w x).retire w (restOf 0 none (x.role w.r).pc dest false false true)).takeAsync w.c 0) := by
    rw [hpx, hps, hv]
    exact effQpt_quiet hq hnext hcount
  exact hi.final heff

/-! ## HALT (R124) -/

/-- While another role is live a HALT halts its own, which stays at the word. -/
theorem halt_stays (v : WordS) (e : Rest) : Answers (.halt v) (frameS v)
    (fun w x s => othersLive x w.r = true ∧ retireWait (s.core w.c.cid) (s.textOf x) x w e = none ∧
      e = ⟨v.tok, none, (x.role w.r).pc, none, none, if (frameS v).isA then some (x.role w.r).pc else none⟩)
    (fun w x s => (s.setCtx w.c { x.haltRole w.r with leaseAsk := x.leaseAsk && w.r != .c }).retire w e) := by
  rintro s w x hi ⟨hlive, hroom, rfl⟩
  rw [popped_textOf _ _ _ _ hi.ctx] at hroom
  rw [Frame.popped_pc] at hroom ⊢
  exact Issues.stay (e := effHalt) hi (fun _ => hroom) (if_pos hlive)

theorem halt_ends (v : WordS) : Answers (.halt v) (frameS v)
    (fun w x s => othersLive x w.r = false ∧ x.drained s w.c = true ∧ x.queuesEmpty = true)
    (fun w x s => (s.setCtx w.c ((x.haltRole w.r).setRole w.r { (x.haltRole w.r).role w.r with wait := none })).finishCtx w.c) := by
  refine .of_final (e := effHalt) (fun _ => rfl) ?_
  rintro w x s ⟨hlast, hdrained, hempty⟩
  simp [effHalt, hlast, hdrained, hempty]

theorem halt_raises (v : WordS) : Raises (.halt v) (frameS v)
    (fun w x s => othersLive x w.r = false ∧ x.drained s w.c = true ∧ x.queuesEmpty = false) cQuiet (fun _ _ _ => 0) := by
  refine .of_fault (e := effHalt) (fun _ => rfl) ?_
  rintro w x s ⟨hlast, hdrained, hleft⟩
  simp [effHalt, hlast, hdrained, hleft]

/-! ## Broadcast predicates and clocks (R119, R121, R122) -/

/-- A BQS with room pushes its entry, unless no other role is live to read it. -/
theorem bqs_completes (v : WordS) (e : BEnt) : Completes (.bqs v) (frameTryS v)
    (fun w x _ => x.bf.length < 8 ∧ e = ⟨readPred w x v.a != bitAt v.mod 0, w.r,
      Role.all.filter (fun y => y != w.r && (x.role y).live)⟩)
    (fun w x s => if e.readers = [] then s else s.setCtx w.c { x with bf := x.bf ++ [e] }) := by
  refine .of_done (fun _ => rfl) ?_
  rintro w x s ⟨hroom, rfl⟩
  simp only [if_neg (Nat.not_le.mpr hroom), List.isEmpty_iff]

theorem bqr_completes (v : WordS) (b : Bool) (l : List BEnt) : Completes (.bqr v) (frameTryS v)
    (fun w x _ => readBf x.bf w.r = some (b, l)) (fun w x s => (s.setCtx w.c { x with bf := l }).setP w (v.d.toNat - 48) b) :=
  .of_done (fun _ => rfl) fun _ _ _ hread => by simp only [hread]

theorem waitc_completes (v : WordS) : Completes (.waitc v) (frameTryS v)
    (fun w x s => (readSrc w x v.a (imm64 v)).toNat ≤ (waitClock v s w.c).toNat) (fun _ _ s => s) :=
  .of_done (fun _ => rfl) fun _ _ _ hcome => if_pos (BitVec.le_def.mpr hcome)

/-- No cycle is to be yielded exactly where the source is 0. -/
theorem yield_eq_zero (a : W64) : Nat.min a.toNat 4095 = 0 ↔ a = 0 := by
  rw [← BitVec.toNat_inj]
  simp only [BitVec.ofNat_eq_ofNat, BitVec.toNat_ofNat, Nat.zero_mod, Nat.min_def]
  split <;> omega

theorem yld_completes (v : WordS) : Completes (.yld v) (frameS v) (fun w x _ => (x.role w.r).yieldLeft = some 0 ∨
    (x.role w.r).yieldLeft = none ∧ readSrc w x v.a (imm64 v) = 0) (fun _ _ s => s) := by
  refine .of_done (fun _ => rfl) ?_
  rintro w x s (hover | ⟨hnew, hzero⟩)
  · simp only [hover]
  · simp only [hnew, if_pos ((yield_eq_zero _).mpr hzero)]

theorem yld_yields (v : WordS) : Answers (.yld v) (frameS v)
    (fun w x _ => (x.role w.r).yieldLeft = none ∧ readSrc w x v.a (imm64 v) ≠ 0)
    (fun w x s => s.modRole w (fun r =>
      { r with yieldLeft := some (Nat.min (readSrc w x v.a (imm64 v)).toNat 4095), wait := none })) := by
  refine .of_final (fun _ => rfl) ?_
  rintro w x s ⟨hnew, hsome⟩
  simp only [hnew, if_neg (mt (yield_eq_zero _).mp hsome)]

/-! ## Traps (R125) and pool reads (R126) -/

theorem trap_delivers (v : WordS) (hi : Issues (.trap v) (frameS v) s w x) (hf : Falls (frameS v) s w x dest)
    (hrun : x.state = .run) : exec (.trap v) s =
      .next (((frameS v).finish w (x.role w.r).pc dest none (s.popped (frameS v) w x)).deliver w.c (Role.code w.r) cTrap
        (trapCode v) 0 true) :=
  Issues.trap (e := fun _ _ s => .trap cTrap (trapCode v) s) hi hf rfl rfl hrun rfl

/-- Pops leave DBGEN, which decides what a BKPT does. -/
theorem bkpt_delivers (v : WordS) (hi : Issues (.bkpt v) (frameS v) s w x) (hf : Falls (frameS v) s w x dest)
    (hrun : x.state = .run) (hd : x.dbgen = false) : exec (.bkpt v) s =
      .next (((frameS v).finish w (x.role w.r).pc dest none (s.popped (frameS v) w x)).deliver w.c (Role.code w.r) cBkpt
        (trapCode v) 0 true) := by
  have hoff : ¬ ((frameS v).popped w x).dbgen = true := by simp [(popped_kept (frameS v) w x).dbgen, hd]
  exact Issues.trap (e := fun w x s => if x.dbgen then .final (s.modRole w (fun r => { r with dbgHalt := true }))
    else .trap cBkpt (trapCode v) s) hi hf rfl rfl hrun (if_neg hoff)

theorem bkpt_halts (v : WordS) : Answers (.bkpt v) (frameS v) (fun _ x _ => x.dbgen = true)
    (fun w _ s => s.modRole w (fun r => { r with dbgHalt := true })) :=
  .of_final (fun _ => rfl) fun _ _ _ hd => if_pos hd

/-- An LDP passes its checks in their order: alignment, the section's bounds, sound bytes. -/
theorem ldp_completes (v : WordS) (sec : Section) (n : Nat) (a : W64) : Completes (.ldp v) (frameS v)
    (fun w x s => sectionOf (s.textOf x) (field v.imm 40 8).toNat = some sec ∧ n = 2 ^ (field v.mod 0 2).toNat ∧
      a = (field v.imm 0 32).setWidth 64 + readSrc w x v.a 0 ∧ a.toNat % n = 0 ∧ a.toNat + n ≤ sec.body.length ∧
      x.textBad (field v.imm 40 8).toNat a.toNat n = false)
    (fun w _ s => s.setS w v.d.toNat (if bitAt v.mod 2 then w64 (signed (8 * n) (numAt sec.body a.toNat n))
      else BitVec.ofNat 64 (numAt sec.body a.toNat n))) := by
  refine .of_done (fun _ => rfl) ?_
  rintro w x s ⟨hsec, rfl, rfl, haligned, hin, hsound⟩
  simp only [hsec, if_neg (not_not_intro haligned), if_neg (Nat.not_lt.mpr hin), hsound, Bool.false_eq_true, if_false]
  rfl

end Sys2Proof.Machine

namespace Sys2Proof.Proofs

open Sys2Proof.Machine

/-- Settles O4: one lemma for each branch; NOP and a hint have the empty effect. -/
theorem waitsAndStops : Obligations.WaitsAndStops := by
  unfold Obligations.WaitsAndStops
  refine ⟨?nop, ?hint, ?unassigned, qpt_untagged, ?qpt, halt_stays, halt_ends, halt_raises, bqs_completes, bqr_completes,
    waitc_completes, yld_completes, yld_yields, ?trap, ?bkpt, bkpt_halts, ldp_completes⟩
  case nop => exact fun v => .of_done (fun _ => rfl) fun _ _ _ _ => rfl
  case hint => exact fun n v => .of_done (fun _ => rfl) fun _ _ _ _ => rfl
  case unassigned => exact fun v s w x ht hx hown => unassignedOpcode_raises v ht hx hown
  case qpt =>
    intro v s w x dest hv hi hf htok hmet hdone hsaves hempty
    exact qpt_retires v hv hi hf htok ⟨hmet, hdone, hsaves, hempty⟩
  case trap => exact fun v s w x dest hi hf hrun => trap_delivers v hi hf hrun
  case bkpt => exact fun v s w x dest hi hf hrun hd => bkpt_delivers v hi hf hrun hd

end Sys2Proof.Proofs

end

section
/-! SUPPORT and the refuted obligation O59. A push to a q-register first reserves the entries that array commands still wait for there
(R202, R245), which the frame of a vector instruction does not allow for. -/

namespace Sys2Proof.Machine

/-- The frame of an instruction leaves the array command queue as it was. -/
theorem Leaves.acmds {y x : Ctx} {r : Role} {d : BitVec 6} {codes : List (BitVec 6)} (h : Leaves y x r d codes) :
    y.acmds = x.acmds :=
  (congrArg Ctx.acmds h.ctx).trans (by cases r <;> rfl)

/-- An EPI of one row into q0 that has still to reserve the row's entry. -/
def owingEpi : ACmd := { acc := 0, kind := .epi 0 1 (some 0) 0 0 false {}, cpt := 0, owed := 1 }

/-- A context with that command, in which q0 is empty: it was full when the EPI was accepted, and its consumer has popped every entry
since. -/
def owingCtx : Ctx := { acmds := [owingEpi] }

/-- The C role of that context moves. -/
def owingState : State :=
  { State.reset with turn := .role ⟨0, 0⟩ .c, ctxs := [(⟨0, 0⟩, owingCtx)], kernels := [fetchKernel 0 0] }

def owingRole : Who := ⟨⟨0, 0⟩, .c⟩

/-- VADD.f32 q0, s0, s0 by the C role. -/
def vaddToQ0 : WordV :=
  { role := 1, tok := 0, guard := 0, d := 32, a := 0, b := 0, c := 0, lm := 0, type := 8, rm := 0, ka := 0, kb := 0, kc := 0, imm := 0 }

theorem vaddToQ0_issues : Issues (.vadd vaddToQ0) (frameV vaddToQ0) owingState owingRole owingCtx where
  turn := rfl
  ctx := rfl
  tag := .inl rfl
  legal := by decide +kernel
  agree := nofun
  pops := .inr (by decide)
  pushes := nofun
  guard := rfl
  data := rfl

theorem vaddToQ0_falls : Falls (frameV vaddToQ0) owingState owingRole owingCtx ⟨0, 1⟩ where
  next := by decide +kernel
  room := fun _ => by decide +kernel
  count := by decide +kernel

/-- Of the four entries of q0 three are free beside the one that is owed to the EPI. -/
theorem vaddToQ0_ready : vReady vaddToQ0 2 owingRole owingCtx owingState := by
  unfold vReady
  decide +kernel

/-- The entries that the commands of a context have still to reserve, after an outcome. -/
def owedAfter (o : Out) (c : CtxId) : Option (List Nat) :=
  match o with
  | .next t => (t.ctx c).map fun y => y.acmds.map (·.owed)
  | _ => none

/-- The push has given the EPI its entry. -/
theorem vaddToQ0_reserves : owedAfter (exec (.vadd vaddToQ0) owingState) owingRole.c = some [0] := by decide +kernel

end Sys2Proof.Machine

namespace Sys2Proof.Proofs

open Sys2Proof.Machine

/-- Refutes O59: a VADD into q0, where an EPI has still to reserve an entry, reserves it for the EPI before its own push; the EPI's
count in the array command queue goes from 1 to 0, and the clause for vector instructions has the array command queue stand. -/
theorem not_registerFrames : ¬ Obligations.RegisterFrames := by
  unfold Obligations.RegisterFrames
  rintro ⟨-, htwo, -, -⟩
  obtain ⟨y, hexec, hleaves⟩ := htwo .vadd List.mem_cons_self vaddToQ0 owingState owingRole owingCtx ⟨0, 1⟩ vaddToQ0_issues
    vaddToQ0_falls vaddToQ0_ready rfl
  have howed : some (y.acmds.map (·.owed)) = some [0] := by
    have hreserves := vaddToQ0_reserves
    rwa [hexec, owedAfter, State.ctx_setCtx, Option.map_some] at hreserves
  rw [hleaves.acmds] at howed
  exact absurd howed (by decide)

end Sys2Proof.Proofs

end

section
/-! SUPPORT. From the effect of a vector instruction to its claim, and the decode checks that a well-formed word passes. -/

namespace Sys2Proof.Machine

variable {mk : WordV → Instr} {n : Nat}

/-- With its sources there and room in the destination the effect is performed (R131). -/
theorem effV_ready {v : WordV} {f : VIn → VRes} {w : Who} {x : Ctx} {s : State} (hready : vReady v n w x s) :
    effV v n f w x s = .done (vOut v n w x (f (vIn v n w x)) s) := by
  have hstop : (vTake v n w x).stop (vDst v) = none := hready
  simp only [effV, hstop]

/-- A vector instruction whose effect is `effV` of its function completes with that function of its sources. -/
theorem VComputes.of_effV {g : WordV → VIn → VRes} (hrun : ∀ v s, exec (mk v) s = runV (mk v) v (effV v n (g v)) s) :
    VComputes mk n g :=
  fun v => .of_done (hrun v) fun _ _ _ hready => effV_ready hready

/-- One that rounds once per lane (R60, R133). -/
theorem VFloat.of_effF {g : RMode → FVal → FVal → FVal → W32 → Res}
    (hrun : ∀ v s, exec (mk v) s = runV (mk v) v (effF v n g) s) : VFloat mk n g :=
  .of_effV hrun

/-- One that computes lane by lane (R130). -/
theorem VLanes.of_perLane {g : WordV → W32 → W32 → W32 → Res}
    (hrun : ∀ v s, exec (mk v) s =
      runV (mk v) v (effV v n fun m => perLane m fun i => g v (lane m.a i) (lane m.b i) (lane m.c i)) s) : VLanes mk n g :=
  .of_effV hrun

/-- A transcendental sequence on the f32 value of each lane (R135). -/
theorem VLanes.of_effT {g : FVal → Res} (hrun : ∀ v s, exec (mk v) s = runV (mk v) v (effT v g) s) :
    VLanes mk 1 (fun _ a _ _ => g (f32 a)) :=
  .of_perLane hrun

/-- A bit operation on one source word, which raises no flag (R141). -/
theorem VLanes.of_effI1 {g : WordV → W32 → W32} (hrun : ∀ v s, exec (mk v) s = runV (mk v) v (effI1 v (g v)) s) :
    VLanes mk 1 (fun v a _ _ => bare (g v a)) :=
  .of_perLane hrun

/-- An integer or bit operation on two source words, which raises no flag (R140, R141). -/
theorem VLanes.of_effI2 {g : WordV → W32 → W32 → W32} (hrun : ∀ v s, exec (mk v) s = runV (mk v) v (effI2 v (g v)) s) :
    VLanes mk 2 (fun v a b _ => bare (g v a b)) :=
  .of_perLane hrun

/-- Lanes that raise nothing leave no flag. -/
theorem foldl_unflagged (en : Nat → Bool) (l : List Nat) :
    l.foldl (fun (fl : Flags) i => if en i then fl ||| 0#5 else fl) 0#5 = 0#5 := by
  induction l with
  | nil => rfl
  | cons i l ih =>
    have hfirst : (if en i then 0#5 ||| 0#5 else 0#5) = 0#5 := ite_self _
    rw [List.foldl_cons, hfirst, ih]

/-- Lanes without flags: each enabled lane receives its word, and no flag is raised (R130). -/
theorem perLane_bare (m : VIn) (g : Nat → W32) :
    perLane m (fun i => bare (g i)) = { lanes := laneIx.map (fun i => if m.en i then g i else 0), lfsr := m.lfsr } := by
  have hflags : laneIx.foldl (fun fl i => if m.en i then fl ||| (bare (g i)).flags else fl) 0 = 0 :=
    foldl_unflagged m.en laneIx
  rw [perLane, hflags]
  simp only [bare, BitVec.ofNat_toNat, BitVec.setWidth_eq]

/-- No check fails exactly where each of them holds (R89). -/
theorem firstBad_eq_none_iff {l : List (Bool × Violation)} : firstBad l = none ↔ ∀ p ∈ l, p.1 = true := by
  induction l with
  | nil => simp [firstBad]
  | cons p l ih => cases hp : p.1 <;> simp [firstBad, hp, ih]

/-- A format V word that fails no check has a destination and sources that its instruction admits (R129). -/
theorem operands_of_checkV {v : WordV} {d src ty rm im : Bool} (h : checkV v d src ty rm im = none) : d = true ∧ src = true := by
  have hoperand := firstBad_eq_none_iff.mp h _ (List.mem_append_right _ List.mem_cons_self)
  simp only [Bool.and_eq_true] at hoperand
  obtain ⟨⟨⟨⟨⟨hd, hsrc⟩, -⟩, -⟩, -⟩, -⟩ := hoperand
  exact ⟨hd, hsrc⟩

end Sys2Proof.Machine
end

section
/-! The settled obligation O5: each floating-point vector instruction rounds per lane, or computes lane by lane. -/

namespace Sys2Proof.Proofs

open Sys2Proof.Machine

/-- Settles O5: the rounding instructions by `VFloat.of_effF`, the others by the rule of their kind of effect. -/
theorem vectorFloat : Obligations.VectorFloat := by
  unfold Obligations.VectorFloat
  refine ⟨?vadd, ?vsub, ?vmul, ?vfma, ?vfms, ?vfnma, ?vdiv, ?vsqrt, ?vmin, ?vmax, ?vabs, ?vneg, ?vrcp, ?vrsq, ?vexp2, ?vlog2⟩
  case vadd | vsub | vmul | vfma | vfms | vfnma | vdiv | vsqrt => exact .of_effF fun _ _ => rfl
  case vmin | vmax | vabs | vneg => exact .of_perLane fun _ _ => rfl
  case vrcp | vrsq | vexp2 | vlog2 => exact .of_effT fun _ _ => rfl

end Sys2Proof.Proofs
end

section
/-! The settled obligation O6: an integer or bit vector instruction is a function of one, two or three source words. -/

namespace Sys2Proof.Proofs

open Sys2Proof.Machine

/-- Settles O6: the saturating operations raise flags, and VIMAD reads three sources; the others are bare words of one or two. -/
theorem vectorInteger : Obligations.VectorInteger := by
  unfold Obligations.VectorInteger
  refine ⟨?viadd, ?visub, ?vimul, ?vimad, ?vimulh, ?vsadd, ?vssub, ?vimin, ?vimax, ?viabs, ?vshl, ?vshr, ?vsra, ?vand, ?vor,
    ?vxor, ?vpopc, ?vclz⟩
  case viadd | visub | vimul | vimulh | vimin | vimax | vshl | vshr | vsra | vand | vor | vxor =>
    exact .of_effI2 fun _ _ => rfl
  case vpopc | vclz => exact .of_effI1 fun _ _ => rfl
  case vimad | vsadd | vssub | viabs => exact .of_perLane fun _ _ => rfl

end Sys2Proof.Proofs
end

section
/-! SUPPORT and the settled obligations O7 and O57: conversions, lane moves, and the selection by the bits of a scalar. -/

namespace Sys2Proof.Machine

/-- The lanes that VSEL leaves: a's where the bit of the scalar c is 1, b's elsewhere (R144). -/
def selected (v : WordV) (w : Who) (x : Ctx) (m : VIn) : VRes :=
  perLane m (fun i => bare (if bitAt ((x.role w.r).s v.c.toNat) i then lane m.a i else lane m.b i))

/-- VSEL reads c beside its two vector sources, whole (R144). -/
theorem vsel_completes (v : WordV) : Completes (.vsel v) (frameV v) (vReady v 2)
    (fun w x s => vOut v 2 w x (selected v w x (vIn v 2 w x)) s) :=
  .of_done (e := fun w x s => effV v 2 (selected v w x) w x s) (fun _ => rfl) fun _ _ _ hready => effV_ready hready

/-- Of the sources the mask and the LFSRs are the context's own, and no flag is raised. -/
theorem selected_vIn (v : WordV) (w : Who) (x : Ctx) : selected v w x (vIn v 2 w x) =
    { lanes := laneIx.map (fun i => if bitAt (vMask w x v.lm) i then
        (if bitAt ((x.role w.r).s v.c.toNat) i then lane (vIn v 2 w x).a i else lane (vIn v 2 w x).b i) else 0)
      lfsr := x.lfsr } :=
  perLane_bare _ _

/-- The c of a well-formed VSEL names a scalar (R144). -/
theorem vsel_scalar_lt {v : WordV} (h : WellFormed (.vsel v)) : v.c.toNat < 32 := by
  obtain ⟨-, hsrc⟩ := operands_of_checkV h
  simp only [Bool.and_eq_true] at hsrc
  obtain ⟨⟨-, hc⟩, -⟩ := hsrc
  exact of_decide_eq_true hc

end Sys2Proof.Machine

namespace Sys2Proof.Proofs

open Sys2Proof.Machine

/-- Settles O7: each effect is the stated function of what is read; VSEL reads its scalar beside. -/
theorem vectorConvertAndMove : Obligations.VectorConvertAndMove := by
  unfold Obligations.VectorConvertAndMove
  refine ⟨?vcvt, ?vpack, ?vunpk, ?vqbfp, ?vdqbfp, ?vmov, ?vins, ?vext, ?vperm, ?vrot, ?vcmpr, ?vexpd, vsel_completes⟩
  case vmov => exact .of_effI1 fun _ _ => rfl
  case vcvt | vpack | vunpk | vqbfp | vdqbfp | vins | vext | vperm | vrot | vcmpr | vexpd => exact .of_effV fun _ _ => rfl

/-- Settles O57: the opcode from the word, c's range from the decode checks, the lanes from `vsel_completes`. -/
theorem selectByMask : Obligations.SelectByMask := by
  unfold Obligations.SelectByMask
  refine ⟨?opcode, fun v => vsel_scalar_lt, fun v => ?lanes⟩
  case opcode =>
    intro v w h
    obtain rfl := Option.some.inj h
    exact (getV_putV _ v).2
  case lanes =>
    simp only [← selected_vIn]
    exact vsel_completes v

end Sys2Proof.Proofs
end

section
/-! The settled obligation O8: comparisons, reductions, scans and searches. -/

namespace Sys2Proof.Proofs

open Sys2Proof.Machine

/-- Settles O8: each effect is the stated mask, tree, scan or search of what is read. -/
theorem vectorToScalar : Obligations.VectorToScalar := by
  unfold Obligations.VectorToScalar
  refine ⟨?vcmp, ?vicmp, ?vred, ?vscan, ?varg⟩
  case vcmp | vicmp | vred | vscan | varg => exact .of_effV fun _ _ => rfl

end Sys2Proof.Proofs
end

section
/-! SUPPORT. From an effect that leaves a flight, or that meets a host link that is down, to what its instruction does. -/

namespace Sys2Proof.Machine

variable {i : Instr} {f : Frame} {e : Effect} {pre : Who → Ctx → State → Prop}

/-- An effect that leaves a flight starts. -/
theorem Starts.of_load {eff : Who → Ctx → State → Nat × State} (hrun : ∀ s, exec i s = runWord i f e s)
    (he : ∀ w x s, pre w x s → e w x s = .load (eff w x s).1 (eff w x s).2) : Starts i f pre eff := by
  intro s w x dest hi hf hp
  rw [hrun]
  exact hi.load hf (he w _ _ hp)

/-- An access that finds its link down sets LDN of the port and raises the host-access fault, without the pops (R169, R439). -/
theorem Issues.linkDown {s : State} {w : Who} {x : Ctx} {port : Nat} {val : W64} (h : Issues i f s w x)
    (he : e w (f.popped w x) (s.popped f w x) = .linkDown port val) :
    runWord i f e s =
      .next ((s.modWindow x.part port (fun h => { h with pests := h.pests ||| 0b10000#5 })).raise w cHost val) := by
  rw [h.runWord_eq, he]
  simp only [runTail]

end Sys2Proof.Machine
end

section
/-! SUPPORT and the settled obligations O9, O10 and O11: what the effects of a load and of a store answer. -/

namespace Sys2Proof.Machine

variable {s : State} {w : Who} {x : Ctx} {v : WordM} {sp : Space} {p : Place}

/-! ## Loads (R163, R164) -/

/-- The place of an L access is an offset of the context's own A buffer. -/
theorem place_l {a : Acc} (ha : a.sp = .l) (h : place s w x a = .ok p) : p = .a w.c (a.off a.base).toNat := by
  simp only [place, ha] at h
  split at h
  · nomatch h
  · split at h
    · nomatch h
    · exact (Placed.ok.inj h).symm

/-- A load with nothing in its way leaves its flight. -/
theorem effLoad_ready (h : loadReady sp v p w x s) :
    effLoad sp v w x s = .load (loadIssued sp v p w x s).1 (loadIssued sp v p w x s).2 := by
  obtain ⟨hplace, hhold, hfew, hport, hsound, hacquire, hroom⟩ := h
  have hfree : ¬ (32 ≤ inFlight x w.r ∨ s.portFull p = true) := by simp [Nat.not_le.mpr hfew, hport]
  have hquiet : ¬ (sp = .l ∧ bitAt v.order 0 = true ∧ 2 ≤ v.scope.toNat ∧ s.logUsers w.c.cid = true) := by
    rintro ⟨hl, hord, hscope, husers⟩
    simp [hacquire hl hord hscope] at husers
  have hhold : roleHold s w x p (accOf sp v w x false).size = none := hhold
  simp only [effLoad, hplace, hhold, if_neg hfree]
  rw [if_neg ?sound, if_neg hquiet]
  case sound =>
    rintro ⟨rfl, hbad⟩
    obtain rfl := place_l rfl hplace
    exact Bool.false_ne_true ((hsound rfl _ _ rfl).symm.trans hbad)
  cases hq : isQ v.data with
  | true =>
    simp only [hroom hq, if_true, loadIssued, loadLeft, hq]
    rfl
  | false =>
    simp only [Bool.false_eq_true, if_false, loadIssued, loadLeft, hq]
    rfl

/-- A load instruction, whose effect is `effLoad`, leaves its flight. -/
theorem Loads.of_effLoad {mk : WordM → Instr} (hrun : ∀ v s, exec (mk v) s = runM (mk v) v (effLoad sp v) s) : Loads mk sp :=
  fun v _ => .of_load (hrun v) fun _ _ _ => effLoad_ready

theorem effLoad_fault {cause : Nat} {val : W64} (h : place s w x (accOf sp v w x false) = .fault cause val) :
    effLoad sp v w x s = .fault cause val := by
  simp only [effLoad, h]

theorem effLoad_down {port : Nat} {val : W64} (h : place s w x (accOf sp v w x false) = .down port val) :
    effLoad sp v w x s = .linkDown port val := by
  simp only [effLoad, h]

/-! ## Stores (R163, R165) -/

/-- A store with its place and room is accepted. -/
theorem effStore_ready (h : storeReady sp v p w x s) : effStore sp v w x s = .done (storeAccepted sp v p w x s) := by
  obtain ⟨hplace, hhold, hroom, hentry⟩ := h
  have hhold : roleHold s w x p (accOf sp v w x true).size = none := hhold
  simp only [effStore, hplace, hhold, hroom, storeAccepted]
  cases hq : isQ v.data with
  | true =>
    simp only [if_true, withQ, hentry hq]
    rfl
  | false =>
    simp only [Bool.false_eq_true, if_false]
    rfl

/-- A store instruction, whose effect is `effStore`, is accepted. -/
theorem Stores.of_effStore {mk : WordM → Instr} (hrun : ∀ v s, exec (mk v) s = runM (mk v) v (effStore sp v) s) : Stores mk sp :=
  fun v _ => .of_done (hrun v) fun _ _ _ => effStore_ready

theorem effStore_fault {cause : Nat} {val : W64} (h : place s w x (accOf sp v w x true) = .fault cause val) :
    effStore sp v w x s = .fault cause val := by
  simp only [effStore, h]

/-! ## Accesses without a place (R175) -/

theorem PlaceFaults.of_effLoad {mk : WordM → Instr} (hrun : ∀ v s, exec (mk v) s = runM (mk v) v (effLoad sp v) s) :
    PlaceFaults mk sp false :=
  fun v _ _ => .of_fault (hrun v) fun _ _ _ => effLoad_fault

theorem PlaceFaults.of_effStore {mk : WordM → Instr} (hrun : ∀ v s, exec (mk v) s = runM (mk v) v (effStore sp v) s) :
    PlaceFaults mk sp true :=
  fun v _ _ => .of_fault (hrun v) fun _ _ _ => effStore_fault

/-- An LDH whose link is down (R169). -/
theorem ldh_linkDown {port : Nat} {val : W64} (hi : Issues (.ldh v) (frameM v) s w x)
    (h : place (s.popped (frameM v) w x) w ((frameM v).popped w x) (accOf .h v w ((frameM v).popped w x) false) = .down port val) :
    exec (.ldh v) s =
      .next ((s.modWindow x.part port (fun h => { h with pests := h.pests ||| 0b10000#5 })).raise w cHost val) :=
  hi.linkDown (e := effLoad .h v) (effLoad_down h)

end Sys2Proof.Machine

namespace Sys2Proof.Proofs

open Sys2Proof.Machine

/-- Settles O9: the six loads have one effect, which leaves the flight. -/
theorem loadsIssue : Obligations.LoadsIssue := by
  unfold Obligations.LoadsIssue
  refine ⟨?ldl, ?ldk, ?ldg, ?ldf, ?ldo, ?ldh⟩
  case ldl | ldk | ldg | ldf | ldo | ldh => exact .of_effLoad fun _ _ => rfl

/-- Settles O10: the six stores have one effect, which fills the entry. -/
theorem storesAccepted : Obligations.StoresAccepted := by
  unfold Obligations.StoresAccepted
  refine ⟨?stl, ?stk, ?stg, ?stf, ?sto, ?sth⟩
  case stl | stk | stg | stf | sto | sth => exact .of_effStore fun _ _ => rfl

/-- Settles O11: both effects begin with the place, and pass on its fault; so does LDH a link that is down. -/
theorem accessFaults : Obligations.AccessFaults := by
  unfold Obligations.AccessFaults
  refine ⟨?ldl, ?stl, ?ldk, ?stk, ?ldg, ?stg, ?ldf, ?stf, ?ldo, ?sto, ?ldh, ?sth, ?down⟩
  case ldl | ldk | ldg | ldf | ldo | ldh => exact .of_effLoad fun _ _ => rfl
  case stl | stk | stg | stf | sto | sth => exact .of_effStore fun _ _ => rfl
  case down => exact fun v port val s w x hi h => ldh_linkDown hi h

end Sys2Proof.Proofs

end

section
/-! SUPPORT and the settled obligation O12: gather, scatter, prefetch, the atomics and FENCE. -/

namespace Sys2Proof.Machine

variable {s : State} {w : Who} {x : Ctx} {v : WordM} {sp : Space} {p : Place}

/-! ## Gather and scatter (R170) -/

/-- What keeps the role's access from the lanes at `os`: an access of the role that overlaps one of them (R164). -/
def lanesHeld (v : WordM) (w : Who) (x : Ctx) (os : List W64) : Bool :=
  x.flights.any (fun f => f.role == w.r && os.any (fun o => f.overlaps (.a w.c o.toNat) (widthBytes v.width)))

/-- An LDLX passes its checks in their order, and its flight has the lanes' data at once. -/
theorem ldlx_starts (v : WordM) (os : List W64) : Starts (.ldlx v) (frameM v)
    (fun w x s => ((Taken.q { x := x } (qOf v.index) false).stop none = none) ∧
      os = laneOffs v w x (headLanes x (qOf v.index)) ∧ laneFault x (widthBytes v.width) os = none ∧
      roleHold s w x (.window 0) 0 = none ∧ lanesHeld v w x os = false ∧
      inFlight x w.r < 32 ∧ (Taken.q { x := x } (qOf v.index) false).stop (some (qOf v.data)) = none ∧
      os.any (fun o => s.badS w.c 0 o.toNat (widthBytes v.width)) = false)
    (fun w x s => (x.nextId, s.addFlight w ((Taken.q { x := x } (qOf v.index) false).x.qReserve (qOf v.data))
      { loadFlight s w x v (.a w.c 0) 0 0 (.qent (qOf v.data) x.nextId) with
        data := some (gatherA (s.ownA w x) (widthBytes v.width) (os.map (·.toNat)))
        lanes := os.map (·.toNat), lsize := widthBytes v.width })) := by
  refine .of_load (e := effLdlx v) (fun _ => rfl) ?_
  rintro w x s ⟨hindex, hos, hlanes, hhold, hheld, hfew, hroom, hsound⟩
  unfold lanesHeld at hheld
  unfold effLdlx
  simp only [hindex, ← hos, hlanes, hhold, hheld, if_neg (Nat.not_le.mpr hfew), hsound, hroom, Bool.false_eq_true, if_false]

/-- An STLX passes its checks in their order, and puts its lanes in the store buffer. -/
theorem stlx_completes (v : WordM) (os : List W64) (i t : Taken) : Completes (.stlx v) (frameM v)
    (fun w x s => i = Taken.q { x := (Taken.q { x := x } (qOf v.data) false).x } (qOf v.index) false ∧ i.stop none = none ∧
      t = Taken.q (Taken.q { x := x } (qOf v.data) false) (qOf v.index) false ∧ t.stop none = none ∧
      os = laneOffs v w x (i.vals.headD []) ∧ laneFault x (widthBytes v.width) os = none ∧
      roleHold s w x (.window 0) 0 = none ∧ storeHold s w x (.window 0) = none ∧ lanesHeld v w x os = false)
    (fun w _ s => s.addStore w t.x v (.a w.c (os.headD 0).toNat) 0 (bytesOf (lane (t.vals.headD []) 0) (widthBytes v.width))
      (((List.range 64).map (fun i => ((os.getD i 0).toNat, bytesOf (lane (t.vals.headD []) i) (widthBytes v.width)))).drop 1)) := by
  refine .of_done (e := effStlx v) (fun _ => rfl) ?_
  rintro w x s ⟨hi, hindex, ht, hentries, hos, hlanes, hhold, hroom, hheld⟩
  unfold lanesHeld at hheld
  unfold effStlx
  simp only [← hi, ← ht, hindex, ← hos, hlanes, hentries, hhold, hroom, hheld, Bool.false_eq_true, if_false]

/-! ## Prefetch (R171) -/

/-- The address that a PFG names: four lines for .v, from their first on. -/
def pfgAddr (v : WordM) (w : Who) (x : Ctx) : W64 :=
  if v.width = 4 then memAddr .g v w x false &&& ~~~0xFF#64 else memAddr .g v w x false

/-- Where its address translates, a PFG fills its lines. -/
theorem pfg_fills (v : WordM) (pa : Nat) (va : W64) : Completes (.pfg v) (frameM v)
    (fun w x s => va = pfgAddr v w x ∧ v.cache ≠ 2 ∧ field va 48 16 = 0 ∧ s.look w.c.cid x.part va.toNat false = .ok pa)
    (fun w x s => (List.range (if v.width = 4 then 4 else 1)).foldl (fun s i =>
      if s.badG (lineOf (pa + 64 * i)) 64 then s else s.fillLine w.c.cid (pa + 64 * i) (v.cache == 1))
        (s.keepLeaf w.c.cid x.part va.toNat)) := by
  refine .of_done (e := effPfg v) (fun _ => rfl) ?_
  rintro w x s ⟨rfl, hcache, hform, hlook⟩
  refine (if_neg (fun h => h.elim hcache (· hform))).trans ?_
  simp only [pfgAddr, memAddr] at hlook ⊢
  simp only [hlook]

/-- A PFG that bypasses the cache, or whose address has no translation, does nothing. -/
theorem pfg_skips (v : WordM) (va : W64) : Completes (.pfg v) (frameM v)
    (fun w x s => va = pfgAddr v w x ∧
      (v.cache = 2 ∨ field va 48 16 ≠ 0 ∨ ∃ e, s.look w.c.cid x.part va.toNat false = .error e)) (fun _ _ s => s) := by
  refine .of_done (e := effPfg v) (fun _ => rfl) ?_
  rintro w x s ⟨rfl, hbypass | hform | ⟨e, hlook⟩⟩
  · exact if_pos (.inl hbypass)
  · exact if_pos (.inr hform)
  · simp only [pfgAddr, memAddr] at hlook
    simp only [effPfg, hlook, ite_self]

/-! ## Atomics (R172, R173) -/

/-- An atomic with nothing in its way leaves its flight, and awaits its data where it returns any. -/
theorem effAtomic_ready (h : atomReady sp v p w x s) : effAtomic sp v w x s =
    if atomRet v then .load x.nextId (atomIssued sp v p w x s) else .done (atomIssued sp v p w x s) := by
  obtain ⟨hplace, hhold, hfew, hacks, hwindow⟩ := h
  have hplace : place s w x { accOf sp v w x true with disp := (field v.imm 0 32).signExtend 64, atomic := true } = .ok p := hplace
  have hhold : roleHold s w x p (accOf sp v w x true).size = none := hhold
  have hcount : ¬ (sp = .f ∧ (!bitAt v.imm 43) = true ∧ 1024 ≤ ackLoad s w x) := by
    rintro ⟨hf, hret, hfull⟩
    have hnone : atomRet v = false := (Bool.not_eq_true' _).mp hret
    exact absurd (hacks hf hnone) (Nat.not_lt.mpr hfull)
  have hclaims : ¬ (p.isWindow = true ∧ (field v.imm 44 4 ≠ 0 ∨ (!bitAt v.imm 43) = true)) := by
    rintro ⟨hw, hbad⟩
    obtain ⟨hop, hret⟩ := hwindow hw
    exact hbad.elim (· hop) (by simp [show bitAt v.imm 43 = true from hret])
  simp only [effAtomic, hplace, hhold, if_neg (Nat.not_le.mpr hfew), if_neg hcount, if_neg hclaims]
  rfl

/-- An atomic instruction, whose effect is `effAtomic`. -/
theorem Atomics.of_effAtomic {mk : WordM → Instr} (hrun : ∀ v s, exec (mk v) s = runAtomic (mk v) v sp s) : Atomics mk sp := by
  refine ⟨fun v p hret => .of_load (e := effAtomic sp v) (hrun v) fun w x s hready => ?_,
    fun v p hret => .of_done (e := effAtomic sp v) (hrun v) fun w x s hready => ?_⟩
  · rw [effAtomic_ready hready, if_pos hret]
  · rw [effAtomic_ready hready, if_neg (by rw [hret]; nofun)]

/-! ## FENCE (R178, R195) -/

/-- A FENCE whose orders have nothing to wait for releases, then acquires. -/
theorem fence_completes (v : WordM) : Completes (.fence v) (frameM v)
    (fun w x s => (bitAt v.order 1 = true → released s w.c x w.r x.nextId v.scope.toNat = true) ∧
      (bitAt v.order 0 = true → x.flights.any (fun f => f.role == w.r && f.dest != .none) = false))
    (fun w _ s => if bitAt v.order 0 then (if bitAt v.order 1 then s.release w.c v.scope.toNat else s).acquire w.c.cid v.scope.toNat
      else if bitAt v.order 1 then s.release w.c v.scope.toNat else s) := by
  refine .of_done (e := effFence v) (fun _ => rfl) ?_
  rintro w x s ⟨hrelease, hacquire⟩
  have hdone : ¬ (bitAt v.order 1 = true ∧ (!released s w.c x w.r x.nextId v.scope.toNat) = true) := by
    rintro ⟨hord, hleft⟩
    simp [hrelease hord] at hleft
  have hback : ¬ (bitAt v.order 0 = true ∧ x.flights.any (fun f => f.role == w.r && f.dest != .none) = true) := by
    rintro ⟨hord, hleft⟩
    exact Bool.false_ne_true ((hacquire hord).symm.trans hleft)
  simp only [effFence, if_neg hdone, if_neg hback]

end Sys2Proof.Machine

namespace Sys2Proof.Proofs

open Sys2Proof.Machine

/-- Settles O12: one lemma for each instruction, the four atomics having one effect. -/
theorem gatherScatterAtomics : Obligations.GatherScatterAtomics := by
  unfold Obligations.GatherScatterAtomics
  refine ⟨ldlx_starts, stlx_completes, pfg_fills, pfg_skips, ?atl, ?atk, ?atg, ?atf, fence_completes⟩
  case atl | atk | atg | atf => exact .of_effAtomic fun _ _ => rfl

end Sys2Proof.Proofs
end

section
/-! SUPPORT and the settled obligation O37: what each row of Machine/Transport.lean does once its guards hold. -/

namespace Sys2Proof.Machine

section

variable {s : State} {x : Ctx} {f : Flight} {p : Packet}

/-! ## Loads and atomics (R164, R173, R175) -/

/-- Data that has come is written to its destination. -/
theorem execLoadDataWrite_writes {l : List Byte} (hx : s.ctx s.inp.c = some x) (hf : x.flight s.inp.id = some f)
    (hl : f.data = some l) : execLoadDataWrite s = .next (s.writeBack s.inp.c f l) := by
  simp only [execLoadDataWrite, hx, hf, hl]

/-- A load that may be performed reads its place, and its data is written at once. -/
theorem execLoadDataWrite_performs {s1 : State} {y : Ctx} {g : Flight} {l : List Byte} (hx : s.ctx s.inp.c = some x)
    (hf : x.flight s.inp.id = some f) (hdata : f.data = none) (hatom : f.atom = none) (hfail : f.failed = none)
    (hup : s.ldhDown f = false) (hrun : x.performs f = true)
    (hs : s.performAt s.inp.c x f (fun t g => t.performLoad s.inp.c x g) = some s1) (hy : s1.ctx s.inp.c = some y)
    (hg : y.flight f.id = some g) (hgood : g.failed = none) (hl : g.data = some l) :
    execLoadDataWrite s = .next (s1.writeBack s.inp.c g l) := by
  have hmay : ¬ (f.atom.isSome = true ∨ (!x.performs f) = true) := by simp [hatom, hrun]
  simp only [execLoadDataWrite, hx, hf, hdata, hfail, hup, Bool.false_eq_true, if_false, if_neg hmay, hs, hy, Option.bind_some, hg,
    hgood, Option.isSome_none, hl, Option.getD_some]

/-- An access that has ended in a fault raises it while its context runs. -/
theorem execLoadDataWrite_fails {c : Nat} {val : W64} (hx : s.ctx s.inp.c = some x) (hf : x.flight s.inp.id = some f)
    (hdata : f.data = none) (hfail : f.failed = some (c, val)) (hrun : x.state = .run) :
    execLoadDataWrite s = .next (s.lateFault s.inp.c f c val) := by
  simp only [execLoadDataWrite, hx, hf, hdata, hfail, hrun, if_true]

/-- An atomic that has nothing to wait for is performed. -/
theorem execAtomicPerform_performs {o : AtomOp} {s1 : State} (hx : s.ctx s.inp.c = some x) (hf : x.flight s.inp.id = some f)
    (hatom : f.atom = some o) (hdata : f.data = none) (hfail : f.failed = none)
    (hs : s.performAt s.inp.c x f (fun t g => t.performAtomic s.inp.c x g o) = some s1) : execAtomicPerform s = .next s1 := by
  simp only [execAtomicPerform, hx, hf, hatom, hdata, hfail, Option.isSome_none, Bool.false_eq_true, if_false, hs, Option.getD_some]

/-! ## The store buffer and cluster messages (R165, R174) -/

/-- An entry that may leave the buffer leaves it and is performed, and releases where it has release order. -/
theorem execStoreBufferDrain_drains {e : StoreEnt} {s2 : State} (he : (s.core s.inp.cid).sbuf[s.inp.id]? = some e)
    (hx : s.ctx e.ctx = some x) (hmay : s.mayDrain (s.core s.inp.cid) s.inp.id e x = true)
    (hs : (s.modCore s.inp.cid (fun k => { k with sbuf := k.sbuf.eraseIdx s.inp.id })).performStore e x = some s2) :
    execStoreBufferDrain s = .next (if e.rel then s2.release e.ctx e.scope else s2) := by
  simp only [execStoreBufferDrain, he, hx, hmay, Bool.not_true, Bool.false_eq_true, if_false, hs]

theorem execClusterMessagePerform_store {e : StoreEnt} (hx : s.ctx s.inp.c = some x) (hflag : s.inp.flag = false)
    (he : x.kstores.find? (fun e => e.id == s.inp.id) = some e) :
    execClusterMessagePerform s = .next (s.kStore s.inp.c x e) := by
  simp only [execClusterMessagePerform, hx, hflag, Bool.false_eq_true, if_false, he]

theorem execClusterMessagePerform_access (hx : s.ctx s.inp.c = some x) (hflag : s.inp.flag = false)
    (hnone : x.kstores.find? (fun e => e.id == s.inp.id) = none) (hf : x.flight s.inp.id = some f) :
    execClusterMessagePerform s = .next (s.kAccess s.inp.c x f) := by
  simp only [execClusterMessagePerform, hx, hflag, Bool.false_eq_true, if_false, hnone, hf]

/-! ## F accesses (R167, R297) -/

theorem execFAccessArrival_loopback {ix : Nat} (hon : s.fabOn = true) (ha : s.inp.arr = .loopback ix) (hp : s.pkt ix = some p)
    (hown : p.pkg = s.fab.pkgid) : execFAccessArrival s = .next (s.loopback p) := by
  simp only [execFAccessArrival, hon, Bool.not_true, Bool.false_eq_true, false_and, if_false, ha, hp, hown, if_true]

theorem execFAccessArrival_reply {ix id : Nat} {ok : Bool} {data : List Byte} (hon : s.fabOn = true)
    (ha : s.inp.arr = .reply ix ok data) (hp : s.pkt ix = some p) (hk : p.kind = .load id) (hfar : p.pkg ≠ s.fab.pkgid) :
    execFAccessArrival s = .next (s.endF p id (if ok then .ok data else .error cRemote)) := by
  simp only [execFAccessArrival, hon, Bool.not_true, Bool.false_eq_true, false_and, if_false, ha, hp, hk, if_neg hfar]

/-- An access of another package whose key the table of its port holds is served. -/
theorem execFAccessArrival_inbound {key : W16} {va : Nat} {op : InboundOp} {l : List Byte} {s1 : State} (hon : s.fabOn = true)
    (ha : s.inp.arr = .inbound key va op)
    (hkey : s.fab.keys.any (fun e => e.1.1 == s.inp.port && decide (e.1.1 ≤ 32) && e.2.1 == key) = true)
    (hs : s.serve key va op = .ok l s1) : execFAccessArrival s = .next s1 := by
  simp only [execFAccessArrival, hon, Bool.not_true, Bool.false_eq_true, false_and, if_false, ha, hkey, hs]

/-- What comes by the conveyor's bridge does not need the switch. -/
theorem execFAccessArrival_goltik {g no : Nat} {h : BitVec 128} {l : List Byte} (ha : s.inp.arr = .goltik g no h l) :
    execFAccessArrival s = .next (s.goltikIn g no h l) := by
  simp only [execFAccessArrival, ha, fromGoltik, Bool.not_true, Bool.false_eq_true, and_false, if_false]

/-! ## Acknowledgements (R167, R261, R296) -/

theorem execStfAcknowledgement_engine {store : Bool} {acc n : Nat} {l : List Byte} (hon : s.fabOn = true)
    (hp : s.pkt s.inp.id = some p) (hk : p.kind = .engine store acc n l) :
    execStfAcknowledgement s = .next (s.engineAnswer p store acc s.inp.flag) := by
  simp only [execStfAcknowledgement, hon, if_true, hp, hk]

theorem execStfAcknowledgement_ckpt {k n : Nat} {l : List Byte} (hon : s.fabOn = true) (hp : s.pkt s.inp.id = some p)
    (hk : p.kind = .ckpt k n l) : execStfAcknowledgement s = .next (s.ckAnswer p k n s.inp.flag) := by
  simp only [execStfAcknowledgement, hon, if_true, hp, hk]

theorem execStfAcknowledgement_remote {l : List Byte} (hon : s.fabOn = true) (hp : s.pkt s.inp.id = some p)
    (hk : p.kind = .store l) (hfar : p.pkg ≠ s.fab.pkgid) :
    execStfAcknowledgement s = .next ((s.dropPkt p.ix).acked p.ctx s.inp.flag) := by
  simp only [execStfAcknowledgement, hon, if_true, hp, hk, if_neg hfar]

/-- A store of this package to itself is answered once it has been served. -/
theorem execStfAcknowledgement_own {l : List Byte} {ok : Bool} (hon : s.fabOn = true) (hp : s.pkt s.inp.id = some p)
    (hk : p.kind = .store l) (hown : p.pkg = s.fab.pkgid) (hserved : p.served = some ok) :
    execStfAcknowledgement s = .next ((s.dropPkt p.ix).acked p.ctx !ok) := by
  simp only [execStfAcknowledgement, hon, if_true, hp, hk, hown, hserved]

/-! ## End-to-end CRC failures (R407) -/

theorem execPacketCrcFailure_retries (hflag : s.inp.flag = false) (hp : s.pkt s.inp.id = some p) (hfew : p.tries < 3) :
    execPacketCrcFailure s = .next { s with fab := { s.fab with
      pkts := s.fab.pkts.map (fun q => if q.ix = p.ix then { q with tries := q.tries + 1 } else q) } } := by
  simp only [execPacketCrcFailure, hflag, Bool.false_eq_true, if_false, hp, if_pos hfew]

/-- How the fourth failure ends a packet of each kind. -/
def State.crcEnded (s : State) (p : Packet) : PktKind → State
  | .load id => s.endF p id (.error cMemory)
  | .store _ => ((s.dropPkt p.ix).acked p.ctx false).post s.inp.die 10 s.inp.port 0
  | .engine .. | .ckpt .. => (s.dropPkt p.ix).post s.inp.die 10 s.inp.port 0

theorem execPacketCrcFailure_ends {k : PktKind} (hflag : s.inp.flag = false) (hp : s.pkt s.inp.id = some p) (hmany : 3 ≤ p.tries)
    (hk : p.kind = k) : execPacketCrcFailure s = .next (s.crcEnded p k) := by
  simp only [execPacketCrcFailure, hflag, Bool.false_eq_true, if_false, hp, if_neg (Nat.not_lt.mpr hmany), hk]
  cases k <;> rfl

/-- The fourth failure of an STO is a reject of its sequencer. -/
theorem execPacketCrcFailure_sto {o : StoOut} (hflag : s.inp.flag = true)
    (ho : s.fab.stos.find? (fun o => o.tag == s.inp.id && !o.numbered) = some o) (hmany : 3 ≤ o.tries) :
    execPacketCrcFailure s = .next ((s.dropSto s.inp.id).rejectSto o.ctx) := by
  simp only [execPacketCrcFailure, hflag, if_true, State.stoCrc, ho, if_neg (Nat.not_lt.mpr hmany)]

/-! ## Host completions (R169, R436, R439) -/

theorem execLdhCompletion_delivers (hl : s.ldh s.inp.c s.inp.id = some (x, f)) (hmay : s.mustWait s.inp.c x f = false)
    (hok : s.inp.host = .success) (hrun : x.performs f = true) :
    execLdhCompletion s = .next (s.gotData s.inp.c f (s.inp.data.take f.size)) := by
  simp only [execLdhCompletion, hl, hmay, Bool.false_eq_true, if_false, hok, if_true, hrun]

theorem execLdhCompletion_faults (hl : s.ldh s.inp.c s.inp.id = some (x, f)) (hmay : s.mustWait s.inp.c x f = false)
    (hbad : s.inp.host ≠ .success) : execLdhCompletion s = .next (s.hostFault s.inp.c x f (hostBit s.inp.host)) := by
  simp only [execLdhCompletion, hl, hmay, Bool.false_eq_true, if_false, if_neg hbad]

theorem execCompletionTimeout_faults (hl : s.ldh s.inp.c s.inp.id = some (x, f)) :
    execCompletionTimeout s = .next (s.hostFault s.inp.c x f 0b00100) := by
  simp only [execCompletionTimeout, hl]

/-! ## Translation walks (R393) -/

theorem execTranslationWalk_caches {w : Who} {l : Leaf} (hw : s.walker s.inp.cid s.inp.addr = some (w, x))
    (hl : s.walk x.part s.inp.addr = .ok l) : execTranslationWalk s = .next (s.modCore s.inp.cid (fun k => k.addLeaf l)) := by
  simp only [execTranslationWalk, hw, hl]

theorem execTranslationWalk_faults {w : Who} {c : Nat} (hw : s.walker s.inp.cid s.inp.addr = some (w, x))
    (hc : s.walk x.part s.inp.addr = .fault c) : execTranslationWalk s = .next (s.raise w c (BitVec.ofNat 64 s.inp.addr)) := by
  simp only [execTranslationWalk, hw, hc]

end

end Sys2Proof.Machine

namespace Sys2Proof.Proofs

open Sys2Proof.Machine

/-- Settles O37: each event's guards are the statement's hypotheses, so that its row takes the branch with the effect; the fourth CRC
failure of a packet goes by the packet's kind. -/
theorem accessesPerformed : Obligations.AccessesPerformed := by
  unfold Obligations.AccessesPerformed
  refine ⟨?writes, ?performs, ?fails, ?atomic, ?drains, ?kStore, ?kAccess, ?loopback, ?reply, ?inbound, ?goltik, ?ackEngine,
    ?ackRemote, ?ackOwn, ?crcRetry, ?crcStore, ?crcEngine, ?crcLoad, ?crcCkpt, ?crcSto, ?ackCkpt, ?link, ?delivers, ?hostFault,
    ?timeout, ?caches, ?walkFault⟩
  case writes => exact fun x f l s ⟨hx, hf, hl⟩ => execLoadDataWrite_writes hx hf hl
  case performs =>
    rintro x f s1 y g l s ⟨hx, hf, hdata, hatom, hfail, hup, hrun, hs, hy, hg, hgood, hl⟩
    exact execLoadDataWrite_performs hx hf hdata hatom hfail hup hrun hs hy hg hgood hl
  case fails => exact fun x f c val s ⟨hx, hf, hdata, hfail, hrun⟩ => execLoadDataWrite_fails hx hf hdata hfail hrun
  case atomic =>
    rintro x f o s1 s ⟨hx, hf, hatom, hdata, hfail, hs⟩
    exact execAtomicPerform_performs hx hf hatom hdata hfail hs
  case drains => exact fun e x s2 s ⟨he, hx, hmay, hs⟩ => execStoreBufferDrain_drains he hx hmay hs
  case kStore => exact fun x e s ⟨hx, hflag, he⟩ => execClusterMessagePerform_store hx hflag he
  case kAccess => exact fun x f s ⟨hx, hflag, hnone, hf⟩ => execClusterMessagePerform_access hx hflag hnone hf
  case loopback => exact fun ix p s ⟨hon, ha, hp, hown⟩ => execFAccessArrival_loopback hon ha hp hown
  case reply => exact fun ix ok data p id s ⟨hon, ha, hp, hk, hfar⟩ => execFAccessArrival_reply hon ha hp hk hfar
  case inbound => exact fun key va op l s1 s ⟨hon, ha, hkey, hs⟩ => execFAccessArrival_inbound hon ha hkey hs
  case goltik => exact fun g no h l s ha => execFAccessArrival_goltik ha
  case ackEngine => exact fun p store acc n l s ⟨hon, hp, hk⟩ => execStfAcknowledgement_engine hon hp hk
  case ackRemote => exact fun p l s ⟨hon, hp, hk, hfar⟩ => execStfAcknowledgement_remote hon hp hk hfar
  case ackOwn => exact fun p l ok s ⟨hon, hp, hk, hown, hserved⟩ => execStfAcknowledgement_own hon hp hk hown hserved
  case ackCkpt => exact fun p k n l s ⟨hon, hp, hk⟩ => execStfAcknowledgement_ckpt hon hp hk
  case crcRetry => exact fun p s ⟨hflag, hp, hfew⟩ => execPacketCrcFailure_retries hflag hp hfew
  case crcStore => exact fun p l s ⟨hflag, hp, hmany, hk⟩ => execPacketCrcFailure_ends hflag hp hmany hk
  case crcEngine => exact fun p store acc n l s ⟨hflag, hp, hmany, hk⟩ => execPacketCrcFailure_ends hflag hp hmany hk
  case crcLoad => exact fun p id s ⟨hflag, hp, hmany, hk⟩ => execPacketCrcFailure_ends hflag hp hmany hk
  case crcCkpt => exact fun p k n l s ⟨hflag, hp, hmany, hk⟩ => execPacketCrcFailure_ends hflag hp hmany hk
  case crcSto => exact fun o s ⟨hflag, ho, hmany⟩ => execPacketCrcFailure_sto hflag ho hmany
  case link => exact fun s _ => rfl
  case delivers => exact fun x f s ⟨hl, hmay, hok, hrun⟩ => execLdhCompletion_delivers hl hmay hok hrun
  case hostFault => exact fun x f s ⟨hl, hmay, hbad⟩ => execLdhCompletion_faults hl hmay hbad
  case timeout => exact fun x f s hl => execCompletionTimeout_faults hl
  case caches => exact fun w x l s ⟨hw, hl⟩ => execTranslationWalk_caches hw hl
  case walkFault => exact fun w x c s ⟨hw, hc⟩ => execTranslationWalk_faults hw hc

end Sys2Proof.Proofs
end

section
/-! SUPPORT. Two more rules from what an effect answers to what its instruction does. -/

namespace Sys2Proof.Machine

variable {i : Instr} {f : Frame} {e : Effect} {pre : Who → Ctx → State → Prop} {eff : Who → Ctx → State → State}

/-- An effect that reads the role's context again, from the state after the pops, finds the one that it was given. -/
theorem Completes.of_done_ctx (hrun : ∀ s, exec i s = runWord i f e s)
    (he : ∀ w x s, s.ctx w.c = some x → pre w x s → e w x s = .done (eff w x s)) : Completes i f pre eff := by
  intro s w x dest hi hf hp hc
  rw [hrun]
  exact hi.done hf (he w _ _ (popped_ctx f s w x hi.ctx) hp) hc

/-- An effect that is performed as far as a wait answers with its role waiting. -/
theorem Answers.of_waitIn {k : Wait} (hrun : ∀ s, exec i s = runWord i f e s)
    (he : ∀ w x s, pre w x s → e w x s = .waitIn k (eff w x s)) : Answers i f pre (fun w x s => (eff w x s).waitOn w k) := by
  intro s w x hi hp
  rw [hrun]
  exact hi.waitIn (he w _ _ hp)

end Sys2Proof.Machine
end

section
/-! SUPPORT and the settled obligation O13: the q-register instructions and TKTRY, one lemma for each branch that completes. -/

namespace Sys2Proof.Machine

/-! ## q-registers (R203, R204) -/

theorem qcnt_completes (v : WordM) (q : Nat) (y : Ctx) (hq : q = qOf v.base) :
    Completes (.qcnt v) (frameM v) (fun _ x _ => y = x.settleQ q) (fun w _ s =>
      s.setS w v.data.toNat (BitVec.ofNat 64 ((y.q q).ents.countP (fun e => e.lanes.isSome) +
        (y.qFree q - (if s.reserved y q then 1 else 0)) * 256 + bit1 (y.q q).bind.isSome 16))) := by
  subst hq
  refine .of_done (fun _ => rfl) ?_
  rintro w x s rfl
  rfl

/-- A QCLR finds no binding, and no entry that is reserved. -/
theorem qclr_completes (v : WordM) : Completes (.qclr v) (frameM v)
    (fun _ x s => (x.q (qOf v.base)).bind = none ∧ (∀ e ∈ (x.q (qOf v.base)).ents, e.lanes.isSome = true) ∧
      x.owed (qOf v.base) = 0 ∧ s.reserved x (qOf v.base) = false)
    (fun w x s => s.setCtx w.c (x.setQ (qOf v.base) { x.q (qOf v.base) with ents := [] })) := by
  refine .of_done (fun _ => rfl) ?_
  rintro w x s ⟨hunbound, hfilled, howed, hreserved⟩
  have hopen : (x.q (qOf v.base)).ents.any (fun e => e.lanes.isNone) = false :=
    List.any_eq_false.mpr fun e he => by simp [Option.isSome_iff_ne_none.mp (hfilled e he)]
  simp only [hunbound, hopen, howed, hreserved, Option.isSome_none, Bool.false_eq_true, ne_eq, not_true, or_self, if_false]

/-- A QBND finds a count in range and no binding. -/
theorem qbnd_completes (v : WordM) (n : Nat) : Completes (.qbnd v) (frameM v)
    (fun w x _ => n = (field v.imm 0 16).toNat + (field (readSrc w x v.base 0) 0 16).toNat ∧ 1 ≤ n ∧ n ≤ 65535 ∧
      (x.q (qOf v.data)).bind = none)
    (fun w x s => s.setCtx w.c (x.setQ (qOf v.data)
      { x.q (qOf v.data) with bind := some { out := bitAt v.imm 16, left := n, cmd := none } })) := by
  refine .of_done (fun _ => rfl) ?_
  rintro w x s ⟨rfl, hlow, hhigh, hunbound⟩
  rw [if_neg (by omega)]
  simp only [hunbound, Option.isSome_none, Bool.false_eq_true, if_false]

/-! ## TKTRY (R206) -/

theorem tktry_pops (v : WordM) (f : Nat) (hf : f = (field v.imm 0 2).toNat) : Completes (.tktry v) (frameM v)
    (fun _ x _ => bitAt v.imm 2 = false ∧ 0 < x.tok f)
    (fun w x s => ((s.setCtx w.c (x.setTok f (x.tok f - 1))).acquire w.c.cid 0).setP w (v.data.toNat - 48) true) := by
  subst hf
  refine .of_done (fun _ => rfl) ?_
  rintro w x s ⟨hpop, hsome⟩
  simp only [hpop, Bool.false_eq_true, if_false, if_neg (Nat.ne_of_gt hsome)]

theorem tktry_pushes (v : WordM) (f : Nat) (hf : f = (field v.imm 0 2).toNat) : Completes (.tktry v) (frameM v)
    (fun w x s => bitAt v.imm 2 = true ∧ x.tok f < 8 ∧ lDrained (s.core w.c.cid) x w = true)
    (fun w x s => (s.setCtx w.c (x.setTok f (x.tok f + 1))).setP w (v.data.toNat - 48) true) := by
  subst hf
  refine .of_done (fun _ => rfl) ?_
  rintro w x s ⟨hpush, hroom, hdrained⟩
  simp only [hpush, if_true, if_neg (Nat.not_le.mpr hroom), hdrained, Bool.not_true, Bool.false_eq_true, if_false]

/-- Where there is no token to pop, or no room to push, none moves. -/
theorem tktry_fails (v : WordM) (f : Nat) (hf : f = (field v.imm 0 2).toNat) : Completes (.tktry v) (frameM v)
    (fun _ x _ => if bitAt v.imm 2 then 8 ≤ x.tok f else x.tok f = 0) (fun w _ s => s.setP w (v.data.toNat - 48) false) := by
  subst hf
  refine .of_done (fun _ => rfl) ?_
  intro w x s hstuck
  cases hdir : bitAt v.imm 2 with
  | true =>
    have hfull : 8 ≤ x.tok (field v.imm 0 2).toNat := by rwa [hdir] at hstuck
    simp only [if_true, if_pos hfull]
  | false =>
    have hempty : x.tok (field v.imm 0 2).toNat = 0 := by rwa [hdir] at hstuck
    simp only [Bool.false_eq_true, if_false, if_pos hempty]

end Sys2Proof.Machine

namespace Sys2Proof.Proofs

open Sys2Proof.Machine

/-- Settles O13: one lemma for each instruction, and for each of TKTRY's three outcomes. -/
theorem qregsAndTokens : Obligations.QregsAndTokens := by
  unfold Obligations.QregsAndTokens
  exact ⟨qcnt_completes, qclr_completes, qbnd_completes,
    fun v f hf => ⟨tktry_pops v f hf, tktry_pushes v f hf, tktry_fails v f hf⟩⟩

end Sys2Proof.Proofs
end

section
/-! SUPPORT and the settled obligation O14: an operation of a circular buffer finds its block sound, and then the
counters as it asks. -/

namespace Sys2Proof.Machine

variable {v : WordM} {c : CtxId} {y x : Ctx} {o n : Nat} {b : CBlock} {w : Who} {s : State}

/-- The counters of the block and `n` pass their checks (R208, R225). -/
theorem cbOp_ready {g : Who → CtxId → Nat → Ctx → CBlock → Nat → State → Eff} (h : cbReady v c y o b n w x s) :
    cbOp v g w x s = g w c o y b n s := by
  obtain ⟨hobject, rfl, rfl, hlow, hhigh, hsize, hsound⟩ := h
  have hzero : objN w x v ≠ 0 := by
    intro hz
    simp [hz] at hlow
  have hrange : ¬ (objN w x v = 0 ∨ 128 < (objN w x v).toNat) := not_or.mpr ⟨hzero, Nat.not_lt.mpr hhigh⟩
  have hfits : ¬ (objN w x v = 0 ∨ (CBlock.read y.abuf o).n < (objN w x v).toNat) :=
    not_or.mpr ⟨hzero, Nat.not_lt.mpr hsize⟩
  simp only [cbOp, if_neg hrange, hobject, if_neg hfits, hsound, Bool.not_true, Bool.false_eq_true, if_false]

/-- A publication follows the role's earlier accesses, which have been performed (R210). -/
theorem cbRelease_ready {g : Who → CtxId → Nat → Ctx → CBlock → Nat → State → Eff} (hx : s.ctx w.c = some x)
    (h : cbReady v c y o b n w x s) (hfreed : freed (objScope v) w x s) : cbRelease v g w x s = g w c o y b n s := by
  have hdone : released s w.c x w.r x.nextId (objScope v) = true := hfreed
  simp only [cbRelease, cbOp_ready h, hx, hdone, Bool.not_true, Bool.false_eq_true, if_false]

theorem valueOf_eq (hx : s.ctx w.c = some x) : valueOf w s v = readSrc w x v.data 0 := by simp only [valueOf, hx]

theorem cbini_completes (v : WordM) (c : CtxId) (y : Ctx) (o : Nat) (cfg : W64) : Completes (.cbini v) (frameM v)
    (fun w x s => object s w x v 64 = .ok c y o ∧ cfg = readSrc w x v.data 0 ∧
      cbCfgOk cfg (field (readSrc w x v.base 0) 0 16).toNat x.abud = true)
    (fun _ _ s => s.setA c (y.abuf.write o (bytesOf (field cfg 0 40) 5 ++ List.replicate 59 0))) := by
  refine .of_done (e := effCbini v) (fun _ => rfl) ?_
  rintro w x s ⟨hobject, rfl, hcfg⟩
  simp only [effCbini, hcfg, if_true, hobject]

theorem cbclm_completes (v : WordM) (c : CtxId) (y : Ctx) (o : Nat) (b : CBlock) (n : Nat) :
    Completes (.cbclm v) (frameTryM v) (fun w x s => cbReady v c y o b n w x s ∧ sub32 (b.clm + n) b.rel ≤ b.n)
      (fun w _ s => ((s.setA c (CBlock.write { b with clm := (b.clm + n) % 2 ^ 32 } y.abuf o)).acquire w.c.cid (objScope v)).setS
        w v.data.toNat (BitVec.ofNat 64 b.clm)) := by
  refine .of_done (fun _ => rfl) ?_
  rintro w x s ⟨hready, hroom⟩
  rw [cbOp_ready hready, if_neg (Nat.not_lt.mpr hroom)]

theorem cbtak_completes (v : WordM) (c : CtxId) (y : Ctx) (o : Nat) (b : CBlock) (n : Nat) :
    Completes (.cbtak v) (frameTryM v) (fun w x s => cbReady v c y o b n w x s ∧ n ≤ sub32 b.pub b.tak)
      (fun w _ s => ((s.setA c (CBlock.write { b with tak := (b.tak + n) % 2 ^ 32 } y.abuf o)).acquire w.c.cid (objScope v)).setS
        w v.data.toNat (BitVec.ofNat 64 b.tak)) := by
  refine .of_done (fun _ => rfl) ?_
  rintro w x s ⟨hready, hfilled⟩
  rw [cbOp_ready hready, if_neg (Nat.not_lt.mpr hfilled)]

theorem cbpub_completes (v : WordM) (c : CtxId) (y : Ctx) (o : Nat) (b : CBlock) (n a : Nat) :
    Completes (.cbpub v) (frameM v)
      (fun w x s => cbReady v c y o b n w x s ∧ freed (objScope v) w x s ∧ a = (readSrc w x v.data 0).toNat ∧
        cbMarkOk b b.pub b.clm b.fill a n = true)
      (fun w _ s => (s.setA c (CBlock.write
        { b with pub := (advance b.n b.n b.pub (markBits b.fill (b.positions a n))).1,
                 fill := (advance b.n b.n b.pub (markBits b.fill (b.positions a n))).2 } y.abuf o)).release w.c
        (objScope v)) := by
  refine .of_done_ctx (fun _ => rfl) ?_
  rintro w x s hx ⟨hready, hfreed, rfl, hmark⟩
  rw [cbRelease_ready hx hready hfreed]
  simp only [valueOf_eq hx, hmark, Bool.not_true, Bool.false_eq_true, if_false]

theorem cbrel_completes (v : WordM) (c : CtxId) (y : Ctx) (o : Nat) (b : CBlock) (n a : Nat) :
    Completes (.cbrel v) (frameM v)
      (fun w x s => cbReady v c y o b n w x s ∧ freed (objScope v) w x s ∧ a = (readSrc w x v.data 0).toNat ∧
        cbMarkOk b b.rel b.tak b.free a n = true)
      (fun w _ s => (s.setA c (CBlock.write
        { b with rel := (advance b.n b.n b.rel (markBits b.free (b.positions a n))).1,
                 free := (advance b.n b.n b.rel (markBits b.free (b.positions a n))).2 } y.abuf o)).release w.c
        (objScope v)) := by
  refine .of_done_ctx (fun _ => rfl) ?_
  rintro w x s hx ⟨hready, hfreed, rfl, hmark⟩
  rw [cbRelease_ready hx hready hfreed]
  simp only [valueOf_eq hx, hmark, Bool.not_true, Bool.false_eq_true, if_false]

end Sys2Proof.Machine

namespace Sys2Proof.Proofs

open Sys2Proof.Machine

/-- Settles O14: one lemma for each of the five operations. -/
theorem circularBuffers : Obligations.CircularBuffers := by
  unfold Obligations.CircularBuffers
  exact ⟨cbini_completes, cbclm_completes, cbtak_completes, cbpub_completes, cbrel_completes⟩

end Sys2Proof.Proofs
end

section
/-! SUPPORT and the settled obligation O15: an operation of a deque finds its block sound, and then its ends apart or together. -/

namespace Sys2Proof.Machine

variable {v : WordM} {c : CtxId} {y x : Ctx} {o : Nat} {b : DBlock} {w : Who} {s : State}

/-- The ends of the deque and its item area pass their checks (R212, log 19). -/
theorem dqOp_ready {g : Who → Ctx → CtxId → Nat → Ctx → DBlock → State → Eff} (h : dqReady v c y o b w x s) :
    dqOp v g w x s = g w x c o y b s := by
  obtain ⟨hobject, rfl, hends, hitems⟩ := h
  have hsound := not_or.mpr ⟨Nat.not_lt.mpr hends, Nat.not_lt.mpr hitems⟩
  simp only [dqOp, hobject, if_neg hsound]

theorem dqini_completes (v : WordM) (c : CtxId) (y : Ctx) (o : Nat) (cfg : W64) : Completes (.dqini v) (frameM v)
    (fun w x s => object s w x v 32 = .ok c y o ∧ cfg = readSrc w x v.data 0 ∧ field cfg 32 32 = 0 ∧
      (field cfg 0 16).toNat % 8 = 0 ∧ 1 ≤ (field cfg 16 16).toNat ∧ (field cfg 16 16).toNat ≤ 4096 ∧
      (field cfg 0 16).toNat + 8 * (field cfg 16 16).toNat ≤ x.abud)
    (fun _ _ s => s.setA c (y.abuf.write o (bytesOf (field cfg 0 32) 4 ++ List.replicate 28 0))) := by
  refine .of_done (e := effDqini v) (fun _ => rfl) ?_
  rintro w x s ⟨hobject, rfl, hhigh, haligned, hsome, hmost, hfits⟩
  have hgood : ¬ (field (readSrc w x v.data 0) 32 32 ≠ 0 ∨ (field (readSrc w x v.data 0) 0 16).toNat % 8 ≠ 0 ∨
      (field (readSrc w x v.data 0) 16 16).toNat = 0 ∨ 4096 < (field (readSrc w x v.data 0) 16 16).toNat ∨
      x.abud < (field (readSrc w x v.data 0) 0 16).toNat + 8 * (field (readSrc w x v.data 0) 16 16).toNat) := by
    rintro (h | h)
    · exact h hhigh
    · omega
  simp only [effDqini, hgood, decide_false, Bool.false_eq_true, if_false, hobject]

theorem dqpsh_completes (v : WordM) (c : CtxId) (y : Ctx) (o : Nat) (b : DBlock) : Completes (.dqpsh v) (frameTryM v)
    (fun w x s => dqReady v c y o b w x s ∧ sub32 b.bot b.top < b.cap ∧ freed 1 w x s)
    (fun w x s => (s.setA c (DBlock.write { b with bot := (b.bot + 1) % 2 ^ 32 }
      (y.abuf.write (b.item b.bot) (bytesOf (readSrc w x v.data 0) 8)) o)).release w.c 1) := by
  refine .of_done (fun _ => rfl) ?_
  rintro w x s ⟨hready, hroom, hfreed⟩
  have hdone : released s w.c x w.r x.nextId 1 = true := hfreed
  rw [dqOp_ready hready, if_neg (Nat.not_le.mpr hroom), hdone]
  rfl

theorem dqpop_completes (v : WordM) (c : CtxId) (y : Ctx) (o : Nat) (b : DBlock) : Completes (.dqpop v) (frameM v)
    (fun w x s => dqReady v c y o b w x s ∧ b.bot ≠ b.top)
    (fun w _ s => (((s.setA c (DBlock.write { b with bot := sub32 b.bot 1 } y.abuf o)).acquire w.c.cid 0).setS w v.data.toNat
      (BitVec.ofNat 64 (y.abuf.nat (b.item (sub32 b.bot 1)) 8))).setP w (resultPred v) true) := by
  refine .of_done (fun _ => rfl) ?_
  rintro w x s ⟨hready, hsome⟩
  rw [dqOp_ready hready, if_neg hsome]

theorem dqpop_empty (v : WordM) (c : CtxId) (y : Ctx) (o : Nat) (b : DBlock) : Completes (.dqpop v) (frameM v)
    (fun w x s => dqReady v c y o b w x s ∧ b.bot = b.top) (fun w _ s => s.setP w (resultPred v) false) := by
  refine .of_done (fun _ => rfl) ?_
  rintro w x s ⟨hready, hempty⟩
  rw [dqOp_ready hready, if_pos hempty]

theorem dqstl_completes (v : WordM) (c : CtxId) (y : Ctx) (o : Nat) (b : DBlock) : Completes (.dqstl v) (frameM v)
    (fun w x s => dqReady v c y o b w x s ∧ b.bot ≠ b.top)
    (fun w _ s => (((s.setA c (DBlock.write { b with top := (b.top + 1) % 2 ^ 32 } y.abuf o)).acquire w.c.cid 1).setS w
      v.data.toNat (BitVec.ofNat 64 (y.abuf.nat (b.item b.top) 8))).setP w (resultPred v) true) := by
  refine .of_done (fun _ => rfl) ?_
  rintro w x s ⟨hready, hsome⟩
  rw [dqOp_ready hready, if_neg hsome]

theorem dqstl_empty (v : WordM) (c : CtxId) (y : Ctx) (o : Nat) (b : DBlock) : Completes (.dqstl v) (frameM v)
    (fun w x s => dqReady v c y o b w x s ∧ b.bot = b.top) (fun w _ s => s.setP w (resultPred v) false) := by
  refine .of_done (fun _ => rfl) ?_
  rintro w x s ⟨hready, hempty⟩
  rw [dqOp_ready hready, if_pos hempty]

end Sys2Proof.Machine

namespace Sys2Proof.Proofs

open Sys2Proof.Machine

/-- Settles O15: one lemma for each operation, and one for each that finds the deque empty. -/
theorem deques : Obligations.Deques := by
  unfold Obligations.Deques
  exact ⟨dqini_completes, dqpsh_completes, dqpop_completes, dqstl_completes, dqpop_empty, dqstl_empty⟩

end Sys2Proof.Proofs
end

section
/-! SUPPORT and the settled obligation O16: arrival at a channel, its release, the window of channels, and PHASE. -/

namespace Sys2Proof.Machine

variable {x : Ctx} {w : Who} {s : State}

@[simp] theorem Ctx.setChan_role (x : Ctx) (e : Nat) (k : ChanSt) (r : Role) : (x.setChan e k).role r = x.role r := by
  cases r <;> rfl

theorem chanOf_barJ (x : Ctx) (v : WordM) : chanOf x (barJ v) = barE v x := rfl

/-- A role whose accesses are performed arrives at a channel that it has not arrived at (R218). -/
theorem arrive_eq {e : Nat} {k : Ctx → Eff} (hnew : (x.chan e).pending = false) (hfreed : freed 2 w x s) :
    arrive w x e s k = k (x.setChan e { x.chan e with pending := true, ever := true }) := by
  have hdone : released s w.c x w.r x.nextId 2 = true := hfreed
  simp only [arrive, hnew, hdone, Bool.not_true, Bool.false_eq_true, if_false]

theorem awaitRelease_eq {v : WordM} {e : Nat} (hcome : (x.chan e).pending = false) :
    awaitRelease w x v e s = .done ((s.acquire w.c.cid 2).setS w v.data.toNat (x.chan e).status) := by
  simp only [awaitRelease, hcome, Bool.false_eq_true, if_false]

theorem bara_completes (v : WordM) : Completes (.bara v) (frameTryM v)
    (fun w x s => barRange s x v = false ∧ (x.chan (barE v x)).pending = false ∧ freed 2 w x s)
    (fun w x s => (s.setCtx w.c (x.setChan (barE v x) { x.chan (barE v x) with pending := true, ever := true })).release
      w.c 2) := by
  refine .of_done (fun _ => rfl) ?_
  rintro w x s ⟨hrange, hnew, hfreed⟩
  rw [hrange, chanOf_barJ, arrive_eq hnew hfreed]
  rfl

theorem barw_completes (v : WordM) : Completes (.barw v) (frameTryM v)
    (fun _ x s => barRange s x v = false ∧ (x.chan (barE v x)).ever = true ∧ (x.chan (barE v x)).pending = false)
    (fun w x s => (s.acquire w.c.cid 2).setS w v.data.toNat (x.chan (barE v x)).status) := by
  refine .of_done (fun _ => rfl) ?_
  rintro w x s ⟨hrange, hever, hcome⟩
  rw [hrange, chanOf_barJ, hever, awaitRelease_eq hcome]
  rfl

/-- A BAR that has not arrived arrives, notes its channel, and waits there. -/
theorem bar_arrives (v : WordM) : Answers (.bar v) (frameM v)
    (fun w x s => (x.role w.r).arrived = none ∧ barRange s x v = false ∧ (x.chan (barE v x)).pending = false ∧ freed 2 w x s)
    (fun w x s => ((s.setCtx w.c ((x.setChan (barE v x) { x.chan (barE v x) with pending := true, ever := true }).setRole w.r
      { x.role w.r with arrived := some (barE v x) })).release w.c 2).waitOn w .barrier) := by
  refine .of_waitIn (fun _ => rfl) ?_
  rintro w x s ⟨hfirst, hrange, hnew, hfreed⟩
  simp only [hfirst, hrange, Bool.false_eq_true, if_false]
  rw [chanOf_barJ, arrive_eq hnew hfreed, Ctx.setChan_role]

theorem bar_completes (v : WordM) (e : Nat) : Completes (.bar v) (frameM v)
    (fun w x _ => (x.role w.r).arrived = some e ∧ (x.chan e).pending = false)
    (fun w x s => (s.acquire w.c.cid 2).setS w v.data.toNat (x.chan e).status) := by
  refine .of_done (fun _ => rfl) ?_
  rintro w x s ⟨harrived, hcome⟩
  simp only [harrived, awaitRelease_eq hcome]

/-- A BIDB whose window fits in the kernel's channels, none of which is awaited, sets it (R216). -/
theorem bidb_completes (v : WordM) (b d : Nat) (hb : b = (field v.imm 0 4).toNat) (hd : d = (field v.imm 8 4).toNat) :
    Completes (.bidb v) (frameWholeM v)
      (fun _ x s => s.chansOf x ≠ 1 ∧ 1 ≤ b ∧ 1 ≤ d ∧ b + d ≤ s.chansOf x ∧ (∀ c ∈ x.chans.toList, c.pending = false))
      (fun w x s => s.setCtx w.c { x with barB := b, barD := d, barI := 0 }) := by
  subst hb hd
  refine .of_done (fun _ => rfl) ?_
  rintro w x s ⟨hmany, hbase, hwide, hfits, hnone⟩
  have hquiet : x.chans.toList.any (·.pending) = false := List.any_eq_false.mpr fun c hc => by simp [hnone c hc]
  rw [if_neg (by omega), hquiet]
  rfl

theorem bida_completes (v : WordM) : Completes (.bida v) (frameWholeM v) (fun _ x s => s.chansOf x ≠ 1)
    (fun w x s => s.setCtx w.c { x with barI := x.barI + 1 }) :=
  .of_done (fun _ => rfl) fun _ _ _ hmany => if_neg hmany

/-- A PHASE with a word to go on to, whose release has come, lets the context go on (R221). -/
theorem phase_passes (v : WordM) : Answers (.phase v) (framePhase v)
    (fun w x s => fallThrough (s.textOf x) (x.role w.r).pc ≠ none ∧ x.phaseDone = true ∧ s.logUsers w.c.cid = false)
    (fun w _ s => s.phasePass w.c) := by
  refine .of_final (e := effPhase) (fun _ => rfl) ?_
  rintro w x s ⟨hnext, hcome, hfree⟩
  simp only [effPhase, Option.isNone_iff_eq_none, if_neg hnext, hcome, if_true, hfree, Bool.false_eq_true, if_false]

end Sys2Proof.Machine

namespace Sys2Proof.Proofs

open Sys2Proof.Machine

/-- Settles O16: one lemma for each instruction, BAR having one for its arrival and one for its end. -/
theorem barriers : Obligations.Barriers := by
  unfold Obligations.Barriers
  exact ⟨bara_completes, barw_completes, bar_arrives, bar_completes, bidb_completes, bida_completes, phase_passes⟩

end Sys2Proof.Proofs
end

section
/-! SUPPORT and the settled obligations O33 and O34: what each row of Machine/Barrier.lean does once its guards hold. -/

namespace Sys2Proof.Machine

section

variable {s : State} {k : Kernel} {x : Ctx}

/-! ## Releases and detection waves (R218, R221, R270) -/

theorem execBarrierRelease_releases (hk : s.kernel s.inp.k = some k) (hrun : k.state = .running) (hlow : 1 ≤ s.inp.e)
    (hhigh : s.inp.e < k.g) (hall : s.allArrived k (fun x => (x.chan s.inp.e).pending) = true) :
    execBarrierRelease s = .next (s.releaseChan k s.inp.e) := by
  simp only [execBarrierRelease, hk]
  rw [if_pos ⟨hrun, hlow, hhigh, hall⟩]

theorem execPhaseBarrierRelease_releases (hk : s.kernel s.inp.k = some k) (hfull : s.phaseFull k = true)
    (hdue : s.freezeDue k.id = false) : execPhaseBarrierRelease s = .next (s.releasePhase k) := by
  simp only [execPhaseBarrierRelease, hk, hfull, hdue, Bool.not_false, and_self, if_true]

theorem execDetectionWave_notes {l : WorkLists} {q : Bool} (hk : s.kernel s.inp.k = some k) (hl : k.wl = some l)
    (hq : q = (l.lists.all (·.isEmpty) && l.appended == l.taken && k.grant.all (s.ctxIdle k))) :
    execDetectionWave s = .next (s.modKernel k.id (fun k => { k with wl := some { l with
      wave := some (q, l.appended), latch := l.latch || (q && l.wave == some (true, l.appended)) } })) := by
  subst hq
  simp only [execDetectionWave, hk, hl]

/-! ## Traps that end waits (R46, R222, R223) -/

theorem execSelfDeadlock_traps (hx : s.ctx s.inp.c = some x) (hd : x.deadlocked = true)
    (hf : (s.core s.inp.c.cid).frozen = none) : execSelfDeadlock s = .next (s.deliver s.inp.c 3 cDeadlock 0 0 false) := by
  simp only [execSelfDeadlock, hx, hd, hf, Option.isNone_none, and_self, if_true]

/-- A counted wait of a role that may issue has reached WLIM; under the self-deadlock rule nothing that it depends on
has changed. -/
theorem State.timeOut_raises {w : Who} {n : Wait} (hx : s.ctx w.c = some x) (hn : (x.role w.r).wait = some n)
    (hcounts : n.counts = true) (hlim : x.wlim ≤ (x.role w.r).waited)
    (hseen : n.deadlock = true → (x.role w.r).seen = x.shared) (hcan : s.canIssue w = true) :
    s.timeOut w = s.raise w cTimeout 0 := by
  have hdue : (n.counts && decide (x.wlim ≤ (x.role w.r).waited) && (!n.deadlock || (x.role w.r).seen == x.shared)) = true := by
    cases hrule : n.deadlock with
    | false => simp [hcounts, hlim]
    | true => simp [hcounts, hlim, hseen hrule]
  simp only [State.timeOut, hx, hn, hdue, hcan, and_self, if_true]

theorem execWaitTimeout_issuing (hcan : s.canIssue ⟨s.inp.c, s.inp.r⟩ = true) :
    execWaitTimeout s = .next (s.timeOut ⟨s.inp.c, s.inp.r⟩) := by
  simp only [execWaitTimeout, hcan, if_true]

theorem execHoldOffOverrun_traps (hx : s.ctx s.inp.c = some x) (hev : x.async ≠ []) (hrun : x.state = .run)
    (hlim : (s.core s.inp.c.cid).holdlim ≤ x.heldOff) :
    execHoldOffOverrun s = .next (s.deliver s.inp.c 3 cHoldOff 0 0 false) := by
  simp only [execHoldOffOverrun, hx, List.isEmpty_iff, hev, if_false, hrun, if_pos hlim]

/-- The context that the overrun has trapped is saved, once nothing of it is in transfer on a core that is not frozen. -/
theorem execHoldOffOverrun_saves {role : Nat} {p : Pos} {after : Bool} (hx : s.ctx s.inp.c = some x) (hev : x.async ≠ [])
    (hst : x.state = .trapped) (htrap : x.trap = some (role, cHoldOff, p, after))
    (hquiet : x.inTransfer = false ∨ (s.core s.inp.c.cid).frozen ≠ none)
    (hready : x.async.any (·.isSave) = true → s.saveReady s.inp.c x = true) :
    execHoldOffOverrun s = .next (s.takeAsync s.inp.c 1) := by
  have hended : ¬ (x.inTransfer = true ∧ (s.core s.inp.c.cid).frozen.isNone = true) := by
    rintro ⟨hin, hnone⟩
    rcases hquiet with hout | hfrozen
    · exact Bool.false_ne_true (hout.symm.trans hin)
    · exact hfrozen (Option.isNone_iff_eq_none.mp hnone)
  have hsaved : ¬ (x.async.any (·.isSave) = true ∧ (!s.saveReady s.inp.c x) = true) := by
    rintro ⟨hsave, hnot⟩
    simp [hready hsave] at hnot
  simp only [execHoldOffOverrun, hx, List.isEmpty_iff, hev, if_false, hst, htrap, true_and, if_neg hended,
    if_neg hsaved, if_true]

/-! ## The ends of WAITC and YLD (R121, R122) -/

/-- With nothing that comes by itself before, the cycles of a row go by. -/
theorem State.lapse_of_not_due {n : Nat} {f : State → State} (h : s.due n = none) : s.lapse n f = f (s.elapse n) := by
  simp only [State.lapse, h]

/-- A mapping of the values leaves the keys. -/
theorem aget_map_isSome {κ α : Type} [DecidableEq κ] {f : κ × α → κ × α} (hf : ∀ e, (f e).1 = e.1) (l : List (κ × α)) (k : κ) :
    (aget (l.map f) k).isSome = (aget l k).isSome := by
  induction l with
  | nil => rfl
  | cons e l ih => by_cases h : e.1 = k <;> simp [aget, hf, h, ih]

/-- Time leaves every context in its slot. -/
theorem State.elapse_ctx_isSome (s : State) (n : Nat) (c : CtxId) : ((s.elapse n).ctx c).isSome = (s.ctx c).isSome := by
  have hout : (s.goltikOut n).ctx c = s.ctx c := by
    unfold State.goltikOut
    split <;> rfl
  rw [← hout]
  unfold State.elapse State.tick
  split
  · rfl
  · refine aget_map_isSome ?_ _ c
    exact fun _ => rfl

/-- A word that a role of a context executes leads to a next state. -/
theorem runWord_next {i : Instr} {f : Frame} {e : Effect} {w : Who} (ht : s.turn = .role w.c w.r)
    (hx : (s.ctx w.c).isSome = true) :
    ∃ t, runWord i f e s = .next t := by
  obtain ⟨y, hy⟩ := Option.isSome_iff_exists.mp hx
  exact ⟨runRole i f e w y s, by simp only [runWord, ht, hy]⟩

/-- The WAITC of a role that waits for its clock executes in the state in which the clock has come. -/
theorem execWaitcClockReached_completes {v : WordS} {rest : List Byte} {n : Nat} (hx : s.ctx s.inp.c = some x)
    (hdec : decode (fetchBytes (s.textOf x) (x.role s.inp.r).pc) = .ok (.waitc v, rest))
    (hn : cyclesUntil s s.inp.c v (readSrc ⟨s.inp.c, s.inp.r⟩ x v.a (imm64 v)) = some n)
    (hwait : (x.role s.inp.r).wait = some .clock) (hcan : s.canIssue ⟨s.inp.c, s.inp.r⟩ = true)
    (hlim : (x.role s.inp.r).waited + n < x.wlim) (hdue : s.due n = none) :
    ∃ t, exec (.waitc v) { s.elapse n with turn := .role s.inp.c s.inp.r } = .next t ∧
      execWaitcClockReached s = .next { t with turn := s.turn } := by
  have hctx : ((s.elapse n).ctx s.inp.c).isSome = true := by
    rw [State.elapse_ctx_isSome, hx]
    rfl
  obtain ⟨t, ht⟩ : ∃ t, execWaitc v { s.elapse n with turn := .role s.inp.c s.inp.r } = .next t :=
    runWord_next (s := { s.elapse n with turn := .role s.inp.c s.inp.r }) (w := ⟨s.inp.c, s.inp.r⟩) rfl hctx
  refine ⟨t, ht, ?_⟩
  simp only [execWaitcClockReached, hx, hdec, hn]
  rw [if_pos ⟨hwait, hcan, hlim⟩, State.lapse_of_not_due hdue, ht, State.elapse_turn]

theorem execYieldEnd_ends {n : Nat} (hx : s.ctx s.inp.c = some x) (hn : n = (x.role s.inp.r).yieldLeft.getD 0)
    (hdue : s.due n = none) : execYieldEnd s = .next ((s.elapse n).modRole ⟨s.inp.c, s.inp.r⟩
      (fun r => { r with yieldLeft := r.yieldLeft.map (fun _ => 0) })) := by
  subst hn
  simp only [execYieldEnd, hx, State.lapse_of_not_due hdue, State.elapse_inp]

end

end Sys2Proof.Machine

namespace Sys2Proof.Proofs

open Sys2Proof.Machine

/-- Settles O33: each row's guards are the statement's hypotheses. -/
theorem releases : Obligations.Releases := by
  unfold Obligations.Releases
  refine ⟨?channel, ?phase, ?wave⟩
  case channel => exact fun k s ⟨hk, hrun, hlow, hhigh, hall⟩ => execBarrierRelease_releases hk hrun hlow hhigh hall
  case phase => exact fun k s ⟨hk, hfull, hdue⟩ => execPhaseBarrierRelease_releases hk hfull hdue
  case wave => exact fun k l q s ⟨hk, hl, hq⟩ => execDetectionWave_notes hk hl hq

/-- Settles O34: each row's guards are the statement's hypotheses; of a WAITC it remains to be seen that its context is still
there when its clock has come. -/
theorem waitEnds : Obligations.WaitEnds := by
  unfold Obligations.WaitEnds
  refine ⟨?deadlock, ?timeout, ?overrun, ?save, ?waitc, ?yield⟩
  case deadlock => exact fun x s ⟨hx, hd, hf⟩ => execSelfDeadlock_traps hx hd hf
  case timeout =>
    rintro x k s ⟨hx, hk, hcounts, hlim, hseen, hcan⟩
    exact (execWaitTimeout_issuing hcan).trans (congrArg _ (State.timeOut_raises hx hk hcounts hlim hseen hcan))
  case overrun => exact fun x s ⟨hx, hev, hrun, hlim⟩ => execHoldOffOverrun_traps hx hev hrun hlim
  case save =>
    exact fun x role code val s ⟨hx, hev, hst, htrap, hquiet, hready⟩ =>
      execHoldOffOverrun_saves hx hev hst htrap hquiet hready
  case waitc =>
    exact fun s x v k n hx hdec hn hwait hcan hlim hdue =>
      execWaitcClockReached_completes hx hdec hn hwait hcan hlim hdue
  case yield => exact fun x n s ⟨hx, hn, hdue⟩ => execYieldEnd_ends hx hn hdue

end Sys2Proof.Proofs
end

section
/-! SUPPORT and the settled obligation O19: a request for the lease is granted or left standing, and LEASE and ULEASE answer with
it. -/

namespace Sys2Proof.Machine

variable {i : Instr} {f : Frame} {pre : Who → Ctx → State → Prop} {eff : Who → Ctx → State → State}
variable {s : State} {w : Who} {x : Ctx} {v : WordX} {c : CtxId} {dest : Pos}

/-! ## A word of format X that its own role issues (R36, R77) -/

/-- A word that carries the tag of its role carries no A tag. -/
theorem frameX_isA_of_own (hown : v.role.toNat = Role.code w.r) : (frameX v).isA = false := by
  have hne : v.role ≠ 0b11#2 := by
    intro htag
    rw [htag] at hown
    cases hr : w.r <;> rw [hr] at hown <;> exact absurd hown (by decide)
  exact beq_eq_false_iff_ne.mpr hne

theorem issues_own_frameX (hturn : s.turn = .role w.c w.r) (hx : s.ctx w.c = some x) (hown : v.role.toNat = Role.code w.r)
    (hlegal : decodeFault i false [v.d, v.a, v.b] x = none) (hpops : ∀ q ∈ tokPops w.r v.tok, x.tok q ≠ 0)
    (hguard : guardOn (x.role w.r) v.guard = true) (hdata : busy x w.r [v.d, v.a, v.b] = false) :
    Issues i (frameX v) s w x where
  turn := hturn
  ctx := hx
  tag := .inl hown
  legal := hlegal
  agree := fun hA => nomatch (frameX_isA_of_own hown).symm.trans hA
  pops := .inr hpops
  pushes := nofun
  guard := hguard
  data := hdata

theorem falls_own_frameX (hown : v.role.toNat = Role.code w.r) (hnext : fallThrough (s.textOf x) (x.role w.r).pc = some dest)
    (hcount : countFull (x.role w.r) (restOf v.tok none (x.role w.r).pc dest false false false).enter
      (restOf v.tok none (x.role w.r).pc dest false false false).exit = false) : Falls (frameX v) s w x dest where
  next := hnext
  room := nofun
  count := by rw [frameX_isA_of_own hown]; exact hcount

/-- A format X word without the A tag retires as the role's own. -/
theorem finish_own_frameX (hown : v.role.toNat = Role.code w.r) (pc : Pos) :
    (frameX v).finish w pc dest none s = s.retire w (restOf v.tok none pc dest false false false) := by
  unfold Frame.finish
  rw [frameX_isA_of_own hown]
  rfl

/-! ## What token pops leave (R77, R182) -/

theorem popped_lease (f : Frame) (s : State) (w : Who) (x : Ctx) :
    ((s.popped f w x).core w.c.cid).lease = (s.core w.c.cid).lease := by
  unfold State.popped
  split
  · rfl
  · split
    · rfl
    · rw [State.acquire_core, State.core_modCore]
      rfl

theorem State.holds_congr {t : State} (h : (t.core c.cid).lease = (s.core c.cid).lease) : t.holds c = s.holds c := by
  unfold State.holds
  rw [h]

@[simp] theorem popped_holds (f : Frame) (s : State) (w : Who) (x : Ctx) : (s.popped f w x).holds w.c = s.holds w.c :=
  State.holds_congr (popped_lease f s w x)

@[simp] theorem Frame.popped_acmds (f : Frame) (w : Who) (x : Ctx) : (f.popped w x).acmds = x.acmds := by
  rw [(popped_kept f w x).eq]
  cases w.r <;> rfl

@[simp] theorem Frame.popped_nextAcc (f : Frame) (w : Who) (x : Ctx) : (f.popped w x).nextAcc = x.nextAcc := by
  rw [(popped_kept f w x).eq]
  cases w.r <;> rfl

/-! ## The lease (R232, R234) -/

/-- Giving the lease up leaves the acquires of the core. -/
theorem settleLease_calm (h : s.calm c.cid) : (s.settleLease c).calm c.cid := by
  unfold State.settleLease
  split
  · exact h
  · split
    · exact h
    · split
      · exact h
      · dsimp only
        split
        · unfold State.calm
          rw [State.core_modCore]
          exact h
        · exact h

/-- The holder keeps the lease. -/
theorem askLease_holder (hholds : s.holds c = true) :
    s.askLease c x = (true, s.setCtx c { x with leaseAsk := true, leaseGive := none }) := by
  simp only [State.askLease, hholds, if_true]

/-- The winner of the arbitration for a free array is granted it. -/
theorem askLease_winner (hno : s.holds c = false) (hfree : (s.core c.cid).lease = none)
    (hwin : (s.setCtx c { x with leaseAsk := true, leaseGive := none }).winner c.cid none = some c.num) :
    s.askLease c x = (true, (s.setCtx c { x with leaseAsk := true, leaseGive := none }).grantLease c) := by
  simp only [State.askLease, hno, hfree, hwin, Option.isNone_none, and_self, Bool.false_eq_true, if_false, if_true]

/-- In every other case the request is left standing. -/
theorem askLease_refused (hno : s.holds c = false) (hlost : (s.core c.cid).lease ≠ none ∨
      (s.setCtx c { x with leaseAsk := true, leaseGive := none }).winner c.cid none ≠ some c.num) :
    s.askLease c x = (false, s.setCtx c { x with leaseAsk := true, leaseGive := none }) := by
  have hnot : ¬ ((s.core c.cid).lease.isNone = true ∧
      (s.setCtx c { x with leaseAsk := true, leaseGive := none }).winner c.cid none = some c.num) := by
    rintro ⟨hfree, hwin⟩
    exact hlost.elim (· (Option.isNone_iff_eq_none.mp hfree)) (· hwin)
  simp only [State.askLease, hno, Bool.false_eq_true, if_false, if_neg hnot]

/-- Without TRY a granted request completes the LEASE. -/
theorem lease_completes (htry : bitAt v.low 56 = false) (hask : ∀ w x s, pre w x s → s.askLease w.c x = (true, eff w x s)) :
    Completes (.lease v) (frameX v) pre eff := by
  refine .of_done (e := effLease (bitAt v.low 56) _) (fun _ => rfl) fun w x s hpre => ?_
  simp only [effLease, htry, hask w x s hpre, Bool.false_eq_true, if_false, if_true]

/-- Without TRY any other is waited for. -/
theorem lease_waits (htry : bitAt v.low 56 = false) (hask : ∀ w x s, pre w x s → s.askLease w.c x = (false, eff w x s)) :
    Answers (.lease v) (frameX v) pre (fun w x s => (eff w x s).waitOn w .lease) := by
  refine .of_waitIn (e := effLease (bitAt v.low 56) _) (fun _ => rfl) fun w x s hpre => ?_
  simp only [effLease, htry, hask w x s hpre, Bool.false_eq_true, if_false]

/-- Under TRY p(TP) says whether the request is granted. -/
theorem lease_try_completes {granted : Bool} (htry : bitAt v.low 56 = true)
    (hask : ∀ w x s, pre w x s → s.askLease w.c x = (granted, eff w x s)) :
    Completes (.lease v) (frameX v) pre (fun w x s => (eff w x s).setP w (field v.low 53 3).toNat granted) := by
  refine .of_done (e := effLease (bitAt v.low 56) _) (fun _ => rfl) fun w x s hpre => ?_
  simp only [effLease, htry, hask w x s hpre, if_true]

theorem ulease_completes (v : WordX) : Completes (.ulease v) (frameX v) anyCtx (fun w x s =>
    (s.setCtx w.c { x with
      leaseAsk := false
      leaseGive := if (s.holds w.c || x.acmds.any (fun k => k.kind.usesArray)) = true then some x.nextAcc else none }).settleLease
        w.c) :=
  .of_done (fun _ => rfl) fun _ _ _ _ => rfl

end Sys2Proof.Machine

namespace Sys2Proof.Proofs

open Sys2Proof.Machine

/-- Settles O19: a request has three outcomes, and a LEASE completes or waits with each. -/
theorem arrayLease : Obligations.ArrayLease := by
  unfold Obligations.ArrayLease
  refine ⟨?leaseInFull, ?uleaseInFull, ?holder, ?winner, ?tryHolder, ?tryWinner, ?tryRefused, ?refused, ulease_completes⟩
  case leaseInFull =>
    intro v s w x dest hturn hx hown hlegal hpops hguard hdata hnext hcount hcalm htry hholds
    have hcompletes := lease_completes (pre := fun w _ s => s.holds w.c = true) htry fun _ _ _ => askLease_holder
    rw [hcompletes s w x dest (issues_own_frameX hturn hx hown hlegal hpops hguard hdata) (falls_own_frameX hown hnext hcount)
      ((popped_holds ..).trans hholds) (popped_calm hcalm), finish_own_frameX hown]
  case uleaseInFull =>
    intro v s w x dest hturn hx hown hlegal hpops hguard hdata hnext hcount hcalm
    rw [ulease_completes v s w x dest (issues_own_frameX hturn hx hown hlegal hpops hguard hdata)
      (falls_own_frameX hown hnext hcount) trivial (settleLease_calm (popped_calm hcalm)), finish_own_frameX hown]
    simp only [popped_holds, Frame.popped_acmds, Frame.popped_nextAcc]
  case holder => exact fun v htry => lease_completes htry fun _ _ _ => askLease_holder
  case winner => exact fun v htry => lease_completes htry fun _ _ _ ⟨hno, hfree, hwin⟩ => askLease_winner hno hfree hwin
  case tryHolder => exact fun v htry => lease_try_completes htry fun _ _ _ => askLease_holder
  case tryWinner => exact fun v htry => lease_try_completes htry fun _ _ _ ⟨hno, hfree, hwin⟩ => askLease_winner hno hfree hwin
  case tryRefused => exact fun v htry => lease_try_completes htry fun _ _ _ ⟨hno, hlost⟩ => askLease_refused hno hlost
  case refused => exact fun v htry => lease_waits htry fun _ _ _ ⟨hno, hlost⟩ => askLease_refused hno hlost

end Sys2Proof.Proofs
end

section
/-! SUPPORT and the settled obligation O20: an array instruction whose checks find no fault places its command in the queue or sets the
context's array state. -/

namespace Sys2Proof.Machine

variable {s : State} {w : Who} {x : Ctx} {v : WordX}

/-! ## Checks and acceptance (R231, R247) -/

@[simp] theorem faults_nil : faults [] = none := rfl

@[simp] theorem faults_passed (c : Nat) (a : W64) (l : List (Bool × Nat × W64)) : faults ((false, c, a) :: l) = faults l := rfl

theorem past_eq_false {budget n : Nat} {off : W64} (h : off.toNat + n ≤ budget) : past budget off n = false :=
  decide_eq_false (Nat.not_lt.mpr h)

/-- A multiple passes its alignment check. -/
theorem misaligned_eq_false {a n : Nat} (h : a % n = 0) : (a % n != 0) = false := by rw [h]; rfl

theorem rowsOk_of_zRows (h : zRows v x) : rowsOk v = true := by
  obtain ⟨hfirst, hsome, hmost, -⟩ := h
  simp only [rowsOk, hfirst, hsome, hmost, decide_true, Bool.and_self]

theorem zBound_of_zRows (h : zRows v x) : decide (x.zbud / 512 < zrOf v + nrOf v) = false := by
  obtain ⟨-, -, -, hbound⟩ := h
  exact decide_eq_false (Nat.not_lt.mpr hbound)

/-- A queue with room takes the command. -/
theorem accept_queues {k : AKind} {cpt : Nat} (hroom : x.acmds.length < 8) :
    accept s w x k cpt = .done (s.setCtx w.c (x.queued k cpt)) := if_neg (Nat.not_le.mpr hroom)

/-! ## Planes and shape (R229, R235, R236) -/

theorem wload_completes (v : WordX) (off : W64) (t : BitVec 5) : Completes (.wload v) (frameX v)
    (fun w x _ => off = readSrc w x v.a 0 ∧ t = typeOf v ∧ weightType t = true ∧ off.toNat % 256 = 0 ∧
      off.toNat + tileSize t ≤ x.wbud ∧ x.leaseAsk = true ∧ x.acmds.length < 8)
    (fun w x s => s.setCtx w.c
      (({ x with shRec := ⟨off.toNat, t, true⟩ } : Ctx).queued (.wload ⟨off.toNat, t, true⟩) (cptOf v))) := by
  refine .of_done (fun _ => rfl) ?_
  rintro w x s ⟨rfl, rfl, htype, haligned, hbound, hlease, hroom⟩
  simp only [htype, misaligned_eq_false haligned, past_eq_false hbound, hlease, Bool.not_true, faults_passed, faults_nil]
  exact accept_queues hroom

theorem wswp_completes (v : WordX) : Completes (.wswp v) (frameX v)
    (fun _ x _ => x.leaseAsk = true ∧ x.shRec.valid = true ∧ x.acmds.length < 8)
    (fun w x s => s.setCtx w.c (({ x with actRec := x.shRec, shRec := x.actRec } : Ctx).queued .wswp 0)) := by
  refine .of_done (fun _ => rfl) ?_
  rintro w x s ⟨hlease, hvalid, hroom⟩
  simp only [hlease, hvalid, Bool.not_true, faults_passed, faults_nil]
  exact accept_queues hroom

theorem ashp_completes (v : WordX) (b : W64) : Completes (.ashp v) (frameX v)
    (fun w x _ => b = (if isImm v.a then (field v.low 0 4).setWidth 64 else readSrc w x v.a 0) ∧
      (b = 1 ∨ b = 3 ∨ b = 7 ∨ b = 15))
    (fun w x s => s.setCtx w.c { x with ashp := b.setWidth 4 }) := by
  refine .of_done (fun _ => rfl) ?_
  rintro w x s ⟨rfl, hshape⟩
  exact if_pos hshape

/-! ## The multiplies (R237) -/

/-- A multiply that is ready passes its six checks. -/
theorem effMma_ready {kind : Nat} (h : mmaReady kind v w x) : effMma kind v w x s = .done (multiplyQueued kind v w x s) := by
  obtain ⟨hrows, htypeLow, htypeHigh, hstride, hlong, haligned, hbound, hlease, hvalid, hfull, hroom⟩ := h
  have hwhole : (kind == 2 && blockHalf x.actRec.fmt) = false := by
    cases hk : kind == 2 with
    | false => rfl
    | true => exact hfull (beq_iff_eq.mp hk)
  unfold strideOf at hstride hlong hbound
  simp only [effMma, rowsOk_of_zRows hrows, htypeLow, htypeHigh, misaligned_eq_false hstride,
    decide_eq_false (Nat.not_lt.mpr hlong), misaligned_eq_false haligned, past_eq_false hbound, zBound_of_zRows hrows, hlease,
    hvalid, hwhole, decide_true, Bool.and_self, Bool.not_true, Bool.or_self, faults_passed, faults_nil]
  exact accept_queues hroom

theorem Multiplies.of_effMma {mk : WordX → Instr} {kind : Nat}
    (hrun : ∀ v s, exec (mk v) s = runX (mk v) v (effMma kind v) s) : Multiplies mk kind :=
  fun v => .of_done (hrun v) fun _ _ _ => effMma_ready

/-! ## The epilogue (R242, R243, R245) -/

theorem epicf_completes (v : WordX) (o : W64) : Completes (.epicf v) (frameX v)
    (fun w x s => o = readSrc w x v.a 0 ∧ o.toNat % 64 = 0 ∧ o.toNat + 64 ≤ x.abud ∧
      epiOk ((s.ownA w x).read o.toNat 64) x.abud = true)
    (fun w x s => s.setCtx w.c { x with epi := EpiCfg.ofBytes ((s.ownA w x).read o.toNat 64) }) := by
  refine .of_done (fun _ => rfl) ?_
  rintro w x s ⟨rfl, haligned, hbound, hlegal⟩
  simp only [misaligned_eq_false haligned, past_eq_false hbound, faults_passed, faults_nil]
  exact if_pos hlegal

/-- An EPI that writes the A buffer. -/
theorem epi_toA_completes (v : WordX) (ao : W64) : Completes (.epi v) (frameX v)
    (fun w x _ => isQ v.d = false ∧ ao = readSrc w x v.a 0 ∧ zRows v x ∧ strideOf v (epiRow x.epi.ofmt) % 4 = 0 ∧
      ao.toNat % 4 = 0 ∧ x.acmds.length < 8 ∧
      ao.toNat + ((nrOf v - 1) * strideOf v (epiRow x.epi.ofmt) + epiRow x.epi.ofmt) ≤ x.abud)
    (fun w x s => s.setCtx w.c (x.queued (.epi (zrOf v) (nrOf v) none ao.toNat (strideOf v (epiRow x.epi.ofmt)) (bitAt v.low 44)
      x.epi) (cptOf v))) := by
  refine .of_done (fun _ => rfl) ?_
  rintro w x s ⟨hq, rfl, hrows, hstride, haligned, hroom, hbound⟩
  unfold strideOf at hstride hbound
  simp only [hq, rowsOk_of_zRows hrows, misaligned_eq_false hstride, misaligned_eq_false haligned, past_eq_false hbound,
    zBound_of_zRows hrows, Bool.false_eq_true, if_false, Bool.not_true, Bool.not_false, Bool.false_and, Bool.and_false,
    Bool.or_self, faults_passed, faults_nil, false_and, if_true]
  exact accept_queues hroom

/-- An EPI into a q-register, which no self-loop bars, begins to reserve its entries. -/
theorem epi_toQ_completes (v : WordX) (q : Nat) (k : ACmd) (hdest : q = qOf v.d) : Completes (.epi v) (frameX v)
    (fun _ x _ => isQ v.d = true ∧ zRows v x ∧ strideOf v (epiRow x.epi.ofmt) % 4 = 0 ∧ x.acmds.length < 8 ∧ x.epi.ofmt ≠ 30 ∧
      (x.selfLoop q = true → nrOf v * epiEntries x.epi.ofmt ≤ qDepth x.harvest q) ∧
      k = { acc := x.nextAcc, kind := .epi (zrOf v) (nrOf v) (some q) 0 (strideOf v (epiRow x.epi.ofmt)) (bitAt v.low 44) x.epi
            cpt := cptOf v, at_ := x.nextId, owed := nrOf v * epiEntries x.epi.ofmt, qid := x.nextId })
    (fun w x s => s.setCtx w.c (Ctx.settleQ
      { x with acmds := x.acmds ++ [k], nextAcc := x.nextAcc + 1, nextId := x.nextId + 1 } q)) := by
  subst hdest
  refine .of_done (fun _ => rfl) ?_
  rintro w x s ⟨hq, hrows, hstride, hroom, hformat, hdepth, rfl⟩
  have hloop : ¬ (True ∧ x.selfLoop (qOf v.d) = true ∧ qDepth x.harvest (qOf v.d) < nrOf v * epiEntries x.epi.ofmt) :=
    fun ⟨_, hself, hover⟩ => Nat.not_lt.mpr (hdepth hself) hover
  have haligned : (BitVec.toNat (0 : W64) % 4 != 0) = false := rfl
  unfold strideOf at hstride
  simp only [hq, rowsOk_of_zRows hrows, misaligned_eq_false hstride, beq_eq_false_iff_ne.mpr hformat, haligned,
    zBound_of_zRows hrows, if_true, Bool.not_true, Bool.false_and, Bool.and_false, Bool.or_self, faults_passed, faults_nil,
    if_neg hloop, Bool.false_eq_true, if_false, if_neg (Nat.not_le.mpr hroom)]
  rfl

/-! ## Direct Z access (R246) -/

theorem zFaults_none (hrow : zrOf v ≤ 47) (hbound : zrOf v + 1 ≤ x.zbud / 512) : zFaults x v = none := by
  simp only [zFaults, decide_eq_false (Nat.not_lt.mpr hrow), decide_eq_false (Nat.not_lt.mpr hbound), faults_passed, faults_nil]

/-- A ZRD reserves the entry that it will fill, under the number that the context gives next. -/
theorem zrd_completes (v : WordX) : Completes (.zrd v) (frameX v)
    (fun _ x _ => zrOf v ≤ 47 ∧ zrOf v + 1 ≤ x.zbud / 512 ∧ x.acmds.length < 8 ∧
      Taken.stop { x := x } (some (qOf v.d)) = none)
    (fun w x s => s.setCtx w.c ((x.qReserve (qOf v.d)).queued (.zrd (zrOf v) (halfOf v) (qOf v.d) x.nextId) 0)) := by
  refine .of_done (fun _ => rfl) ?_
  rintro w x s ⟨hrow, hbound, hroom, hentry⟩
  simp only [zFaults_none hrow hbound, hentry]
  exact accept_queues (by rwa [Ctx.qReserve_acmds_length])

/-- A ZWR takes the entry that it will write. -/
theorem zwr_completes (v : WordX) : Completes (.zwr v) (frameX v)
    (fun _ x _ => zrOf v ≤ 47 ∧ zrOf v + 1 ≤ x.zbud / 512 ∧ x.acmds.length < 8 ∧
      (Taken.q { x := x } (qOf v.a) false).stop none = none)
    (fun w x s => s.setCtx w.c ((x.qPop (qOf v.a)).queued (.zwr (zrOf v) (halfOf v) (headLanes x (qOf v.a))) 0)) := by
  refine .of_done (fun _ => rfl) ?_
  rintro w x s ⟨hrow, hbound, hroom, hentry⟩
  have hleft : (x.qPop (qOf v.a)).acmds.length < 8 := hroom
  simp only [zFaults_none hrow hbound, withQ, hentry]
  exact accept_queues hleft

theorem zclr_completes (v : WordX) : Completes (.zclr v) (frameX v) (fun _ x _ => zRows v x ∧ x.acmds.length < 8)
    (fun w x s => s.setCtx w.c (x.queued (.zclr (zrOf v) (nrOf v)) 0)) := by
  refine .of_done (fun _ => rfl) ?_
  rintro w x s ⟨hrows, hroom⟩
  simp only [rowsOk_of_zRows hrows, zBound_of_zRows hrows, Bool.not_true, faults_passed, faults_nil]
  exact accept_queues hroom

end Sys2Proof.Machine

namespace Sys2Proof.Proofs

open Sys2Proof.Machine

/-- Settles O20: one lemma for each instruction, EPI having one for each kind of destination. -/
theorem arrayCommands : Obligations.ArrayCommands := by
  unfold Obligations.ArrayCommands
  exact ⟨wload_completes, wswp_completes, ashp_completes, .of_effMma fun _ _ => rfl, .of_effMma fun _ _ => rfl,
    .of_effMma fun _ _ => rfl, epicf_completes, epi_toA_completes, epi_toQ_completes, zrd_completes, zwr_completes,
    zclr_completes⟩

end Sys2Proof.Proofs
end

section
/-! SUPPORT and the settled obligation O21: what each row of Machine/Matrix.lean that moves planes, Z, tokens or the lease does once its
guards hold. -/

namespace Sys2Proof.Machine

section

variable {s : State} {x : Ctx} {k : ACmd}

/-- The command that the array serves, where the move's context is known by another name. -/
theorem arrayAt.head {c : CtxId} (hat : arrayAt x k s) (hc : s.inp.c = c) : s.arrayHead c = some (x, k) := by
  subst hc
  exact hat

/-! ## Planes (R228, R235, R236, R428) -/

theorem execWloadTileCopy_copies {p : PlaneRec} {s1 : State} (hat : s.arrayHead s.inp.c = some (x, k)) (hkind : k.kind = .wload p)
    (hbegin : s.beginHead s.inp.c k = some s1) (hsound : s.badS s.inp.c 1 p.off (tileSize p.fmt) = false) :
    execWloadTileCopy s =
      .next ((s1.modCtx s.inp.c (fun y => { y with sh := p.load x.wbuf })).headDone s.inp.c { k with begun := true }) := by
  simp only [execWloadTileCopy, hat, hkind, hbegin, hsound, Bool.false_eq_true, if_false]

theorem execWswpExchange_exchanges {s1 : State} (hat : s.arrayHead s.inp.c = some (x, k)) (hkind : k.kind = .wswp)
    (hbegin : s.beginHead s.inp.c k = some s1) : execWswpExchange s =
      .next ((s1.modCtx s.inp.c (fun y => { y with act := x.sh, sh := x.act })).headDone s.inp.c { k with begun := true }) := by
  simp only [execWswpExchange, hat, hkind, hbegin]

/-- A plane that may enter does so, once the limiter has come to the present window; it counts for the window unless the core is
frozen. -/
theorem execPlaneInjection_injects {kind zr nr off str : Nat} {t : BitVec 5} {zs : Bool} {ben : BitVec 4} {u s1 : State}
    (hroll : u = s.roll s.inp.c.cid) (hflag : u.inp.flag = false) (hat : u.arrayHead s.inp.c = some (x, k))
    (hkind : k.kind = .mma kind zr nr t zs off str ben)
    (hmay : (u.core s.inp.c.cid).frozen.isSome = true ∨ (u.core s.inp.c.cid).winPlanes < u.allowance s.inp.c.cid)
    (hthaw : u.thawed s.inp.c.cid = true) (hbands : (u.core s.inp.c.cid).bands &&& ben = ben) (hleft : k.inj < blockWidth t)
    (hbegin : u.beginHead s.inp.c k = some s1) : execPlaneInjection s =
      .next ((s1.modCore s.inp.c.cid (fun k => { k with
        winPlanes := k.winPlanes + (if (u.core s.inp.c.cid).frozen.isSome then 0 else 1), thaw := none })).modCtx s.inp.c
          (fun y => y.setHead { k with begun := true, inj := k.inj + 1 })) := by
  subst hroll
  simp only [execPlaneInjection, hflag, hat, hkind, hbegin, Bool.false_eq_true, if_false]
  rw [if_pos ⟨hmay, hthaw, hbands, hleft⟩]

/-- A ballast plane fills the window up to its floor. -/
theorem execPlaneInjection_ballast {u : State} (hroll : u = s.roll s.inp.c.cid) (hflag : u.inp.flag = true)
    (hfrozen : (u.core s.inp.c.cid).frozen = none) (hlow : (u.core s.inp.c.cid).winPlanes < u.ballastFloor s.inp.c.cid) :
    execPlaneInjection s = .next (u.modCore s.inp.c.cid (fun k => { k with winPlanes := k.winPlanes + 1 })) := by
  subst hroll
  simp only [execPlaneInjection, hflag, hfrozen, hlow, Option.isSome_none, Bool.not_false, and_self, if_true]

theorem execBandPowerUp_powers {kind zr nr off str : Nat} {t : BitVec 5} {zs : Bool} {ben : BitVec 4}
    (hat : s.arrayHead s.inp.c = some (x, k)) (hkind : k.kind = .mma kind zr nr t zs off str ben) :
    execBandPowerUp s = .next (s.modCore s.inp.c.cid (fun k => { k with bands := k.bands ||| ben })) := by
  simp only [execBandPowerUp, hat, hkind]

/-! ## Direct Z access (R246) -/

theorem execZDirectExecute_reads {zr h q id : Nat} (hat : s.arrayHead s.inp.c = some (x, k)) (hkind : k.kind = .zrd zr h q id)
    (hsound : s.badS s.inp.c 2 (512 * zr + 256 * h) 256 = false) : execZDirectExecute s =
      .next ((s.setCtx s.inp.c (x.qFill q id ((List.range 64).map (fun i =>
        BitVec.ofNat 32 ((x.zRow zr).getD (64 * h + i) 0))))).headDone s.inp.c k) := by
  simp only [execZDirectExecute, hat, hkind, hsound, Bool.false_eq_true, if_false]

theorem execZDirectExecute_writes {zr h : Nat} {l : List W32} (hat : s.arrayHead s.inp.c = some (x, k))
    (hkind : k.kind = .zwr zr h l) : execZDirectExecute s =
      .next (((s.setCtx s.inp.c { x with zbuf := x.zbuf.write (512 * zr + 256 * h) (laneBytes l) }).cleanS s.inp.c 2
        (512 * zr + 256 * h) 256).headDone s.inp.c k) := by
  simp only [execZDirectExecute, hat, hkind]

theorem execZDirectExecute_clears {zr nr : Nat} (hat : s.arrayHead s.inp.c = some (x, k)) (hkind : k.kind = .zclr zr nr) :
    execZDirectExecute s = .next (((s.setCtx s.inp.c { x with zbuf := x.zbuf.write (512 * zr) (List.replicate (512 * nr) 0) }).cleanS
      s.inp.c 2 (512 * zr) (512 * nr)).headDone s.inp.c k) := by
  simp only [execZDirectExecute, hat, hkind]

/-! ## Completion and the lease (R231, R232) -/

theorem execArrayCompletionPush_pushes {rest : List ACmd} {f : Nat} (hx : s.ctx s.inp.c = some x) (hhead : x.acmds = k :: rest)
    (hf : f = if k.cpt = 1 then 1 else 2) (hdone : k.done = true) (hroom : x.tok f < 8)
    (hfrozen : (s.core s.inp.c.cid).frozen = none) : execArrayCompletionPush s =
      .next (((s.setCtx s.inp.c { x.setTok f (x.tok f + 1) with acmds := rest }).settleLease s.inp.c).openBands s.inp.c.cid) := by
  subst hf
  simp only [execArrayCompletionPush, hx, hhead, hdone, hroom, hfrozen, Option.isNone_none, and_self, if_true]

theorem execLeaseHandover_grants {n : Nat} (hfree : (s.core s.inp.cid).lease = none)
    (hwin : s.winner s.inp.cid none = some n) : execLeaseHandover s = .next (s.grantLease ⟨s.inp.cid, n⟩) := by
  simp only [execLeaseHandover, hfree, hwin]

/-- A holder with no command left, for whose used-up grant nobody else asks, has it renewed. -/
theorem execLeaseHandover_renews {l : Lease} (hlease : (s.core s.inp.cid).lease = some l) (hused : l.count = 0)
    (hx : s.ctx ⟨s.inp.cid, l.num⟩ = some x) (hidle : x.acmds = []) (hnone : s.winner s.inp.cid (some l.num) = none) :
    execLeaseHandover s = .next (s.modCore s.inp.cid (fun k => { k with lease := some ⟨l.num, leaseCount l.num⟩ })) := by
  simp only [execLeaseHandover, hlease, hused, hx, hidle, hnone, Nat.lt_irrefl, Bool.false_eq_true, or_self, if_false]

end

end Sys2Proof.Machine

namespace Sys2Proof.Proofs

open Sys2Proof.Machine

/-- Settles O21: each row's guards are the statement's hypotheses; a plane of a frozen core and one of a running core are the two
cases of one injection. -/
theorem arrayMoves : Obligations.ArrayMoves := by
  unfold Obligations.ArrayMoves
  refine ⟨?wload, ?wswp, ?plane, ?framed, ?ballast, ?bands, ?zrd, ?zwr, ?zclr, ?push, ?grant, ?renew⟩
  case wload => exact fun x k p s1 s ⟨hat, hkind, hbegin, hsound⟩ => execWloadTileCopy_copies hat hkind hbegin hsound
  case wswp => exact fun x k s1 s ⟨hat, hkind, hbegin⟩ => execWswpExchange_exchanges hat hkind hbegin
  case plane =>
    rintro x k s1 kind zr nr t zs off str ben u s
      ⟨hroll, hflag, hat, hkind, hc, hsame, hfrozen, hmay, hthaw, hbands, hleft, hbegin⟩
    refine (execPlaneInjection_injects hroll (hsame.trans hflag) (hat.head hc) hkind (.inr hmay) hthaw hbands hleft hbegin).trans ?_
    rw [hfrozen]
    rfl
  case framed =>
    rintro x k s1 kind zr nr t zs off str ben u s
      ⟨hroll, hflag, hat, hkind, hc, hsame, hfrozen, hthaw, hbands, hleft, hbegin⟩
    have hstill : (u.core s.inp.c.cid).frozen.isSome = true := Option.isSome_iff_ne_none.mpr hfrozen
    refine (execPlaneInjection_injects hroll (hsame.trans hflag) (hat.head hc) hkind (.inl hstill) hthaw hbands hleft hbegin).trans ?_
    rw [hstill]
    rfl
  case ballast => exact fun u s ⟨hroll, _, hflag, hfrozen, hlow⟩ => execPlaneInjection_ballast hroll hflag hfrozen hlow
  case bands => exact fun x k kind zr nr t zs off str ben s ⟨hat, hkind⟩ => execBandPowerUp_powers hat hkind
  case zrd => exact fun x k zr h q id s ⟨hat, hkind, hsound⟩ => execZDirectExecute_reads hat hkind hsound
  case zwr => exact fun x k zr h l s ⟨hat, hkind⟩ => execZDirectExecute_writes hat hkind
  case zclr => exact fun x k zr nr s ⟨hat, hkind⟩ => execZDirectExecute_clears hat hkind
  case push =>
    exact fun x k rest f s ⟨hx, hhead, hf, hdone, hroom, hfrozen⟩ =>
      execArrayCompletionPush_pushes hx hhead hf hdone hroom hfrozen
  case grant => exact fun n s ⟨hfree, hwin⟩ => execLeaseHandover_grants hfree hwin
  case renew => exact fun l x s ⟨hlease, hused, hx, hidle, hnone⟩ => execLeaseHandover_renews hlease hused hx hidle hnone

end Sys2Proof.Proofs
end

section
/-! SUPPORT and the settled obligation O22: a row whose bytes are sound is written whole, to Z by a multiply, to the A buffer or entry by
entry into a q-register by an epilogue. -/

namespace Sys2Proof.Machine

section

variable {s : State} {x : Ctx} {k : ACmd}

/-- A multiply reads the Z row only where it accumulates; a sound row is the sum of its bands (R70, R71, R237). -/
theorem execArrayRowComplete_writes {kind zr nr off str : Nat} {t : BitVec 5} {zs : Bool} {ben : BitVec 4} {r : List Res} {u : State}
    (hat : s.arrayHead s.inp.c = some (x, k)) (hkind : k.kind = .mma kind zr nr t zs off str ben) (hinj : blockWidth t ≤ k.inj)
    (hopen : k.done = false) (hbands : s.badBands s.inp.c ben (off + k.next * str) (blockWidth t) = false)
    (hz : zs = false → s.badS s.inp.c 2 (512 * (zr + k.next)) 512 = false)
    (hr : r = mmaRow kind zs t x.act ben (x.abuf.read (off + k.next * str) (4 + 16 * blockWidth t)) (x.zRow (zr + k.next)))
    (hu : u = (s.setCtx s.inp.c ((x.setZRow (zr + k.next) (r.map (·.bits))).cFlags (r.foldl (fun f e => f ||| e.flags) 0))).cleanS
      s.inp.c 2 (512 * (zr + k.next)) 512) :
    execArrayRowComplete s = .next (if k.next + 1 = nr then u.headDone s.inp.c { k with next := k.next + 1, inj := 0 }
      else u.modCtx s.inp.c (fun y => y.setHead { k with next := k.next + 1, inj := 0 })) := by
  subst hr hu
  have hdue : ¬ (k.inj < blockWidth t ∨ k.done = true) := by
    rintro (hshort | hdone)
    · exact Nat.not_lt.mpr hinj hshort
    · exact Bool.false_ne_true (hopen.symm.trans hdone)
  have hsound : (s.badBands s.inp.c ben (off + k.next * str) (blockWidth t) ||
      (!zs && s.badS s.inp.c 2 (512 * (zr + k.next)) 512)) = false := by
    cases hzs : zs with
    | false => rw [hbands, hz hzs]; rfl
    | true => rw [hbands]; rfl
  simp only [execArrayRowComplete, hat, hkind, if_neg hdue, hsound, Bool.false_eq_true, if_false]
  split <;> rfl

section

variable {zr nr off str : Nat} {clr : Bool} {cfg : EpiCfg} {vals : List Res} {o : OutRow}
  (hat : s.arrayHead s.inp.c = some (x, k)) (hbegin : s.beginHead s.inp.c k ≠ none)
  (hsound : s.badEpi s.inp.c cfg (zr + k.next) = false)
  (hvals : vals = (x.zRow (zr + k.next)).zipIdx.map (fun (z, j) => epiElem cfg x.abuf (zr + k.next) j z))
  (ho : o = epiConvert cfg x.lfsr (vals.map (·.bits)))

include hat hbegin hsound hvals ho

/-- A sound epilogue row goes to the A buffer whole (R243, R245). -/
theorem execEpilogueRow_toA (hkind : k.kind = .epi zr nr none off str clr cfg) : execEpilogueRow s =
    .next ((s.putA s.inp.c (off + k.next * str) o.bytes).rowDone s.inp.c k nr (zr + k.next) clr false
      (vals.foldl (fun f e => f ||| e.flags) o.flags) o.lfsr) := by
  subst ho hvals
  simp only [execEpilogueRow, hat, hkind, Option.isNone_iff_eq_none, if_neg hbegin, hsound, Bool.false_eq_true, if_false]

/-- The next entry of a sound row fills the one reserved for it; the last entry ends the row (R245). -/
theorem execEpilogueRow_toQ {q : Nat} {y : Ctx} (hkind : k.kind = .epi zr nr (some q) off str clr cfg)
    (hfill : x.qFillNext q k.qid ((rowEntries cfg.ofmt o.bytes).getD k.inj []) = some y) : execEpilogueRow s =
    .next (if k.inj + 1 < epiEntries cfg.ofmt then
        s.setCtx s.inp.c (y.setHead { k with inj := k.inj + 1, owed := y.headOwed, begun := true })
      else (s.setCtx s.inp.c y).rowDone s.inp.c k nr (zr + k.next) clr false
        (vals.foldl (fun f e => f ||| e.flags) o.flags) o.lfsr) := by
  subst ho hvals
  simp only [execEpilogueRow, hat, hkind, Option.isNone_iff_eq_none, if_neg hbegin, hsound, Bool.false_eq_true, if_false, hfill]
  split <;> rfl

end

end

end Sys2Proof.Machine

namespace Sys2Proof.Proofs

open Sys2Proof.Machine

/-- Settles O22: each row's guards are the statement's hypotheses. -/
theorem arrayRows : Obligations.ArrayRows := by
  unfold Obligations.ArrayRows
  refine ⟨?multiply, ?toA, ?toQ⟩
  case multiply =>
    exact fun x k kind zr nr t zs off str ben r u s ⟨hat, hkind, hinj, hopen, hbands, hz, hr, hu⟩ =>
      execArrayRowComplete_writes hat hkind hinj hopen hbands hz hr hu
  case toA =>
    exact fun x k zr nr off str clr cfg vals o s ⟨hat, hkind, hbegin, hsound, hvals, ho⟩ =>
      execEpilogueRow_toA hat hbegin hsound hvals ho hkind
  case toQ =>
    exact fun x k zr nr q off str clr cfg vals o y s ⟨hat, hkind, hbegin, hsound, hvals, ho, hfill⟩ =>
      execEpilogueRow_toQ hat hbegin hsound hvals ho hkind hfill

end Sys2Proof.Proofs
end

section
/-! SUPPORT and the settled obligation O17: a work-list instruction finds its lists, its q-registers ready, and what it asks of them. -/

namespace Sys2Proof.Machine

/-- A WLAPP whose destinations lie in the grid, whose role's accesses are performed, and whose lists have room, appends (R266, R267). -/
theorem wlapp_completes (v : WordM) (l : WorkLists) (t : Taken) (ls : List (List W32)) (m : W64) (items : List (Nat × W32)) :
    Completes (.wlapp v) (frameTryM v)
      (fun w x s => s.lists x = some l ∧ t = Taken.q (Taken.q { x := x } (qOf v.data) false) (qOf v.index) false ∧
        t.stop none = none ∧ m = (if v.base = 0 then -1 else readSrc w x v.base 0) ∧
        items = ((List.range 64).filter (fun i => bitAt m i)).map (fun i =>
          ((lane (t.vals.getD 1 []) i).toNat, lane (t.vals.headD []) i)) ∧
        (∀ p ∈ items, p.1 < s.gridSize x) ∧ freed 2 w x s ∧ appendItems l.cap items l.lists = some ls)
      (fun w x s => ((s.setCtx w.c { t.x with idle := false }).setLists x
        { l with lists := ls, appended := l.appended + items.length, latch := false, wave := none }).release w.c 2) := by
  refine .of_done (e := effWlapp v) (fun _ => rfl) ?_
  rintro w x s ⟨hlists, rfl, hready, rfl, hitems, hgrid, hfreed, happend⟩
  have hdone : released s w.c x w.r x.nextId 2 = true := hfreed
  have hinside : items.find? (fun p => decide (s.gridSize x ≤ p.1)) = none :=
    List.find?_eq_none.mpr fun p hp hout => Nat.not_le.mpr (hgrid p hp) (of_decide_eq_true hout)
  simp only [effWlapp, hlists, ← hitems, hinside, hready, hdone, happend, Bool.not_true, Bool.false_eq_true, if_false]

/-- A WLTAK that finds items takes them, an acquire at package scope (R268). -/
theorem wltak_takes (v : WordM) (l : WorkLists) (own : List W32) (k : Nat) : Completes (.wltak v) (frameTryM v)
    (fun _ x s => s.lists x = some l ∧ Taken.stop { x := x } (some (qOf v.data)) = none ∧ own = l.lists.getD x.gidx [] ∧
      k = Nat.min (field v.imm 0 7).toNat own.length ∧ 1 ≤ k)
    (fun w x s => (((s.setCtx w.c { x.qPush (qOf v.data) ((List.range 64).map (fun i => if i < k then own.getD i 0 else 0)) with
      idle := false }).setLists x { l with lists := l.lists.set x.gidx (own.drop k), taken := l.taken + k }).acquire
        w.c.cid 2).setS w v.base.toNat (BitVec.ofNat 64 k)) := by
  refine .of_done (e := effWltak v) (fun _ => rfl) ?_
  rintro w x s ⟨hlists, hroom, rfl, rfl, hsome⟩
  have htaken := Nat.ne_of_gt hsome
  have hlong : 1 ≤ (l.lists.getD x.gidx []).length := Nat.le_trans hsome (Nat.min_le_right ..)
  have hitems := List.isEmpty_eq_false_iff.mpr (List.ne_nil_of_length_pos hlong)
  simp only [effWltak, hlists, hroom, hitems, Bool.false_eq_true, false_and, if_false, if_neg htaken,
    beq_eq_false_iff_ne.mpr htaken, Bool.and_false]

/-- A WLTAK that finds its list empty once the latch is set returns 0, and its lanes are zero (R268, R270). -/
theorem wltak_ends (v : WordM) (l : WorkLists) : Completes (.wltak v) (frameTryM v)
    (fun _ x s => s.lists x = some l ∧ Taken.stop { x := x } (some (qOf v.data)) = none ∧ l.lists.getD x.gidx [] = [] ∧
      l.latch = true)
    (fun w x s => ((s.setCtx w.c { x.qPush (qOf v.data) (List.replicate 64 0) with idle := x.idle }).setLists x
      { l with lists := l.lists.set x.gidx [] }).setS w v.base.toNat 0) := by
  refine .of_done (e := effWltak v) (fun _ => rfl) ?_
  rintro w x s ⟨hlists, hroom, hempty, hlatch⟩
  have hzero : Nat.min (field v.imm 0 7).toNat ([] : List W32).length = 0 := Nat.min_zero _
  simp only [effWltak, hlists, hroom, hempty, hlatch, hzero, Bool.not_true, Bool.false_eq_true, and_false, if_false, if_true,
    beq_self_eq_true, Bool.and_true, List.drop_nil, Nat.add_zero]
  rfl

theorem wlidl_completes (v : WordM) : Completes (.wlidl v) (frameM v) (fun _ x s => s.lists x ≠ none)
    (fun w x s => s.setCtx w.c { x with idle := true }) := by
  refine .of_done (fun _ => rfl) ?_
  intro w x s hlists
  obtain ⟨l, hl⟩ := Option.ne_none_iff_exists'.mp hlists
  simp only [hl]

theorem trmw_completes (v : WordM) (l : WorkLists) : Completes (.trmw v) (frameTryM v)
    (fun _ x s => s.lists x = some l ∧ l.latch = true)
    (fun w _ s => (s.acquire w.c.cid 2).setS w v.data.toNat (BitVec.ofNat 64 l.appended)) := by
  refine .of_done (fun _ => rfl) ?_
  rintro w x s ⟨hlists, hlatch⟩
  simp only [hlists, hlatch, Bool.not_true, Bool.false_eq_true, if_false]

end Sys2Proof.Machine

namespace Sys2Proof.Proofs

open Sys2Proof.Machine

/-- Settles O17: one lemma for each instruction, WLTAK having one for items taken and one for the end of the lists. -/
theorem workLists : Obligations.WorkLists := by
  unfold Obligations.WorkLists
  exact ⟨wlapp_completes, wltak_takes, wltak_ends, wlidl_completes, trmw_completes⟩

end Sys2Proof.Proofs
end

section
/-! SUPPORT and the settled obligation O23: the four copy instructions have one effect, whose checks pass or answer with a fault. -/

namespace Sys2Proof.Machine

variable {mk : WordX → Instr} {store : Bool} {ops : List Nat}

/-- A command that passes its checks, with sound bytes and room in its queue, is accepted (R251, R265). -/
theorem Copies.of_effCopy (hrun : ∀ v s, exec (mk v) s = runTryX (mk v) v (effCopy store ops v) s) : Copies mk store ops := by
  refine fun v off b => .of_done (hrun v) ?_
  rintro w x s ⟨rfl, haligned, hbound, rfl, hpassed, hquiet, hsound, hroom⟩
  simp only [effCopy, misaligned_eq_false haligned, past_eq_false hbound, faults_passed, faults_nil, hquiet, hpassed, hsound,
    Bool.false_eq_true, if_false, if_neg (Nat.not_le.mpr hroom)]

/-- The first check that a command's block fails answers (R265). -/
theorem CopyFaults.of_effCopy (hrun : ∀ v s, exec (mk v) s = runTryX (mk v) v (effCopy store ops v) s) :
    CopyFaults mk store ops := by
  refine fun v off c val => .of_fault (hrun v) ?_
  rintro w x s ⟨rfl, haligned, hbound, hquiet, hfault⟩
  simp only [effCopy, misaligned_eq_false haligned, past_eq_false hbound, faults_passed, faults_nil, hquiet, hfault,
    Bool.false_eq_true, if_false]

theorem echk_completes (v : WordX) (q : Bool) (hq : q = bitAt v.low 48) : Completes (.echk v) (frameX v) anyCtx (fun w x s =>
    (s.setCtx w.c (if q then { x with storeFlt := false } else { x with loadFlt := false })).setS w v.d.toNat
      (x.queueWord q (s.core w.c.cid).frozen.isSome)) := by
  subst hq
  exact .of_done (fun _ => rfl) fun _ _ _ _ => rfl

end Sys2Proof.Machine

namespace Sys2Proof.Proofs

open Sys2Proof.Machine

/-- Settles O23: the four copy instructions have one effect, which accepts a command or passes on the fault of its checks. -/
theorem copyCommands : Obligations.CopyCommands := by
  unfold Obligations.CopyCommands
  exact ⟨.of_effCopy fun _ _ => rfl, .of_effCopy fun _ _ => rfl, .of_effCopy fun _ _ => rfl, .of_effCopy fun _ _ => rfl,
    .of_effCopy fun _ _ => rfl, .of_effCopy fun _ _ => rfl, .of_effCopy fun _ _ => rfl, .of_effCopy fun _ _ => rfl,
    echk_completes⟩

end Sys2Proof.Proofs
end

section
/-! SUPPORT and the settled obligation O24: what each row of Machine/Engines.lean does once its guards hold. -/

namespace Sys2Proof.Machine

section

variable {s : State} {x : Ctx} {k : ECmd}

/-- A context in RUN or TRAPPED is one that an engine serves. -/
theorem Ctx.served_of_state (h : x.state = .run ∨ x.state = .trapped) : (x.state == .run || x.state == .trapped) = true := by
  simpa only [Bool.or_eq_true, beq_iff_eq] using h

/-- A command that may begin, or has begun, runs its units; the index list that it takes is sound (R255, R258). -/
theorem execEngineCommandBegin_runs (hx : s.ctx s.inp.c = some x) (hk : (x.engQ s.inp.flag)[s.inp.id]? = some k)
    (hrun : mayRun s s.inp.c x k = true) (hbegin : k.begun = true ∨ mayBegin s s.inp.c x s.inp.flag k = true)
    (hindex : 2 ≤ (Cmd.of k.bytes).op → k.begun = false →
      s.badS s.inp.c 0 (Cmd.of k.bytes).gix (4 * (Cmd.of k.bytes).ext 1) = false) :
    execEngineCommandBegin s = .next ((runUnits s.inp.c s.inp.flag k.acc (farCode s (Cmd.of k.bytes) s.inp.no)
      (Cmd.of k.bytes).count (s.setCtx s.inp.c (x.modCmd s.inp.flag k.acc (fun e =>
        if e.begun then e else { e with begun := true, idx := (Cmd.of k.bytes).readIdx x.abuf, fcode := 0 }))) s.inp.data).settleWrites
          s.inp.c k.acc s.hist.length) := by
  have hgo : (k.begun || mayBegin s s.inp.c x s.inp.flag k) = true := Bool.or_eq_true_iff.mpr hbegin
  have hsound : (decide (2 ≤ (Cmd.of k.bytes).op) && !k.begun &&
      s.badS s.inp.c 0 (Cmd.of k.bytes).gix (4 * (Cmd.of k.bytes).ext 1)) = false := by
    refine Bool.eq_false_iff.mpr fun h => ?_
    simp only [Bool.and_eq_true, decide_eq_true_eq, Bool.not_eq_true'] at h
    obtain ⟨⟨hop, hfirst⟩, hbad⟩ := h
    exact Bool.false_ne_true ((hindex hop hfirst).symm.trans hbad)
  simp only [execEngineCommandBegin, hx, hk, hrun, hgo, hsound, Bool.not_true, Bool.false_eq_true, or_self, if_false]

/-- The head command, finished or ended and answered for, writes its status once, and leaves as its token is pushed (R257, R258). -/
theorem execEngineCommandCompletion_completes {l : List ECmd} {s1 : State} (hx : s.ctx s.inp.c = some x)
    (hhead : x.engQ s.inp.flag = k :: l) (hdone : (k.finished = true ∧ k.fcode = 0) ∨ k.ended = true)
    (hanswered : s.unanswered s.inp.c s.inp.flag k = false) (hfrozen : (s.core s.inp.c.cid).frozen = none)
    (hstate : x.state = .run ∨ x.state = .trapped)
    (hs1 : s1 = (if k.statused then s else ((s.relCmd s.inp.c k).writeStatus s.inp.c s.inp.flag k (if k.ended then 2 else 1)
      (x.cmpl s.inp.flag + 1).toNat).modCtx s.inp.c
        (fun y => y.modCmd s.inp.flag k.acc (fun e => { e with statused := true })))) :
    execEngineCommandCompletion s = .next (if (Cmd.of k.bytes).tps = 0 then s1.modCtx s.inp.c (fun y => y.retireCmd s.inp.flag)
      else if x.tok (if s.inp.flag then 3 else 0) < 8 then s1.modCtx s.inp.c (fun y =>
        (y.setTok (if s.inp.flag then 3 else 0) (y.tok (if s.inp.flag then 3 else 0) + 1)).retireCmd s.inp.flag)
      else s1) := by
  subst hs1
  have hover : (k.finished && k.fcode == 0 || k.ended) = true := by
    simpa only [Bool.or_eq_true, Bool.and_eq_true, beq_iff_eq] using hdone
  simp only [execEngineCommandCompletion, hx, hhead, hover, hanswered, hfrozen, Ctx.served_of_state hstate, Option.isSome_none,
    Bool.not_true, Bool.false_eq_true, or_self, if_false]
  split
  · rfl
  · by_cases hroom : x.tok (if s.inp.flag then 3 else 0) < 8
    · rw [if_neg (Nat.not_le.mpr hroom), if_pos hroom]
    · rw [if_pos (Nat.not_lt.mp hroom), if_neg hroom]

/-- A copy fault of a running context freezes the core and traps (R261). -/
theorem execCopyFaultFreeze_traps (hx : s.ctx s.inp.c = some x) (hk : faultyCmd x s.inp.flag = some k)
    (hfrozen : (s.core s.inp.c.cid).frozen = none) (hstate : x.state = .run) : execCopyFaultFreeze s =
      .next (((s.writeStatus s.inp.c s.inp.flag k 3 (x.cmpl s.inp.flag + 1).toNat).modCore s.inp.c.cid (fun j => { j with
        frozen := some (s.inp.c.num, s.inp.flag) })).deliver s.inp.c (if s.inp.flag then 2 else 0) cCopyFault k.fcode
          (BitVec.ofNat 64 k.off) false) := by
  simp only [execCopyFaultFreeze, hx, hk, hfrozen, Ctx.served_of_state (.inl hstate), Option.isSome_none, Bool.not_true,
    Bool.false_eq_true, or_self, if_false]
  exact if_pos hstate

end

end Sys2Proof.Machine

namespace Sys2Proof.Proofs

open Sys2Proof.Machine

/-- Settles O24: each row's guards are the statement's hypotheses; the release of a freeze has none. -/
theorem engineMoves : Obligations.EngineMoves := by
  unfold Obligations.EngineMoves
  refine ⟨?begin, ?completion, ?freeze, fun _ _ => rfl⟩
  case begin =>
    rintro x k c store s ⟨rfl, rfl, hx, hk, hrun, hbegin, hindex⟩
    exact execEngineCommandBegin_runs hx hk hrun hbegin hindex
  case completion =>
    rintro x k l c store s1 s ⟨rfl, rfl, hx, hhead, hdone, hanswered, hfrozen, hstate, hs1⟩
    exact execEngineCommandCompletion_completes hx hhead hdone hanswered hfrozen hstate hs1
  case freeze =>
    rintro x k c store s ⟨rfl, rfl, hx, hk, hfrozen, hstate⟩
    exact execCopyFaultFreeze_traps hx hk hfrozen hstate

end Sys2Proof.Proofs
end

section
/-! SUPPORT and the settled obligations O25, O26 and O27: what a passage makes of a slot (Machine/Conveyor.lean), and what the
conveyor instructions answer. -/

namespace Sys2Proof.Machine

section

variable {s : State} {e : W64} {t : Slot} {tg : Target}

/-! ## Passages of a station in service (R276) -/

theorem slotAt.target_ne_none {op : Nat} (h : slotAt op e t tg s) : tg ≠ .none := by
  obtain ⟨-, -, -, -, -, -, htg⟩ := h
  exact htg

/-- A passage at a station in service lets the entry's operation act. -/
theorem slotStep_of_slotAt {op : Nat} (f : Nat → W64 → Slot → Target → State → State) (h : slotAt op e t tg s) :
    slotStep op s f = f s.inp.pass.stn e t tg s.passed := by
  obtain ⟨hpass, hserve, rfl, hop, rfl, rfl, -⟩ := h
  simp [slotStep, hpass, hserve, hop]

/-- An occupancy that is the entry's own, at a valid target, is acted on with its hold cleared (R276, R282). -/
theorem onOccupancy_of_slotOurs (f : Slot → State → State) (h : slotOurs e t tg s) (htg : tg ≠ .none) :
    onOccupancy s.inp.pass.stn e t tg s.passed f = f t.free (s.passed.acted s.inp.pass.stn t) := by
  obtain ⟨hcls, hflow, hhold, hcrce, hpt, hfree, -, -⟩ := h
  have hhere : ¬ (t.hold = true ∧ t.hst ≠ s.inp.pass.stn) := fun ⟨hheld, helse⟩ => helse (hhold hheld)
  have hmine : ¬ (t.cls ≠ 1 ∨ t.flow ≠ entFlow e) := by simp [hcls, hflow]
  have hunmarked : ¬ (t.crce = true ∨ t.pt = true) := by simp [hcrce, hpt]
  simp only [onOccupancy, if_neg hmine, if_neg hunmarked, if_neg hhere, if_neg htg, hfree]
  rfl

/-- The two together: the action of an entry on its own occupancy. -/
theorem slotStep_onOccupancy {op : Nat} (f : Nat → W64 → Target → Slot → State → State) (hat : slotAt op e t tg s)
    (hours : slotOurs e t tg s) : slotStep op s (fun stn e t tg s => onOccupancy stn e t tg s (f stn e tg)) =
      f s.inp.pass.stn e tg t.free (s.passed.acted s.inp.pass.stn t) := by
  rw [slotStep_of_slotAt _ hat, onOccupancy_of_slotOurs _ hours hat.target_ne_none]

/-- The station's check of its own occupancy succeeds (R274, R283). -/
theorem slotBad_of_slotOurs (h : slotOurs e t tg s) : (s.passed.acted s.inp.pass.stn t).slotBad t.free = false := by
  obtain ⟨-, -, -, -, -, -, hcrc, hheader⟩ := h
  have hflag : (s.passed.acted s.inp.pass.stn t).inp.flag = false := hheader
  have hsum : crc32c t.free.payload = t.free.crc := hcrc
  simp only [State.slotBad, hflag, hsum, bne_self_eq_false, Bool.or_false]

/-- What a station still awaits is no part of a fragment. -/
@[simp] theorem fragment_acted (stn : Nat) : (s.acted stn t).fragment tg = s.fragment tg := by
  cases tg <;> rfl

/-! ## The five operations (R276, R277) -/

theorem execSlotLoad_fills {fr : List Byte} (hat : slotAt 1 e t tg s) (hopen : t.cls = 0 ∨ (t.cls = 3 ∧ t.rsvs = s.inp.pass.stn))
    (hfree : s.passed.holdCause s.inp.pass.stn e tg = none) (hfr : s.passed.fragment tg = (fr, false)) :
    execSlotLoad s = .next (({ s.passed with
      ring := (s.passed.ring.setSlot (t.loaded s.inp.pass.stn e fr (s.passed.ring.loads s.inp.pass.stn s.inp.pass.trk
        s.inp.pass.slot))).bumpLoads s.inp.pass.stn s.inp.pass.trk s.inp.pass.slot } : State).raiseFlag s.inp.pass.stn e) := by
  have hfills : (t.cls == 0 || (t.cls == 3 && t.rsvs == s.inp.pass.stn)) = true := by simpa using hopen
  simp only [execSlotLoad, slotStep_of_slotAt _ hat, hfills, hat.target_ne_none, hfree, hfr, Bool.not_true, Bool.false_eq_true, Option.isSome_none,
    or_self, if_false]
  rfl

section

variable (hours : slotOurs e t tg s)

include hours

theorem execSlotAdd_adds {fr : List Byte} (hat : slotAt 3 e t tg s) (hfr : s.passed.fragment tg = (fr, false)) :
    execSlotAdd s = .next (((s.passed.acted s.inp.pass.stn t).setSlot { t.free with
      payload := (sumPayload (entFmt e) t.payload fr).bytes, crc := crc32c (sumPayload (entFmt e) t.payload fr).bytes
      sat := t.sat || (sumPayload (entFmt e) t.payload fr).sat, of_ := t.of_ || (sumPayload (entFmt e) t.payload fr).of_
      nv := t.nv || (sumPayload (entFmt e) t.payload fr).nv }).raiseFlag s.inp.pass.stn e) := by
  simp only [execSlotAdd]
  rw [slotStep_onOccupancy _ hat hours]
  simp only [fragment_acted, hfr, slotBad_of_slotOurs hours, Bool.false_eq_true, if_false]
  rfl

theorem execSlotCopy_writes (hat : slotAt 2 e t tg s) : execSlotCopy s =
    .next ((((s.passed.acted s.inp.pass.stn t).putTarget tg (slotBytes s.inp.pass.stn e t.free)).setSlot t.free).raiseFlag
      s.inp.pass.stn e) := by
  simp only [execSlotCopy]
  rw [slotStep_onOccupancy _ hat hours]
  simp only [slotBad_of_slotOurs hours, Bool.false_eq_true, if_false]

theorem execSlotEmpty_writes (hat : slotAt 4 e t tg s) : execSlotEmpty s =
    .next ((((s.passed.acted s.inp.pass.stn t).putTarget tg (slotBytes s.inp.pass.stn e t.free)).setSlot
      t.free.emptied).raiseFlag s.inp.pass.stn e) := by
  simp only [execSlotEmpty]
  rw [slotStep_onOccupancy _ hat hours]
  simp only [slotBad_of_slotOurs hours, Bool.false_eq_true, if_false]

theorem execSlotEmptyAdd_adds {fr : List Byte} (hat : slotAt 5 e t tg s) (hfr : s.passed.fragment tg = (fr, false)) :
    execSlotEmptyAdd s = .next ((((s.passed.acted s.inp.pass.stn t).putTarget tg
      (sumPayload (entFmt e) fr t.payload).bytes).setSlot t.free.emptied).raiseFlag s.inp.pass.stn e) := by
  simp only [execSlotEmptyAdd]
  rw [slotStep_onOccupancy _ hat hours]
  simp only [fragment_acted, hfr, slotBad_of_slotOurs hours, Bool.false_eq_true, if_false]
  rfl

end

/-! ## Pass-through and ended flows (R280, R284) -/

theorem execSlotPassThrough_marks (hpass : s.passes = true) (hthrough : s.passing s.inp.pass.stn = true)
    (hcls : s.slotHere.cls = 1) (hop : entOp (s.ring.entry s.inp.pass.stn s.inp.pass.trk s.inp.pass.slot) ≠ 0)
    (hflow : s.slotHere.flow = entFlow (s.ring.entry s.inp.pass.stn s.inp.pass.trk s.inp.pass.slot)) :
    execSlotPassThrough s = .next (s.passed.setSlot { s.slotHere with pt := true }) := by
  have hgo : ¬ ((!s.passes) = true ∨ (!s.passing s.inp.pass.stn) = true) := by simp [hpass, hthrough]
  simp only [execSlotPassThrough, if_neg hgo, if_pos (And.intro hcls (And.intro hop hflow))]

theorem execEndedFlowEmpty_empties (hpass : s.passes = true) (hcls : s.slotHere.cls = 1)
    (hended : s.flowLives s.slotHere.flow = false) : execEndedFlowEmpty s = .next (s.passed.setSlot s.slotHere.emptied) := by
  simp only [execEndedFlowEmpty, hpass, hcls, hended, Bool.not_false, and_self, if_true]

/-! ## Best-effort traffic (R285) -/

/-- `v` is the state in which a payload that the move brings has joined the traffic of its station. -/
theorem execBestEffortReserve_reserves {v : State}
    (hv : v = (if s.inp.data.isEmpty ∨ 256 < s.inp.data.length ∨ 128 ≤ s.inp.e then s
      else { s with ring := { s.ring with best := s.ring.best ++ [(s.inp.pass.stn, s.inp.e, s.inp.data)] } }))
    (hpass : v.passes = true) (hserve : v.passing s.inp.pass.stn = false)
    (hfree : v.unallotted s.inp.pass.trk s.inp.pass.slot = true) (hopen : v.slotHere.rsvv = false)
    (hpending : ∃ b ∈ v.ring.best, b.1 = s.inp.pass.stn)
    (hfirst : ∀ u ∈ v.ring.slots, ¬ (u.trk = s.inp.pass.trk ∧ u.rsvv = true ∧ u.rsvs = s.inp.pass.stn)) :
    execBestEffortReserve s = .next (v.passed.setSlot { v.slotHere with
      rsvs := s.inp.pass.stn, rsvv := true, cls := if v.slotHere.cls = 0 then 3 else v.slotHere.cls }) := by
  have hany : v.ring.best.any (fun b => b.1 == s.inp.pass.stn) = true := by simpa using hpending
  have hnone : v.ring.slots.any (fun u => u.trk == s.inp.pass.trk && u.rsvv && u.rsvs == s.inp.pass.stn) = false := by
    simpa [and_assoc] using hfirst
  simp only [execBestEffortReserve, ← hv, hpass, hserve, hfree, hopen, hany, hnone, Bool.not_false, and_self, if_true]

theorem execBestEffortInject_injects {b : Nat × Nat × List Byte}
    (hb : s.ring.best.find? (fun b => b.1 == s.inp.pass.stn) = some b) (hpass : s.passes = true)
    (hserve : s.passing s.inp.pass.stn = false) (hfree : s.unallotted s.inp.pass.trk s.inp.pass.slot = true)
    (hopen : (s.slotHere.cls = 0 ∧ s.slotHere.rsvv = false) ∨
      (s.slotHere.cls = 3 ∧ s.slotHere.rsvv = true ∧ s.slotHere.rsvs = s.inp.pass.stn)) :
    execBestEffortInject s = .next { s.passed with
      ring := (s.passed.ring.leaves s.inp.pass.trk s.inp.pass.stn b).setSlot
        (Slot.best s.inp.pass.trk s.inp.pass.slot s.inp.pass.stn b) } := by
  have henters : (s.slotHere.cls = 0 ∧ (!s.slotHere.rsvv) = true) ∨
      (s.slotHere.cls = 3 ∧ (s.slotHere.rsvv && s.slotHere.rsvs == s.inp.pass.stn) = true) := by simpa using hopen
  simp only [execBestEffortInject, hb, hpass, hserve, hfree, henters, Bool.not_false, and_self, if_true]
  rfl

theorem execBestEffortDeliver_delivers (hpass : s.passes = true) (hserve : s.passing s.inp.pass.stn = false)
    (hcls : s.slotHere.cls = 2) (hdst : s.slotHere.dst = s.inp.pass.stn) : execBestEffortDeliver s =
      .next { s.passed.setSlot s.slotHere.emptied with ring := { (s.passed.setSlot s.slotHere.emptied).ring with
        delivered := (s.passed.setSlot s.slotHere.emptied).ring.delivered ++ [(s.inp.pass.stn, s.slotHere.payload)] } } := by
  simp only [execBestEffortDeliver, hpass, hserve, hcls, hdst, Bool.not_false, and_self, if_true]

end

/-! ## The conveyor instructions (R281, R287 to R290) -/

theorem cvwt_completes (v : WordX) (stn f : Nat) : Completes (.cvwt v) (frameTryX v)
    (fun w x s => flagIx s w x v = some (stn, f) ∧ reached (s.ring.flag stn f) ((readSrc w x v.a 0).setWidth 16) = true)
    (fun w _ s => s.acquire w.c.cid 2) := by
  refine .of_done (fun _ => rfl) ?_
  rintro w x s ⟨hflag, hreached⟩
  simp only [hflag, hreached, if_true]

theorem cvts_completes (v : WordX) (stn f : Nat) (b : Bool) : Completes (.cvts v) (frameX v)
    (fun w x s => flagIx s w x v = some (stn, f) ∧ b = reached (s.ring.flag stn f) ((readSrc w x v.a 0).setWidth 16))
    (fun w _ s => (if b then s.acquire w.c.cid 2 else s).setP w (v.d.toNat - 48) b) := by
  refine .of_done (fun _ => rfl) ?_
  rintro w x s ⟨hflag, rfl⟩
  simp only [hflag]

theorem cvcl_completes (v : WordX) (stn f : Nat) : Completes (.cvcl v) (frameX v) (fun w x s => flagIx s w x v = some (stn, f))
    (fun _ _ s => { s with ring := s.ring.setFlag stn f (BitVec.ofNat 16 (if s.ring.at_ = s.rst then
      ((s.ring.incs.filter (fun i => i.1 == (stn, f))).map (·.2)).sum else 0)) }) := by
  refine .of_done (fun _ => rfl) ?_
  intro w x s hflag
  simp only [hflag]

end Sys2Proof.Machine

namespace Sys2Proof.Proofs

open Sys2Proof.Machine

/-- Settles O25: a passage at a station in service runs the entry's operation, on an occupancy of its own flow for all but LOAD. -/
theorem slotActions : Obligations.SlotActions := by
  unfold Obligations.SlotActions
  refine ⟨?load, ?add, ?copy, ?empty, ?emptyAdd, ?passThrough, ?ended⟩
  case load => exact fun e t tg fr s ⟨hat, hopen, hfree, hfr⟩ => execSlotLoad_fills hat hopen hfree hfr
  case add =>
    rintro e t tg fr r s ⟨hat, hours, hfr, rfl⟩
    exact execSlotAdd_adds hours hat hfr
  case copy => exact fun e t tg s ⟨hat, hours⟩ => execSlotCopy_writes hours hat
  case empty => exact fun e t tg s ⟨hat, hours⟩ => execSlotEmpty_writes hours hat
  case emptyAdd => exact fun e t tg fr s ⟨hat, hours, hfr⟩ => execSlotEmptyAdd_adds hours hat hfr
  case passThrough =>
    rintro e t s ⟨hpass, hthrough, rfl, rfl, hcls, hop, hflow⟩
    exact execSlotPassThrough_marks hpass hthrough hcls hop hflow
  case ended =>
    rintro t s ⟨hpass, rfl, hcls, hended⟩
    exact execEndedFlowEmpty_empties hpass hcls hended

/-- Settles O26: each row's guards are the statement's hypotheses. -/
theorem bestEffort : Obligations.BestEffort := by
  unfold Obligations.BestEffort
  refine ⟨?reserve, ?inject, ?deliver⟩
  case reserve =>
    rintro p t v s ⟨rfl, hv, rfl, hpass, hserve, hfree, hopen, hpending, hfirst⟩
    exact execBestEffortReserve_reserves hv hpass hserve hfree hopen hpending hfirst
  case inject =>
    rintro p t b s ⟨rfl, rfl, hb, hpass, hserve, hfree, hopen⟩
    exact execBestEffortInject_injects hb hpass hserve hfree hopen
  case deliver =>
    rintro p t s ⟨rfl, rfl, hpass, hserve, hcls, hdst⟩
    exact execBestEffortDeliver_delivers hpass hserve hcls hdst

/-- Settles O27: three instructions find their flag in the context's set or raise one fault; CVINF and CVTIM have no condition. -/
theorem conveyorInstructions : Obligations.ConveyorInstructions := by
  unfold Obligations.ConveyorInstructions
  refine ⟨cvwt_completes, cvts_completes, cvcl_completes, ?cvwt, ?cvts, ?cvcl, ?cvinf, ?cvtim⟩
  case cvwt | cvts | cvcl => exact fun v => .of_fault (fun _ => rfl) fun w x s hnone => by simp only [hnone]
  case cvinf => exact fun v => .of_done (fun _ => rfl) fun _ _ _ _ => rfl
  case cvtim => exact fun v => .of_done (fun _ => rfl) fun _ _ _ _ => rfl

end Sys2Proof.Proofs
end

section
/-! SUPPORT and the settled obligation O18: OSEQ reads the fabric status word, a group word or an applied number, and OWT ends
at its number. -/

namespace Sys2Proof.Machine

/-- OSEQ.fab names no group: it reads the status word, and CLR clears the two flags in the same step (R298, R304). -/
theorem oseq_fab_completes (v : WordM) : Completes (.oseq v) (frameM v) (fun _ _ _ => field v.imm 0 2 = 1#2)
    (fun w x s => (if bitAt v.imm 2 then s.setCtx w.c { x with rrj := false, orj := false } else s).setS w v.data.toNat
      (fabWord s x)) :=
  .of_done (fun _ => rfl) fun _ _ _ hsel => if_pos hsel

theorem oseq_grp_completes (v : WordM) (g : Group) : Completes (.oseq v) (frameM v)
    (fun w x s => field v.imm 0 2 = 2#2 ∧ groupBase s w x v = some g) (fun w _ s => s.setS w v.data.toNat g.word) := by
  refine .of_done (fun _ => rfl) ?_
  rintro w x s ⟨hsel, hgroup⟩
  have hfab : field v.imm 0 2 ≠ 1#2 := hsel ▸ by decide
  simp only [hgroup, if_neg hfab, if_pos hsel]
  rfl

theorem oseq_app_completes (v : WordM) (g : Group) : Completes (.oseq v) (frameM v)
    (fun w x s => field v.imm 0 2 ≠ 1#2 ∧ field v.imm 0 2 ≠ 2#2 ∧ groupBase s w x v = some g)
    (fun w _ s => (if v.order = 1 then s.acquire w.c.cid v.scope.toNat else s).setS w v.data.toNat
      (BitVec.ofNat 64 g.applied)) := by
  refine .of_done (fun _ => rfl) ?_
  rintro w x s ⟨hfab, hgrp, hgroup⟩
  simp only [hgroup, if_neg hfab, if_neg hgrp]
  rfl

/-- OWT ends its wait at the number that it names (R305). -/
theorem owt_completes (v : WordM) (g : Group) : Completes (.owt v) (frameTryM v)
    (fun w x s => groupBase s w x v = some g ∧ (field (readSrc w x v.data 0) 0 48).toNat ≤ g.applied)
    (fun w _ s => if v.order = 1 then s.acquire w.c.cid v.scope.toNat else s) := by
  refine .of_done (fun _ => rfl) ?_
  rintro w x s ⟨hgroup, happlied⟩
  simp only [hgroup, if_neg (Nat.not_lt.mpr happlied)]

end Sys2Proof.Machine

namespace Sys2Proof.Proofs

open Sys2Proof.Machine

/-- Settles O18: one lemma for each kind of OSEQ, and one for OWT. -/
theorem orderedReads : Obligations.OrderedReads := by
  unfold Obligations.OrderedReads
  exact ⟨oseq_fab_completes, oseq_grp_completes, oseq_app_completes, owt_completes⟩

end Sys2Proof.Proofs
end

section
/-! SUPPORT and the settled obligation O38: a fabric request goes through its list of checks, and each operation's checks say
what its fields and the tables must be. -/

namespace Sys2Proof.Machine

section

variable {s : State} {fop : Byte} {err : Nat} {checks : List (Bool × Nat)} {f : Fabric → Fabric}

/-! ## The list of checks (R295) -/

@[simp] theorem State.request_passed : s.request fop ((false, err) :: checks) f = s.request fop checks f := rfl

@[simp] theorem State.request_refused : s.request fop ((true, err) :: checks) f = s.fsts fop err := rfl

@[simp] theorem State.request_done : s.request fop [] f = State.fsts { s with fab := f s.fab } fop 0 := rfl

/-- No request that is answered with an error touches the tables. -/
@[simp] theorem State.groups_fsts : (s.fsts fop err).fab.groups = s.fab.groups := rfl

/-! ## What the checks ask -/

theorem pkgIdOk_eq_true {n : Nat} : pkgIdOk n = true ↔ n ≤ 1056 := decide_eq_true_iff

theorem not_pkgIdOk {n : Nat} : (!pkgIdOk n) = true ↔ 1056 < n := by
  rw [Bool.not_eq_true', ← Bool.not_eq_true, pkgIdOk_eq_true, Nat.not_le]

theorem not_pkgIdOk_eq_false {n : Nat} : (!pkgIdOk n) = false ↔ n ≤ 1056 := by
  rw [Bool.not_eq_false', pkgIdOk_eq_true]

/-- A group id is taken, as the checks of GINST and GREM ask it. -/
theorem any_gid_eq_true {l : List Group} {gid : Nat} : (l.any fun g => g.gid == gid) = true ↔ ∃ g ∈ l, g.gid = gid := by
  simp only [List.any_eq_true, beq_iff_eq]

theorem any_gid_eq_false {l : List Group} {gid : Nat} : (l.any fun g => g.gid == gid) = false ↔ ∀ g ∈ l, g.gid ≠ gid := by
  simp only [List.any_eq_false, beq_iff_eq, ne_eq]

/-! ## SETID -/

theorem execSetid_sets (hflag : s.inp.flag = false) (hid : (field (s.arg 0) 0 11).toNat ≤ 1056) (hnone : s.fab.groups = []) :
    execSetid s = .next (State.fsts { s with fab := { s.fab with pkgid := (field (s.arg 0) 0 11).toNat } } 1 0) := by
  simp only [execSetid, hflag, not_pkgIdOk_eq_false.mpr hid, hnone, List.isEmpty_nil, Bool.not_true, Bool.false_eq_true, if_false,
    State.request_passed, State.request_done]

theorem execSetid_unknown (hflag : s.inp.flag = true) :
    execSetid s = .next (s.fsts (if 7 ≤ s.inp.e ∧ s.inp.e < 256 then BitVec.ofNat 8 s.inp.e else 0) 1) := by
  simp only [execSetid, hflag, if_true, State.request_refused]

theorem execSetid_invalid (hflag : s.inp.flag = false) (hid : 1056 < (field (s.arg 0) 0 11).toNat) :
    execSetid s = .next (s.fsts 1 2) := by
  simp only [execSetid, hflag, not_pkgIdOk.mpr hid, Bool.false_eq_true, if_false, State.request_passed, State.request_refused]

theorem execSetid_conflict (hflag : s.inp.flag = false) (hid : (field (s.arg 0) 0 11).toNat ≤ 1056)
    (hsome : s.fab.groups ≠ []) : execSetid s = .next (s.fsts 1 3) := by
  simp only [execSetid, hflag, not_pkgIdOk_eq_false.mpr hid, List.isEmpty_eq_false_iff.mpr hsome, Bool.not_false,
    Bool.false_eq_true, if_false, State.request_passed, State.request_refused]

/-! ## ROUTE -/

/-- The field check of a ROUTE. -/
def routeBad (s : State) : Bool :=
  !pkgIdOk (field (s.arg 0) 0 11).toNat || decide (32 < (field (s.arg 1) 0 6).toNat) ||
    !((field (s.arg 1) 6 11).toNat == 0x7FF || pkgIdOk (field (s.arg 1) 6 11).toNat) ||
    decide (32 < (field (s.arg 1) 17 6).toNat) || (altPaths s).any (fun q => !pkgIdOk (field q 0 11).toNat)

theorem routeBad_eq_false_iff : routeBad s = false ↔ routeOk s := by
  simp only [routeBad, routeOk, Bool.or_eq_false_iff, Bool.not_eq_false', Bool.or_eq_true, pkgIdOk_eq_true, beq_iff_eq,
    decide_eq_false_iff_not, Nat.not_lt, List.any_eq_false, not_pkgIdOk, and_assoc]

theorem routeBad_eq_true_iff : routeBad s = true ↔ ¬ routeOk s := by
  rw [← routeBad_eq_false_iff, Bool.not_eq_false]

theorem execRoute_sets (hok : routeOk s) : execRoute s = .next (State.fsts { s with fab := { s.fab with
    routes := s.fab.routes.filter (fun r => r.dst != (field (s.arg 0) 0 11).toNat) ++
      (if bitAt (s.arg 0) 16 then [⟨(field (s.arg 0) 0 11).toNat, bitAt (s.arg 0) 17, s.arg 1, altPaths s⟩] else []) } } 2 0) := by
  have hgood : routeBad s = false := routeBad_eq_false_iff.mpr hok
  simp only [routeBad] at hgood
  simp only [execRoute, hgood, State.request_passed, State.request_done]
  split <;> simp only [List.append_nil]

theorem execRoute_invalid (hbad : ¬ routeOk s) : execRoute s = .next (s.fsts 2 2) := by
  have htrue : routeBad s = true := routeBad_eq_true_iff.mpr hbad
  simp only [routeBad] at htrue
  simp only [execRoute, htrue, State.request_refused]

/-! ## GINST -/

/-- The field check of a GINST. -/
def ginstBad (s : State) : Bool :=
  decide ((field (s.arg 0) 12 5).toNat < 12) || decide (30 < (field (s.arg 0) 12 5).toNat) ||
    (field (s.arg 0) 21 11).toNat == 0 || decide (1057 < (field (s.arg 0) 21 11).toNat) ||
    (s.arg 1).toNat % 2 ^ (field (s.arg 0) 12 5).toNat != 0 ||
    decide (0xFFFFFF000000 < (s.arg 1).toNat + 2 ^ (field (s.arg 0) 12 5).toNat) ||
    !pkgIdOk (field (s.arg 2) 0 11).toNat || !(s.part (field (s.arg 0) 32 4).toNat).valid

theorem ginstBad_eq_false_iff : ginstBad s = false ↔ ginstOk s := by
  simp only [ginstBad, ginstOk, Bool.or_eq_false_iff, Bool.not_eq_false', pkgIdOk_eq_true, decide_eq_false_iff_not, Nat.not_lt,
    beq_eq_false_iff_ne, bne_eq_false_iff_eq, Nat.one_le_iff_ne_zero, and_assoc]

theorem ginstBad_eq_true_iff : ginstBad s = true ↔ ¬ ginstOk s := by
  rw [← ginstBad_eq_false_iff, Bool.not_eq_false]

/-- The pages that back the window of a GINST, where every one is pinned. -/
def ginstPages (s : State) : Option (List PinnedPage) :=
  s.pinned (field (s.arg 0) 32 4).toNat (s.arg 1).toNat (2 ^ (field (s.arg 0) 12 5).toNat)

/-- The group that a GINST describes, on the given pages. -/
def ginstGroup (s : State) (pages : List PinnedPage) : Group :=
  { gid := (field (s.arg 0) 0 12).toNat, wlog := (field (s.arg 0) 12 5).toNat, memb := (field (s.arg 0) 21 11).toNat
    part := (field (s.arg 0) 32 4).toNat, va := (s.arg 1).toNat, pages := pages, seqSwitch := (field (s.arg 2) 0 11).toNat }

/-- A GINST once its checks have been made, its window not yet cleared. -/
def ginstRequest (s : State) : State :=
  s.request 3 [(ginstBad s, 2), (s.fab.groups.any (fun g => g.gid == (field (s.arg 0) 0 12).toNat), 3),
      ((ginstPages s).isNone, 4)]
    (fun f => { f with groups := f.groups ++ [ginstGroup s ((ginstPages s).getD [])] })

/-- The runs of physical memory that the window of a GINST covers in the pages of a group. -/
def ginstRuns (s : State) (g : Group) : List (Nat × Nat) :=
  g.pages.flatMap (fun p : PinnedPage => [(p.pa + (Nat.max (s.arg 1).toNat p.va - p.va),
    Nat.min ((s.arg 1).toNat + 2 ^ (field (s.arg 0) 12 5).toNat) (p.va + p.len) - Nat.max (s.arg 1).toNat p.va)])

/-- A GINST clears the window of the group that its request has added to the table, if it has. -/
theorem execGinst_eq : execGinst s =
    if (ginstRequest s).fab.groups.length = s.fab.groups.length then .next (ginstRequest s)
    else .next (((ginstRequest s).fab.groups.getLast?.elim [] (ginstRuns s)).foldl
      (fun (s : State) (p : Nat × Nat) => s.clearG p.1 p.2) (ginstRequest s)) := by
  cases hlast : (ginstRequest s).fab.groups.getLast? with
  | none | some g =>
    simp only [ginstRequest, ginstBad, ginstPages, ginstGroup] at hlast
    simp only [execGinst, hlast]
    rfl

theorem execGinst_of_refused (hreq : ginstRequest s = s.fsts 3 err) : execGinst s = .next (s.fsts 3 err) := by
  have hlen : (ginstRequest s).fab.groups.length = s.fab.groups.length := by rw [hreq, State.groups_fsts]
  rw [execGinst_eq, if_pos hlen, hreq]

theorem execGinst_invalid (hbad : ¬ ginstOk s) : execGinst s = .next (s.fsts 3 2) := by
  refine execGinst_of_refused ?_
  simp only [ginstRequest, ginstBad_eq_true_iff.mpr hbad, State.request_refused]

theorem execGinst_conflict (hok : ginstOk s) (htaken : ∃ g ∈ s.fab.groups, g.gid = (field (s.arg 0) 0 12).toNat) :
    execGinst s = .next (s.fsts 3 3) := by
  refine execGinst_of_refused ?_
  simp only [ginstRequest, ginstBad_eq_false_iff.mpr hok, any_gid_eq_true.mpr htaken, State.request_passed, State.request_refused]

theorem execGinst_unpinned (hok : ginstOk s) (hfree : ∀ g ∈ s.fab.groups, g.gid ≠ (field (s.arg 0) 0 12).toNat)
    (hpages : ginstPages s = none) : execGinst s = .next (s.fsts 3 4) := by
  refine execGinst_of_refused ?_
  simp only [ginstRequest, ginstBad_eq_false_iff.mpr hok, any_gid_eq_false.mpr hfree, hpages, Option.isNone_none,
    State.request_passed, State.request_refused]

/-- The group is installed last in the table, and its window is cleared run by run (R299). -/
theorem execGinst_installs {l : List PinnedPage} (hok : ginstOk s)
    (hfree : ∀ g ∈ s.fab.groups, g.gid ≠ (field (s.arg 0) 0 12).toNat) (hpages : ginstPages s = some l) :
    execGinst s = .next ((ginstRuns s (ginstGroup s l)).foldl (fun (s : State) (p : Nat × Nat) => s.clearG p.1 p.2)
      (State.fsts { s with fab := { s.fab with groups := s.fab.groups ++ [ginstGroup s l] } } 3 0)) := by
  have hreq : ginstRequest s = State.fsts { s with fab := { s.fab with groups := s.fab.groups ++ [ginstGroup s l] } } 3 0 := by
    simp only [ginstRequest, ginstBad_eq_false_iff.mpr hok, any_gid_eq_false.mpr hfree, hpages, Option.isNone_some,
      Option.getD_some, State.request_passed, State.request_done]
  have hgroups : (ginstRequest s).fab.groups = s.fab.groups ++ [ginstGroup s l] := congrArg (·.fab.groups) hreq
  have hlen : (ginstRequest s).fab.groups.length ≠ s.fab.groups.length := by
    rw [hgroups, List.length_append]
    exact Nat.succ_ne_self _
  rw [execGinst_eq, if_neg hlen, hgroups, List.getLast?_concat, Option.elim_some, hreq]

/-! ## GREM -/

theorem execGrem_removes (hout : s.stoOut (field (s.arg 0) 0 12).toNat = false)
    (hthere : ∃ g ∈ s.fab.groups, g.gid = (field (s.arg 0) 0 12).toNat) : execGrem s = .next (State.fsts { s with
      fab := { s.fab with groups := s.fab.groups.filter (fun g => g.gid != (field (s.arg 0) 0 12).toNat) } } 4 0) := by
  simp only [execGrem, hout, any_gid_eq_true.mpr hthere, Bool.not_true, Bool.or_self, State.request_passed, State.request_done]

theorem execGrem_conflict (hkept : s.stoOut (field (s.arg 0) 0 12).toNat = true ∨
    ∀ g ∈ s.fab.groups, g.gid ≠ (field (s.arg 0) 0 12).toNat) : execGrem s = .next (s.fsts 4 3) := by
  have hcheck : (s.stoOut (field (s.arg 0) 0 12).toNat || !s.fab.groups.any (fun g => g.gid == (field (s.arg 0) 0 12).toNat)) =
      true := by
    simpa only [Bool.or_eq_true, Bool.not_eq_true', any_gid_eq_false] using hkept
  simp only [execGrem, hcheck, State.request_refused]

/-! ## SEQ -/

/-- The first number of a sequencer: the one after those that the package has applied, where it is a member (R300, R302). -/
def Fabric.firstNo (b : Fabric) (gid : Nat) : Nat :=
  ((b.groups.find? (fun g => g.gid == gid)).map (fun g => g.applied + 1)).getD 1

/-- Numbers go on after those applied at an installed group, and begin at 1 elsewhere. -/
theorem Fabric.firstNo_eq {b : Fabric} {gid first : Nat}
    (h : ((∀ g ∈ b.groups, g.gid ≠ gid) ∧ first = 1) ∨
      ∃ g, b.groups.find? (fun g => g.gid == gid) = some g ∧ first = g.applied + 1) : b.firstNo gid = first := by
  obtain ⟨hnone, rfl⟩ | ⟨g, hfound, rfl⟩ := h
  · have hmissed : b.groups.find? (fun g => g.gid == gid) = none :=
      List.find?_eq_none.mpr fun g hg => mt beq_iff_eq.mp (hnone g hg)
    simp only [Fabric.firstNo, hmissed, Option.map_none, Option.getD_none]
  · simp only [Fabric.firstNo, hfound, Option.map_some, Option.getD_some]

/-- The check of the member list that a SEQ sets. -/
def seqBad (s : State) : Bool :=
  (seqMembers s).length == 0 || decide (1057 < (seqMembers s).length) || (seqMembers s).any (fun m => !pkgIdOk m)

theorem seqBad_eq_true_iff :
    seqBad s = true ↔ seqMembers s = [] ∨ 1057 < (seqMembers s).length ∨ ∃ m ∈ seqMembers s, 1056 < m := by
  simp only [seqBad, Bool.or_eq_true, beq_iff_eq, List.length_eq_zero_iff, decide_eq_true_eq, List.any_eq_true, not_pkgIdOk,
    or_assoc]

theorem seqBad_eq_false_iff : seqBad s = false ↔
    1 ≤ (seqMembers s).length ∧ (seqMembers s).length ≤ 1057 ∧ ∀ m ∈ seqMembers s, m ≤ 1056 := by
  simp only [seqBad, Bool.or_eq_false_iff, beq_eq_false_iff_ne, decide_eq_false_iff_not, Nat.not_lt, List.any_eq_false,
    not_pkgIdOk, Nat.one_le_iff_ne_zero, and_assoc, ne_eq]

theorem execSeq_ends (hend : bitAt (s.arg 0) 12 = false) : execSeq s = .next (State.fsts { s with
    fab := { s.fab with seqs := s.fab.seqs.filter (fun q => q.gid != (field (s.arg 0) 0 12).toNat) } } 5 0) := by
  simp only [execSeq, hend, Bool.false_and, Bool.false_eq_true, if_false, State.request_passed, State.request_done]

theorem execSeq_sets (hset : bitAt (s.arg 0) 12 = true) (hgood : seqBad s = false) :
    execSeq s = .next (State.fsts { s with fab := { s.fab with
      seqs := s.fab.seqs.filter (fun q => q.gid != (field (s.arg 0) 0 12).toNat) ++
        [⟨(field (s.arg 0) 0 12).toNat, seqMembers s, s.fab.firstNo (field (s.arg 0) 0 12).toNat, []⟩] } } 5 0) := by
  simp only [seqBad] at hgood
  simp only [execSeq, hset, hgood, Bool.and_false, if_true, State.request_passed, State.request_done, Fabric.firstNo]
  cases s.fab.groups.find? (fun g => g.gid == (field (s.arg 0) 0 12).toNat) <;> rfl

theorem execSeq_invalid (hset : bitAt (s.arg 0) 12 = true) (hbad : seqBad s = true) : execSeq s = .next (s.fsts 5 2) := by
  simp only [seqBad] at hbad
  simp only [execSeq, hset, hbad, Bool.and_self, State.request_refused]

/-! ## KEY -/

/-- A KEY would pair the key of a valid partition with another one at the endpoint (R400). -/
def keyClash (s : State) : Bool :=
  bitAt (s.arg 0) 32 && (field (s.arg 0) 0 6).toNat == 33 &&
    s.parts.any (fun p => p.2.valid && p.2.jkey == field (s.arg 0) 12 16 && p.1 != (field (s.arg 0) 28 4).toNat)

theorem keyClash_eq_true_iff : keyClash s = true ↔ bitAt (s.arg 0) 32 = true ∧ (field (s.arg 0) 0 6).toNat = 33 ∧
    ∃ p ∈ s.parts, p.2.valid = true ∧ p.2.jkey = field (s.arg 0) 12 16 ∧ p.1 ≠ (field (s.arg 0) 28 4).toNat := by
  simp only [keyClash, Bool.and_eq_true, beq_iff_eq, bne_iff_ne, List.any_eq_true, and_assoc]

theorem keyClash_eq_false_iff : keyClash s = false ↔ (bitAt (s.arg 0) 32 = true → (field (s.arg 0) 0 6).toNat = 33 →
    ∀ p ∈ s.parts, p.2.valid = true → p.2.jkey = field (s.arg 0) 12 16 → p.1 = (field (s.arg 0) 28 4).toNat) := by
  rw [← Bool.not_eq_true, keyClash_eq_true_iff]
  simp only [not_and, not_exists, ne_eq, Classical.not_not]

theorem execKey_sets (hport : (field (s.arg 0) 0 6).toNat ≤ 33) (hpair : keyClash s = false) :
    execKey s = .next (State.fsts { s with fab := { s.fab with
      keys := s.fab.keys.filter (fun e => e.1 != ((field (s.arg 0) 0 6).toNat, (field (s.arg 0) 6 6).toNat)) ++
        (if bitAt (s.arg 0) 32 then [(((field (s.arg 0) 0 6).toNat, (field (s.arg 0) 6 6).toNat),
          (field (s.arg 0) 12 16, (field (s.arg 0) 28 4).toNat))] else []) } } 6 0) := by
  simp only [keyClash] at hpair
  simp only [execKey, hpair, decide_eq_false (Nat.not_lt.mpr hport), State.request_passed, State.request_done]
  split <;> simp only [List.append_nil]

theorem execKey_invalid (hport : 33 < (field (s.arg 0) 0 6).toNat) : execKey s = .next (s.fsts 6 2) := by
  simp only [execKey, decide_eq_true hport, State.request_refused]

theorem execKey_conflict (hport : (field (s.arg 0) 0 6).toNat ≤ 33) (hclash : keyClash s = true) :
    execKey s = .next (s.fsts 6 3) := by
  simp only [keyClash] at hclash
  simp only [execKey, hclash, decide_eq_false (Nat.not_lt.mpr hport), State.request_passed, State.request_refused]

end

end Sys2Proof.Machine

namespace Sys2Proof.Proofs

open Sys2Proof.Machine

/-- Settles O38: one lemma for each operation that is done, and one for each error that it answers. -/
theorem fabricRequests : Obligations.FabricRequests := by
  unfold Obligations.FabricRequests
  refine ⟨?setid, ?unknown, ?setidInvalid, ?setidConflict, ?route, fun s => execRoute_invalid, ?ginst,
    fun s => execGinst_invalid, ?ginstConflict, ?ginstUnpinned, ?grem, ?gremConflict, ?seqEnd, ?seqSet, ?seqInvalid, ?key,
    fun s => execKey_invalid, ?keyConflict⟩
  case setid => exact fun s ⟨hflag, hid, hnone⟩ => execSetid_sets hflag hid hnone
  case unknown =>
    rintro fop s ⟨hflag, rfl⟩
    exact execSetid_unknown hflag
  case setidInvalid => exact fun s ⟨hflag, hid⟩ => execSetid_invalid hflag hid
  case setidConflict => exact fun s ⟨hflag, hid, hsome⟩ => execSetid_conflict hflag hid hsome
  case route =>
    rintro dst l s ⟨hok, rfl, rfl⟩
    exact execRoute_sets hok
  case ginst =>
    rintro g t s ⟨hok, hfree, hpages, hg, rfl⟩
    have hgroup : g = ginstGroup s g.pages := hg
    rw [hgroup] at hfree hpages ⊢
    exact execGinst_installs hok hfree hpages
  case ginstConflict => exact fun s ⟨hok, htaken⟩ => execGinst_conflict hok htaken
  case ginstUnpinned => exact fun s ⟨hok, hfree, hpages⟩ => execGinst_unpinned hok hfree hpages
  case grem =>
    rintro gid s ⟨rfl, hout, hthere⟩
    exact execGrem_removes hout hthere
  case gremConflict =>
    rintro gid s ⟨rfl, hkept⟩
    exact execGrem_conflict hkept
  case seqEnd =>
    rintro gid s ⟨rfl, hend⟩
    exact execSeq_ends hend
  case seqSet =>
    rintro gid first l s ⟨rfl, hset, rfl, hsome, hroom, hids, hfirst⟩
    rw [← Fabric.firstNo_eq hfirst]
    exact execSeq_sets hset (seqBad_eq_false_iff.mpr ⟨hsome, hroom, hids⟩)
  case seqInvalid => exact fun s ⟨hset, hbad⟩ => execSeq_invalid hset (seqBad_eq_true_iff.mpr hbad)
  case key =>
    rintro port ent key part l s ⟨rfl, rfl, rfl, rfl, hport, hpair, rfl⟩
    exact execKey_sets hport (keyClash_eq_false_iff.mpr hpair)
  case keyConflict =>
    rintro s ⟨hport, hvalid, hclash⟩
    exact execKey_conflict (Nat.le_of_eq hport) (keyClash_eq_true_iff.mpr ⟨hvalid, hport, hclash⟩)

end Sys2Proof.Proofs
end

section
/-! SUPPORT and the settled obligation O39: the four rows of ordered multicast, each where the group, the sequencer or the own
store that it asks for is there. -/

namespace Sys2Proof.Machine

section

variable {s : State}

/-! ## Stamping (R297, R300) -/

section

variable {q : Sequencer} {tag : Nat} {o : StoOut} (hon : s.fabOn = true)
  (hseq : s.fab.seqs.find? (fun q => q.gid == s.inp.gid) = some q) (hroom : q.unstable.length < 1024)
  (hsto : s.inp.sto = .own tag) (hforms : s.reforming q.gid = false) (hown : s.ownSto q.gid tag = some o)

include hon hseq hroom hsto hforms hown

/-- The sequencer takes an own store up: its key and the number left for it decide the rest. -/
theorem execStoStamp_own : execStoStamp s =
    if (!s.keyPasses o.ctx) = true ∨ q.next = 2 ^ 48 - 1 then .next ((s.dropSto tag).rejectSto o.ctx)
    else .next ((s.stamp q s.fab.pkgid o.cid tag o.off o.data).modSto tag (fun o => { o with numbered := true })) := by
  have hgo : ¬ (1024 ≤ q.unstable.length ∨ (!s.fabOn) = true ∨ s.reforming q.gid = true) := by
    simp [hon, hforms, hroom]
  simp only [execStoStamp, hseq, if_neg hgo, hsto, hown]

theorem execStoStamp_stamps (hkey : s.keyPasses o.ctx = true) (hnext : q.next ≠ 2 ^ 48 - 1) : execStoStamp s =
    .next ((s.stamp q s.fab.pkgid o.cid tag o.off o.data).modSto tag (fun o => { o with numbered := true })) := by
  rw [execStoStamp_own hon hseq hroom hsto hforms hown, if_neg]
  simp only [hkey, Bool.not_true, Bool.false_eq_true, hnext, or_self, not_false_iff]

theorem execStoStamp_rejects (hbad : s.keyPasses o.ctx = false ∨ q.next = 2 ^ 48 - 1) :
    execStoStamp s = .next ((s.dropSto tag).rejectSto o.ctx) := by
  rw [execStoStamp_own hon hseq hroom hsto hforms hown, if_pos]
  simpa only [Bool.not_eq_true'] using hbad

end

/-! ## Applying (R301) -/

theorem execStampedStoreApply_applies {g : Group} {e : Stamped} (hon : s.fabOn = true) (hflag : s.inp.flag = false)
    (hgroup : s.fab.groups.find? (fun g => g.gid == s.inp.gid) = some g)
    (hnext : g.pending.find? (fun e => e.n == g.applied + 1) = some e)
    (hroom : ∀ p ∈ g.parts e.off e.data.length, s.sideFull (pageOf p.1) = false) :
    execStampedStoreApply s = .next (s.applyStore g.gid e.pkg e.tag e.off e.data) := by
  have hfits : (g.parts e.off e.data.length).any (fun p => s.sideFull (pageOf p.1)) = false :=
    List.any_eq_false.mpr fun p hp => Bool.eq_false_iff.mp (hroom p hp)
  simp only [execStampedStoreApply, hon, hflag, Bool.false_and, Bool.not_true, Bool.false_eq_true, if_false, hgroup, hnext, hfits]

/-! ## Acknowledgements (R297, R300) -/

/-- A store of another package is let go at its sequencer. -/
theorem execStampAcknowledgement_drops {q : Sequencer} (hon : s.fabOn = true) (hflag : s.inp.flag = false)
    (hseq : s.fab.seqs.find? (fun q => q.gid == s.inp.gid) = some q) (hother : s.inp.no ≠ s.fab.pkgid)
    (hstable : ∃ e ∈ q.unstable, e.2 = (s.inp.no, s.inp.id) ∧ ∀ g ∈ s.fab.groups, g.gid = q.gid → e.1 ≤ g.applied) :
    execStampAcknowledgement s = .next (s.modSeq s.inp.gid (fun q =>
      { q with unstable := q.unstable.filter (fun e => e.2 != (s.inp.no, s.inp.id)) })) := by
  have hhere : q.unstable.any (fun e => e.2 == (s.inp.no, s.inp.id) &&
      s.fab.groups.all (fun g => g.gid != q.gid || decide (e.1 ≤ g.applied))) = true := by
    simpa only [List.any_eq_true, Bool.and_eq_true, beq_iff_eq, List.all_eq_true, Bool.or_eq_true, bne_iff_ne,
      decide_eq_true_eq, ne_eq, ← Decidable.imp_iff_not_or] using hstable
  simp only [execStampAcknowledgement, hon, hflag, hseq, hhere, if_neg hother, Bool.not_true, Bool.false_eq_true,
    if_false, if_true]

/-- An own store that another package's sequencer stamped has its outcome. -/
theorem execStampAcknowledgement_settles (hon : s.fabOn = true) (hflag : s.inp.flag = false)
    (hseq : s.fab.seqs.find? (fun q => q.gid == s.inp.gid) = none) (hown : s.inp.no = s.fab.pkgid)
    (hmarked : ∃ o ∈ s.fab.stos, o.tag = s.inp.id ∧ o.gid = s.inp.gid ∧ o.marked = true) :
    execStampAcknowledgement s = .next (s.dropSto s.inp.id) := by
  have hthere : s.fab.stos.any (fun o => o.tag == s.inp.id && o.gid == s.inp.gid && o.marked) = true := by
    simpa only [List.any_eq_true, Bool.and_eq_true, beq_iff_eq, and_assoc] using hmarked
  simp only [execStampAcknowledgement, hon, hflag, hseq, hthere, hown, Bool.not_true, Bool.false_eq_true, if_false,
    and_self, if_true]

/-- An own store that another package's sequencer has not stamped is rejected. -/
theorem execStampAcknowledgement_rejects {o : StoOut} (hon : s.fabOn = true) (hflag : s.inp.flag = true)
    (hsto : s.fab.stos.find? (fun o => o.tag == s.inp.id && o.gid == s.inp.gid && !o.numbered) = some o)
    (hother : ∀ q ∈ s.fab.seqs, q.gid ≠ s.inp.gid) :
    execStampAcknowledgement s = .next ((s.dropSto o.tag).rejectSto o.ctx) := by
  have hnone : s.fab.seqs.any (fun q => q.gid == s.inp.gid) = false :=
    List.any_eq_false.mpr fun q hq => mt beq_iff_eq.mp (hother q hq)
  simp only [execStampAcknowledgement, hon, hflag, hsto, hnone, Bool.not_true, Bool.false_eq_true, if_false, if_true]

/-! ## Re-formation (R302) -/

theorem execGroupReFormation_begins (hbegin : s.inp.reform = none) :
    execGroupReFormation s = .next (s.modGroup s.inp.gid (fun g => { g with ref := true })) := by
  simp only [execGroupReFormation, hbegin]

theorem execGroupReFormation_ends {r : ReForm} {g : Group} (hon : s.fabOn = true) (hend : s.inp.reform = some r)
    (hgroup : s.fab.groups.find? (fun g => g.gid == s.inp.gid) = some g) (href : g.ref = true)
    (hlast : g.applied + r.redelivered.length = r.p) : execGroupReFormation s =
      .next (((r.redelivered.foldl (fun (s : State) e => s.applyStore g.gid e.1 e.2.1 e.2.2.1 e.2.2.2)
        (s.modSeq s.inp.gid (fun q => { q with next := r.p + 1, unstable := [] }))).settle s.inp.gid).modGroup s.inp.gid
          (fun g => { g with ref := false, epoch := g.epoch + 1, pending := [] })) := by
  have hgo : ¬ ((!g.ref) = true ∨ g.applied + r.redelivered.length ≠ r.p ∨ (!s.fabOn) = true) := by
    simp [href, hlast, hon]
  simp only [execGroupReFormation, hend, hgroup, if_neg hgo]

end

end Sys2Proof.Machine

namespace Sys2Proof.Proofs

open Sys2Proof.Machine

/-- Settles O39: each row's guards are the statement's hypotheses. -/
theorem orderedMulticast : Obligations.OrderedMulticast := by
  unfold Obligations.OrderedMulticast
  refine ⟨?stamps, ?rejects, ?applies, ?drops, ?settles, ?refused, fun s => execGroupReFormation_begins, ?ends⟩
  case stamps => exact fun q tag o s ⟨hon, hseq, hroom, hsto, hforms, hown, hkey, hnext⟩ =>
    execStoStamp_stamps hon hseq hroom hsto hforms hown hkey hnext
  case rejects => exact fun q tag o s ⟨hon, hseq, hroom, hsto, hforms, hown, hbad⟩ =>
    execStoStamp_rejects hon hseq hroom hsto hforms hown hbad
  case applies => exact fun g e s ⟨hon, hflag, hgroup, hnext, hroom⟩ =>
    execStampedStoreApply_applies hon hflag hgroup hnext hroom
  case drops => exact fun q s ⟨hon, hflag, hseq, hother, hstable⟩ =>
    execStampAcknowledgement_drops hon hflag hseq hother hstable
  case settles => exact fun s ⟨hon, hflag, hseq, hown, hmarked⟩ =>
    execStampAcknowledgement_settles hon hflag hseq hown hmarked
  case refused => exact fun o s ⟨hon, hflag, hsto, hother⟩ => execStampAcknowledgement_rejects hon hflag hsto hother
  case ends => exact fun r g s ⟨hon, hend, hgroup, href, hlast⟩ =>
    execGroupReFormation_ends hon hend hgroup href hlast

end Sys2Proof.Proofs
end

section
/-! SUPPORT and the settled obligation O60: every step keeps what `State.Governed` says. Each instruction and event keeps it (the
`exec…_gov` lemmas); here they are put together along the arms of `exec` and then along the step. -/

namespace Sys2Proof.Machine

/-- What every instruction and event answers with: a governed state, if any. -/
theorem exec_gov (i : Instr) (s : State) (hs : s.Governed) : OutGov (exec i s) :=
  match i with
  | .nop w => execNop_gov w s hs
  | .halt w => execHalt_gov w s hs
  | .qpt w => execQpt_gov w s hs
  | .br w => execBr_gov w s hs
  | .brp w => execBrp_gov w s hs
  | .call w => execCall_gov w s hs
  | .ret w => execRet_gov w s hs
  | .loop w => execLoop_gov w s hs
  | .next w => execNext_gov w s hs
  | .bqs w => execBqs_gov w s hs
  | .bqr w => execBqr_gov w s hs
  | .waitc w => execWaitc_gov w s hs
  | .yld w => execYld_gov w s hs
  | .trap w => execTrap_gov w s hs
  | .bkpt w => execBkpt_gov w s hs
  | .hint n w => execHint_gov n w s hs
  | .ldp w => execLdp_gov w s hs
  | .add w => execAdd_gov w s hs
  | .sub w => execSub_gov w s hs
  | .mul w => execMul_gov w s hs
  | .mulh w => execMulh_gov w s hs
  | .mulhn w => execMulhn_gov w s hs
  | .div w => execDiv_gov w s hs
  | .divn w => execDivn_gov w s hs
  | .rem w => execRem_gov w s hs
  | .remn w => execRemn_gov w s hs
  | .and w => execAnd_gov w s hs
  | .or w => execOr_gov w s hs
  | .xor w => execXor_gov w s hs
  | .andn w => execAndn_gov w s hs
  | .orn w => execOrn_gov w s hs
  | .shl w => execShl_gov w s hs
  | .shr w => execShr_gov w s hs
  | .sra w => execSra_gov w s hs
  | .rotl w => execRotl_gov w s hs
  | .min w => execMin_gov w s hs
  | .max w => execMax_gov w s hs
  | .minn w => execMinn_gov w s hs
  | .maxn w => execMaxn_gov w s hs
  | .clz w => execClz_gov w s hs
  | .ctz w => execCtz_gov w s hs
  | .popc w => execPopc_gov w s hs
  | .brev w => execBrev_gov w s hs
  | .bswap w => execBswap_gov w s hs
  | .sext w => execSext_gov w s hs
  | .zext w => execZext_gov w s hs
  | .bfx w => execBfx_gov w s hs
  | .bfi w => execBfi_gov w s hs
  | .sel w => execSel_gov w s hs
  | .lim w => execLim_gov w s hs
  | .limh w => execLimh_gov w s hs
  | .lea w => execLea_gov w s hs
  | .cmp w => execCmp_gov w s hs
  | .plog w => execPlog_gov w s hs
  | .pmov w => execPmov_gov w s hs
  | .mfs w => execMfs_gov w s hs
  | .mts w => execMts_gov w s hs
  | .vadd w => execVadd_gov w s hs
  | .vsub w => execVsub_gov w s hs
  | .vmul w => execVmul_gov w s hs
  | .vfma w => execVfma_gov w s hs
  | .vfms w => execVfms_gov w s hs
  | .vfnma w => execVfnma_gov w s hs
  | .vmin w => execVmin_gov w s hs
  | .vmax w => execVmax_gov w s hs
  | .vabs w => execVabs_gov w s hs
  | .vneg w => execVneg_gov w s hs
  | .vdiv w => execVdiv_gov w s hs
  | .vsqrt w => execVsqrt_gov w s hs
  | .vrcp w => execVrcp_gov w s hs
  | .vrsq w => execVrsq_gov w s hs
  | .vexp2 w => execVexp2_gov w s hs
  | .vlog2 w => execVlog2_gov w s hs
  | .viadd w => execViadd_gov w s hs
  | .visub w => execVisub_gov w s hs
  | .vimul w => execVimul_gov w s hs
  | .vimad w => execVimad_gov w s hs
  | .vimulh w => execVimulh_gov w s hs
  | .vsadd w => execVsadd_gov w s hs
  | .vssub w => execVssub_gov w s hs
  | .vimin w => execVimin_gov w s hs
  | .vimax w => execVimax_gov w s hs
  | .viabs w => execViabs_gov w s hs
  | .vshl w => execVshl_gov w s hs
  | .vshr w => execVshr_gov w s hs
  | .vsra w => execVsra_gov w s hs
  | .vand w => execVand_gov w s hs
  | .vor w => execVor_gov w s hs
  | .vxor w => execVxor_gov w s hs
  | .vpopc w => execVpopc_gov w s hs
  | .vclz w => execVclz_gov w s hs
  | .vcmp w => execVcmp_gov w s hs
  | .vicmp w => execVicmp_gov w s hs
  | .vsel w => execVsel_gov w s hs
  | .vcvt w => execVcvt_gov w s hs
  | .vpack w => execVpack_gov w s hs
  | .vunpk w => execVunpk_gov w s hs
  | .vqbfp w => execVqbfp_gov w s hs
  | .vdqbfp w => execVdqbfp_gov w s hs
  | .vmov w => execVmov_gov w s hs
  | .vins w => execVins_gov w s hs
  | .vext w => execVext_gov w s hs
  | .vperm w => execVperm_gov w s hs
  | .vrot w => execVrot_gov w s hs
  | .vcmpr w => execVcmpr_gov w s hs
  | .vexpd w => execVexpd_gov w s hs
  | .vred w => execVred_gov w s hs
  | .vscan w => execVscan_gov w s hs
  | .varg w => execVarg_gov w s hs
  | .ldl w => execLdl_gov w s hs
  | .stl w => execStl_gov w s hs
  | .ldlx w => execLdlx_gov w s hs
  | .stlx w => execStlx_gov w s hs
  | .ldk w => execLdk_gov w s hs
  | .stk w => execStk_gov w s hs
  | .ldg w => execLdg_gov w s hs
  | .stg w => execStg_gov w s hs
  | .pfg w => execPfg_gov w s hs
  | .ldf w => execLdf_gov w s hs
  | .stf w => execStf_gov w s hs
  | .ldo w => execLdo_gov w s hs
  | .sto w => execSto_gov w s hs
  | .oseq w => execOseq_gov w s hs
  | .owt w => execOwt_gov w s hs
  | .ldh w => execLdh_gov w s hs
  | .sth w => execSth_gov w s hs
  | .atl w => execAtl_gov w s hs
  | .atk w => execAtk_gov w s hs
  | .atg w => execAtg_gov w s hs
  | .atf w => execAtf_gov w s hs
  | .fence w => execFence_gov w s hs
  | .phase w => execPhase_gov w s hs
  | .cbini w => execCbini_gov w s hs
  | .cbclm w => execCbclm_gov w s hs
  | .cbpub w => execCbpub_gov w s hs
  | .cbtak w => execCbtak_gov w s hs
  | .cbrel w => execCbrel_gov w s hs
  | .dqini w => execDqini_gov w s hs
  | .dqpsh w => execDqpsh_gov w s hs
  | .dqpop w => execDqpop_gov w s hs
  | .dqstl w => execDqstl_gov w s hs
  | .bara w => execBara_gov w s hs
  | .barw w => execBarw_gov w s hs
  | .bar w => execBar_gov w s hs
  | .bidb w => execBidb_gov w s hs
  | .bida w => execBida_gov w s hs
  | .qcnt w => execQcnt_gov w s hs
  | .qclr w => execQclr_gov w s hs
  | .qbnd w => execQbnd_gov w s hs
  | .tktry w => execTktry_gov w s hs
  | .wlapp w => execWlapp_gov w s hs
  | .wltak w => execWltak_gov w s hs
  | .wlidl w => execWlidl_gov w s hs
  | .trmw w => execTrmw_gov w s hs
  | .lease w => execLease_gov w s hs
  | .ulease w => execUlease_gov w s hs
  | .wload w => execWload_gov w s hs
  | .wswp w => execWswp_gov w s hs
  | .ashp w => execAshp_gov w s hs
  | .mma w => execMma_gov w s hs
  | .mmaz w => execMmaz_gov w s hs
  | .mmai w => execMmai_gov w s hs
  | .epi w => execEpi_gov w s hs
  | .epicf w => execEpicf_gov w s hs
  | .zrd w => execZrd_gov w s hs
  | .zwr w => execZwr_gov w s hs
  | .zclr w => execZclr_gov w s hs
  | .cpyi w => execCpyi_gov w s hs
  | .cpyo w => execCpyo_gov w s hs
  | .gthi w => execGthi_gov w s hs
  | .scto w => execScto_gov w s hs
  | .echk w => execEchk_gov w s hs
  | .cvwt w => execCvwt_gov w s hs
  | .cvts w => execCvts_gov w s hs
  | .cvcl w => execCvcl_gov w s hs
  | .cvinf w => execCvinf_gov w s hs
  | .cvtim w => execCvtim_gov w s hs
  | .mbsnd w => execMbsnd_gov w s hs
  | .mbrcv w => execMbrcv_gov w s hs
  | .mbsta w => execMbsta_gov w s hs
  | .srd w => execSrd_gov w s hs
  | .swr w => execSwr_gov w s hs
  | .eret w => execEret_gov w s hs
  | .invl w => execInvl_gov w s hs
  | .inva w => execInva_gov w s hs
  | .stbw w => execStbw_gov w s hs
  | .stbr w => execStbr_gov w s hs
  | .ctxsv w => execCtxsv_gov w s hs
  | .ctxld w => execCtxld_gov w s hs
  | .park w => execPark_gov w s hs
  | .unpark w => execUnpark_gov w s hs
  | .retire w => execRetire_gov w s hs
  | .dbgh w => execDbgh_gov w s hs
  | .idle w => execIdle_gov w s hs
  | .ckpt w => execCkpt_gov w s hs
  | .spare w => execSpare_gov w s hs
  | .mbRecv rd rs1 => execMbRecv_gov rd rs1 s hs
  | .mbSend rs1 rs2 => execMbSend_gov rs1 rs2 s hs
  | .mbStep rd rs1 rs2 => execMbStep_gov rd rs1 rs2 s hs
  | .mbDone rs1 rs2 => execMbDone_gov rs1 rs2 s hs
  | .mbStat rd => execMbStat_gov rd s hs
  | .mbVer rd => execMbVer_gov rd s hs
  | .unassignedOpcode w => execUnassignedOpcode_gov w s hs
  | .settCoreInstruction w => execSettCoreInstruction_gov w s hs
  | .trapRecordPendingAppend => execTrapRecordPendingAppend_gov s hs
  | .loadDataWrite => execLoadDataWrite_gov s hs
  | .storeBufferDrain => execStoreBufferDrain_gov s hs
  | .atomicPerform => execAtomicPerform_gov s hs
  | .clusterMessagePerform => execClusterMessagePerform_gov s hs
  | .stfAcknowledgement => execStfAcknowledgement_gov s hs
  | .fAccessArrival => execFAccessArrival_gov s hs
  | .ldhCompletion => execLdhCompletion_gov s hs
  | .completionTimeout => execCompletionTimeout_gov s hs
  | .translationWalk => execTranslationWalk_gov s hs
  | .invalidationApply => execInvalidationApply_gov s hs
  | .engineCommandBegin => execEngineCommandBegin_gov s hs
  | .engineCommandCompletion => execEngineCommandCompletion_gov s hs
  | .copyFaultFreeze => execCopyFaultFreeze_gov s hs
  | .frzRelease => execFrzRelease_gov s hs
  | .arrayCompletionPush => execArrayCompletionPush_gov s hs
  | .wloadTileCopy => execWloadTileCopy_gov s hs
  | .wswpExchange => execWswpExchange_gov s hs
  | .planeInjection => execPlaneInjection_gov s hs
  | .arrayRowComplete => execArrayRowComplete_gov s hs
  | .epilogueRow => execEpilogueRow_gov s hs
  | .zDirectExecute => execZDirectExecute_gov s hs
  | .bandPowerUp => execBandPowerUp_gov s hs
  | .leaseHandover => execLeaseHandover_gov s hs
  | .barrierRelease => execBarrierRelease_gov s hs
  | .phaseBarrierRelease => execPhaseBarrierRelease_gov s hs
  | .selfDeadlock => execSelfDeadlock_gov s hs
  | .waitTimeout => execWaitTimeout_gov s hs
  | .holdOffOverrun => execHoldOffOverrun_gov s hs
  | .detectionWave => execDetectionWave_gov s hs
  | .slotLoad => execSlotLoad_gov s hs
  | .slotAdd => execSlotAdd_gov s hs
  | .slotCopy => execSlotCopy_gov s hs
  | .slotEmpty => execSlotEmpty_gov s hs
  | .slotEmptyAdd => execSlotEmptyAdd_gov s hs
  | .slotPassThrough => execSlotPassThrough_gov s hs
  | .endedFlowEmpty => execEndedFlowEmpty_gov s hs
  | .bestEffortReserve => execBestEffortReserve_gov s hs
  | .bestEffortInject => execBestEffortInject_gov s hs
  | .bestEffortDeliver => execBestEffortDeliver_gov s hs
  | .stoStamp => execStoStamp_gov s hs
  | .stampedStoreApply => execStampedStoreApply_gov s hs
  | .stampAcknowledgement => execStampAcknowledgement_gov s hs
  | .groupReFormation => execGroupReFormation_gov s hs
  | .setid => execSetid_gov s hs
  | .route => execRoute_gov s hs
  | .ginst => execGinst_gov s hs
  | .grem => execGrem_gov s hs
  | .seq => execSeq_gov s hs
  | .key => execKey_gov s hs
  | .packetCrcFailure => execPacketCrcFailure_gov s hs
  | .linkCrcRetry => execLinkCrcRetry_gov s hs
  | .windowViolation => execWindowViolation_gov s hs
  | .stepWatchdogExpiry => execStepWatchdogExpiry_gov s hs
  | .kjkill => execKjkill_gov s hs
  | .openSet => execOpenSet_gov s hs
  | .openClear => execOpenClear_gov s hs
  | .settCsrWrite => execSettCsrWrite_gov s hs
  | .queueRegister => execQueueRegister_gov s hs
  | .queueClose => execQueueClose_gov s hs
  | .tailWrite => execTailWrite_gov s hs
  | .claim => execClaim_gov s hs
  | .publ => execPubl_gov s hs
  | .admission => execAdmission_gov s hs
  | .leaderHandOver => execLeaderHandOver_gov s hs
  | .stagingTransfer => execStagingTransfer_gov s hs
  | .kernelIssue => execKernelIssue_gov s hs
  | .kernelAging => execKernelAging_gov s hs
  | .preEmption => execPreEmption_gov s hs
  | .storageClaim => execStorageClaim_gov s hs
  | .harvestPlacement => execHarvestPlacement_gov s hs
  | .revocation => execRevocation_gov s hs
  | .harvestUnpark => execHarvestUnpark_gov s hs
  | .kernelEnd => execKernelEnd_gov s hs
  | .seedWrite => execSeedWrite_gov s hs
  | .winWrite => execWinWrite_gov s hs
  | .wlimmaxWrite => execWlimmaxWrite_gov s hs
  | .passThroughWrite => execPassThroughWrite_gov s hs
  | .specialRegisterWrite => execSpecialRegisterWrite_gov s hs
  | .residueMismatch => execResidueMismatch_gov s hs
  | .uncorrectableMemoryError => execUncorrectableMemoryError_gov s hs
  | .scrub => execScrub_gov s hs
  | .schedulerDivergence => execSchedulerDivergence_gov s hs
  | .schedulerReload => execSchedulerReload_gov s hs
  | .controllerHandOver => execControllerHandOver_gov s hs
  | .clockLoss => execClockLoss_gov s hs
  | .stackFailure => execStackFailure_gov s hs
  | .timeSlew => execTimeSlew_gov s hs
  | .offsetPublication => execOffsetPublication_gov s hs
  | .bitmapFreeze => execBitmapFreeze_gov s hs
  | .checkpointPageCopy => execCheckpointPageCopy_gov s hs
  | .copyOnWrite => execCopyOnWrite_gov s hs
  | .checkpointComplete => execCheckpointComplete_gov s hs
  | .checkpointFailure => execCheckpointFailure_gov s hs
  | .thawDeferralEnd => execThawDeferralEnd_gov s hs
  | .limiterWindow => execLimiterWindow_gov s hs
  | .ballastLimitExpiry => execBallastLimitExpiry_gov s hs
  | .droopAlarm => execDroopAlarm_gov s hs
  | .droopRecovery => execDroopRecovery_gov s hs
  | .overCurrent => execOverCurrent_gov s hs
  | .thermalTrip => execThermalTrip_gov s hs
  | .coarseCapWindow => execCoarseCapWindow_gov s hs
  | .cadreqUpdate => execCadreqUpdate_gov s hs
  | .powerTableWrite => execPowerTableWrite_gov s hs
  | .partitionDescriptorWrite => execPartitionDescriptorWrite_gov s hs
  | .standbyRequest => execStandbyRequest_gov s hs
  | .standbyExit => execStandbyExit_gov s hs
  | .debugModeEnter => execDebugModeEnter_gov s hs
  | .debugModeExit => execDebugModeExit_gov s hs
  | .debugMailboxSrd => execDebugMailboxSrd_gov s hs
  | .debugMailboxSwr => execDebugMailboxSwr_gov s hs
  | .debugMailboxDbgh => execDebugMailboxDbgh_gov s hs
  | .powerOnReset => execPowerOnReset_gov s hs
  | .portReset => execPortReset_gov s hs
  | .linkDown => execLinkDown_gov s hs
  | .vfFlr => execVfFlr_gov s hs
  | .pfFlr => execPfFlr_gov s hs
  | .waitcClockReached => execWaitcClockReached_gov s hs
  | .yieldEnd => execYieldEnd_gov s hs
  | .idleCycleLimit => execIdleCycleLimit_gov s hs
  | .overCurrentClear => execOverCurrentClear_gov s hs
  | .thermalTripClear => execThermalTripClear_gov s hs
  | .linkUp => execLinkUp_gov s hs
  | .boundaryScan => execBoundaryScan_gov s hs
  | .hostWrite => execHostWrite_gov s hs

/-- The next state of an outcome that keeps the invariant. -/
theorem OutGov.next {t : State} (h : OutGov (.next t)) : t.Governed := h

theorem runRoleAt_gov (w : Who) (s : State) (hs : s.Governed) : OutGov (runRoleAt w s) := by
  unfold runRoleAt
  split
  · exact State.finishRest_gov s w hs
  · split
    · exact State.raise_gov s w _ _ hs
    · split
      · exact exec_gov _ s hs
      · exact State.deliverAt_gov s _ _ _ _ _ _ _ hs
      · exact hs

theorem stepRole_gov (w : Who) (s : State) (hs : s.Governed) : OutGov (stepRole w s) := by
  unfold stepRole
  split
  · refine State.furtherFault_gov s w _ hs fun y hy => ?_
    have hrun := runRoleAt_gov w y hy
    split
    · rename_i t ht
      rw [ht] at hrun
      exact hrun.next
    · exact hy
  · exact runRoleAt_gov w s hs

theorem stepSett_gov (d k : Nat) (s : State) (hs : s.Governed) : OutGov (stepSett d k s) := by
  have hb := State.settBegin_gov s d k hs
  simp only [stepSett]
  split
  · split
    · exact exec_gov _ _ hb
    · exact hb
  · rename_i s' hf
    exact State.settFetch_gov _ d k hb s' hf

theorem step_gov (s : State) (hs : s.Governed) : OutGov (step s) := by
  have hb := State.begin_gov s hs
  simp only [step]
  split
  · exact stepRole_gov _ _ hb
  · exact stepSett_gov _ _ _ hb
  · exact exec_gov _ _ hb

end Sys2Proof.Machine

namespace Sys2Proof.Proofs

open Sys2Proof.Machine

/-- Settles O60: every move of a step is an instruction, an event or a delivery, and each keeps the invariant. -/
theorem stepKeeps : Obligations.StepKeeps := by
  unfold Obligations.StepKeeps
  intro s t hs hstep
  have h := step_gov s hs
  rw [hstep] at h
  exact h.next

end Sys2Proof.Proofs
end

section
/-! SUPPORT and the settled obligation O55: what a precise fault of a role does, where its record goes, and what the two returns
leave of the context. -/

namespace Sys2Proof.Machine

variable {s t : State} {d p : Nat} {e : TrapRec}

/-! ## Entering TRAPPED (R369, R370) -/

/-- A precise fault of a role: its record goes to the queue with the stop noted, or the fault's domain ends. -/
theorem raise_eq {w : Who} {x : Ctx} (cause : Nat) (val : W64) (hx : s.ctx w.c = some x) :
    s.raise w cause val =
      match (s.setCtx w.c (x.entered w.r cause)).appendRec (dieOf w.c.cid) x.part (s.faultRec w x cause val) with
      | some t => { t with
        stops := ⟨w.c, Role.code w.r, ((s.setCtx w.c (x.entered w.r cause)).trapQ (dieOf w.c.cid) x.part).tqt, [x.rl, x.rc, x.rs]⟩ ::
          s.stops }
      | none => (s.setCtx w.c (x.entered w.r cause)).endDomain x.kernel cause := by
  obtain ⟨c, r⟩ := w
  simp only [State.raise, State.deliver, State.deliverAt, hx]
  cases r <;> rfl

/-! ## Where a record goes (R369 steps 3 to 5, R414) -/

/-- The place of the next record of a trap queue. -/
def TrapQ.tail (q : TrapQ) : Nat := q.tqb + 64 * (q.tqt.toNat % 256)

theorem appendRec_of_closed (h : (s.trapQ d p).tqb = 0) : s.appendRec d p e = none := by
  simp [State.appendRec, h]

theorem appendRec_of_held (hb : (s.trapQ d p).tqb ≠ 0)
    (hh : (s.trapQ d p).full = true ∨ (s.trapQ d p).waiting ≠ [] ∨ s.devBusy p (s.trapQ d p).tail = true) :
    s.appendRec d p e = some (s.modTrapQ d p (fun q => { q with waiting := q.waiting ++ [e] })) := by
  simp only [TrapQ.tail] at hh
  simp [State.appendRec, hb, hh]

/-- With room in the queue and for the write, the record is stored at once. -/
theorem appendRec_of_free (hb : (s.trapQ d p).tqb ≠ 0) (hf : (s.trapQ d p).full = false) (hw : (s.trapQ d p).waiting = [])
    (hd : s.devBusy p (s.trapQ d p).tail = false) : s.appendRec d p e = s.storeRec d p e := by
  simp only [TrapQ.tail] at hd
  simp [State.appendRec, hb, hf, hw, hd]

theorem storeRec_of_ok {pa : Nat} (hb : (s.trapQ d p).tqb ≠ 0)
    (hx : s.xlate p (s.trapQ d p).tail true (e.bytes (s.trapQ d p).tqt).length = .ok pa) :
    s.storeRec d p e =
      some ((s.writeDev pa (e.bytes (s.trapQ d p).tqt)).modTrapQ d p (fun q => { q with tqt := q.tqt + 1 })) := by
  simp only [TrapQ.tail] at hx
  simp [State.storeRec, State.writeRun, hb, hx]

theorem storeRec_of_error {c : Nat} (hb : (s.trapQ d p).tqb ≠ 0)
    (hx : s.xlate p (s.trapQ d p).tail true (e.bytes (s.trapQ d p).tqt).length = .error c) : s.storeRec d p e = none := by
  simp only [TrapQ.tail] at hx
  simp [State.storeRec, State.writeRun, hb, hx]

/-- A record is 64 bytes long (R370). -/
theorem TrapRec.bytes_length (seq : W32) (h : e.pcs.length = 3) : (e.bytes seq).length = 64 := by
  obtain ⟨a, b, c, hpcs⟩ := List.length_eq_three.mp h
  simp [TrapRec.bytes, bytesN, hpcs]

/-! ## The two returns (R354) -/

theorem unreserve_late (x : Ctx) : x.unreserve.late = x.late := by
  unfold Ctx.unreserve
  split <;> rfl

theorem unreserve_toks (x : Ctx) : x.unreserve.toks = x.toks := by
  unfold Ctx.unreserve
  split <;> rfl

/-- A return from a fault that stopped a role in front of its word: the context runs, and with MODE 1 that role steps over the word. -/
theorem resume_of_stopped {x : Ctx} {r : Role} {cause : Nat} {pc : Pos} (t : List Section) (next : Bool)
    (htrap : x.trap = some (Role.code r, cause, pc, false)) (hlate : x.late = none) :
    x.resume t next =
      if next then Ctx.setRole { x with state := .run, trap := none } r ((x.role r).skip t) else { x with state := .run, trap := none } := by
  have hcode : Role.code r < 3 := by cases r <;> decide
  have hrole : roleOf (Role.code r) = r := by cases r <;> rfl
  simp only [Ctx.resume, htrap, hlate, hcode, hrole, Bool.not_false, and_true]
  cases r <;> rfl

theorem resume_entered (x : Ctx) (r : Role) (cause : Nat) (t : List Section) (next : Bool) (hl : x.late = none) :
    (x.entered r cause).resume t next =
      let y : Ctx := { x.unreserve with state := .run, trap := none, rl := x.rl.stop, rc := x.rc.stop, rs := x.rs.stop }
      if next then y.setRole r ((x.role r).stop.skip t) else y := by
  refine (resume_of_stopped (x := x.entered r cause) t next rfl ((unreserve_late x).trans hl)).trans ?_
  rw [entered_role]
  rfl

end Sys2Proof.Machine

namespace Sys2Proof.Proofs

open Sys2Proof.Machine

/-- Settles O55: a fault's record is stored, waits or finds no queue; the returns start from the context as the fault left it. -/
theorem trapEntry : Obligations.TrapEntry := by
  unfold Obligations.TrapEntry
  refine ⟨?recorded, ?ended, fun s d p t => appendRec_of_closed, fun s d p t => appendRec_of_held, ?stored, ?untranslated,
    fun t seq => TrapRec.bytes_length seq, fun x r cause t hl => resume_entered x r cause t false hl, ?next⟩
  case recorded =>
    intro s w x cause val t hx ht
    have heq := raise_eq cause val hx
    rw [ht] at heq
    exact ⟨heq, (congrArg (aget · w.c) (State.appendRec_ctxs ht)).trans (s.ctx_setCtx w.c _)⟩
  case ended =>
    intro s w x cause val hx ht
    have heq := raise_eq cause val hx
    rwa [ht] at heq
  case stored =>
    intro s d p t pa hb hf hw hd hx
    exact (appendRec_of_free hb hf hw hd).trans (storeRec_of_ok hb hx)
  case untranslated =>
    intro s d p t e hb hf hw hd hx
    exact (appendRec_of_free hb hf hw hd).trans (storeRec_of_error hb hx)
  case next =>
    intro x r cause t dest hl hd
    have hpc : (x.role r).stop.pc = (x.role r).pc := rfl
    rw [resume_entered x r cause t true hl, if_pos rfl]
    refine ⟨?_, ?_, ?_, ?_⟩
    · rw [Ctx.role_setRole]
      simp only [RoleSt.skip, hpc, hd, Option.getD_some]
    · cases r <;> exact unreserve_toks x
    · cases r <;> rfl
    · rw [Ctx.role_setRole]
      rfl

end Sys2Proof.Proofs
end

section
/-! SUPPORT and the settled obligation O36: a write of TAIL or PUBL that R375 takes and one that it ignores, and the hand-over of a
queue's leader. -/

namespace Sys2Proof.Machine

variable {s : State} {q : Nat} {t : W32}

/-! ## TAIL and PUBL, as a host writes them (R375) -/

theorem writeTail_of_room (hs : (s.queue q).sts = 1) (ho : s.queuesOff = false) (hr : (s.queue q).ahead t ≤ (s.queue q).room)
    (hp : ∀ i ∈ (List.range ((s.queue q).ahead t)).map (fun i => ((s.queue q).tail.toNat + i) % 2 ^ 32), i ∉ (s.queue q).published) :
    s.writeTail q t none = s.modQueue q
      (fun k => LQueue.advance { k with tail := t, appenders := k.appenders ++ [] } k.published.length) := by
  have hany : ((List.range ((s.queue q).ahead t)).map (fun i => ((s.queue q).tail.toNat + i) % 2 ^ 32)).any
      (s.queue q).published.contains = false := by
    rw [List.any_eq_false]
    intro i hi
    simpa using hp i hi
  simp only [State.writeTail, appended]
  rw [if_neg]
  rw [hany]
  simp only [hs, ho, ne_eq, not_true_eq_false, Bool.false_eq_true, false_or, or_false]
  omega

theorem writeTail_of_refused (h : (s.queue q).sts ≠ 1 ∨ (s.queue q).room < (s.queue q).ahead t) :
    s.writeTail q t none = s.modQueue q (fun k => { k with err := true }) := by
  simp only [State.writeTail]
  rw [if_pos]
  rcases h with hs | hr
  · exact .inl hs
  · exact .inr (.inr (.inl hr))

theorem publIndex_of_room (hs : (s.queue q).sts = 1) (ho : s.queuesOff = false) (hr : (s.queue q).ahead t < (s.queue q).room)
    (hp : t.toNat ∉ (s.queue q).published) :
    s.publIndex q t none = s.modQueue q (fun k => LQueue.advance
      { k with published := k.published ++ [t.toNat], appenders := k.appenders ++ [] } (k.published.length + 1)) := by
  have hc : (s.queue q).published.contains t.toNat = false := by simpa using hp
  simp only [State.publIndex, appended]
  rw [if_neg]
  simp only [hs, ho, hc, ne_eq, not_true_eq_false, Bool.false_eq_true, false_or, or_false]
  omega

theorem publIndex_of_refused (h : (s.queue q).sts ≠ 1 ∨ (s.queue q).room ≤ (s.queue q).ahead t) :
    s.publIndex q t none = s.modQueue q (fun k => { k with err := true }) := by
  simp only [State.publIndex]
  rw [if_pos]
  rcases h with hs | hr
  · exact .inl hs
  · exact .inr (.inr (.inl hr))

/-! ## The rows of the agenda (R375, R382, R437) -/

theorem exec_tailWrite (h : s.reaches s.inp.e s.inp.q = true) :
    exec .tailWrite s = .next (s.writeTail s.inp.q (s.inp.v.setWidth 32) none) := by
  change execTailWrite s = _
  rw [execTailWrite, if_pos h]

theorem exec_publ (h : s.reaches s.inp.e s.inp.q = true) :
    exec .publ s = .next (s.publIndex s.inp.q (s.inp.v.setWidth 32) none) := by
  change execPubl s = _
  rw [execPubl, if_pos h]

theorem exec_claim (h : s.reaches s.inp.e s.inp.q = true) :
    exec .claim s = .next (s.modQueue s.inp.q (fun k => { k with claim := k.claim + s.inp.v.setWidth 32 })) := by
  change execClaim s = _
  rw [execClaim, if_pos h]
  rfl

/-- What a virtual function writes outside its partition's queues is dropped. -/
theorem exec_tailWrite_dropped (h : s.reaches s.inp.e s.inp.q = false) : exec .tailWrite s = .next s := by
  change execTailWrite s = _
  simp [execTailWrite, h]

theorem exec_publ_dropped (h : s.reaches s.inp.e s.inp.q = false) : exec .publ s = .next s := by
  change execPubl s = _
  simp [execPubl, h]

theorem exec_claim_dropped (h : s.reaches s.inp.e s.inp.q = false) : exec .claim s = .next s := by
  change execClaim s = _
  simp [execClaim, h]

theorem exec_leaderHandOver {d : Nat} (hl : (s.queue s.inp.q).leader = some d)
    (hs : (s.queue s.inp.q).sts = 1 ∨ (s.queue s.inp.q).sts = 3) (hd : s.qualifies (s.queue s.inp.q) d = false) :
    exec .leaderHandOver s = .next (s.handOver (s.queue s.inp.q)) := by
  change execLeaderHandOver s = _
  simp [execLeaderHandOver, hl, hs, hd]

end Sys2Proof.Machine

namespace Sys2Proof.Proofs

open Sys2Proof.Machine

/-- Settles O36: each clause is one branch of a write to a queue's registers or of the leader's check. -/
theorem launchQueues : Obligations.LaunchQueues := by
  unfold Obligations.LaunchQueues
  refine ⟨fun _ _ => rfl, fun _ _ => rfl, ?tail, ?tailErr, ?publ, ?publErr, fun s => exec_tailWrite_dropped,
    fun s => exec_publ_dropped, fun s => exec_claim_dropped, fun s => exec_claim, ?leader⟩
  case tail =>
    rintro k t l s ⟨hreach, rfl, rfl, hs, ho, hr, rfl, hp⟩
    rw [exec_tailWrite hreach, writeTail_of_room hs ho hr hp]
  case tailErr =>
    rintro k t s ⟨hreach, rfl, rfl, h⟩
    rw [exec_tailWrite hreach, writeTail_of_refused h]
  case publ =>
    rintro k t s ⟨hreach, rfl, rfl, hs, ho, hr, hp⟩
    rw [exec_publ hreach, publIndex_of_room hs ho hr hp]
  case publErr =>
    rintro k t s ⟨hreach, rfl, rfl, h⟩
    rw [exec_publ hreach, publIndex_of_refused h]
  case leader =>
    rintro q d s ⟨rfl, hl, hs, hd⟩
    exact exec_leaderHandOver hl hs hd

end Sys2Proof.Proofs
end

section
/-! SUPPORT and the settled obligation O35: CKPT, and the rows of the checkpoint engine, one lemma for each way out of a row. -/

namespace Sys2Proof.Machine

section

variable {s s1 s2 : State} {r : Ckpt} {k : Kernel} {va pa o : Nat} {rest : List (Nat × Nat)}

/-! ## CKPT (R367, R413) -/

theorem ckpt_completes (v : WordX) (d : List Byte) (k : Kernel) (r : Ckpt) (pa : Nat) : Completes (.ckpt v) (frameP v)
    (fun w x s => s.xlate x.part (readSrc w x v.b 0).toNat false = .ok pa ∧ s.readV x.part (readSrc w x v.b 0).toNat 320 = some d ∧
      descOk d = true ∧ s.ckLeaf x.part (readSrc w x v.a 0).toNat = some k ∧ r = requestOf k (s.ckOf k.id) d)
    (fun w _ s => (({ (s.setCk { s.ckOf k.id with count := r.no }).ckProgress r 1 0 0 with
      ck := { ((s.setCk { s.ckOf k.id with count := r.no }).ckProgress r 1 0 0).ck with
        reqs := ((s.setCk { s.ckOf k.id with count := r.no }).ckProgress r 1 0 0).ck.reqs ++ [r] } } : State).holdCkpt k).setS w v.d.toNat
      (BitVec.ofNat 64 r.no)) := by
  refine .of_done (fun _ => rfl) ?_
  rintro w x s ⟨hpa, hd, hok, hk, rfl⟩
  simp only [effCkpt, hpa, hd, hok, hk, Bool.not_true, Bool.false_eq_true, if_false]

theorem ckpt_raises_range (v : WordX) : Raises (.ckpt v) (frameP v)
    (fun w x s => ∃ pa d, s.xlate x.part (readSrc w x v.b 0).toNat false = .ok pa ∧
      s.readV x.part (readSrc w x v.b 0).toNat 320 = some d ∧ descOk d = false) cRange (fun w x _ => readSrc w x v.b 0) := by
  refine .of_fault (fun _ => rfl) ?_
  rintro w x s ⟨pa, d, hpa, hd, hok⟩
  simp only [effCkpt, hpa, hd, hok, Bool.not_false, if_true]

theorem ckpt_raises_target (v : WordX) : Raises (.ckpt v) (frameP v)
    (fun w x s => ∃ pa d, s.xlate x.part (readSrc w x v.b 0).toNat false = .ok pa ∧
      s.readV x.part (readSrc w x v.b 0).toNat 320 = some d ∧ descOk d = true ∧
      s.ckLeaf x.part (readSrc w x v.a 0).toNat = none) cTarget (fun w x _ => readSrc w x v.a 0) := by
  refine .of_fault (fun _ => rfl) ?_
  rintro w x s ⟨pa, d, hpa, hd, hok, hk⟩
  simp only [effCkpt, hpa, hd, hok, hk, Bool.not_true, Bool.false_eq_true, if_false]

/-! ## The copy of a page (R414, R415, R417) -/

theorem execCheckpointPageCopy_copies (hr : s.reqOf s.inp.k .copying = some r) (ht : r.todo = (va, pa) :: rest)
    (ho : o = r.onext + ckLen r.pdone) (hlen : o + 65552 ≤ r.dlen) (hf : s.inp.flag = false)
    (h1 : s.ckWrite r (r.dadr + o) (bytesN va 8 ++ bytesOf (crc32c (s.snapshot pa)) 4 ++ bytesN 0 4) = some s1)
    (h2 : s1.ckWrite r (r.dadr + o + 16) (s.snapshot pa) = some s2) :
    execCheckpointPageCopy s =
      .next ((s2.modReq r (fun e => { e with todo := rest, pdone := e.pdone + 1 })).unprotect [pa]) := by
  subst ho
  simp only [execCheckpointPageCopy, hr, ht, if_neg (Nat.not_lt.mpr hlen), hf, Bool.false_eq_true, if_false, h1, h2]

theorem execCheckpointPageCopy_overruns (hr : s.reqOf s.inp.k .copying = some r) (ht : r.todo = (va, pa) :: rest)
    (hlen : r.dlen < r.onext + ckLen r.pdone + 65552) : execCheckpointPageCopy s = .next (s.failCk r 1) := by
  simp only [execCheckpointPageCopy, hr, ht, if_pos hlen]

theorem execCheckpointPageCopy_refused (hr : s.reqOf s.inp.k .copying = some r) (ht : r.todo = (va, pa) :: rest)
    (hlen : r.onext + ckLen r.pdone + 65552 ≤ r.dlen) (hf : s.inp.flag = true) :
    execCheckpointPageCopy s = .next (s.failCk r 2) := by
  simp only [execCheckpointPageCopy, hr, ht, if_neg (Nat.not_lt.mpr hlen), hf, if_true]

/-! ## Completion (R415, R416, R417) -/

theorem execCheckpointComplete_overruns (hr : s.reqOf s.inp.k .copying = some r) (ht : r.todo = []) (hp : s.ckPending r = false)
    (hlen : r.dlen < r.onext + 64) : execCheckpointComplete s = .next (s.failCk r 1) := by
  simp only [execCheckpointComplete, hr, ht, hp, List.isEmpty_nil, Bool.not_true, Bool.false_eq_true, or_self, if_false, if_pos hlen]

/-- What the header of a checkpoint leads to, once its pages are copied and their writes answered. -/
theorem execCheckpointComplete_heads (hr : s.reqOf s.inp.k .copying = some r) (ht : r.todo = []) (hp : s.ckPending r = false)
    (hlen : r.onext + 64 ≤ r.dlen) (hh : r.headed = false) (hw : s.ckWrite r (r.dadr + r.onext) r.header = some s1) :
    execCheckpointComplete s = .next ((s1.modReq r (fun e => { e with headed := true })).ckDone { r with headed := true }) := by
  simp only [execCheckpointComplete, hr, ht, hp, List.isEmpty_nil, Bool.not_true, Bool.false_eq_true, or_self, if_false,
    if_neg (Nat.not_lt.mpr hlen), hh, Bool.not_false, if_true, hw]

theorem execCheckpointComplete_refused (hr : s.reqOf s.inp.k .copying = some r) (ht : r.todo = []) (hp : s.ckPending r = false)
    (hlen : r.onext + 64 ≤ r.dlen) (hh : r.headed = false) (hw : s.ckWrite r (r.dadr + r.onext) r.header = none) :
    execCheckpointComplete s = .next (s.failCk r 2) := by
  simp only [execCheckpointComplete, hr, ht, hp, List.isEmpty_nil, Bool.not_true, Bool.false_eq_true, or_self, if_false,
    if_neg (Nat.not_lt.mpr hlen), hh, Bool.not_false, if_true, hw]

theorem execCheckpointComplete_ends (hr : s.reqOf s.inp.k .copying = some r) (ht : r.todo = []) (hp : s.ckPending r = false)
    (hlen : r.onext + 64 ≤ r.dlen) (hh : r.headed = true) : execCheckpointComplete s = .next (s.ckDone r) := by
  simp only [execCheckpointComplete, hr, ht, hp, List.isEmpty_nil, Bool.not_true, Bool.false_eq_true, or_self, if_false,
    if_neg (Nat.not_lt.mpr hlen), hh]

theorem ckDone_of_answered (hp : s.ckPending r = false) :
    s.ckDone r = ((s.dropReq r).setCk { s.ckOf r.kernel with onext := r.after }).ckProgress r 3 0 s.refTime := by
  simp only [State.ckDone, hp, Bool.false_eq_true, if_false]

/-! ## The freeze (R414) and a failure (R417) -/

theorem execBitmapFreeze_eq (hk : s.kernel s.inp.k = some k) (hr : s.reqOf s.inp.k .waiting = some r)
    (hfull : s.phaseFull k = true) (hdue : s.freezeDue k.id = true) :
    execBitmapFreeze s =
      let c := s.ckOf k.id
      let pages := s.ckPages r
      let snap := if c.nextFull then pages else pages.filter (fun p => s.ck.dirty.contains p.2)
      let r1 := { r with state := .copying, full := c.nextFull, base := if c.nextFull then r.no else c.base, onext := c.onext,
                         tfreeze := s.refTime, phn := k.phn + 1, todo := snap, pages := snap.length }
      let s1 := (s.modReq r (fun _ => r1)).setCk { c with base := r1.base, nextFull := false }
      .next ((({ s1 with ck := { s1.ck with
          dirty := s1.ck.dirty.filter (fun d => !pages.any (fun p => p.2 == d))
          prot := s1.ck.prot ++ snap.map Prod.snd } } : State).takeCkpt k).ckProgress r1 2 0 0) := by
  simp only [execBitmapFreeze, hk, hr, hfull, hdue, Bool.not_true, Bool.false_eq_true, or_self, if_false]

theorem execCheckpointFailure_records (hr : s.reqOf s.inp.k .failed = some r) :
    execCheckpointFailure s = .next (s.ckFailed r) := by
  simp only [execCheckpointFailure, hr]

theorem execCheckpointFailure_refused (hn : s.reqOf s.inp.k .failed = none) (hr : s.reqOf s.inp.k .copying = some r)
    (hf : s.inp.flag = true) : execCheckpointFailure s = .next (s.failCk r 2) := by
  simp only [execCheckpointFailure, hn, hr, hf, if_true]

/-- A kernel that is gone has ended before the freeze of its checkpoint. -/
theorem execCheckpointFailure_gone (hn : s.reqOf s.inp.k .failed = none) (hc : s.reqOf s.inp.k .copying = none)
    (hr : s.reqOf s.inp.k .waiting = some r) (hk : s.kernel s.inp.k = none) :
    execCheckpointFailure s = .next (s.failCk r 3) := by
  simp only [execCheckpointFailure, hn, hc, hr, hk, if_true]

end

end Sys2Proof.Machine

namespace Sys2Proof.Proofs

open Sys2Proof.Machine

/-- Settles O35: each clause is one way out of CKPT or of a row of the checkpoint engine. -/
theorem checkpoints : Obligations.Checkpoints := by
  unfold Obligations.Checkpoints
  refine ⟨ckpt_completes, ?freeze, ?copy, fun _ _ => rfl, ?header, ?record, ?pageOverrun, ?pageRefused, ?headerOverrun, ?headerRefused,
    ckpt_raises_range, ckpt_raises_target, ?recordFailed, ?failed, ?gone⟩
  case freeze =>
    rintro k r c pages snap r1 s ⟨hk, hr, hfull, hdue, rfl, rfl, rfl, rfl⟩
    exact execBitmapFreeze_eq hk hr hfull hdue
  case copy =>
    exact fun r va pa rest o s1 s2 s ⟨hr, ht, ho, hlen, hf, h1, h2⟩ => execCheckpointPageCopy_copies hr ht ho hlen hf h1 h2
  case header => exact fun r s1 s ⟨hr, ht, hp, hlen, hh, hw⟩ => execCheckpointComplete_heads hr ht hp hlen hh hw
  case record =>
    intro r s ⟨hr, ht, hp, hlen, hh⟩
    exact (execCheckpointComplete_ends hr ht hp hlen hh).trans (congrArg _ (ckDone_of_answered hp))
  case pageOverrun => exact fun r va pa rest s ⟨hr, ht, hlen⟩ => execCheckpointPageCopy_overruns hr ht hlen
  case pageRefused => exact fun r va pa rest s ⟨hr, ht, hlen, hf⟩ => execCheckpointPageCopy_refused hr ht hlen hf
  case headerOverrun => exact fun r s ⟨hr, ht, hp, hlen⟩ => execCheckpointComplete_overruns hr ht hp hlen
  case headerRefused => exact fun r s ⟨hr, ht, hp, hlen, hh, hw⟩ => execCheckpointComplete_refused hr ht hp hlen hh hw
  case recordFailed => exact fun r s hr => execCheckpointFailure_records hr
  case failed => exact fun r s ⟨hn, hr, hf⟩ => execCheckpointFailure_refused hn hr hf
  case gone => exact fun r s ⟨hn, hc, hr, hk⟩ => execCheckpointFailure_gone hn hc hr hk

end Sys2Proof.Proofs
end

section
/-! SUPPORT and the settled obligation O42: the power rows whose effect has a condition, and a write of the power table field by
field. -/

namespace Sys2Proof.Machine

section

variable {s : State}

/-! ## Ballast (R429, R430) -/

theorem execLimiterWindow_eq {u : State} {g : Nat} {need : Bool} (hu : u = s.rollAll) (hg : g = groupOf (dieOf u.inp.cid))
    (hneed : need = (u.needsBallast g && decide ((u.group g).gcap < (u.group g).pavg.toNat))) :
    execLimiterWindow s =
      .next (if need ∧ (u.group g).bal = false then
          (u.modGroupP g (fun p => { p with bal := true, balFrom := u.cycles })).publish
        else if (u.group g).bal ∧ need = false then (u.modGroupP g (fun p => p.endBal u.inp.v)).publish else u) := by
  subst hu hg hneed
  simp only [execLimiterWindow, Bool.not_eq_true']

/-- Ballast above the cap has lasted its 20 µs. -/
theorem execBallastLimitExpiry_due (hb : (s.group s.inp.g).bal = true)
    (hc : (s.group s.inp.g).balFrom + ballastCycles ≤ s.cycles) :
    execBallastLimitExpiry s =
      if s.inp.flag then .next (s.free.2.govern s.inp.g (fun p => { p.endBal s.free.1 with balStopped := true }))
      else .next (s.govern s.inp.g (fun p => { p.endBal s.inp.v with balStopped := true })) := by
  simp only [execBallastLimitExpiry]
  rw [if_neg]
  simp only [hb, Bool.not_true, Bool.false_eq_true, false_or]
  omega

theorem execBallastLimitExpiry_early
    (h : (s.group s.inp.g).bal = false ∨ s.cycles < (s.group s.inp.g).balFrom + ballastCycles) :
    execBallastLimitExpiry s = .next s := by
  simp only [execBallastLimitExpiry]
  rw [if_pos]
  simpa using h

/-! ## Droop and firmware's cadence (R431, R432) -/

theorem execDroopRecovery_falls (h : (s.group s.inp.g).droop = true) :
    execDroopRecovery s = .next (s.govern s.inp.g
      (fun p => p.fall (if p.droopHeld then Nat.max p.drpcad (p.base false) else p.droopCad - 1))) := by
  simp only [execDroopRecovery, h, Bool.not_true, Bool.false_eq_true, if_false]

/-- The limits of a cadence that firmware may ask of the group that the row names. -/
def State.cadenceOk (s : State) : Prop :=
  1 ≤ s.inp.v.toNat ∧ s.inp.v.toNat ≤ 63 ∧ ∀ e ∈ s.cores, groupOf (dieOf e.1) = s.inp.g → e.2.fmin ≤ s.inp.v.toNat

/-- They are what the row checks. -/
theorem State.cadenceOk_iff : s.cadenceOk ↔ (decide (1 ≤ s.inp.v.toNat) && decide (s.inp.v.toNat ≤ 63) &&
    s.cores.all (fun (cid, k) => groupOf (dieOf cid) != s.inp.g || decide (k.fmin ≤ s.inp.v.toNat))) = true := by
  simp only [State.cadenceOk, Bool.and_eq_true, decide_eq_true_eq, List.all_eq_true, Bool.or_eq_true, bne_iff_ne, and_assoc]
  refine and_congr_right fun _ => and_congr_right fun _ => forall_congr' fun e => forall_congr' fun _ => ?_
  exact Decidable.imp_iff_not_or

theorem execCadreqUpdate_takes (h : s.cadenceOk) :
    execCadreqUpdate s = .next (s.govern s.inp.g (fun p => { p with
      cadreq := s.inp.v.toNat, tjp := s.inp.v1.setWidth 16
      debt := if p.debt.toNat ≤ s.inp.v2.toNat then 0 else p.debt - s.inp.v2 })) := by
  have hok := State.cadenceOk_iff.mp h
  simp only [execCadreqUpdate, hok, if_true]

theorem execCadreqUpdate_keeps (h : ¬ s.cadenceOk) :
    execCadreqUpdate s = .next (s.govern s.inp.g (fun p => { p with
      tjp := s.inp.v1.setWidth 16
      debt := if p.debt.toNat ≤ s.inp.v2.toNat then 0 else p.debt - s.inp.v2 })) := by
  have hok := Bool.eq_false_iff.mpr (mt State.cadenceOk_iff.mpr h)
  simp only [execCadreqUpdate, hok, Bool.false_eq_true, if_false]

theorem not_cadenceOk (h : s.inp.v.toNat = 0 ∨ 63 < s.inp.v.toNat ∨
    ∃ e ∈ s.cores, groupOf (dieOf e.1) = s.inp.g ∧ s.inp.v.toNat < e.2.fmin) : ¬ s.cadenceOk := by
  rintro ⟨hlow, hhigh, hall⟩
  rcases h with h0 | h63 | ⟨e, he, hg, hlt⟩
  · omega
  · omega
  · exact absurd (hall e he hg) (Nat.not_le.mpr hlt)

/-! ## The power table (R424) -/

theorem execPowerTableWrite_writes (hp : s.info.published = true) (hn : s.inp.data.length = 4 ∨ s.inp.data.length = 8)
    (ha : s.inp.addr % s.inp.data.length = 0) :
    execPowerTableWrite s = .next (State.publish { s.rollAll with power := s.writePower s.inp.addr s.inp.data }) :=
  if_pos ⟨hp, hn, ha⟩

theorem execPowerTableWrite_drops (h : s.info.published = false ∨ (s.inp.data.length ≠ 4 ∧ s.inp.data.length ≠ 8) ∨
    s.inp.addr % s.inp.data.length ≠ 0) : execPowerTableWrite s = .next s := by
  refine if_neg ?_
  rintro ⟨hp, hn, ha⟩
  rcases h with hp' | ⟨h4, h8⟩ | ha'
  · exact absurd hp (Bool.eq_false_iff.mp hp')
  · exact hn.elim h4 h8
  · exact ha' ha

/-- Each rank of a start order is used. -/
theorem isOrder_iff (l : List Nat) : isOrder l = true ↔ ∀ r < 16, r ∈ l := by
  simp [isOrder, List.all_eq_true]

theorem within_zero (hi new old : Nat) : within 0 hi new old = if new ≤ hi then new else old := by
  simp [within]

end

end Sys2Proof.Machine

namespace Sys2Proof.Proofs

open Sys2Proof.Machine

/-- Settles O42: most rows are one change of their group; the others are the cases of their conditions. -/
theorem powerEvents : Obligations.PowerEvents := by
  unfold Obligations.PowerEvents
  refine ⟨?thaw, fun _ _ _ => rfl, ?limiter, fun _ _ => rfl, ?expiry, ?expiryFree, ?early, fun _ _ => rfl, ?recovery,
    fun _ _ => rfl, fun _ _ => rfl, fun _ _ => rfl, fun _ _ => rfl, fun _ _ => rfl, fun _ _ => rfl, ?cadence, ?cadenceKept,
    ?table, ?tableDropped, ?fields⟩
  case thaw =>
    intro s h
    exact congrArg Host.Outcome.next (if_pos h)
  case limiter => exact fun u g need s ⟨hu, hg, hneed⟩ => execLimiterWindow_eq hu hg hneed
  case expiry =>
    rintro s ⟨hf, hb, hc⟩
    refine (execBallastLimitExpiry_due hb hc).trans ?_
    simp only [hf, Bool.false_eq_true, if_false]
  case expiryFree =>
    rintro s ⟨hf, hb, hc⟩
    exact (execBallastLimitExpiry_due hb hc).trans (if_pos hf)
  case early => exact fun s h => execBallastLimitExpiry_early h
  case recovery => exact fun s h => execDroopRecovery_falls h
  case cadence => exact fun s h => execCadreqUpdate_takes h
  case cadenceKept => exact fun s h => execCadreqUpdate_keeps (not_cadenceOk h)
  case table => exact fun s ⟨hp, hn, ha⟩ => execPowerTableWrite_writes hp hn ha
  case tableDropped => exact fun s h => execPowerTableWrite_drops h
  case fields =>
    rintro s addr data m p rfl rfl
    refine ⟨rfl, rfl, within_zero _ _ _, rfl, ?_, rfl, rfl, rfl, within_zero _ _ _, fun g => ?_⟩
    · simp only [State.writePower, ← isOrder_iff]
    · simp [State.writePower, within]

end Sys2Proof.Proofs
end

section
/-! SUPPORT and the settled obligation O41: the rows of failed units, one lemma for each occasion that a row has. -/

namespace Sys2Proof.Machine

section

variable {s u t : State} {m : Nat}

/-! ## Residue and memory errors (R404, R405) -/

theorem execResidueMismatch_eq {s0 : State} (hn : s.host.nores = false) (hr : (s.core s.inp.cid).retired = false)
    (hl : (s.die (dieOf s.inp.cid)).live = true)
    (h0 : s0 = if s.inp.e = 1 then s.modCtx ⟨s.inp.cid, s.inp.c.num⟩ (fun x => { x with acmds := abandonRows x.acmds }) else s) :
    execResidueMismatch s =
      .next (if s.inp.flag then (s0.post (dieOf s.inp.cid) 3 (s.inp.cid % 128) 0).retireCore s.inp.cid
        else s0.post (dieOf s.inp.cid) 2 (s.inp.cid % 128) 0) := by
  have hinp : s0.inp.flag = s.inp.flag := by
    subst h0
    split <;> simp
  subst h0
  simp only [execResidueMismatch, hn, hr, hl, Bool.false_eq_true, Bool.not_true, or_self, if_false, hinp]
  exact (apply_ite _ _ _ _).symm

theorem execUncorrectableMemoryError_marks (hf : s.inp.flag = false) :
    execUncorrectableMemoryError s = .next (s.poisonAt s.inp.site) := by
  simp only [execUncorrectableMemoryError, hf, Bool.false_eq_true, if_false]

theorem execUncorrectableMemoryError_raises {x : Ctx} (hf : s.inp.flag = true) (hx : s.ctx s.inp.c = some x)
    (hcan : s.canIssue ⟨s.inp.c, s.inp.r⟩ = true) (hrest : (x.role s.inp.r).rest = none) :
    execUncorrectableMemoryError s = .next (s.raise ⟨s.inp.c, s.inp.r⟩ cMemory 0) := by
  simp only [execUncorrectableMemoryError, hf, hx, hcan, hrest, Option.isNone_none, and_self, if_true]

/-! ## Scrubbing (R405, R406) -/

/-- The scrubber posts for a word that is marked. -/
theorem execScrub_posts (hn : s.host.noscrb = false) (hbad : s.isBad s.inp.site = true) :
    execScrub s = .next (s.scrubAt s.inp.site) := by
  simp only [execScrub, hn, hbad, Bool.not_false, and_self, if_true]

theorem execScrub_off (hn : s.host.noscrb = true) : execScrub s = .next s := by
  simp only [execScrub, hn, Bool.not_true, Bool.false_eq_true, false_and, if_false]

/-! ## Schedulers and stacks (R408, R410) -/

theorem execSchedulerDivergence_drains (hl : (s.die s.inp.die).live = true) (hd : (s.die s.inp.die).drained = false) :
    execSchedulerDivergence s =
      .next ((s.modDie s.inp.die (fun k => { k with drained := true })).post s.inp.die 11 s.inp.die 0) := by
  simp only [execSchedulerDivergence, hl, hd, Bool.not_false, and_self, if_true]

theorem failStack_of_live (hl : m ∈ s.liveStacks) (hf : m ∉ s.failedStacks)
    (hu : u = ({ s with failedStacks := s.failedStacks ++ [m] } : State).forcePass (stackStation m)) :
    s.failStack m = (State.post { u with info := { u.info with
      livem := u.info.livem &&& ~~~(1#64 <<< m), offs := u.info.offs.filter (fun o => o.region != 64 + m) } } m 9 m 0).publish := by
  subst hu
  have hno : ¬ ((!s.liveStacks.contains m) = true ∨ s.failedStacks.contains m = true) := by
    simpa using ⟨hl, hf⟩
  simp only [State.failStack, if_neg hno]

/-! ## Clocks (R10, R21, R408) -/

theorem execClockLoss_die (hr : s.inp.region < 64) : execClockLoss s = .next (s.loseDie s.inp.region) := by
  simp only [execClockLoss, if_pos hr]

theorem execClockLoss_stack (hm : m < 64) (hr : s.inp.region = 64 + m) (hl : m ∈ s.liveStacks) (hf : m ∉ s.failedStacks) :
    execClockLoss s = .next ((s.post m 12 (64 + m) 0).failStack m) := by
  have hlow : ¬ 64 + m < 64 := by omega
  have hhigh : 64 + m < 128 := by omega
  have hyes : s.liveStacks.contains m = true ∧ (!s.failedStacks.contains m) = true := by
    simpa using ⟨hl, hf⟩
  simp only [execClockLoss, hr, if_neg hlow, if_pos hhigh, Nat.add_sub_cancel_left, if_pos hyes]

theorem execClockLoss_west (hr : s.inp.region = 128) (hl : s.host.lost0 = false)
    (ht : t = { ((s.post 0 12 128 0).loseLink 0) with host := { ((s.post 0 12 128 0).loseLink 0).host with lost0 := true } }) :
    execClockLoss s = .next ((if s.host.lost1 then t else t.moveReference).setOffsets s.inp.offs).publish := by
  subst ht
  simp only [execClockLoss, hr, hl, Nat.reduceLT, if_false, Bool.false_eq_true, if_true]

theorem execClockLoss_east (hr : s.inp.region = 129) (hl : s.host.lost1 = false)
    (ht : t = { ((s.post 0 12 129 0).loseLink 1) with host := { ((s.post 0 12 129 0).loseLink 1).host with lost1 := true } }) :
    execClockLoss s = .next (State.publish { t with info := { t.info with
      offs := if t.info.refe then t.info.offs else t.info.offs.filter (fun o => o.region != 129) } }) := by
  subst ht
  simp only [execClockLoss, hr, hl, Nat.reduceLT, Nat.reduceEqDiff, if_false, Bool.false_eq_true, if_true]

/-! ## TIME (R16, R24) -/

theorem execTimeSlew_slews {r : Nat} {o : Int} (hr : r = s.inp.region)
    (ho : o = if s.inp.flag then (s.region r).ofs - 1 else (s.region r).ofs + 1) (hcal : s.info.cal = true) (hlow : r < 128)
    (hlive : s.regionLive r = true) (hok : s.slewOk r o = true) (hat : (s.region r).slewAt + 1024 ≤ s.time2)
    (hodd : s.inp.flag = true → s.regionTime r % 2 = 1) :
    execTimeSlew s = .next { s with regions := aset s.regions r ⟨o, s.time2⟩ } := by
  subst hr ho
  exact if_pos ⟨hcal, hlow, hlive, hok, hat, hodd⟩

/-- A slew keeps TIME within 6 ns of the reference and within each published bound. -/
theorem slewOk_bounds {r : Nat} {o : Int} (h : s.slewOk r o = true) :
    o.natAbs ≤ 12 ∧ ∀ e ∈ s.info.offs, e.region = r → (4 * o - e.ofs).natAbs ≤ e.unc.toNat := by
  simp only [State.slewOk, Bool.and_eq_true, decide_eq_true_eq, List.all_eq_true, Bool.or_eq_true, bne_iff_ne, offsetHolds] at h
  obtain ⟨hsix, hall⟩ := h
  exact ⟨hsix, fun e he hr => (hall e he).resolve_left (fun hne => hne hr)⟩

end

end Sys2Proof.Machine

namespace Sys2Proof.Proofs

open Sys2Proof.Machine

/-- Settles O41: each clause is one occasion of its row; the scrubber's are the kinds of word that it may find marked. -/
theorem failures : Obligations.Failures := by
  unfold Obligations.Failures
  refine ⟨?residue, ?marks, ?raises, ?scrubG, ?scrubBuffer, ?scrubCore, ?scrubDie, ?scrubOff, ?diverges, fun _ _ => rfl, fun _ _ => rfl,
    ?stack, ?clockDie, ?clockStack, ?clockWest, ?clockEast, ?slew, fun s r o => slewOk_bounds, ?offsets⟩
  case residue =>
    rintro s0 s ⟨hn, hr, hl, h0⟩
    exact execResidueMismatch_eq hn hr hl h0
  case marks => exact fun s hf => execUncorrectableMemoryError_marks hf
  case raises => exact fun x s ⟨hf, hx, hcan, hrest⟩ => execUncorrectableMemoryError_raises hf hx hcan hrest
  case scrubG =>
    rintro pa s ⟨hn, hsite, hbad⟩
    have hb : s.isBad s.inp.site = true := by rw [hsite]; exact hbad
    refine (execScrub_posts hn hb).trans ?_
    rw [hsite]
    rfl
  case scrubBuffer =>
    rintro c o b s ⟨hn, hmem, hsite⟩
    have hb : s.isBad s.inp.site = true := by
      rcases hsite with ⟨rfl, hsite⟩ | ⟨rfl, hsite⟩ | ⟨rfl, hsite⟩ <;> rw [hsite] <;> exact List.contains_iff_mem.mpr hmem
    refine (execScrub_posts hn hb).trans ?_
    rcases hsite with ⟨-, hsite⟩ | ⟨-, hsite⟩ | ⟨-, hsite⟩ <;> rw [hsite] <;> rfl
  case scrubCore =>
    rintro cid s ⟨hn, hb, hsite⟩
    refine (execScrub_posts hn hb).trans ?_
    rcases hsite with ⟨pa, hsite⟩ | ⟨c, rfl, ⟨q, i, hsite⟩ | hsite | ⟨n, o, hsite⟩⟩ <;> rw [hsite] <;> rfl
  case scrubDie =>
    rintro d s ⟨hn, hb, hsite⟩
    refine (execScrub_posts hn hb).trans ?_
    rcases hsite with ⟨n, t, k, hsite, rfl⟩ | ⟨k, o, hsite⟩ <;> rw [hsite] <;> rfl
  case scrubOff => exact fun s hn => execScrub_off hn
  case diverges => exact fun s ⟨hl, hd⟩ => execSchedulerDivergence_drains hl hd
  case stack =>
    rintro m u s ⟨rfl, hl, hf, hu⟩
    exact congrArg Host.Outcome.next (failStack_of_live hl hf hu)
  case clockDie => exact fun s hr => execClockLoss_die hr
  case clockStack => exact fun m s ⟨hm, hr, hl, hf⟩ => execClockLoss_stack hm hr hl hf
  case clockWest => exact fun t s ⟨hr, hl, ht⟩ => execClockLoss_west hr hl ht
  case clockEast => exact fun t s ⟨hr, hl, ht⟩ => execClockLoss_east hr hl ht
  case slew =>
    exact fun r o s ⟨hr, ho, hcal, hlow, hlive, hok, hat, hodd⟩ => execTimeSlew_slews hr ho hcal hlow hlive hok hat hodd
  case offsets =>
    intro s h
    exact congrArg Host.Outcome.next (if_pos h)

end Sys2Proof.Proofs
end

section
/-! SUPPORT and the settled obligation O43: the rows of the host, one lemma for each outcome of a row, and a write of BAR0. -/

namespace Sys2Proof.Machine

section

variable {s : State}

/-! ## Partitions and standby (R399, R440) -/

theorem execPartitionDescriptorWrite_writes {p : Partition} (hpub : s.info.published = true) (hi : s.inp.part < 16)
    (hp : (s.part s.inp.part).withField s.inp.pf s.inp.v = some p) (hok : s.partOk s.inp.part p = true) :
    execPartitionDescriptorWrite s =
      .next (if p.valid = false then s.modPart s.inp.part (fun _ => p)
        else if (s.part s.inp.part).valid then (s.modPart s.inp.part (fun _ => p)).joinPart s.inp.part
          (((s.modPart s.inp.part (fun _ => p)).diesOf s.inp.part).filter (fun d => !(s.diesOf s.inp.part).contains d))
        else (s.modPart s.inp.part (fun _ => p)).openPart s.inp.part).publish := by
  simp only [execPartitionDescriptorWrite, hpub, Nat.not_le.mpr hi, Bool.not_true, Bool.false_eq_true, or_self, if_false, hp, hok,
    if_true, Bool.not_eq_true']
  cases (s.part s.inp.part).valid <;> rfl

theorem execStandbyRequest_accepted (hk : ∀ k ∈ s.kernels, k.state = .ended) (hb : s.host.stby = false) (hs : s.host.step = 6) :
    execStandbyRequest s = .next { s with
      queues := s.queues.map (fun q => { q with sts := 0, reg := false, leader := none, published := [], appenders := [] })
      ctxs := [], away := [], images := [], kernels := [], nodes := [], sett := [], dies := [], poisonS := [], ring := {}, ck := {}
      cores := s.cores.map (fun (c, k) => (c, { wlimmax := k.wlimmax, fmin := k.fmin }))
      fab := { s.fab with groups := [], seqs := [], pkts := [], stos := [] }
      host := { s.host with stby := true, stbya := true } } := by
  have hany : s.kernels.any (fun k => k.state != .ended) = false := by
    rw [List.any_eq_false]
    intro k hmem
    simp [hk k hmem]
  refine if_neg ?_
  simp [hany, hb, hs]

/-! ## Debug mode, the debug mailbox, boundary scan (R420, R440, R442) -/

theorem execDebugModeEnter_sets (h : s.host.dbgm = false) :
    execDebugModeEnter s = .next (State.post { s with host := { s.host with dbgm := true } } 0 15 0 0) :=
  if_neg (Bool.eq_false_iff.mp h)

theorem execDebugModeEnter_again (h : s.host.dbgm = true) :
    execDebugModeEnter s =
      .next (State.publish { s with host := { s.host with nores := bitAt s.inp.v 9, noscrb := bitAt s.inp.v 10 } }) :=
  if_pos h

/-- A command that meets BUSY is dropped; only a row that goes on with an SWR is not. -/
theorem State.mail_of_busy {op : Nat} (hb : bitAt s.host.dsts 0 = true) (hf : s.inp.flag = false) : s.mail op = s := by
  simp only [State.mail, hb, hf, if_true, Bool.false_eq_true, false_and, if_false]

theorem execBoundaryScan_inReset (h : s.host.inReset = true) :
    execBoundaryScan s = .next { s with host := { s.host with tap := s.inp.tap, tapOut := match s.inp.tap with
      | .bypass => 0
      | .idcode => idcode
      | .samplePreload => s.inp.v.setWidth 32
      | .extest => s.inp.v.setWidth 32 } } :=
  congrArg Host.Outcome.next (if_pos h)

/-! ## A host's stores and its writes of BAR0 (R414, R437, R439) -/

theorem execHostWrite_stores {t : State}
    (h : storePages none s.inp.part (pageParts s.inp.addr (s.inp.data.take 4096).length) s (s.inp.data.take 4096) = .ok t) :
    execHostWrite s = .next t := by
  simp only [execHostWrite, h]

theorem execSpecialRegisterWrite_bar (hf : s.inp.flag = true) :
    execSpecialRegisterWrite s = .next (s.barWrite s.inp.e s.inp.addr s.inp.data) :=
  congrArg Host.Outcome.next (if_pos hf)

theorem barOk_iff (fn o n : Nat) :
    s.barOk fn o n = true ↔ (n = 4 ∨ n = 8) ∧ o % n = 0 ∧ o + n ≤ barSize fn ∧ s.fnOn fn = true := by
  simp only [State.barOk, Bool.and_eq_true, Bool.or_eq_true, beq_iff_eq, decide_eq_true_eq, and_assoc]

theorem barWrite_of_not_ok {fn o : Nat} {l : List Byte} (h : s.barOk fn o l.length = false) : s.barWrite fn o l = s := by
  simp only [State.barWrite, h, Bool.not_false, if_true]

theorem barWrite_queue {fn o : Nat} {l : List Byte} (h : s.barOk fn o l.length = true) (hlow : 0x1000 ≤ o) (hhigh : o < 0x2000)
    (hr : s.reaches fn ((o - 0x1000) / 64) = true) :
    s.barWrite fn o l = s.writeQueueReg ((o - 0x1000) / 64) (o % 64) (BitVec.ofNat 32 (natOfBytes l)) none := by
  simp only [State.barWrite, h, Bool.not_true, Bool.false_eq_true, if_false, hlow, hhigh, and_self, if_true, hr]

/-- The host-window blocks lie in 2 KiB from 0x40000; an aligned access of the BAR is one of its block. -/
theorem barWrite_window {o : Nat} {l : List Byte} (h : s.barOk 0 o l.length = true) (hlow : 0x40000 ≤ o) (hhigh : o < 0x40800) :
    s.barWrite 0 o l = s.modWindow ((o - 0x40000) / 128) ((o - 0x40000) / 64 % 2) (fun h =>
      h.write ((o - 0x40000) % 64 / 8 * 8) (BitVec.ofNat 64 (natOfBytes l) <<< (8 * ((o - 0x40000) % 8)))
        (BitVec.ofNat 64 (2 ^ (8 * l.length) - 1) <<< (8 * ((o - 0x40000) % 8)))) := by
  obtain ⟨hn, halign, -, -⟩ := (barOk_iff 0 o l.length).mp h
  have hwin : o - 0x40000 < 2048 ∧ (l.length = 8 ∨ l.length = 4) ∧ (o - 0x40000) % l.length = 0 := by
    rcases hn with hn | hn <;> rw [hn] at halign ⊢ <;> omega
  have hqueue : ¬ (0x1000 ≤ o ∧ o < 0x2000) := by omega
  simp only [State.barWrite, h, Bool.not_true, Bool.false_eq_true, if_false, if_neg hqueue, hlow, hhigh, and_self, if_true,
    State.writeWin, if_pos hwin]

/-- The low byte of BSTS is the bring-up step (R438). -/
theorem bsts_step (s : State) : s.bsts % 256 = s.host.step % 256 := by
  simp only [State.bsts]
  omega

end

end Sys2Proof.Machine

namespace Sys2Proof.Proofs

open Sys2Proof.Machine

/-- Settles O43: most rows are their one effect; the others are the cases of what the row checks. -/
theorem hostEvents : Obligations.HostEvents := by
  unfold Obligations.HostEvents
  refine ⟨?partition, ?standby, fun s => execDebugModeEnter_sets, fun s => execDebugModeEnter_again, fun _ _ => rfl, fun _ _ => rfl,
    fun _ _ => rfl, fun _ _ => rfl, ?busy, fun _ _ => rfl, fun _ _ => rfl, fun _ _ => rfl, ?vf, fun _ _ => rfl, ?idcode, ?bypass,
    fun t s => execHostWrite_stores, ?window, ?queue, ?refused, fun s fn o n => barOk_iff fn o n, bsts_step, fun s => ⟨rfl, rfl⟩⟩
  case partition => exact fun p s ⟨hpub, hi, hp, hok⟩ => execPartitionDescriptorWrite_writes hpub hi hp hok
  case standby => exact fun s ⟨hk, hb, hs⟩ => execStandbyRequest_accepted hk hb hs
  case busy => exact fun s ⟨hb, hf⟩ => congrArg Host.Outcome.next (State.mail_of_busy hb hf)
  case vf =>
    rintro s1 s2 s ⟨rfl, rfl⟩
    rfl
  case idcode =>
    rintro s ⟨hreset, htap⟩
    refine (execBoundaryScan_inReset hreset).trans ?_
    rw [htap]
  case bypass =>
    rintro s ⟨hreset, htap⟩
    refine (execBoundaryScan_inReset hreset).trans ?_
    rw [htap]
  case window =>
    rintro s ⟨hf, hok, he, hlow, hhigh⟩
    refine (execSpecialRegisterWrite_bar hf).trans (congrArg _ ?_)
    rw [he]
    exact barWrite_window hok hlow hhigh
  case queue =>
    rintro q s ⟨hf, hok, hlow, hhigh, rfl, hr⟩
    exact (execSpecialRegisterWrite_bar hf).trans (congrArg _ (barWrite_queue hok hlow hhigh hr))
  case refused =>
    rintro s ⟨hf, hok⟩
    exact (execSpecialRegisterWrite_bar hf).trans (congrArg _ (barWrite_of_not_ok hok))

end Sys2Proof.Proofs
end

section
/-! SUPPORT and the settled obligation O44: the ways out of a power-on reset and of a standby exit. -/

namespace Sys2Proof.Machine

section

variable {s u v : State} {b : BootResult}

/-- After a power-on the package leaves reset with its row's operands in place. -/
def State.released (s : State) : State := { s.powerOn with host := { s.powerOn.host with inReset := false } }

theorem State.powerOn_inp (s : State) : s.powerOn.inp = s.inp := rfl

theorem execPowerOnReset_held (hf : s.inp.flag = true) : execPowerOnReset s = .next s.powerOn := by
  simp only [execPowerOnReset, State.powerOn_inp, hf, if_true]

theorem execPowerOnReset_noFirmware (hf : s.inp.flag = false) (hw : s.inp.boot.firmware = false) :
    execPowerOnReset s = .next (s.released.bootFail 1) := by
  simp only [execPowerOnReset, State.powerOn_inp, hf, hw, Bool.false_eq_true, if_false, Bool.not_false, if_true]
  rfl

theorem execPowerOnReset_noDie (hf : s.inp.flag = false) (hw : s.inp.boot.firmware = true) (hd : testedDies s.inp.boot = []) :
    execPowerOnReset s = .next (State.bootFail { s.released with liveStacks := testedStacks s.inp.boot } 2) := by
  simp only [execPowerOnReset, State.powerOn_inp, hf, hw, hd, Bool.false_eq_true, if_false, Bool.not_true, List.isEmpty_nil, if_true]
  rfl

/-- With dies that passed, the rest of bring-up turns on the stacks and the I/O dies. -/
theorem execPowerOnReset_dies (hf : s.inp.flag = false) (hw : s.inp.boot.firmware = true) (hd : testedDies s.inp.boot ≠ []) :
    execPowerOnReset s =
      let u : State := { s.released with liveStacks := testedStacks s.inp.boot }
      if (testedStacks s.inp.boot).isEmpty then .next ((u.bootDies s.inp.boot).bootFail 3)
      else if !s.inp.boot.west ∧ !s.inp.boot.east then .next ((u.bootDies s.inp.boot).bootFail 4)
      else .next ((State.bootPublish { (u.bootDies s.inp.boot).loadFirmware s.inp.boot s.inp.addr (s.inp.data.drop 64) with
        time2 := 2 * s.inp.v1.toNat } s.inp.boot).bootQueue s.inp.v.toNat (s.inp.data.take 64)) := by
  have hne : (testedDies s.inp.boot).isEmpty = false := List.isEmpty_eq_false_iff.mpr hd
  simp only [execPowerOnReset, State.powerOn_inp, hf, hw, hne, Bool.false_eq_true, if_false, Bool.not_true]
  rfl

theorem execStandbyExit_exits {bad : List Nat} (hs : s.host.stbya = true)
    (hbad : bad = s.liveStacks.filter (fun m => !s.inp.boot.liveStacks.contains m && !s.failedStacks.contains m))
    (hu : u = { s with host := { s.host with stby := false }, failedStacks := s.failedStacks ++ bad })
    (hd : testedDies s.inp.boot ≠ []) (hl : u.liveStacks.all u.failedStacks.contains = false)
    (hio : s.inp.boot.west = true ∨ s.inp.boot.east = true)
    (hv : v = bad.foldl (fun (s : State) m => s.post m 9 m 0)
      (((u.bootDies s.inp.boot).loadFirmware s.inp.boot s.inp.addr s.inp.data).bootPublish s.inp.boot)) :
    execStandbyExit s =
      let t : State := { v with
        host := { v.host with step := 6, stbya := false }
        parts := v.parts.map (fun (e : Nat × Partition) => (e.1, { e.2 with ivlt := 0 })) }
      .next (t.writeDirectory 0 ((t.queue 0).word / 2 * 2 + 1) true) := by
  have hne : (testedDies s.inp.boot).isEmpty = false := List.isEmpty_eq_false_iff.mpr hd
  have hany : ¬ ((!s.inp.boot.west) = true ∧ (!s.inp.boot.east) = true) := by
    rcases hio with h | h <;> simp [h]
  subst hbad hu hv
  simp only [execStandbyExit, hs, hne, hl, Bool.not_true, Bool.false_eq_true, if_false, if_neg hany]

end

end Sys2Proof.Machine

namespace Sys2Proof.Proofs

open Sys2Proof.Machine

/-- Settles O44: bring-up stops at the first thing that its tests have not found, or goes through. -/
theorem bringUp : Obligations.BringUp := by
  unfold Obligations.BringUp
  refine ⟨?up, ?noFirmware, ?noDie, ?noStack, ?noController, fun s => execPowerOnReset_held, ?standby⟩
  case up =>
    rintro u b s ⟨hf, rfl, hw, hd, hs, hio, rfl⟩
    have hany : ¬ ((!s.inp.boot.west) = true ∧ (!s.inp.boot.east) = true) := by
      rcases hio with h | h <;> simp [h]
    refine (execPowerOnReset_dies hf hw hd).trans ?_
    exact (if_neg (by simpa using hs)).trans (if_neg hany)
  case noFirmware =>
    rintro u s ⟨hf, hw, rfl⟩
    exact execPowerOnReset_noFirmware hf hw
  case noDie =>
    rintro u s ⟨hf, hw, hd, rfl⟩
    exact execPowerOnReset_noDie hf hw hd
  case noStack =>
    rintro u s ⟨hf, hw, hd, hs, rfl⟩
    refine (execPowerOnReset_dies hf hw hd).trans ?_
    rw [hs]
    rfl
  case noController =>
    rintro u s ⟨hf, hw, hd, hs, hwest, heast, rfl⟩
    refine (execPowerOnReset_dies hf hw hd).trans ?_
    exact (if_neg (by simpa using hs)).trans (if_pos (by simp [hwest, heast]))
  case standby =>
    rintro b bad u v s ⟨hs, rfl, hbad, hu, hd, hl, hio, hv⟩
    exact execStandbyExit_exits hs hbad hu hd hl hio hv

end Sys2Proof.Proofs
end

section
/-! SUPPORT and the settled obligation O29: how the mailbox unit opens, closes and stops an episode slot. -/

namespace Sys2Proof.Machine

section

variable {s : State} {d k e : Nat} {p : EpSlot}

/-- Two changes that agree on the registers that a Sett core has make the same state. -/
theorem State.modSett_congr {f g : Sett → Sett} (h : f (s.settCore d k) = g (s.settCore d k)) : s.modSett d k f = s.modSett d k g := by
  simp only [State.modSett, h]

/-! ## Opening and closing (R313) -/

theorem execOpenSet_opens (hp : p = s.epSlot s.inp.die s.inp.e (s.settCore s.inp.die s.inp.e).kjepi) (ho : p.open_ = false) :
    execOpenSet s = .next (s.modSett s.inp.die s.inp.e (fun t => { t.setSlot t.kjepi p.open with at_ := s.cycles })) := by
  subst hp
  refine congrArg Host.Outcome.next (State.modSett_congr ?_)
  exact if_neg (Bool.eq_false_iff.mp ho)

theorem execOpenClear_closes (hp : p = s.epSlot s.inp.die s.inp.e (s.settCore s.inp.die s.inp.e).kjepi) (ho : p.open_ = true) :
    execOpenClear s = .next (s.setEpSlot s.inp.die s.inp.e (s.settCore s.inp.die s.inp.e).kjepi p.close) := by
  subst hp
  refine congrArg Host.Outcome.next (State.modSett_congr ?_)
  exact if_pos ho

/-! ## Stopping (R311, R316, R317) -/

/-- A running or ended episode stops: its terminal entry is written, and the monitor is interrupted. -/
theorem State.stopSlot_of_live {stat : Nat} {rew : W32} {l : List Byte} (hp : p = s.epSlot d k e) (hc : p.state ≠ .closed)
    (hs : p.state ≠ .stopped) :
    s.stopSlot d k e stat rew l =
      s.modSett d k (fun t => { t.setSlot e (p.stop (epiOf d k e) stat rew l) with stopIrq := true }) := by
  subst hp
  exact if_neg (not_or.mpr ⟨hc, hs⟩)

theorem State.watchdog_of_due {u : State} (hp : p = u.epSlot d k e) (hl : p.steplim ≠ 0) (hc : p.counting = true)
    (hw : p.steplim.toNat < p.wdog) : u.watchdog d k e = u.stopSlot d k e 2 0 (List.replicate 256 0) := by
  subst hp
  exact if_pos ⟨hl, hc, hw⟩

theorem execWindowViolation_kills (hu : (s.settCore s.inp.die s.inp.e).mode = .u)
    (hw : (s.epSlot s.inp.die s.inp.e (s.settCore s.inp.die s.inp.e).kjepi).window s.inp.addr s.inp.no s.inp.flag = .none) :
    execWindowViolation s = .next (s.killSlot s.inp.die s.inp.e (s.settCore s.inp.die s.inp.e).kjepi) :=
  if_pos ⟨hu, hw⟩

end

end Sys2Proof.Machine

namespace Sys2Proof.Proofs

open Sys2Proof.Machine

/-- Settles O29: a kill, a window violation and the watchdog all stop the slot in the same way. -/
theorem mailboxEvents : Obligations.MailboxEvents := by
  unfold Obligations.MailboxEvents
  refine ⟨fun _ _ => rfl, fun p s ⟨hp, ho⟩ => execOpenSet_opens hp ho, fun p s ⟨hp, ho⟩ => execOpenClear_closes hp ho, ?kill,
    ?violation, ?watchdog⟩
  case kill =>
    rintro d k e p s ⟨rfl, rfl, rfl, hp, hv, hc, hs⟩
    refine congrArg Host.Outcome.next ?_
    exact (if_pos hv).trans (State.stopSlot_of_live hp hc hs)
  case violation =>
    rintro d k e p s ⟨rfl, rfl, hu, rfl, rfl, hw, hc, hs⟩
    refine (execWindowViolation_kills hu hw).trans ?_
    exact congrArg Host.Outcome.next (State.stopSlot_of_live rfl hc hs)
  case watchdog =>
    rintro d k e p u s ⟨rfl, rfl, rfl, rfl, hp, hl, hcount, hw, hc, hs⟩
    refine congrArg Host.Outcome.next ?_
    exact (State.watchdog_of_due hp hl hcount hw).trans (State.stopSlot_of_live hp hc hs)

end Sys2Proof.Proofs
end

section
/-! SUPPORT and the settled obligation O28: what the policy's mailbox instructions answer when nothing holds them. -/

namespace Sys2Proof.Machine

section

variable {s : State} {w : Who} {x : Ctx} {d k e : Nat}

/-- A q-register source that can be read at once, and no destination: its head is taken. -/
theorem withQ_of_ready {q : Nat} {f : Ctx → List W32 → Eff} (h : (Taken.q { x := x } q false).stop none = none) :
    withQ x q none f = f (x.qPop q) (headLanes x q) := by
  simp only [withQ, h]
  rfl

/-! ## MBSND and MBRCV (R320, R321) -/

theorem mbsnd_completes (v : WordX) (d k e st : Nat) (pop : Bool) (p : EpSlot) : Completes (.mbsnd v) (frameTryX v)
    (fun w x s => handleOf s x (readSrc w x v.b 0) = some (d, k, e) ∧ (Taken.q { x := x } (qOf v.a) false).stop none = none ∧
      freed 3 w x s ∧ (s.epSlot d k e).send x.ver (laneBytes (headLanes x (qOf v.a))) = .done st pop p)
    (fun w x s => ((if pop then s.setCtx w.c (x.qPop (qOf v.a)) else s).setEpSlot d k e p).setS w v.d.toNat (BitVec.ofNat 64 st)) := by
  refine .of_done (fun _ => rfl) ?_
  rintro w x s ⟨hh, hq, hfree, hsend⟩
  have hfree : released s w.c x w.r x.nextId 3 = true := hfree
  have hsend : ((s.settCore d k).slot e).send x.ver (laneBytes (headLanes x (qOf v.a))) = .done st pop p := hsend
  simp only [hh, withQ_of_ready hq, hfree, hsend, Bool.not_true, Bool.false_eq_true, if_false]
  rfl

/-- What an MBRCV that finds an observation does, once its payload's context is made. -/
theorem effMbrcv_takes {v : WordX} {o : ObsEnt} {p : EpSlot} {y : Ctx} (hh : handleOf s x (readSrc w x v.a 0) = some (d, k, e))
    (ht : (s.epSlot d k e).take = some (o, p))
    (hy : (x.rcvd = none ∧ Taken.stop { x := x } (some (qOf v.d)) = none ∧ y = x.qPush (qOf v.d) (bytesLanes o.payload)) ∨
      ∃ q id, x.rcvd = some (q, id) ∧ y = { x.qFill q id (bytesLanes o.payload) with rcvd := none }) :
    effMbrcv v w x s = .done ((((s.setCtx w.c y).setEpSlot d k e { p with ostep := field o.hdr 96 32 }).acquire w.c.cid 3).setS w
      (field v.low 51 6).toNat (field o.hdr 0 64)) := by
  have ht : ((s.settCore d k).slot e).take = some (o, p) := ht
  rcases hy with ⟨hr, hroom, rfl⟩ | ⟨q, id, hr, rfl⟩
  · simp only [effMbrcv, hh, hr, hroom, ht, Option.isSome_none, Bool.false_eq_true, if_false]
    rfl
  · simp only [effMbrcv, hh, hr, ht, Option.isSome_some, if_true]
    rfl

end

end Sys2Proof.Machine

namespace Sys2Proof.Proofs

open Sys2Proof.Machine

/-- Settles O28: the handle is looked up first; what it finds decides the rest. -/
theorem mailboxInstructions : Obligations.MailboxInstructions := by
  unfold Obligations.MailboxInstructions
  refine ⟨mbsnd_completes, ?recv, ?stat, ?sendFault, ?recvFault, ?statFault⟩
  case recv =>
    exact fun v d k e o p y => .of_done (fun _ => rfl) fun w x s ⟨hh, ht, hy⟩ => effMbrcv_takes hh ht hy
  case stat =>
    intro v h d k e
    refine .of_done (fun _ => rfl) ?_
    rintro w x s ⟨rfl, hh⟩
    simp only [hh]
    rfl
  case sendFault =>
    intro v
    refine .of_fault (fun _ => rfl) ?_
    intro w x s hh
    simp only [hh]
  case recvFault =>
    intro v
    refine .of_fault (fun _ => rfl) ?_
    intro w x s hh
    simp only [effMbrcv, hh]
  case statFault =>
    intro v
    refine .of_fault (fun _ => rfl) ?_
    intro w x s hh
    simp only [hh]

end Sys2Proof.Proofs
end

section
/-! SUPPORT and the settled obligation O31: how a privileged instruction finds the context or core that a ctxid names, and what it does
to it. -/

namespace Sys2Proof.Machine

section

variable {s : State} {w : Who} {x y : Ctx} {c : CtxId} {t : W64} {cid : Nat}

/-! ## Targets (R348, R349) -/

theorem idFault_eq_none (num : Bool) (hres : field t 15 49 = 0) (hnum : num = true → field t 0 2 ≠ 3)
    (hscope : s.inScope x (dieOf (idOf t).cid) = true) : idFault s x t num = none := by
  have hid : (field t 15 49 != 0 || (num && field t 0 2 == 3#2)) = false := by
    simpa [hres] using hnum
  simp only [idFault, hid, hscope, Bool.not_true, faults_passed, faults_nil]

theorem named.idFault (h : named t c y x s) : idFault s x t true = none := by
  obtain ⟨hres, hnum, rfl, hscope, -⟩ := h
  exact idFault_eq_none true hres (fun _ => hnum) hscope

theorem onCtx_named (f : CtxId → Ctx → Eff) (h : named t c y x s) : onCtx s x t f = f c y := by
  have hf := h.idFault
  obtain ⟨-, -, rfl, -, hy⟩ := h
  simp only [onCtx, hf, hy]

theorem onCore_named (f : Nat → Eff) (h : namedCore t cid x s) : onCore s x t f = f cid := by
  obtain ⟨hres, rfl, hscope⟩ := h
  simp only [onCore, idFault_eq_none false hres (fun h => nomatch h) hscope]

/-! ## Saved contexts (R355, R356) -/

/-- A role whose save is made has its code. -/
theorem effCtxsv_made {v : WordX} {m : W64} (hw : (x.role w.r).wait = some .target) (hm : (x.role w.r).mark = some m) (hne : m ≠ -1) :
    effCtxsv v w x s = .done (s.setS w v.d.toNat m) := by
  simp only [effCtxsv, hw, hm, if_neg hne]

/-- A sound image whose slot is free is read to its end, and its context restored. -/
theorem effCtxld_restores {v : WordX} {h l : List Byte} (hid : idFault s x (readSrc w x v.a 0) true = none)
    (hc : c = idOf (readSrc w x v.a 0)) (hh : s.loadRuns w.c.cid x.part (pageParts (readSrc w x v.b 0).toNat 64) = .ok h)
    (hmagic : numAt h 0 4 = 0x4B435831) (hcid : numAt h 4 2 = c.cid) (hnum : numAt h 6 1 = c.num)
    (hcode : numAt h 8 4 = Config.implCode.toNat) (hy : s.savedOf c (numAt h 0x10 8) = some y) (hclean : s.slotClean c = true)
    (hret : (s.core c.cid).retired = false) (hfit : s.fits c.cid y.abud y.wbud y.zbud = true) (hfree : freed 2 w x s)
    (hl : s.loadRuns w.c.cid x.part (imageRuns (readSrc w x v.b 0).toNat) = .ok l) :
    effCtxld v w x s = .done (((s.release w.c 2).keepLeaves w.c.cid x.part (imageRuns (readSrc w x v.b 0).toNat)).restore c
      (s.imageOf y (l.drop 64))) := by
  subst hc
  have hfree : released s w.c x w.r x.nextId 2 = true := hfree
  simp only [effCtxld, hid, hh, hmagic, hcid, hnum, hcode, hy, hclean, hret, hfit, hfree, hl, ne_eq, not_true_eq_false, or_self,
    Bool.not_true, Bool.false_eq_true, if_false]

theorem effCtxld_poisoned {v : WordX} (hid : idFault s x (readSrc w x v.a 0) true = none)
    (hh : s.loadRuns w.c.cid x.part (pageParts (readSrc w x v.b 0).toNat 64) = .error (cMemory, (readSrc w x v.b 0).toNat)) :
    effCtxld v w x s = .fault cMemory (readSrc w x v.b 0) := by
  simp only [effCtxld, hid, hh, BitVec.ofNat_toNat, BitVec.setWidth_eq]

end

end Sys2Proof.Machine

namespace Sys2Proof.Proofs

open Sys2Proof.Machine

/-- Settles O31: the ctxid names the target, and the target's state decides the rest. -/
theorem contextControl : Obligations.ContextControl := by
  unfold Obligations.ContextControl
  refine ⟨?eret, ?save, ?load, ?loadPoisoned, ?park, ?unpark, ?halt, ?hold⟩
  case eret =>
    intro v c y role cause code val
    refine .of_done (fun _ => rfl) ?_
    rintro w x s ⟨hn, hst, htrap, hmode, hfree⟩
    have hfree : released s w.c x w.r x.nextId 2 = true := hfree
    simp only [onCtx_named _ hn, hst, htrap, if_neg hmode, hfree, Bool.not_true, Bool.false_eq_true, if_false]
  case save => exact fun v m => .of_done (fun _ => rfl) fun w x s ⟨hw, hm, hne⟩ => effCtxsv_made hw hm hne
  case load =>
    intro v c y h l z
    refine .of_done (fun _ => rfl) ?_
    rintro w x s ⟨hid, hc, hh, hmagic, hcid, hnum, hcode, hy, hclean, hret, hfit, hfree, hl, rfl⟩
    exact effCtxld_restores hid hc hh hmagic hcid hnum hcode hy hclean hret hfit hfree hl
  case loadPoisoned => exact fun v => .of_fault (fun _ => rfl) fun w x s ⟨hid, hh⟩ => effCtxld_poisoned hid hh
  case park =>
    intro v c y
    refine .of_done (fun _ => rfl) ?_
    rintro w x s ⟨hn, hnum, hst⟩
    have hgo : ¬ (c.num = 0 ∨ (y.state ≠ .run ∧ y.state ≠ .trapped)) := by
      rintro (h | ⟨hrun, htrap⟩)
      · exact hnum h
      · exact hst.elim hrun htrap
    simp only [onCtx_named _ hn, if_neg hgo]
  case unpark =>
    intro v c y
    refine .of_done (fun _ => rfl) ?_
    rintro w x s ⟨hn, hnum, hst, hfree⟩
    have hfree : released s w.c x w.r x.nextId 2 = true := hfree
    simp only [onCtx_named _ hn, hnum, hst, hfree, ne_eq, not_true_eq_false, or_self, Bool.not_true, Bool.false_eq_true, if_false]
  case halt =>
    intro v c y
    refine .of_done (fun _ => rfl) ?_
    rintro w x s ⟨hop, hrm, hn⟩
    have hgo : ¬ (field v.low 50 3 = 0 ↔ (field v.low 48 2).toNat < 2) := fun h => hrm (h.mpr hop)
    simp only [if_neg hgo, if_pos hop, onCtx_named _ hn]
  case hold =>
    intro v cid
    refine .of_done (fun _ => rfl) ?_
    rintro w x s ⟨hop, hrm, hn⟩
    have hgo : ¬ (field v.low 50 3 = 0 ↔ (field v.low 48 2).toNat < 2) := fun h => absurd (h.mp hrm) (Nat.not_lt.mpr hop)
    simp only [if_neg hgo, if_neg (Nat.not_lt.mpr hop), onCore_named _ hn]

end Sys2Proof.Proofs
end

section
/-! SUPPORT and the settled obligation O32: invalidation, the standing table, retirement and spares, IDLE, and a record that has
waited. -/

namespace Sys2Proof.Machine

section

variable {s s1 s2 : State} {w : Who} {x : Ctx} {stn trk slot : Nat} {t : W64}

/-! ## Invalidation and the table (R362, R363, R364) -/

theorem effInva_applied {v : WordX} {n : Nat} (hn : n = invaTarget v w x s)
    (h1 : s1 = (s.liveCores x.part).foldl (fun (s : State) cid => s.applyLog cid) s)
    (hall : ∀ cid ∈ s1.liveCores x.part, reachedIdx (s1.core cid).ivla n = true) : effInva v w x s = .done s1 := by
  subst hn h1
  exact if_pos (List.all_eq_true.mpr hall)

/-- A location that the issuer serves. -/
theorem namedLoc.locFault (h : namedLoc t stn trk slot x s) : locFault s x t = none := by
  obtain ⟨hres, hloc, hscope⟩ := h
  have hbits : (field t 19 45 != 0) = false := by simp [hres]
  have hstn : (stLoc t).1 = stn := congrArg Prod.fst hloc
  simp only [Machine.locFault, hbits, hstn, hscope, Bool.not_true, faults_passed, faults_nil]

/-! ## IDLE (R366) -/

theorem effIdle_of_records {v : WordX} {q : TrapQ} (hq : q = s.trapQ (dieOf w.c.cid) x.part) (hne : q.tqt ≠ q.tqh) :
    effIdle v w x s = .done ((s.acquire w.c.cid 2).setS w v.d.toNat (q.tqt.setWidth 64)) := by
  subst hq
  exact if_pos (.inl hne)

/-- Its cycle limit ends an IDLE that is no .try form. -/
theorem effIdle_of_limit {v : WordX} {q : TrapQ} {m : W64} (hq : q = s.trapQ (dieOf w.c.cid) x.part) (ht : bitAt v.low 56 = false)
    (hm : (x.role w.r).mark = some m) (h0 : readSrc w x v.a 0 ≠ 0) (hle : readSrc w x v.a 0 ≤ s.cyc w.c.cid - m) :
    effIdle v w x s = .done ((s.acquire w.c.cid 2).setS w v.d.toNat (q.tqt.setWidth 64)) := by
  subst hq
  have hexceeds : (readSrc w x v.a 0 != 0 && decide (readSrc w x v.a 0 ≤ s.cyc w.c.cid - m)) = true := by
    rw [Bool.and_eq_true, bne_iff_ne, decide_eq_true_eq]
    exact ⟨h0, hle⟩
  simp only [effIdle, hm, hexceeds, ht, Bool.not_false, and_self, or_true, if_true]

/-- The IDLE of a role that waits executes in the state in which its cycles have gone by. -/
theorem execIdleCycleLimit_completes {v : WordX} {rest : List Byte} {m : W64} {n : Nat} (hx : s.ctx s.inp.c = some x)
    (hdec : decode (fetchBytes (s.textOf x) (x.role s.inp.r).pc) = .ok (.idle v, rest)) (hm : (x.role s.inp.r).mark = some m)
    (hn : n = (readSrc ⟨s.inp.c, s.inp.r⟩ x v.a 0 - (s.cyc s.inp.c.cid - m)).toNat) (hwait : (x.role s.inp.r).wait = some .idle)
    (hdue : s.due n = none) (h0 : readSrc ⟨s.inp.c, s.inp.r⟩ x v.a 0 ≠ 0) (hcan : s.canIssue ⟨s.inp.c, s.inp.r⟩ = true)
    (hlim : (x.role s.inp.r).waited + n < x.wlim) :
    ∃ t, exec (.idle v) { s.elapse n with turn := .role s.inp.c s.inp.r } = .next t ∧
      execIdleCycleLimit s = .next { t with turn := s.turn } := by
  have hctx : ((s.elapse n).ctx s.inp.c).isSome = true := by
    rw [State.elapse_ctx_isSome, hx]
    rfl
  obtain ⟨t, ht⟩ : ∃ t, execIdle v { s.elapse n with turn := .role s.inp.c s.inp.r } = .next t :=
    runWord_next (s := { s.elapse n with turn := .role s.inp.c s.inp.r }) (w := ⟨s.inp.c, s.inp.r⟩) rfl hctx
  refine ⟨t, ht, ?_⟩
  subst hn
  simp only [execIdleCycleLimit, hx, hdec, hm]
  rw [if_pos ⟨hwait, h0, hcan, hlim⟩, State.lapse_of_not_due hdue, ht, State.elapse_turn]

/-! ## A record that has waited (R369) -/

theorem execTrapRecordPendingAppend_stores {e : TrapRec} {l : List TrapRec}
    (hw : (s.trapQ s.inp.die s.inp.part).waiting = e :: l) (hf : (s.trapQ s.inp.die s.inp.part).full = false)
    (hb : s.devBusy s.inp.part
      ((s.trapQ s.inp.die s.inp.part).tqb + 64 * ((s.trapQ s.inp.die s.inp.part).tqt.toNat % 256)) = false)
    (h1 : s1 = s.modTrapQ s.inp.die s.inp.part (fun q => { q with waiting := q.waiting.tail }))
    (h2 : s1.storeRec s.inp.die s.inp.part e = some s2) : execTrapRecordPendingAppend s = .next s2 := by
  subst h1
  simp only [execTrapRecordPendingAppend, hw, hf, hb, Bool.false_eq_true, or_self, if_false, h2]

end

end Sys2Proof.Machine

namespace Sys2Proof.Proofs

open Sys2Proof.Machine

/-- Settles O32: each clause is the way through its instruction on which every check passes. -/
theorem invalidationAndTables : Obligations.InvalidationAndTables := by
  unfold Obligations.InvalidationAndTables
  refine ⟨?invl, ?inva, fun _ _ => rfl, ?write, ?read, ?retire, ?spare, ?records, ?limit, ?cycles, ?pending⟩
  case invl =>
    intro v a size
    refine .of_done (fun _ => rfl) ?_
    rintro w x s ⟨rfl, hsz, rfl, halign, hlow, hall⟩
    have hsz : (field v.low 48 2).toNat ≠ 3 := fun h => hsz (BitVec.eq_of_toNat_eq h)
    refine if_neg ?_
    rintro (h | h | h | ⟨hbit, hne⟩)
    · exact hsz h
    · exact h halign
    · exact absurd hlow (Nat.not_lt.mpr h)
    · exact hne (hall hbit)
  case inva => exact fun v n s1 => .of_done (fun _ => rfl) fun w x s ⟨hn, h1, hall⟩ => effInva_applied hn h1 hall
  case write =>
    intro v stn trk slot
    refine .of_done (fun _ => rfl) ?_
    rintro w x s ⟨hn, hok⟩
    have hloc : stLoc (readSrc w x v.b 0) = (stn, trk, slot) := hn.2.1
    simp only [hn.locFault, hloc, hok, Bool.false_eq_true, if_false]
  case read =>
    intro v stn trk slot
    refine .of_done (fun _ => rfl) ?_
    intro w x s hn
    have hloc : stLoc (readSrc w x v.b 0) = (stn, trk, slot) := hn.2.1
    simp only [hn.locFault, hloc]
  case retire =>
    intro v cid
    refine .of_done (fun _ => rfl) ?_
    rintro w x s ⟨hnum, hn⟩
    simp only [hnum, ne_eq, not_true_eq_false, if_false, onCore_named _ hn]
  case spare =>
    intro v cid
    refine .of_done (fun _ => rfl) ?_
    rintro w x s ⟨hn, hret⟩
    simp only [onCore_named _ hn, hret, Bool.not_true, Bool.false_eq_true, if_false]
    split <;> rfl
  case records => exact fun v q => .of_done (fun _ => rfl) fun w x s ⟨hq, hne⟩ => effIdle_of_records hq hne
  case limit =>
    exact fun v q m => .of_done (fun _ => rfl) fun w x s ⟨hq, ht, hm, h0, hle⟩ => effIdle_of_limit hq ht hm h0 hle
  case cycles =>
    exact fun s x v k m n hx hdec hm hn hwait hdue h0 hcan hlim =>
      execIdleCycleLimit_completes hx hdec hm hn hwait hdue h0 hcan hlim
  case pending => exact fun t l s1 s2 s ⟨hw, hf, hb, h1, h2⟩ => execTrapRecordPendingAppend_stores hw hf hb h1 h2

end Sys2Proof.Proofs
end

section
/-! SUPPORT and the settled obligation O30: the target that SRD and SWR name, and how SWR of a special of a context goes. -/

namespace Sys2Proof.Machine

section

variable {s u : State} {w : Who} {x y : Ctx} {c : CtxId} {v : WordX} {t n : W64} {no : Nat} {r : Role}

/-! ## Targets (R352, R353) -/

/-- No special of a context is PTLO, PTHI or a number above them. -/
theorem ctxSpecial_lt (h : ctxSpecial no = true) : ¬ 0x4E ≤ no := by
  simp only [ctxSpecial, Bool.or_eq_true, beq_iff_eq, Bool.and_eq_true, decide_eq_true_eq] at h
  omega

theorem spcTarget_named (f : CtxId → Option Ctx → Eff) (hself : bitAt v.low 47 = false) (hc : ctxSpecial (spcNo v) = true)
    (h : named t c y x s) : spcTarget s w x v t f = f c (some y) := by
  simp only [spcTarget, hself, hc, Bool.false_eq_true, if_false, if_true, onCtx_named _ h]

/-- A special that belongs to no context: only the core, and the slot of a WLIMMAX, count. -/
theorem spcTarget_core (f : CtxId → Option Ctx → Eff) (hc : ctxSpecial (spcNo v) = false) (h : spcCore v t c w x s) :
    ∃ z, spcTarget s w x v t f = f c z := by
  rcases h with ⟨hself, rfl⟩ | ⟨hself, rfl, hcore⟩
  · exact ⟨some x, if_pos hself⟩
  · refine ⟨none, ?_⟩
    simp only [spcTarget, hself, hc, Bool.false_eq_true, if_false]
    split at hcore
    next hpass => rw [if_pos hpass, if_neg (not_not.mpr hcore)]
    next hpass =>
      obtain ⟨⟨hres, -, hscope⟩, hnum⟩ := hcore
      rw [if_neg hpass, idFault_eq_none _ hres (fun hslot => hnum (beq_iff_eq.mp hslot)) hscope]

/-! ## SWR of a special of a context (R353) -/

/-- A value within its limits is not refused before the target is looked at. -/
theorem swrContext_running (hy : s.ctx c = some y) (hok : writeContextSpecial s c y r no n ≠ none) (hrun : y.state = .run) :
    swrContext s w c t no r n = swrRunning s w c y no r n := by
  have hsome : (writeContextSpecial s c y r no n).isNone = false := Option.isNone_eq_false_iff.mpr (Option.isSome_iff_ne_none.mpr hok)
  simp only [swrContext, hy, Option.getD_some, hsome, Bool.false_eq_true, if_false, if_pos hrun]

/-- A target that does not run takes the value at once. -/
theorem swrContext_stopped (hy : s.ctx c = some y) (hok : writeContextSpecial s c y r no n ≠ none) (hrun : y.state ≠ .run)
    (hu : writeContextSpecial s c { y with swr := none } r no n = some u) : swrContext s w c t no r n = .done u := by
  have hsome : (writeContextSpecial s c y r no n).isNone = false := Option.isNone_eq_false_iff.mpr (Option.isSome_iff_ne_none.mpr hok)
  simp only [swrContext, hy, Option.getD_some, hsome, Bool.false_eq_true, if_false, if_neg hrun, hu]

/-- A running target whose roles have all come to a boundary takes the value. -/
theorem swrRunning_of_free (h : swrFree v w c y x s)
    (hu : writeContextSpecial s c { y with swr := none } (spcRole v) (spcNo v) (readSrc w x v.a 0) = some u) :
    swrRunning s w c y (spcNo v) (spcRole v) (readSrc w x v.a 0) = .done u := by
  have howner : (if c = w.c then some w.r else none) = swrOwn w c := rfl
  simp only [swrFree] at h
  split at h
  next q hq =>
    rcases h with ⟨hby, hrole, hno, htrole, hv, hleft⟩ | ⟨hother, hwaits, hoff⟩
    · simp only [swrRunning, hq, howner, hby, hrole, hno, htrole, hv, hleft, and_self, if_true, List.isEmpty_nil, hu]
    · simp only [swrRunning, hq, howner, if_neg hother, hwaits, Bool.false_eq_true, if_false, hoff, List.isEmpty_nil, if_true, hu]
  next hq => simp only [swrRunning, hq, howner, h, List.isEmpty_nil, if_true, hu]

/-- With a role that has still to come to a boundary SWR notes what it asks for, and waits. -/
theorem swrRunning_of_busy (hq : y.swr = none) (hoff : y.offBoundary (swrOwn w c) ≠ []) :
    swrRunning s w c y no r n = .waitIn .target (s.setCtx c { y with swr := some ⟨w.c, w.r, no, r, n, y.offBoundary (swrOwn w c)⟩ }) := by
  have howner : (if c = w.c then some w.r else none) = swrOwn w c := rfl
  have hne : (y.offBoundary (swrOwn w c)).isEmpty = false := List.isEmpty_eq_false_iff.mpr hoff
  simp only [swrRunning, hq, howner, hne, Bool.false_eq_true, if_false]

/-! ## The instruction -/

/-- The effect of an SWR. -/
def effSwr (v : WordX) : Effect := fun w x s =>
  if 0x4E ≤ spcNo v ∧ x.servPart ≠ 31 then .fault cPrivilege (readSrc w x v.b 0)
  else if ctxSpecial (spcNo v) then
    if bitAt v.low 47 then swrContext s w w.c (readSrc w x v.b 0) (spcNo v) (spcRole v) (readSrc w x v.a 0)
    else match idFault s x (readSrc w x v.b 0) true with
      | some e => e
      | none => swrContext s w (idOf (readSrc w x v.b 0)) (readSrc w x v.b 0) (spcNo v) (spcRole v) (readSrc w x v.a 0)
  else spcTarget s w x v (readSrc w x v.b 0) (fun c _ =>
    match writeCoreSpecial s c (spcPart x v) (spcNo v) (readSrc w x v.a 0) with
    | some u => .done u
    | none => .fault cRange (readSrc w x v.a 0))

theorem exec_swr (v : WordX) (s : State) : exec (.swr v) s = runWord (.swr v) (frameP v) (effSwr v) s := rfl

/-- SWR of a special of a context goes to the context that it selects, the issuer's under SELF. -/
theorem effSwr_of_selected (hc : ctxSpecial (spcNo v) = true)
    (hsel : if bitAt v.low 47 then c = w.c else c = idOf (readSrc w x v.b 0) ∧ idFault s x (readSrc w x v.b 0) true = none) :
    effSwr v w x s = swrContext s w c (readSrc w x v.b 0) (spcNo v) (spcRole v) (readSrc w x v.a 0) := by
  have hpass : ¬ (0x4E ≤ spcNo v ∧ x.servPart ≠ 31) := fun h => ctxSpecial_lt hc h.1
  simp only [effSwr, if_neg hpass, hc, if_true]
  split at hsel
  next hself =>
    subst hsel
    exact if_pos hself
  next hself =>
    obtain ⟨rfl, hid⟩ := hsel
    simp only [if_neg hself, hid]

/-- A name that SWR takes selects a context that exists. -/
theorem swrNames.selected (h : swrNames v w c y x s) :
    (if bitAt v.low 47 then c = w.c else c = idOf (readSrc w x v.b 0) ∧ idFault s x (readSrc w x v.b 0) true = none) ∧
      s.ctx c = some y := by
  rcases h with ⟨hself, hc, hy⟩ | ⟨hself, hn⟩
  · exact ⟨by rw [if_pos hself]; exact hc, hy⟩
  · have hid := hn.idFault
    obtain ⟨-, -, hc, -, hy⟩ := hn
    exact ⟨by rw [if_neg (Bool.eq_false_iff.mp hself)]; exact ⟨hc, hid⟩, hy⟩

theorem effSwr_writes (hc : ctxSpecial (spcNo v) = true) (hn : swrNames v w c y x s) (hfree : y.state = .run → swrFree v w c y x s)
    (hok : writeContextSpecial s c ((s.ctx c).getD {}) (spcRole v) (spcNo v) (readSrc w x v.a 0) ≠ none)
    (hu : writeContextSpecial s c { y with swr := none } (spcRole v) (spcNo v) (readSrc w x v.a 0) = some u) :
    effSwr v w x s = .done u := by
  obtain ⟨hsel, hy⟩ := hn.selected
  rw [hy] at hok
  rw [effSwr_of_selected hc hsel]
  by_cases hrun : y.state = .run
  · exact (swrContext_running hy hok hrun).trans (swrRunning_of_free (hfree hrun) hu)
  · exact swrContext_stopped hy hok hrun hu

theorem effSwr_waits (hc : ctxSpecial (spcNo v) = true) (hn : swrNames v w c y x s) (hrun : y.state = .run) (hq : y.swr = none)
    (hoff : y.offBoundary (swrOwn w c) ≠ [])
    (hok : writeContextSpecial s c y (spcRole v) (spcNo v) (readSrc w x v.a 0) ≠ none) :
    effSwr v w x s = .waitIn .target (s.setCtx c
      { y with swr := some ⟨w.c, w.r, spcNo v, spcRole v, readSrc w x v.a 0, y.offBoundary (swrOwn w c)⟩ }) := by
  obtain ⟨hsel, hy⟩ := hn.selected
  rw [effSwr_of_selected hc hsel, swrContext_running hy hok hrun, swrRunning_of_busy hq hoff]

/-- A special that belongs to no context: its limits decide. -/
theorem effSwr_core_writes (hp : 0x4E ≤ spcNo v → x.servPart = 31) (hc : ctxSpecial (spcNo v) = false)
    (h : spcCore v (readSrc w x v.b 0) c w x s)
    (hu : writeCoreSpecial s c (spcPart x v) (spcNo v) (readSrc w x v.a 0) = some u) : effSwr v w x s = .done u := by
  have hpass : ¬ (0x4E ≤ spcNo v ∧ x.servPart ≠ 31) := fun ⟨hno, hne⟩ => hne (hp hno)
  simp only [effSwr, if_neg hpass, hc, Bool.false_eq_true, if_false]
  refine (spcTarget_core _ hc h).elim fun _ hz => hz.trans ?_
  simp only [hu]

theorem effSwr_core_refused (hp : 0x4E ≤ spcNo v → x.servPart = 31) (hc : ctxSpecial (spcNo v) = false)
    (h : spcCore v (readSrc w x v.b 0) c w x s)
    (hu : writeCoreSpecial s c (spcPart x v) (spcNo v) (readSrc w x v.a 0) = none) :
    effSwr v w x s = .fault cRange (readSrc w x v.a 0) := by
  have hpass : ¬ (0x4E ≤ spcNo v ∧ x.servPart ≠ 31) := fun ⟨hno, hne⟩ => hne (hp hno)
  simp only [effSwr, if_neg hpass, hc, Bool.false_eq_true, if_false]
  refine (spcTarget_core _ hc h).elim fun _ hz => hz.trans ?_
  simp only [hu]

end

end Sys2Proof.Machine

namespace Sys2Proof.Proofs

open Sys2Proof.Machine

/-- Settles O30: the special's number says whose it is, the target is found, and the value's limits and the target's roles decide the
rest. -/
theorem privilegedRegisters : Obligations.PrivilegedRegisters := by
  unfold Obligations.PrivilegedRegisters
  refine ⟨?readOwn, ?readNamed, ?readCore, ?write, ?wait, ?writeCore, ?range, ?target, ?rangeCore, ?privilege,
    fun _ _ => rfl, fun _ _ => rfl, fun _ _ => rfl, fun _ _ => rfl, ?row⟩
  case readOwn =>
    intro v
    refine .of_done (fun _ => rfl) ?_
    rintro w x s ⟨hself, hc⟩
    simp only [spcTarget, hself, if_true, hc]
  case readNamed =>
    intro v c y
    refine .of_done (fun _ => rfl) ?_
    rintro w x s ⟨hself, hc, hn⟩
    simp only [spcTarget_named _ hself hc hn, hc]
  case readCore =>
    intro v c
    refine .of_done (fun _ => rfl) ?_
    rintro w x s ⟨hc, hcore⟩
    refine (spcTarget_core _ hc hcore).elim fun z hz => hz.trans ?_
    simp only [hc]
  case write =>
    exact fun v c y u => .of_done (exec_swr v) fun w x s ⟨hc, hn, hfree, hok, hu⟩ => effSwr_writes hc hn hfree hok hu
  case wait =>
    exact fun v c y => .of_waitIn (exec_swr v) fun w x s ⟨hc, hn, hrun, hq, hoff, hok⟩ => effSwr_waits hc hn hrun hq hoff hok
  case writeCore =>
    exact fun v c u => .of_done (exec_swr v) fun w x s ⟨hp, hc, hcore, hu⟩ => effSwr_core_writes hp hc hcore hu
  case range =>
    intro v c
    refine .of_fault (exec_swr v) ?_
    rintro w x s ⟨hc, hsel, hbad⟩
    rw [effSwr_of_selected hc hsel]
    simp only [swrContext, hbad, Option.isNone_none, if_true]
  case target =>
    intro v c
    refine .of_fault (exec_swr v) ?_
    rintro w x s ⟨hc, hself, hid, hfault, hnone, hok⟩
    have hsome : (writeContextSpecial s c {} (spcRole v) (spcNo v) (readSrc w x v.a 0)).isNone = false :=
      Option.isNone_eq_false_iff.mpr (Option.isSome_iff_ne_none.mpr hok)
    have hsel : if bitAt v.low 47 then c = w.c else c = idOf (readSrc w x v.b 0) ∧ idFault s x (readSrc w x v.b 0) true = none := by
      rw [if_neg (Bool.eq_false_iff.mp hself)]
      exact ⟨hid, hfault⟩
    rw [effSwr_of_selected hc hsel]
    simp only [swrContext, hnone, Option.getD_none, hsome, Bool.false_eq_true, if_false]
  case rangeCore =>
    exact fun v c => .of_fault (exec_swr v) fun w x s ⟨hp, hc, hcore, hbad⟩ => effSwr_core_refused hp hc hcore hbad
  case privilege => exact fun v => .of_fault (exec_swr v) fun w x s h => if_pos h
  case row =>
    rintro s ⟨hf, hw, hno⟩
    refine congrArg Host.Outcome.next ?_
    rw [if_neg (Bool.eq_false_iff.mp hf)]
    exact if_pos ⟨hw, hno⟩

end Sys2Proof.Proofs
end

section
/-! SUPPORT and the settled obligation O46: what a Sett core makes of an instruction's outcome, one rule for each kind of outcome,
and the checks, the post and the receipt that the Xknajan instructions share. -/

namespace Sys2Proof.Machine

section

variable {i : Instr} {w : W32} {len d k : Nat} {s z : State} {t : Sett} {p q : EpSlot} {a : W64} {e : ActEnt} {l : List Byte}
variable {f : Nat → Nat → State → Rv} {pre : Nat → Nat → Sett → State → Prop} {eff : Nat → Nat → Sett → State → State}

/-! ## Outcomes (R308, R310) -/

/-- A Sett instruction of the core that moves acts in the state that another instruction has stepped. -/
theorem runSett_of_turn (ht : s.turn = .sett d k) :
    runSett w len f s = .next (rvFinish (s.stepped d k) d k w len (f d k (s.stepped d k))) := by
  simp only [runSett, ht]
  rfl

theorem Setts.of_next (hrun : ∀ s, exec i s = runSett w len f s)
    (he : ∀ d k s, pre d k (s.settCore d k) s → f d k s = .next (eff d k (s.settCore d k) s)) : Setts i len pre eff := by
  rintro s d k _ _ ht rfl rfl hp
  rw [hrun, runSett_of_turn ht, he _ _ _ hp]
  rfl

theorem SettJumps.of_jump {pc : Sett → W64} (hrun : ∀ s, exec i s = runSett w len f s)
    (he : ∀ d k s, pre d k (s.settCore d k) s → f d k s = .jump (eff d k (s.settCore d k) s) (pc (s.settCore d k))) :
    SettJumps i pre pc eff := by
  rintro s d k _ _ ht rfl rfl hp
  rw [hrun, runSett_of_turn ht, he _ _ _ hp]
  rfl

theorem SettTraps.of_illegal (hrun : ∀ s, exec i s = runSett w len f s)
    (he : ∀ d k s, pre d k (s.settCore d k) s → f d k s = .illegal) : SettTraps i pre 2 (fun _ => w.setWidth 64) := by
  rintro s d k _ _ ht rfl rfl hp
  rw [hrun, runSett_of_turn ht, he _ _ _ hp]
  rfl

theorem SettTraps.of_stop {c : Nat} {val : Sett → W64} (hrun : ∀ s, exec i s = runSett w len f s)
    (he : ∀ d k s, pre d k (s.settCore d k) s → f d k s = .stop (.exc c (val (s.settCore d k)))) : SettTraps i pre c val := by
  rintro s d k _ _ ht rfl rfl hp
  rw [hrun, runSett_of_turn ht, he _ _ _ hp]
  rfl

/-- What is held leaves the state that it has reached. -/
theorem runSett_holds (ht : s.turn = .sett d k) (hf : f d k (s.stepped d k) = .hold z) : runSett w len f s = .next z := by
  rw [runSett_of_turn ht, hf]
  rfl

/-! ## The checks of R317 and R318 -/

theorem mbSlot_of_use (h : mbUse p t) : mbSlot t = some p := by
  obtain ⟨hm, rfl, hc, hs⟩ := h
  exact if_neg (not_or.mpr ⟨hm, not_or.mpr ⟨hc, hs⟩⟩)

theorem mbSlot_of_barred (h : t.mode = .m ∨ (t.slot t.kjepi).state = .closed ∨ (t.slot t.kjepi).state = .stopped) :
    mbSlot t = none :=
  if_pos h

theorem mbCheck_of_barred {c : Nat} {load store : Bool} {g : EpSlot → List Byte → Rv} (h : mbSlot (s.settCore d k) = none) :
    mbCheck s d k a c load store g = .illegal := by
  simp only [mbCheck, h]

theorem mbCheck_misaligned {c : Nat} {load store : Bool} {g : EpSlot → List Byte → Rv} (h : mbUse p (s.settCore d k))
    (ha : a.toNat % 16 ≠ 0) : mbCheck s d k a c load store g = .stop (.exc c a) := by
  simp only [mbCheck, mbSlot_of_use h, if_pos ha]

/-- An instruction that reads its buffer and does not write it. -/
theorem mbCheck_load {c : Nat} {g : EpSlot → List Byte → Rv} (h : mbUse p (s.settCore d k)) (ha : a.toNat % 16 = 0)
    (hl : s.settRead (s.settCore d k) a 256 .load = .ok l) : mbCheck s d k a c true false g = g p l := by
  simp only [mbCheck, mbSlot_of_use h, ha, ne_eq, not_true_eq_false, if_false, if_true, hl, Bool.false_eq_true]

/-- One that writes it and does not read it. -/
theorem mbCheck_store {c : Nat} {g : EpSlot → List Byte → Rv} (h : mbUse p (s.settCore d k)) (ha : a.toNat % 16 = 0)
    (hs : s.canStore (s.settCore d k) a = none) : mbCheck s d k a c false true g = g p [] := by
  simp only [mbCheck, mbSlot_of_use h, ha, ne_eq, not_true_eq_false, if_false, if_true, hs, Bool.false_eq_true]

theorem mbCheck_both {c : Nat} {g : EpSlot → List Byte → Rv} (h : mbUse p (s.settCore d k)) (ha : a.toNat % 16 = 0)
    (hl : s.settRead (s.settCore d k) a 256 .load = .ok l) (hs : s.canStore (s.settCore d k) a = none) :
    mbCheck s d k a c true true g = g p l := by
  simp only [mbCheck, mbSlot_of_use h, ha, ne_eq, not_true_eq_false, if_false, if_true, hl, hs]

/-! ## The post and the receipt (R316, R319) -/

theorem mbPost_posts {rew : W32} (h : mbUse p (s.settCore d k)) (hl : p.enter.eplim = 0 ∨ p.enter.step ≠ p.enter.eplim)
    (ho : p.enter.obs.length < 8) :
    s.mbPost d k rew l = some (s.modSlot d k (fun _ => p.enter.post (epiOf d k (s.settCore d k).kjepi) 0 rew l), false) := by
  obtain ⟨-, rfl, -, -⟩ := h
  have hgo : ¬ (((s.settCore d k).slot (s.settCore d k).kjepi).enter.eplim ≠ 0 ∧
      ((s.settCore d k).slot (s.settCore d k).kjepi).enter.step = ((s.settCore d k).slot (s.settCore d k).kjepi).enter.eplim) := by
    rintro ⟨h0, heq⟩
    exact hl.elim h0 (fun hne => hne heq)
  simp only [State.mbPost, if_neg hgo, if_neg (Nat.not_le.mpr ho)]

/-- The last step of an episode stops it. -/
theorem mbPost_stops {rew : W32} (h : mbUse p (s.settCore d k)) (h0 : p.enter.eplim ≠ 0) (heq : p.enter.step = p.enter.eplim) :
    s.mbPost d k rew l =
      some ((s.modSlot d k EpSlot.enter).stopSlot d k (s.settCore d k).kjepi 2 rew l, true) := by
  obtain ⟨-, rfl, -, -⟩ := h
  exact if_pos ⟨h0, heq⟩

theorem mbTake_delivers {rd : Nat} (h : delivers d k a e q s z) :
    s.mbTake d k rd a = .next (z.putX d k rd (actionWord e q.step)) := by
  obtain ⟨hr, hw⟩ := h
  simp only [State.mbTake, hr, hw]

theorem mbTake_waits {rd : Nat} (h : ((s.settCore d k).slot (s.settCore d k).kjepi).enter.receive = none) :
    s.mbTake d k rd a = .hold (s.modSett d k (fun t => { t with boxWait := true })) := by
  simp only [State.mbTake, h]
  rfl

end

end Sys2Proof.Machine

namespace Sys2Proof.Proofs

open Sys2Proof.Machine

/-- Settles O46: every instruction with a buffer is its checks and then a post, a receipt, or both. -/
theorem settMailbox : Obligations.SettMailbox := by
  unfold Obligations.SettMailbox
  refine ⟨?recv, ?send, ?sendLast, ?step, ?stepAgain, ?stepHolds, ?recvWaits, ?done, ?stat, ?ver, ?barred, ?misaligned⟩
  case recv =>
    intro rd rs1 a p e q z
    refine .of_next (execMbRecv.eq_def rd rs1) ?_
    rintro d k s ⟨hu, rfl, ha, hs, hd⟩
    exact (mbCheck_store hu ha hs).trans (mbTake_delivers hd)
  case send =>
    intro rs1 rs2 a p l
    refine .of_next (execMbSend.eq_def rs1 rs2) ?_
    rintro d k s ⟨hu, rfl, ha, hl, hlim, hroom⟩
    refine (mbCheck_load hu ha hl).trans ?_
    simp only [mbPost_posts hu hlim hroom]
    rfl
  case sendLast =>
    intro rs1 rs2 a p l
    refine .of_next (execMbSend.eq_def rs1 rs2) ?_
    rintro d k s ⟨hu, rfl, ha, hl, h0, heq⟩
    refine (mbCheck_load hu ha hl).trans ?_
    simp only [mbPost_stops hu h0 heq]
    rfl
  case step =>
    intro rd rs1 rs2 a p l e q z
    refine .of_next (execMbStep.eq_def rd rs1 rs2) ?_
    rintro d k s ⟨hu, hnew, rfl, ha, hl, hs, hlim, hroom, hd⟩
    obtain ⟨-, rfl, -, -⟩ := id hu
    simp only [State.xOf, hnew, Bool.not_false]
    refine (mbCheck_both hu ha hl hs).trans ?_
    simp only [Bool.false_eq_true, if_false, mbPost_posts hu hlim hroom, mbTake_delivers hd]
  case stepAgain =>
    intro rd rs1 rs2 a p e q z
    refine .of_next (execMbStep.eq_def rd rs1 rs2) ?_
    rintro d k s ⟨hu, hold, rfl, ha, hs, hd⟩
    obtain ⟨-, rfl, -, -⟩ := id hu
    simp only [State.xOf, hold, Bool.not_true]
    refine (mbCheck_store hu ha hs).trans ?_
    simp only [if_true, mbTake_delivers hd]
  case stepHolds =>
    rintro rd rs1 rs2 a p l s _ v d k _ ht rfl rfl hu hnew rfl ha hl hs hlim hroom rfl hr
    obtain ⟨-, rfl, -, -⟩ := id hu
    refine (execMbStep.eq_def rd rs1 rs2 s).trans (runSett_holds ht ?_)
    simp only [State.xOf, hnew, Bool.not_false]
    refine (mbCheck_both hu ha hl hs).trans ?_
    simp only [Bool.false_eq_true, if_false, mbPost_posts hu hlim hroom, mbTake_waits hr]
  case recvWaits =>
    rintro rd rs1 a p s u d k t ht rfl rfl hu rfl ha hs hr
    obtain ⟨-, rfl, -, -⟩ := id hu
    exact (execMbRecv.eq_def rd rs1 s).trans (runSett_holds ht ((mbCheck_store hu ha hs).trans (mbTake_waits hr)))
  case done =>
    intro rs1 rs2 a p l
    refine .of_next (execMbDone.eq_def rs1 rs2) ?_
    rintro d k s ⟨hu, rfl, ha, hl, hroom⟩
    exact (mbCheck_load hu ha hl).trans (if_neg (Nat.not_le.mpr hroom))
  case stat =>
    intro rd p
    refine .of_next (execMbStat.eq_def rd) ?_
    intro d k s hu
    simp only [mbSlot_of_use hu]
  case ver =>
    intro rd p
    refine .of_next (execMbVer.eq_def rd) ?_
    intro d k s hu
    simp only [mbSlot_of_use hu]
  case barred =>
    rintro i (⟨rd, rs1, rfl⟩ | ⟨rs1, rs2, rfl⟩ | ⟨rd, rs1, rs2, rfl⟩ | ⟨rs1, rs2, rfl⟩ | ⟨rd, rfl⟩ | ⟨rd, rfl⟩)
    · exact .of_illegal (execMbRecv.eq_def rd rs1) fun d k s h => mbCheck_of_barred (mbSlot_of_barred h)
    · exact .of_illegal (execMbSend.eq_def rs1 rs2) fun d k s h => mbCheck_of_barred (mbSlot_of_barred h)
    · exact .of_illegal (execMbStep.eq_def rd rs1 rs2) fun d k s h => mbCheck_of_barred (mbSlot_of_barred h)
    · exact .of_illegal (execMbDone.eq_def rs1 rs2) fun d k s h => mbCheck_of_barred (mbSlot_of_barred h)
    · exact .of_illegal (execMbStat.eq_def rd) fun d k s h => by simp only [mbSlot_of_barred h]
    · exact .of_illegal (execMbVer.eq_def rd) fun d k s h => by simp only [mbSlot_of_barred h]
  case misaligned =>
    rintro i rs1 c (⟨rd, rfl, rfl⟩ | ⟨rs2, rfl, rfl⟩ | ⟨rd, rs2, rfl, rfl⟩ | ⟨rs2, rfl, rfl⟩)
    · exact .of_stop (execMbRecv.eq_def rd rs1) fun d k s ⟨⟨p, hu⟩, ha⟩ => mbCheck_misaligned hu ha
    · exact .of_stop (execMbSend.eq_def rs1 rs2) fun d k s ⟨⟨p, hu⟩, ha⟩ => mbCheck_misaligned hu ha
    · exact .of_stop (execMbStep.eq_def rd rs1 rs2) fun d k s ⟨⟨p, hu⟩, ha⟩ => mbCheck_misaligned hu ha
    · exact .of_stop (execMbDone.eq_def rs1 rs2) fun d k s ⟨⟨p, hu⟩, ha⟩ => mbCheck_misaligned hu ha

end Sys2Proof.Proofs
end

section
/-! SUPPORT and the settled obligation O45: the opcodes of RV64GC, one equation each, and from them what each ordinary instruction
does. -/

namespace Sys2Proof.Machine

section

variable {w : W32} {len d k : Nat} {s u : State} {t : Sett}
variable {pre : Nat → Nat → Sett → State → Prop} {eff : Nat → Nat → Sett → State → State}

/-! ## Words of 32 bits (R308, R310) -/

/-- The two low bits of a part from bit 0 on are those of its word. -/
theorem field_two_of_part (w : W32) {n : Nat} (h : 2 ≤ n) : field w 0 2 = field (field w 0 n) 0 2 := by
  apply BitVec.eq_of_getLsbD_eq
  intro i hi
  have hn : i < n := by omega
  simp [field, hi, hn]

theorem long_of_opcode {op : BitVec 7} (h : field w 0 7 = op) (ho : field op 0 2 = 3#2) : field w 0 2 = 3#2 := by
  rw [field_two_of_part w (n := 7) (by decide), h, ho]

theorem exec_long (hw : field w 0 2 = 3#2) (s : State) :
    exec (.settCoreInstruction w) s = runSett w 4 (fun d k s => rvExec s d k w 4) s :=
  if_pos hw

theorem Setts.of_rvExec (hw : field w 0 2 = 3#2)
    (he : ∀ d k s, pre d k (s.settCore d k) s → rvExec s d k w 4 = .next (eff d k (s.settCore d k) s)) :
    Setts (.settCoreInstruction w) 4 pre eff :=
  .of_next (exec_long hw) he

theorem SettJumps.of_rvExec {pc : Sett → W64} (hw : field w 0 2 = 3#2)
    (he : ∀ d k s, pre d k (s.settCore d k) s → rvExec s d k w 4 = .jump (eff d k (s.settCore d k) s) (pc (s.settCore d k))) :
    SettJumps (.settCoreInstruction w) pre pc eff :=
  .of_jump (exec_long hw) he

/-- A target whose bit 0 is dropped already. -/
theorem SettJumps.of_rvExec_masked {pc : Sett → W64} (hw : field w 0 2 = 3#2)
    (he : ∀ d k s, pre d k (s.settCore d k) s →
      rvExec s d k w 4 = .jump (eff d k (s.settCore d k) s) (pc (s.settCore d k) &&& ~~~1#64)) :
    SettJumps (.settCoreInstruction w) pre pc eff := by
  rintro s d k _ _ ht rfl rfl hp
  rw [exec_long hw, runSett_of_turn ht, he _ _ _ hp]
  simp only [rvFinish, BitVec.and_assoc, BitVec.and_self]
  rfl

/-! ## Opcodes -/

theorem rvExec_lui (h : field w 0 7 = 0x37#7) : rvExec s d k w len = .next (s.putX d k (field w 7 5).toNat (immU w)) := by
  simp only [rvExec, h]
  rfl

theorem rvExec_auipc (h : field w 0 7 = 0x17#7) :
    rvExec s d k w len = .next (s.putX d k (field w 7 5).toNat ((s.settCore d k).pc + immU w)) := by
  simp only [rvExec, h]
  rfl

theorem rvExec_jal (h : field w 0 7 = 0x6F#7) :
    rvExec s d k w len = .jump (s.putX d k (field w 7 5).toNat ((s.settCore d k).pc + BitVec.ofNat 64 len))
      ((s.settCore d k).pc + immJ w) := by
  simp only [rvExec, h]
  rfl

theorem rvExec_jalr (h : field w 0 7 = 0x67#7) (h3 : field w 12 3 = 0#3) :
    rvExec s d k w len = .jump (s.putX d k (field w 7 5).toNat ((s.settCore d k).pc + BitVec.ofNat 64 len))
      (((s.settCore d k).xr (field w 15 5).toNat + immI w) &&& ~~~1#64) := by
  simp only [rvExec, h, h3]
  rfl

theorem rvExec_branch {b : Bool} (h : field w 0 7 = 0x63#7)
    (hb : branchOn (field w 12 3).toNat ((s.settCore d k).xr (field w 15 5).toNat) ((s.settCore d k).xr (field w 20 5).toNat) = some b) :
    rvExec s d k w len = if b then .jump s ((s.settCore d k).pc + immB w) else .next s := by
  simp only [rvExec, h, hb]
  cases b <;> rfl

theorem rvExec_load (h : field w 0 7 = 0x03#7) :
    rvExec s d k w len =
      rvLoad s d k (field w 7 5).toNat (field w 12 3).toNat ((s.settCore d k).xr (field w 15 5).toNat + immI w) := by
  simp only [rvExec, h]
  rfl

theorem rvExec_store (h : field w 0 7 = 0x23#7) (h3 : (field w 12 3).toNat < 4) :
    rvExec s d k w len = Rv.ofExcept (s.settWrite d k ((s.settCore d k).xr (field w 15 5).toNat + immS w)
      (bytesOf ((s.settCore d k).xr (field w 20 5).toNat) (2 ^ (field w 12 3).toNat))) := by
  simp only [rvExec, h]
  exact if_pos h3

/-- The result of an OP-IMM; none where the word is illegal. -/
def immResult (f3 f7 : Nat) (a b : W64) : Option W64 :=
  if f3 = 1 ∧ f7 / 2 ≠ 0 ∨ f3 = 5 ∧ f7 / 2 ≠ 0 ∧ f7 / 2 ≠ 0x10 then none else some (aluOp f3 (f3 == 5 && f7 / 2 == 0x10) a b)

theorem rvExec_opImm {v : W64} (h : field w 0 7 = 0x13#7)
    (hv : immResult (field w 12 3).toNat (field w 25 7).toNat ((s.settCore d k).xr (field w 15 5).toNat) (immI w) = some v) :
    rvExec s d k w len = .next (s.putX d k (field w 7 5).toNat v) := by
  simp only [rvExec, h]
  unfold immResult at hv
  split at hv
  next => nomatch hv
  next hok =>
    obtain rfl := Option.some.inj hv
    exact if_neg hok

/-- ADDIW. -/
theorem rvExec_addiw (h : field w 0 7 = 0x1B#7) (h3 : field w 12 3 = 0#3) :
    rvExec s d k w len = .next (s.putX d k (field w 7 5).toNat (sx32 ((s.settCore d k).xr (field w 15 5).toNat + immI w))) := by
  simp only [rvExec, h, h3]
  rfl

/-- The result of an OP, and of its word form; none where the word is illegal. -/
def opResult (f3 f7 : Nat) (a b : W64) : Option W64 :=
  if f7 = 1 then some (mulOp f3 a b)
  else if f7 = 0 ∨ (f7 = 0x20 ∧ (f3 = 0 ∨ f3 = 5)) then some (aluOp f3 (f7 == 0x20) a b) else none
def opResultW (f3 f7 : Nat) (a b : W64) : Option W64 :=
  if f7 = 1 then mulOpW f3 a b
  else if f7 = 0 ∨ (f7 = 0x20 ∧ (f3 = 0 ∨ f3 = 5)) then aluOpW f3 (f7 == 0x20) a b else none

theorem rvExec_op {v : W64} (h : field w 0 7 = 0x33#7)
    (hv : opResult (field w 12 3).toNat (field w 25 7).toNat ((s.settCore d k).xr (field w 15 5).toNat)
      ((s.settCore d k).xr (field w 20 5).toNat) = some v) :
    rvExec s d k w len = .next (s.putX d k (field w 7 5).toNat v) := by
  simp only [rvExec, h]
  unfold opResult at hv
  split at hv
  next hm =>
    obtain rfl := Option.some.inj hv
    exact if_pos hm
  next hm =>
    split at hv
    next ha =>
      obtain rfl := Option.some.inj hv
      exact (if_neg hm).trans (if_pos ha)
    next => nomatch hv

theorem rvExec_opW {v : W64} (h : field w 0 7 = 0x3B#7)
    (hv : opResultW (field w 12 3).toNat (field w 25 7).toNat ((s.settCore d k).xr (field w 15 5).toNat)
      ((s.settCore d k).xr (field w 20 5).toNat) = some v) :
    rvExec s d k w len = .next (s.putX d k (field w 7 5).toNat v) := by
  unfold opResultW at hv
  simp only [rvExec, h, hv]
  rfl

theorem rvExec_fence (h : field w 0 7 = 0x0F#7) (h3 : (field w 12 3).toNat ≤ 1) : rvExec s d k w len = .next s := by
  simp only [rvExec, h]
  exact if_pos h3

theorem rvExec_amo (h : field w 0 7 = 0x2F#7) : rvExec s d k w len = rvAmo s d k w := by
  simp only [rvExec, h]
  rfl

theorem rvExec_system (h : field w 0 7 = 0x73#7) : rvExec s d k w len = rvSystem s d k w := by
  simp only [rvExec, h]
  rfl

theorem rvExec_fma (h : field w 0 7 = 0x43#7) : rvExec s d k w len = rvFma s d k w false false := by
  simp only [rvExec, h]
  rfl

theorem rvExec_fp (h : field w 0 7 = 0x53#7) : rvExec s d k w len = rvFp s d k w := by
  simp only [rvExec, h]
  rfl

/-- FLW and FLD. -/
theorem rvExec_fload {l : List Byte} (h : field w 0 7 = 0x07#7) (h3 : (field w 12 3).toNat = 2 ∨ (field w 12 3).toNat = 3)
    (hfs : (s.settCore d k).fs ≠ 0)
    (hl : s.settRead (s.settCore d k) ((s.settCore d k).xr (field w 15 5).toNat + immI w) (2 ^ (field w 12 3).toNat) .load = .ok l) :
    rvExec s d k w len =
      .next (s.modSett d k (fun t => t.setF (field w 7 5).toNat (fpBox ((field w 12 3).toNat == 3) (natOfBytes l)))) := by
  have hgo : ¬ ((s.settCore d k).fs = 0 ∨ ((field w 12 3).toNat ≠ 2 ∧ (field w 12 3).toNat ≠ 3)) := by omega
  simp only [rvExec, h]
  refine (if_neg hgo).trans ?_
  simp only [hl]

/-- FSW and FSD. -/
theorem rvExec_fstore (h : field w 0 7 = 0x27#7) (h3 : (field w 12 3).toNat = 2 ∨ (field w 12 3).toNat = 3)
    (hfs : (s.settCore d k).fs ≠ 0) :
    rvExec s d k w len = Rv.ofExcept (s.settWrite d k ((s.settCore d k).xr (field w 15 5).toNat + immS w)
      (bytesOf ((s.settCore d k).fr (field w 20 5).toNat) (2 ^ (field w 12 3).toNat))) := by
  have hgo : ¬ ((s.settCore d k).fs = 0 ∨ ((field w 12 3).toNat ≠ 2 ∧ (field w 12 3).toNat ≠ 3)) := by omega
  simp only [rvExec, h]
  exact if_neg hgo

/-- The width of a floating-point access. -/
theorem fp_size {n : Nat} (h : field w 12 3 = 2#3 ∧ n = 4 ∨ field w 12 3 = 3#3 ∧ n = 8) :
    ((field w 12 3).toNat = 2 ∨ (field w 12 3).toNat = 3) ∧ 2 ^ (field w 12 3).toNat = n ∧
      ((field w 12 3).toNat == 3) = (n == 8) := by
  rcases h with ⟨h3, rfl⟩ | ⟨h3, rfl⟩ <;> simp [h3]

/-! ## Loads and branches -/

/-- A load below LBU extends the sign. -/
theorem rvLoad_signed {rd n : Nat} {a : W64} {l : List Byte} (hn : n < 4) (hl : s.settRead (s.settCore d k) a (2 ^ n) .load = .ok l) :
    rvLoad s d k rd n a = .next (s.putX d k rd (w64 (signed (8 * 2 ^ n) (natOfBytes l)))) := by
  have h7 : n ≠ 7 := by omega
  simp only [rvLoad, if_neg h7, Nat.mod_eq_of_lt hn, hl, if_pos hn]

theorem rvLoad_unsigned {rd n : Nat} {a : W64} {l : List Byte} (hn : n < 3) (hl : s.settRead (s.settCore d k) a (2 ^ n) .load = .ok l) :
    rvLoad s d k rd (n + 4) a = .next (s.putX d k rd (BitVec.ofNat 64 (natOfBytes l))) := by
  have h7 : n + 4 ≠ 7 := by omega
  have hmod : (n + 4) % 4 = n := by omega
  have hhigh : ¬ n + 4 < 4 := by omega
  simp only [rvLoad, if_neg h7, hmod, hl, if_neg hhigh]

/-! ## Atomic accesses -/

/-- The width that a word names: 4 or 8 bytes. -/
theorem amo_size {n : Nat} (h : field w 12 3 = 2#3 ∧ n = 4 ∨ field w 12 3 = 3#3 ∧ n = 8) :
    ¬ ((field w 12 3).toNat ≠ 2 ∧ (field w 12 3).toNat ≠ 3) ∧ 2 ^ (field w 12 3).toNat = n := by
  rcases h with ⟨h3, rfl⟩ | ⟨h3, rfl⟩ <;> simp [h3]

/-- The physical address that an atomic access at a place has, where it has one. -/
def amoPa (s : State) (t : Sett) (p : SettPlace) (n : Nat) (a : W64) (kd : Kind) : Except Stop Nat :=
  match p with
  | .g va => s.settG t va n a kd
  | _ => .ok 0

theorem amoPa_of_g {p : SettPlace} {n : Nat} {a : W64} {kd : Kind} (h : ∀ va, p = .g va → ∃ pa, s.settG t va n a kd = .ok pa) :
    ∃ q, amoPa s t p n a kd = .ok q := by
  cases p with
  | g va => exact h va rfl
  | sram o => exact ⟨0, rfl⟩
  | none => exact ⟨0, rfl⟩

theorem rvAmo_lr {n q : Nat} {a : W64} {p : SettPlace} {l : List Byte} (hn : field w 12 3 = 2#3 ∧ n = 4 ∨ field w 12 3 = 3#3 ∧ n = 8)
    (h5 : field w 27 5 = 2#5) (h2 : field w 20 5 = 0#5) (ha : (s.settCore d k).xr (field w 15 5).toNat = a) (hal : a.toNat % n = 0)
    (hp : (s.settCore d k).place a n .load = .ok p) (hq : amoPa s (s.settCore d k) p n a .load = .ok q)
    (hl : s.settRead (s.settCore d k) a n .load = .ok l) :
    rvAmo s d k w = .next ((s.putX d k (field w 7 5).toNat (w64 (signed (8 * n) (natOfBytes l)))).modSett d k
      (fun t => { t with resv := blockOf p (.ok q) })) := by
  obtain ⟨hsz, hn⟩ := amo_size hn
  simp only [rvAmo, if_neg hsz, hn, h5, h2, ha, hal, hp, hl, ne_eq, not_true_eq_false, if_false, BitVec.reduceToNat, if_true]
  cases p <;> simp_all [amoPa]

/-- SC without a reservation of its block stores nothing. -/
theorem rvAmo_sc_fails {n q : Nat} {a : W64} {p : SettPlace} (hn : field w 12 3 = 2#3 ∧ n = 4 ∨ field w 12 3 = 3#3 ∧ n = 8)
    (h5 : field w 27 5 = 3#5) (ha : (s.settCore d k).xr (field w 15 5).toNat = a) (hal : a.toNat % n = 0)
    (hp : (s.settCore d k).place a n .store = .ok p) (hq : amoPa s (s.settCore d k) p n a .store = .ok q)
    (hr : (s.settCore d k).resv = none ∨ (s.settCore d k).resv ≠ blockOf p (.ok q)) :
    rvAmo s d k w = .next ((s.modSett d k (fun t => { t with resv := none })).putX d k (field w 7 5).toNat 1) := by
  obtain ⟨hsz, hn⟩ := amo_size hn
  have hheld : ((s.settCore d k).resv.isSome && (s.settCore d k).resv == blockOf p (.ok q)) = false := by
    rcases hr with hr | hr <;> simp [hr]
  simp only [rvAmo, if_neg hsz, hn, h5, ha, hal, hp, ne_eq, not_true_eq_false, if_false, BitVec.reduceToNat, Nat.reduceEqDiff, if_true]
  cases p <;> simp_all [amoPa]

theorem rvAmo_sc_stores {n q : Nat} {a : W64} {p : SettPlace} (hn : field w 12 3 = 2#3 ∧ n = 4 ∨ field w 12 3 = 3#3 ∧ n = 8)
    (h5 : field w 27 5 = 3#5) (ha : (s.settCore d k).xr (field w 15 5).toNat = a) (hal : a.toNat % n = 0)
    (hp : (s.settCore d k).place a n .store = .ok p) (hq : amoPa s (s.settCore d k) p n a .store = .ok q)
    (hr : (s.settCore d k).resv ≠ none) (hb : (s.settCore d k).resv = blockOf p (.ok q))
    (hu : (s.modSett d k (fun t => { t with resv := none })).settWrite d k a
      (bytesOf ((s.settCore d k).xr (field w 20 5).toNat) n) = .ok u) :
    rvAmo s d k w = .next (u.putX d k (field w 7 5).toNat 0) := by
  obtain ⟨hsz, hn⟩ := amo_size hn
  have hheld : ((s.settCore d k).resv.isSome && (s.settCore d k).resv == blockOf p (.ok q)) = true := by
    rw [Bool.and_eq_true, beq_iff_eq]
    exact ⟨Option.isSome_iff_ne_none.mpr hr, hb⟩
  simp only [rvAmo, if_neg hsz, hn, h5, ha, hal, hp, ne_eq, not_true_eq_false, if_false, BitVec.reduceToNat, Nat.reduceEqDiff, if_true, hu]
  cases p <;> simp_all [amoPa]

/-- An AMO returns the old value and stores the new one. -/
theorem rvAmo_op {n q r : Nat} {a : W64} {p : SettPlace} {l : List Byte}
    (hn : field w 12 3 = 2#3 ∧ n = 4 ∨ field w 12 3 = 3#3 ∧ n = 8) (h2 : (field w 27 5).toNat ≠ 2) (h3 : (field w 27 5).toNat ≠ 3)
    (ha : (s.settCore d k).xr (field w 15 5).toNat = a) (hal : a.toNat % n = 0)
    (hp : (s.settCore d k).place a n .store = .ok p) (hq : amoPa s (s.settCore d k) p n a .store = .ok q)
    (hl : s.settRead (s.settCore d k) a n .store = .ok l)
    (hr : amoOp (field w 27 5).toNat (8 * n) (natOfBytes l) (((s.settCore d k).xr (field w 20 5).toNat).toNat % 2 ^ (8 * n)) = some r)
    (hu : s.settWrite d k a (bytesN r n) = .ok u) :
    rvAmo s d k w = .next (u.putX d k (field w 7 5).toNat (w64 (signed (8 * n) (natOfBytes l)))) := by
  obtain ⟨hsz, hn⟩ := amo_size hn
  simp only [rvAmo, if_neg hsz, hn, if_neg h2, if_neg h3, ha, hal, hp, hl, ne_eq, not_true_eq_false, if_false, hr, hu]
  cases p <;> simp_all [amoPa]

/-! ## SYSTEM -/

theorem readCsr_mscratch (hm : t.mode = .m) : s.readCsr d k t 0x340 = some (t.csr 0x340) := by
  simp only [State.readCsr, hm]
  rfl

theorem writeCsr_mscratch (v : W64) : s.writeCsr d k 0x340 v = s.modSett d k (fun u => u.setCsr 0x340 v) := rfl

/-- CSRRW of mscratch. -/
theorem rvSystem_mscratch (h3 : field w 12 3 = 1#3) (hn : field w 20 12 = 0x340#12) (hm : (s.settCore d k).mode = .m) :
    rvSystem s d k w = .next ((s.modSett d k (fun u => u.setCsr 0x340 ((s.settCore d k).xr (field w 15 5).toNat))).putX d k
      (field w 7 5).toNat ((s.settCore d k).csr 0x340)) := by
  have hcsr : s.readCsr d k (s.settCore d k) (0x340#12).toNat = some ((s.settCore d k).csr 0x340) := readCsr_mscratch hm
  simp only [rvSystem, h3, hn, hcsr]
  rfl

/-- MRET of a trap that came from U mode. -/
theorem rvSystem_mret (hm : (s.settCore d k).mode = .m) (hpp : field ((s.settCore d k).csr cMstatus) 11 2 = 0#2) :
    rvSystem s d k 0x30200073#32 = .jump (s.modSett d k (fun _ =>
      ((((({ s.settCore d k with mode := .u } : Sett).setM 3 1 (bit1 ((s.settCore d k).mbit 7) 0)).setM 7 1 1).setM 11 2 0).setM 17 1 0)))
      ((s.settCore d k).csr 0x341) := by
  have hrd : field 0x30200073#32 7 5 = 0#5 := by decide
  have hrs : field 0x30200073#32 15 5 = 0#5 := by decide
  have h3 : field 0x30200073#32 12 3 = 0#3 := by decide
  have h7 : field 0x30200073#32 25 7 = 0x18#7 := by decide
  have hn : field 0x30200073#32 20 12 = 0x302#12 := by decide
  simp only [rvSystem, hrd, hrs, h3, h7, hn, hm, hpp]
  rfl

theorem rvSystem_ecall : rvSystem s d k 0x73#32 = .stop (.exc (8 + (s.settCore d k).mode.code) 0) := rfl

/-! ## Floating point -/

/-- The format bits of a word. -/
theorem fmt_bits {dbl : Bool} (h : field w 25 2 = if dbl then 1#2 else 0#2) :
    ((field w 25 2).toNat == 1) = dbl ∧ ¬ 2 ≤ (field w 25 2).toNat := by
  cases dbl <;> simp [h]

theorem rvFma_adds {dbl : Bool} {m : RMode} (hf : field w 25 2 = if dbl then 1#2 else 0#2) (hfs : (s.settCore d k).fs ≠ 0)
    (hm : (s.settCore d k).rm (field w 12 3).toNat = some m) :
    rvFma s d k w false false = s.putFp d k (field w 7 5).toNat dbl (rvRound (fpFmt dbl) (fun f => fFma f m
      (fpVal dbl ((s.settCore d k).fr (field w 15 5).toNat)) (fpVal dbl ((s.settCore d k).fr (field w 20 5).toNat))
      (fpVal dbl ((s.settCore d k).fr (field w 27 5).toNat)) 0)) := by
  obtain ⟨hdbl, hfm⟩ := fmt_bits hf
  simp only [rvFma, hdbl, if_neg (not_or.mpr ⟨hfs, hfm⟩), hm]
  rfl

/-- FADD, FSUB and FMUL by their row of OP-FP. -/
theorem rvFp_arith {dbl : Bool} {m : RMode} {f5 : BitVec 5} {g : Fmt → RMode → FVal → FVal → Res}
    (hf : field w 25 2 = if dbl then 1#2 else 0#2) (hfs : (s.settCore d k).fs ≠ 0) (h5 : field w 27 5 = f5)
    (hm : (s.settCore d k).rm (field w 12 3).toNat = some m)
    (hg : (f5, g) ∈ [(0#5, (fun (f : Fmt) (m : RMode) (a b : FVal) => fAdd f m a b 0)),
      (1#5, fun (f : Fmt) (m : RMode) (a b : FVal) => fAdd f m a b.negate 0),
      (2#5, fun (f : Fmt) (m : RMode) (a b : FVal) => fMul f m a b 0)]) :
    rvFp s d k w = s.putFp d k (field w 7 5).toNat dbl (rvRound (fpFmt dbl) (fun f => g f m
      (fpVal dbl ((s.settCore d k).fr (field w 15 5).toNat)) (fpVal dbl ((s.settCore d k).fr (field w 20 5).toNat)))) := by
  obtain ⟨hdbl, hfm⟩ := fmt_bits hf
  simp only [List.mem_cons, List.not_mem_nil, or_false, Prod.mk.injEq] at hg
  simp only [rvFp, hdbl, if_neg (not_or.mpr ⟨hfs, hfm⟩), h5]
  rcases hg with ⟨rfl, rfl⟩ | ⟨rfl, rfl⟩ | ⟨rfl, rfl⟩ <;> simp only [BitVec.reduceToNat, hm]

/-! ## Words of 16 bits -/

/-- A compressed word does what the 32-bit one does for which it stands. -/
theorem exec_short (hw : field w 0 2 ≠ 3#2) (s : State) :
    exec (.settCoreInstruction w) s = runSett w 2 (fun d k s => match expandC (w.setWidth 16) with
      | some x => rvExec s d k x 2
      | none => .illegal) s :=
  if_neg hw

theorem Setts.of_expandC {x : W32} (hw : field w 0 2 ≠ 3#2) (hx : expandC (w.setWidth 16) = some x)
    (he : ∀ d k s, pre d k (s.settCore d k) s → rvExec s d k x 2 = .next (eff d k (s.settCore d k) s)) :
    Setts (.settCoreInstruction w) 2 pre eff :=
  .of_next (exec_short hw) fun d k s hp => by simp only [hx]; exact he d k s hp

end

end Sys2Proof.Machine

namespace Sys2Proof.Proofs

open Sys2Proof.Machine

/-- Settles O45: each clause is an opcode's equation; where a clause lists functions, each is the unit's own function at its code. -/
theorem settOrdinary : Obligations.SettOrdinary := by
  unfold Obligations.SettOrdinary
  refine ⟨?legal, ?illegal, ?lui, ?auipc, ?opImm, ?shiftImm, ?op, ?addiw, ?mulW, ?shiftW, ?addW, ?jal, ?jalr, ?branch, ?load,
    ?loadU, ?store, ?fence, ?amo, ?lr, ?scFails, ?scStores, ?csrrw, ?mret, ?fload, ?fstore, ?fp, ?fma, ?addiC, ?mvC, ?zero, ?ecall⟩
  case legal => exact fun w u hw => .of_rvExec hw fun d k s h => h
  case illegal =>
    rintro w hw s d k _ ht rfl hi
    rw [exec_long hw, runSett_of_turn ht, hi]
    rfl
  case lui => exact fun w h => .of_rvExec (long_of_opcode h rfl) fun d k s _ => rvExec_lui h
  case auipc => exact fun w h => .of_rvExec (long_of_opcode h rfl) fun d k s _ => rvExec_auipc h
  case opImm =>
    intro w f3 g h h3 hg
    have hv : ∀ f7 a b, immResult f3.toNat f7 a b = some (g a b) := by
      simp only [List.mem_cons, List.not_mem_nil, or_false, Prod.mk.injEq] at hg
      rcases hg with ⟨rfl, rfl⟩ | ⟨rfl, rfl⟩ | ⟨rfl, rfl⟩ | ⟨rfl, rfl⟩ | ⟨rfl, rfl⟩ | ⟨rfl, rfl⟩ <;> exact fun _ _ _ => rfl
    exact .of_rvExec (long_of_opcode h rfl) fun d k s _ => rvExec_opImm h (by rw [h3]; exact hv _ _ _)
  case shiftImm =>
    intro w f3 f7 g h h3 h7 hg
    have hv : ∀ a b, immResult f3.toNat f7.toNat a b = some (g a (b.toNat % 64)) := by
      simp only [List.mem_cons, List.not_mem_nil, or_false, Prod.mk.injEq] at hg
      rcases hg with ⟨rfl, rfl, rfl⟩ | ⟨rfl, rfl, rfl⟩ | ⟨rfl, rfl, rfl⟩ | ⟨rfl, rfl, rfl⟩ | ⟨rfl, rfl, rfl⟩ | ⟨rfl, rfl, rfl⟩ <;>
        exact fun _ _ => rfl
    exact .of_rvExec (long_of_opcode h rfl) fun d k s _ => rvExec_opImm h (by rw [h3, h7]; exact hv _ _)
  case op =>
    intro w f3 f7 g h h3 h7 hg
    have hv : ∀ a b, opResult f3.toNat f7.toNat a b = some (g a b) := by
      simp only [List.mem_cons, List.not_mem_nil, or_false, Prod.mk.injEq] at hg
      rcases hg with ⟨rfl, rfl, rfl⟩ | ⟨rfl, rfl, rfl⟩ | ⟨rfl, rfl, rfl⟩ | ⟨rfl, rfl, rfl⟩ | ⟨rfl, rfl, rfl⟩ | ⟨rfl, rfl, rfl⟩ |
        ⟨rfl, rfl, rfl⟩ | ⟨rfl, rfl, rfl⟩ | ⟨rfl, rfl, rfl⟩ | ⟨rfl, rfl, rfl⟩ | ⟨rfl, rfl, rfl⟩ | ⟨rfl, rfl, rfl⟩ |
        ⟨rfl, rfl, rfl⟩ | ⟨rfl, rfl, rfl⟩ | ⟨rfl, rfl, rfl⟩ | ⟨rfl, rfl, rfl⟩ | ⟨rfl, rfl, rfl⟩ | ⟨rfl, rfl, rfl⟩ <;>
        exact fun _ _ => rfl
    exact .of_rvExec (long_of_opcode h rfl) fun d k s _ => rvExec_op h (by rw [h3, h7]; exact hv _ _)
  case addiw => exact fun w h h3 => .of_rvExec (long_of_opcode h rfl) fun d k s _ => rvExec_addiw h h3
  case mulW =>
    intro w f3 f7 g h h3 h7 hg
    have hv : ∀ a b : W64, opResultW f3.toNat f7.toNat a b = some ((g (a.setWidth 32) (b.setWidth 32)).signExtend 64) := by
      simp only [List.mem_cons, List.not_mem_nil, or_false, Prod.mk.injEq] at hg
      rcases hg with ⟨rfl, rfl, rfl⟩ | ⟨rfl, rfl, rfl⟩ | ⟨rfl, rfl, rfl⟩ <;> exact fun _ _ => rfl
    exact .of_rvExec (long_of_opcode h rfl) fun d k s _ => rvExec_opW h (by rw [h3, h7]; exact hv _ _)
  case shiftW =>
    intro w f3 f7 g h h3 h7 hg
    have hv : ∀ a b : W64, opResultW f3.toNat f7.toNat a b = some ((g (a.setWidth 32) (b.toNat % 32)).signExtend 64) := by
      simp only [List.mem_cons, List.not_mem_nil, or_false, Prod.mk.injEq] at hg
      rcases hg with ⟨rfl, rfl, rfl⟩ | ⟨rfl, rfl, rfl⟩ | ⟨rfl, rfl, rfl⟩ <;> exact fun _ _ => rfl
    exact .of_rvExec (long_of_opcode h rfl) fun d k s _ => rvExec_opW h (by rw [h3, h7]; exact hv _ _)
  case addW =>
    intro w f7 h h3 h7 hf
    have hv : ∀ a b : W64, opResultW 0 f7.toNat a b = some (((if f7 = 0#7 then a + b else a - b).setWidth 32).signExtend 64) := by
      rcases hf with rfl | rfl <;> exact fun _ _ => rfl
    exact .of_rvExec (long_of_opcode h rfl) fun d k s _ => rvExec_opW h (by rw [h3, h7]; exact hv _ _)
  case jal => exact fun w h => .of_rvExec (long_of_opcode h rfl) fun d k s _ => rvExec_jal h
  case jalr => exact fun w h h3 => .of_rvExec_masked (long_of_opcode h rfl) fun d k s _ => rvExec_jalr h h3
  case branch =>
    intro w f3 g h h3 hg
    have hb : ∀ a b, branchOn f3.toNat a b = some (g a b) := by
      simp only [List.mem_cons, List.not_mem_nil, or_false, Prod.mk.injEq] at hg
      rcases hg with ⟨rfl, rfl⟩ | ⟨rfl, rfl⟩ | ⟨rfl, rfl⟩ | ⟨rfl, rfl⟩ | ⟨rfl, rfl⟩ | ⟨rfl, rfl⟩
      · exact fun _ _ => rfl
      · exact fun _ _ => congrArg some decide_not.symm
      all_goals exact fun _ _ => rfl
    refine ⟨.of_rvExec (long_of_opcode h rfl) fun d k s ht => ?_, .of_rvExec (long_of_opcode h rfl) fun d k s ht => ?_⟩
    · exact (rvExec_branch h (by rw [h3]; exact hb _ _)).trans (if_pos ht)
    · exact (rvExec_branch h (by rw [h3]; exact hb _ _)).trans (if_neg (Bool.eq_false_iff.mp ht))
  case load =>
    rintro w n l h rfl hn
    exact .of_rvExec (long_of_opcode h rfl) fun d k s hl => (rvExec_load h).trans (rvLoad_signed hn hl)
  case loadU =>
    intro w n l h h3 hn
    exact .of_rvExec (long_of_opcode h rfl) fun d k s hl => (rvExec_load h).trans (by rw [h3]; exact rvLoad_unsigned hn hl)
  case store =>
    rintro w n u h rfl hn
    exact .of_rvExec (long_of_opcode h rfl) fun d k s hu => (rvExec_store h hn).trans (congrArg Rv.ofExcept hu)
  case fence =>
    intro w h h3
    have h3 : (field w 12 3).toNat ≤ 1 := by rcases h3 with h3 | h3 <;> simp [h3]
    exact .of_rvExec (long_of_opcode h rfl) fun d k s _ => rvExec_fence h h3
  case amo =>
    intro w n f5 g a p l u h hn h5 hg
    obtain ⟨hop, h2, h3⟩ : (∀ bits m v, amoOp f5.toNat bits m v = some (g m v)) ∧ f5.toNat ≠ 2 ∧ f5.toNat ≠ 3 := by
      simp only [List.mem_cons, List.not_mem_nil, or_false, Prod.mk.injEq] at hg
      rcases hg with ⟨rfl, rfl⟩ | ⟨rfl, rfl⟩ | ⟨rfl, rfl⟩ | ⟨rfl, rfl⟩ | ⟨rfl, rfl⟩ <;> exact ⟨fun _ _ _ => rfl, by decide, by decide⟩
    subst h5
    refine .of_rvExec (long_of_opcode h rfl) ?_
    rintro d k s ⟨ha, hal, hp, hg, hl, hu⟩
    obtain ⟨q, hq⟩ := amoPa_of_g hg
    exact (rvExec_amo h).trans (rvAmo_op hn h2 h3 ha.symm hal hp hq hl (hop _ _ _) hu)
  case lr =>
    intro w n a p l pa h hn h5 h2
    refine .of_rvExec (long_of_opcode h rfl) ?_
    rintro d k s ⟨ha, hal, hp, hpa, ⟨q, rfl⟩, hl⟩
    exact (rvExec_amo h).trans (rvAmo_lr hn h5 h2 ha.symm hal hp hpa.symm hl)
  case scFails =>
    intro w n a p pa h hn h5
    refine .of_rvExec (long_of_opcode h rfl) ?_
    rintro d k s ⟨ha, hal, hp, hpa, ⟨q, rfl⟩, hr⟩
    exact (rvExec_amo h).trans (rvAmo_sc_fails hn h5 ha.symm hal hp hpa.symm hr)
  case scStores =>
    intro w n a p pa u h hn h5
    refine .of_rvExec (long_of_opcode h rfl) ?_
    rintro d k s ⟨ha, hal, hp, hpa, ⟨q, rfl⟩, hr, hb, hu⟩
    exact (rvExec_amo h).trans (rvAmo_sc_stores hn h5 ha.symm hal hp hpa.symm hr hb hu)
  case csrrw =>
    exact fun w h h3 hn => .of_rvExec (long_of_opcode h rfl) fun d k s hm => (rvExec_system h).trans (rvSystem_mscratch h3 hn hm)
  case mret =>
    exact .of_rvExec (by decide) fun d k s ⟨hm, hpp⟩ => (rvExec_system (by decide)).trans (rvSystem_mret hm hpp)
  case fload =>
    intro w n l h hn
    refine .of_rvExec (long_of_opcode h rfl) ?_
    rintro d k s ⟨hfs, hl⟩
    have hload := rvExec_fload (len := 4) (l := l) h (fp_size hn).1 hfs
    rw [(fp_size hn).2.1, (fp_size hn).2.2] at hload
    exact hload hl
  case fstore =>
    intro w n u h hn
    refine .of_rvExec (long_of_opcode h rfl) ?_
    rintro d k s ⟨hfs, hu⟩
    refine (rvExec_fstore h (fp_size hn).1 hfs).trans ?_
    rw [(fp_size hn).2.1]
    exact congrArg Rv.ofExcept hu
  case fp =>
    intro w f5 dbl m g h hf h5 hg
    exact .of_rvExec (long_of_opcode h rfl) fun d k s ⟨hfs, hm⟩ => (rvExec_fp h).trans (rvFp_arith hf hfs h5 hm hg)
  case fma =>
    intro w dbl m h hf
    exact .of_rvExec (long_of_opcode h rfl) fun d k s ⟨hfs, hm⟩ => (rvExec_fma h).trans (rvFma_adds hf hfs hm)
  case addiC =>
    exact .of_expandC (x := 0xFFF40413#32) (by decide) (by decide) fun d k s _ => rvExec_opImm (by decide) rfl
  case mvC =>
    refine .of_expandC (x := 0x00B00533#32) (by decide) (by decide) fun d k s _ => ?_
    refine (rvExec_op (v := (s.settCore d k).xr 0 + (s.settCore d k).xr 11) (by decide) rfl).trans ?_
    have hzero : (s.settCore d k).xr 0 = 0#64 := rfl
    rw [hzero, BitVec.zero_add]
    rfl
  case zero =>
    intro w hw
    have hlow : field w 0 2 ≠ 3#2 := by
      rw [field_two_of_part w (n := 16) (by decide), hw]
      decide
    have hzero : w.setWidth 16 = 0#16 := (BitVec.setWidth_eq_extractLsb' (by decide)).trans hw
    have hnone : expandC 0#16 = none := by decide
    refine .of_illegal (exec_short hlow) fun d k s _ => ?_
    simp only [hzero, hnone]
  case ecall =>
    refine .of_stop (exec_long (by decide)) fun d k s hm => ?_
    refine (rvExec_system (by decide)).trans ?_
    rw [rvSystem_ecall, hm]
    rfl

end Sys2Proof.Proofs
end

section
/-! The settled obligation O49: the decoder evaluated on the words that the spec encodes by hand. -/

namespace Sys2Proof.Proofs

open Sys2Proof.Machine

/-- Settles O49: the words are concrete, and the decoder and the checks compute. -/
theorem workedEncodings : Obligations.WorkedEncodings := by
  unfold Obligations.WorkedEncodings
  refine ⟨?add, ?next, ?vcmp, ?atk, ?cbclm, ?mmaz, ?cvwt, ?eret, ?mbsnd, ?mbStep, ?mbDone, ?addOk, ?nextOk, ?vcmpOk, ?atkOk, ?cbclmOk⟩
  case add | next | vcmp | atk | cbclm => rfl
  case mmaz | cvwt | eret | mbsnd => exact ⟨_, rfl, by decide⟩
  case mbStep | mbDone => rfl
  case addOk | nextOk | vcmpOk | atkOk | cbclmOk => decide

end Sys2Proof.Proofs
end
